-- ==== Sys2Proof/Word.lean ====
section
/-!
DEFINITION. The words the spec speaks in: bytes, binary32 words, positions, tenants, ports and clusters.
-/
namespace Sys2Proof

/-- One byte. -/
abbrev Byte := BitVec 8

/-- A binary32 bit pattern, or any other 32-bit field. -/
abbrev Word := BitVec 32

/-- A chip's position on its tray: A, B, C, D are 0, 1, 2, 3 (Table 0-3). -/
abbrev Pos := Fin 4

/-- A tenant T0 to T7 (Table 0-3). -/
abbrev Tenant := Fin 8

/-- A link port P00 to P63 (Table 0-3). -/
abbrev PortNo := Fin 64

/-- One of a chip's 256 clusters (Table 0-3). -/
abbrev ClusterNo := Fin 256

/-- A table by key: pairs of a key and a value. A key that is not listed reads as the value its reader names. -/
abbrev Tab (κ α : Type) := List (κ × α)

end Sys2Proof
end

