-- ==== Sys2Proof/Syntax.lean ====
section
/-!
DEFINITION. The commands the block takes: one constructor per row of spec/opcode_table.json, with the row's operands.
No row of the table gives bits; the operands are what the spec says the event carries (a port, a tenant, a frame, a reading).
-/
namespace Sys2Proof

/-- The two −48 V feeds (R24). -/
inductive Feed where
  | a | b
deriving DecidableEq, Repr

/-- The tray's rails, in the order of Table 2-1. -/
inductive Rail where
  | vbus | vkeep | vaon | vret | vpp | vddh | vddq | vcore | vsram | vser | vserh | vcage
deriving DecidableEq, Repr

/-- What the converter reads at one ladder node: eight node voltages in tenths of a millivolt, and the eight of the
one repeat that R52 makes when the first eight do not agree. -/
structure LadderReading where
  first : List Nat
  again : List Nat
deriving DecidableEq, Repr

/-- What is sampled at one two-level input with the same eight conversions and the same repeat (R52). -/
structure LevelReading where
  first : List Bool
  again : List Bool
deriving DecidableEq, Repr

/-- The six TMC ladders and three two-level inputs as sensed (R35, R54). -/
structure StrapReadings where
  trayidH : LadderReading
  trayidL : LadderReading
  tenlayout : LadderReading
  bwsplit : LadderReading
  portmodeH : LadderReading
  portmodeT : LadderReading
  bankSel : LevelReading
  heatEn : LevelReading
  debugEn : LevelReading
deriving DecidableEq, Repr

/-- The CHIPPOS pair each chip reads at its own pins when it latches (R53, R63): none is an input that changes between
conversions (Table 3-9). -/
structure ChipposReadings where
  a : Option (BitVec 2)
  b : Option (BitVec 2)
  c : Option (BitVec 2)
  d : Option (BitVec 2)
deriving DecidableEq, Repr

/-- A chip's temperature readings in sixteenths of a degree Celsius: Tj at three points and four HBM cases (R412, R423). -/
structure Temps where
  tj0 : Int
  tj1 : Int
  tj2 : Int
  hbm0 : Int
  hbm1 : Int
  hbm2 : Int
  hbm3 : Int
deriving DecidableEq, Repr

/-- The rails whose glitches a chip detects (Table 21-3). -/
inductive GlitchRail where
  | vaon | vcore | vsram
deriving DecidableEq, Repr

/-- The clocks whose glitches a chip detects (Table 21-3). -/
inductive GlitchClock where
  | core | reference | crystal
deriving DecidableEq, Repr

/-- What a fan module's failure is (R36): a rotor below half its commanded speed, or the module absent. Either holds for a while
only, so the row carries its end too: the rotor at speed again, or a module fitted (R37). -/
inductive FanFault where
  | rotor (second : Bool)
  | absent
  | regained (second : Bool)
  | fitted
deriving DecidableEq, Repr

/-- The four torus directions, groups G4 to G7 (section 2.4). -/
inductive Direction where
  | east | west | north | south
deriving DecidableEq, Repr

/-- What a host's xSPI sequence leaves in the flash (R91): bytes written from an address, a range erased, or the
non-volatile configuration altered or restored. -/
inductive FlashOp where
  | program (address : Nat) (bytes : List Byte)
  | erase (address length : Nat)
  | configure (altered : Bool)
deriving DecidableEq, Repr

/-- The route prefix of a frame on a mesh or torus link (Table 8-11). -/
structure Prefix where
  version : BitVec 8
  hops : BitVec 8
  originChip : BitVec 10
  originPort : BitVec 8
  dl : Bool
  detourX : Bool
  detourY : Bool
  dirX : Bool
  dirY : Bool
  targetChip : BitVec 10
  targetPort : BitVec 8
deriving DecidableEq, Repr

/-- A frame: its 32-byte header as one number with byte 0 lowest (R2, R3), its payload and its CRC trailer. -/
structure Frame where
  hdr : BitVec 256
  payload : List Byte
  trailer : BitVec 32
deriving DecidableEq, Repr

/-- A frame as it stands at a chip: the port it came in on, the VC and tenant tag of its flits, how many flits it had
from SOF to EOF on a host link's count (no prefix flit), and its route prefix when a chip link carried it. -/
structure RxFrame where
  frame : Frame
  port : PortNo
  vc : BitVec 2
  tagTenant : BitVec 3
  flits : Nat
  route : Option Prefix
deriving DecidableEq, Repr

/-- An Ethernet frame (Table 8-10): on receipt its FCS already judged by the MAC, with the round-trip time measured should
one of its units be the first echo of a HELLO. -/
structure MacFrame where
  fcsOk : Bool
  control : Bool
  dest : BitVec 48
  source : BitVec 48
  etherType : BitVec 16
  encap : BitVec 8
  unitsField : BitVec 8
  epoch : BitVec 32
  units : List (BitVec 320)
  clientBytes : Nat
  rttUs : Nat
deriving DecidableEq, Repr

/-- Where an uncorrectable memory error is (Table 16-6). -/
inductive EccSite where
  | l1Line (cluster : ClusterNo) (line : Nat)
  | sliceLine (line : Nat)
  | hbmLine (line : Nat)
  | scratchpad (cluster : ClusterNo) (offset : Nat)
  | ledgerBitmap (tenant : Tenant)
  | ledgerAmax (tenant : Tenant) (tensor shard : Nat)
  | savedLane (tenant : Tenant) (lane : Nat)
  | pendingLine (tenant : Tenant) (tensor shard step : Nat) (array : Fin 4) (line : Nat)
  | accumulator (tenant : Tenant) (tensor shard step : Nat)
  | committedArray (tenant : Tenant) (tensor shard : Nat) (array : Fin 4) (line : Nat) (hbm : Bool)
  | stashBlock (tenant : Tenant) (site slot token block : Nat) (hbm : Bool)
deriving DecidableEq, Repr

/-- A device on the JTAG chain (R47, R394). -/
inductive TapDevice where
  | keeper
  | chip (c : Pos)
deriving DecidableEq, Repr

/-- Which of one chip's shards in which step a timer or a stage belongs to. -/
structure ShardStepRef where
  tenant : Tenant
  tensor : Nat
  shard : Nat
  step : Nat
deriving DecidableEq, Repr

/-- The commands: spec/opcode_table.json, row by row. -/
inductive Instr where
  -- the tray keeper and the feeds
  | feedPresent (f : Feed)
  | feedAbsent (f : Feed)
  | trayStart (fancurve : LadderReading) (lidOpen : Bool)
  | railInRegulation (r : Rail)
  | trayPowerLoss
  | seasonPinChange (code : BitVec 2)
  | seasonForward
  | strapSetDelivery (r : StrapReadings) (pos : ChipposReadings)
  -- Spring on a chip
  | springReceived (c : Pos)
  | corePllLocked (c : Pos) (t : Temps)
  | sramClearDone (c : Pos)
  | keyDrawTimeout (c : Pos)
  | coldStartEnd (c : Pos) (t : Temps)
  | heatingTimeout (c : Pos)
  | hbmTrainingDone (c : Pos) (ok : Bool)
  | flashGrantWaitTimeout
  | imageHeaderRead
  | imageBankReadDone (c : Pos)
  | bankCheckReport
  | imageOutcomeTimeout (c : Pos)
  -- Autumn and Winter
  | autumnNoStepInFlight (c : Pos)
  | autumnWritebackDone (c : Pos)
  | winterReached (c : Pos)
  | winterReportTimeout
  -- rails and straps
  | railOutOfBand (r : Rail)
  | railFaultRecovery
  | strapResense (r : StrapReadings)
  -- tenant reset
  | tenrstAssert (t : Tenant)
  | tenantResetEraseDone (c : Pos) (t : Tenant)
  | tenantResetComplete (c : Pos) (t : Tenant)
  | tenrstRelease (t : Tenant)
  | tenrstInWinter (t : Tenant)
  | deferredTenantDown (c : Pos) (t : Tenant)
  -- tamper and wipes
  | tamperAssert
  | lidOpen
  | voltageGlitch (c : Pos) (r : GlitchRail)
  | clockGlitch (c : Pos) (k : GlitchClock)
  | vaultError (c : Pos)
  | wipeClearDone (c : Pos)
  | retentionSwitchTimer (c : Pos)
  -- flash grant
  | flashRequest
  | flashGrantAfterRead
  | flashRelease
  -- fans, cages, heat
  | thermistorReading (n : Fin 6) (celsius : Option Int)
  | fanFailure (m : Fin 6) (f : FanFault)
  | cageModuleInsert (cage : Fin 40) (milliwatts : Nat)
  | hotThreshold (c : Pos) (t : Temps)
  | governorStepDown (c : Pos) (t : Temps)
  | governorStepUp (c : Pos) (t : Temps)
  | thermalShutdown (c : Pos) (t : Temps)
  -- links
  | lanesLocked (c : Pos) (p : PortNo)
  | pcsLocked (c : Pos) (p : PortNo)
  | unitsDelineated (c : Pos) (p : PortNo)
  | helloTimer (c : Pos) (p : PortNo)
  | hello (c : Pos) (p : PortNo) (content : BitVec 256)
  | helloAck (c : Pos) (p : PortNo) (content : BitVec 256) (rttUs : Nat)
  | trainingTimeout (c : Pos) (p : PortNo)
  | retrainTimer (c : Pos) (p : PortNo)
  | dataFlit (c : Pos) (p : PortNo) (unit : BitVec 320)
  | credit (c : Pos) (p : PortNo) (content : BitVec 256)
  | nak (c : Pos) (p : PortNo) (content : BitVec 256)
  | unknownControlFlit (c : Pos) (p : PortNo) (content : BitVec 256)
  | wireUnitCrcFail (c : Pos) (p : PortNo)
  | replayTimeout (c : Pos) (p : PortNo)
  | creditSend (c : Pos) (p : PortNo) (cls : BitVec 8)
  | vc0CreditTimeout (c : Pos) (p : PortNo)
  | portDown (c : Pos) (p : PortNo)
  | meshPeerLost (c : Pos) (group : Fin 3)
  | torusDirectionLost (c : Pos) (d : Direction)
  | macFrameReceive (c : Pos) (p : PortNo) (m : MacFrame)
  | ethernetFrameSend (c : Pos) (p : PortNo)
  | frameSend (c : Pos) (p : PortNo)
  | frameForward (c : Pos)
  | ingressDispatch (c : Pos) (p : PortNo) (vc : BitVec 2)
  -- frames at a chip
  | grad (c : Pos) (f : RxFrame)
  | init (c : Pos) (f : RxFrame)
  | pull (c : Pos) (f : RxFrame)
  | stashPut (c : Pos) (f : RxFrame)
  | stashGet (c : Pos) (f : RxFrame)
  | maskGet (c : Pos) (f : RxFrame)
  | scaleGet (c : Pos) (f : RxFrame)
  | statGet (c : Pos) (f : RxFrame)
  | index (c : Pos) (f : RxFrame)
  | unknownFrameType (c : Pos) (f : RxFrame)
  | reduce (c : Pos) (f : RxFrame)
  | ledgerCollisionRetry (c : Pos) (f : RxFrame) (collides : Bool)
  | shardDeadline (c : Pos) (r : ShardStepRef)
  | shardClose (c : Pos) (r : ShardStepRef)
  | shardVerdict (c : Pos) (f : RxFrame)
  | verdict (c : Pos) (f : RxFrame)
  | updateStageEnd (c : Pos) (r : ShardStepRef)
  | commitBarrier (c : Pos) (t : Tenant) (step : Nat)
  | verdictTimeout (c : Pos) (t : Tenant) (step : Nat)
  | gatherTimeout (c : Pos) (t : Tenant) (step : Nat)
  | tenantDown (c : Pos) (f : RxFrame)
  | syncOp (c : Pos) (f : RxFrame)
  | syncAck (c : Pos) (f : RxFrame)
  -- clusters, streams and memory
  | taskStart (c : Pos) (k : ClusterNo)
  | stageStart (c : Pos) (k : ClusterNo)
  | stageEnd (c : Pos) (k : ClusterNo)
  | stageBoundExceeded (c : Pos) (k : ClusterNo)
  | streamRequestIssue (c : Pos) (k : ClusterNo) (desc : Fin 32)
  | readDataReturn (c : Pos) (k : ClusterNo) (desc : Fin 32)
  | writeAccept (c : Pos) (k : ClusterNo) (desc : Fin 32)
  | lineFill (c : Pos) (line : Nat)
  | deadLineInvalidate (c : Pos) (line : Nat)
  | eccUncorrectable (c : Pos) (site : EccSite)
  -- the debug port
  | tapReset
  | bypass (d : TapDevice) (opcode : BitVec 8)
  | idcode (d : TapDevice)
  | samplePreload (d : TapDevice) (cells : BitVec 38)
  | extest (d : TapDevice) (cells : BitVec 38)
  | clamp (d : TapDevice)
  | highz (d : TapDevice)
  | dbgStatus (d : TapDevice)
  | dbgTask (d : TapDevice)
  | halt (d : TapDevice) (ctrl : BitVec 32)
  | resume (d : TapDevice) (ctrl : BitVec 32)
  | stepOneStage (d : TapDevice) (ctrl : BitVec 32)
  | stepNCycles (d : TapDevice) (ctrl : BitVec 32)
  | stepCyclesExpire (c : Pos) (k : ClusterNo)
  | dbgBreakSet (d : TapDevice) (reg : BitVec 96)
  | dbgBreakClear (d : TapDevice) (reg : BitVec 96)
  | dbgMemRead (d : TapDevice) (reg : BitVec 128)
  | dbgMemWrite (d : TapDevice) (reg : BitVec 128)
  | lcAdvance (d : TapDevice) (reg : BitVec 32)
  -- releases, flash writes, key draws
  | tamperRelease
  | lidClose
  | flashProgramEraseSequence (op : FlashOp)
  | keyDrawDone (c : Pos) (t : Temps)
deriving DecidableEq, Repr

end Sys2Proof
end

