-- ==== Sys2Proof/Config.lean ====
section
/-!
DEFINITION. What no reader of the spec can know: the free values. Each is a constant with no body, applied to plain data,
so that no proof can lean on a value of it.
-/
namespace Sys2Proof

/-- KEY1 of the n-th key that a chip draws (R377). Log entry 7. -/
opaque Config.keyOne : Nat → Nat → BitVec 256

/-- By how much KEY2 of the n-th key that a chip draws stands above KEY1, less one, modulo 2^256 − 1: a draw with KEY1 equal to KEY2 is drawn
again (R377), so the two differ and nothing else is known of them. Log entry 7. -/
opaque Config.keyGap : Nat → Nat → Nat

/-- The n-th NONCE a chip sends in a HELLO (Table 8-8: random). Log entry 8. -/
opaque Config.nonce : Nat → Nat → BitVec 32

/-- What a chip's HBM byte reads as where nothing has been written under the key in force (R381, R382): by chip, by the number
of noise draws behind the key in force, by physical address. Log entry 6. -/
opaque Config.hbmByte : Nat → Nat → Nat → BitVec 8

/-- A chip's 64-bit serial number (Table 21-1). Log entry 7. -/
opaque Config.serialNumber : Nat → BitVec 64

/-- A byte of stash or shadow storage whose place in a page the spec does not lay out, by chip, tenant and physical
address. Log entry 11. -/
opaque Config.storageByte : Nat → Nat → Nat → BitVec 8

/-- A byte of an 8-bit moment's block that an INIT covers only in part, by the INIT's header and the byte's place in the array
(R175 allows the range; no rule says what such a block then holds). Log entry 13. -/
opaque Config.partialBlock : BitVec 256 → Nat → BitVec 8

/-- A byte that a stage makes of data whose element format no record states (a region holds bytes without a format): by the stage's
code, ARG and OPERAND, its input bytes, and the byte's place in its output. Log entry 17. -/
opaque Config.stageByte : Nat → Nat → Nat → List (BitVec 8) → Nat → BitVec 8

/-- The level at a boundary cell that nothing in State determines: an analogue or undriven pin, or a running flash line. By device (0 the
tray keeper, 1 to 4 the chips), cell, and core cycle. Log entry 19. -/
opaque Config.pinLevel : Nat → Nat → Nat → Bool

/-- A byte of the ledger pool, whose records the spec does not place within a tenant's share: by chip, cluster, offset and core cycle.
Log entry 20. -/
opaque Config.ledgerByte : Nat → Nat → Nat → Nat → BitVec 8

/-- A byte of the cluster SRAM that the L1 holds, whose place for each line the spec does not give: by chip, cluster, byte and core
cycle. Log entry 20. -/
opaque Config.l1Byte : Nat → Nat → Nat → Nat → BitVec 8

/-- A byte of the vault's life-cycle record, whose layout the spec does not give: by the record's state and serial number, and offset.
Log entry 20. -/
opaque Config.lifeByte : Nat → BitVec 64 → Nat → BitVec 8

end Sys2Proof
end

