-- ==== Sys2Proof/Machine/State.lean ====
section
/-!
DEFINITION. The state of one tray: the tray keeper, four chips and the queue of waiting commands; and the state after reset,
which is the tray Off. Plain data throughout. INVENTORY.md names each piece with its rule.
-/
namespace Sys2Proof.Machine

/-! ## Memories and small enumerations -/

/-- An addressed memory in canonical form: addresses strictly rising, no entry equal to what an unlisted address reads as. -/
abbrev Mem (α : Type) := List (Nat × α)

/-- A rail of Table 2-1: down, raised and not yet within 3 % of nominal, or in regulation (R27). -/
inductive RailState where
  | down | rising | up
deriving DecidableEq, Repr

/-- A chip's season (Table 4-1); Off means that power is removed. -/
inductive Season where
  | off | winter | spring | summer | autumn
deriving DecidableEq, Repr

/-- Where a Spring stands in Table 4-4 or Table 4-5. -/
inductive SpringPhase where
  | idle        -- Spring not yet received
  | pll         -- step 1
  | clear       -- step 2
  | keys        -- step 3
  | cold        -- step 4, waiting for temperature
  | heatingStopped -- step 4 ended by R76
  | hbm         -- step 5
  | image       -- step 6
  | done        -- the final step has completed
  | failed      -- Spring failed (R55)
  | blank       -- life cycle BLANK stops after step 2 (Table 21-5)
  | wiped       -- a wipe ended this Spring (R386)
deriving DecidableEq, Repr

/-- Where an Autumn drain stands in Table 4-6. -/
inductive DrainPhase where
  | idle | steps | writeBack | done
deriving DecidableEq, Repr

/-- HBM: not initialised, in self-refresh, or trained and running. -/
inductive HbmState where
  | down | selfRefresh | running
deriving DecidableEq, Repr

/-- Life-cycle states in their order (section 21.6). -/
inductive LifeCycle where
  | blank | manufacture | field | ret
deriving DecidableEq, Repr

/-- A port's mode (Tables 3-5, 3-6, 8-1). -/
inductive PortMode where
  | off | native | ethernet
deriving DecidableEq, Repr

/-- Where a port stands in Table 8-7. -/
inductive TrainStep where
  | down | lanes | pcs | delineate | hello | credits | up | failed1 | failed4
deriving DecidableEq, Repr

/-- A timer that a command ends: not started, running, or expired. -/
inductive Timer where
  | idle | running | expired
deriving DecidableEq, Repr

/-- A tenant's state on a chip (Table 9-14). -/
inductive TenantState where
  | absent | loading | running | faulted | resetting
deriving DecidableEq, Repr

/-- Where a tenant reset stands in Table 7-3: none, step 5 under way, or steps 5 and 6 done and the pin awaited. -/
inductive ResetPhase where
  | none | erasing | loaded
deriving DecidableEq, Repr

/-- How full a shard is (R176). -/
inductive Fill where
  | empty | filling | filled
deriving DecidableEq, Repr

/-- A shard's update stage in a step. -/
inductive UpdState where
  | none | running | ended | aborted
deriving DecidableEq, Repr

/-! ## Straps -/

/-- A latched or observed strap set (R53, R54); `none` is an unstable ladder or input. -/
structure StrapSet where
  trayidH : Option (Fin 16)
  trayidL : Option (Fin 16)
  tenlayout : Option (Fin 16)
  bwsplit : Option (Fin 16)
  portmodeH : Option (Fin 16)
  portmodeT : Option (Fin 16)
  bankSel : Option Bool
  heatEn : Option Bool
  debugEn : Option Bool
  chippos : Option (BitVec 2)
deriving DecidableEq, Repr

/-! ## The tray keeper -/

/-- A cage (R38). -/
structure Cage where
  present : Bool
  milliwatts : Nat
  highPower : Bool
deriving DecidableEq, Repr

/-- A fan module with its two rotors (R36). -/
structure FanModule where
  present : Bool
  slow0 : Bool
  slow1 : Bool
deriving DecidableEq, Repr

/-- Chip A's image load in progress (Table 5-4). -/
inductive LoadPhase where
  | idle | waitGrant | header | body | reports
deriving DecidableEq, Repr

/-- The image load: its phase, the bank being read, whether the other bank has failed, and the chips' reports. -/
structure Load where
  phase : LoadPhase
  bank : Bool
  otherFailed : Bool
  reports : Tab Pos Bool
deriving DecidableEq, Repr

/-- A TAP on the chain: selected instruction, captured data register, preloaded boundary cells, and whether the
boundary outputs are driven from the cells, held, or off. -/
structure Tap where
  ir : BitVec 8
  dr : BitVec 320
  cells : BitVec 38
  driving : Bool
  outputsOff : Bool
deriving DecidableEq, Repr

structure Tray where
  feedA : Bool
  feedB : Bool
  rails : Tab Rail RailState
  forwarding : Bool
  refClock : Bool
  seasonPins : BitVec 2
  pinTaken : Bool
  forwarded : Option (BitVec 2)
  held : List (BitVec 2)
  prep : Bool
  strapsDelivered : Bool
  winterWait : Bool
  railFault : Bool
  railCodeDue : Bool
  winterFault : Bool
  fancurve : Option (Fin 16)
  thermistors : Tab (Fin 6) Int
  fans : Tab (Fin 6) FanModule
  fanDutyNum : Nat
  fanDutyDen : Nat
  cages : Tab (Fin 40) Cage
  lidOpen : Bool
  tamperLow : Bool
  tenrstLow : BitVec 8
  flashReq : Bool
  flashGnt : Bool
  grantDue : Bool
  flashOctal : Bool
  flash : Mem Byte
  flashConfigAltered : Bool
  load : Load
  tap : Tap
  now : Nat
deriving DecidableEq, Repr

/-! ## The image -/

/-- A tenant record (Table 6-2). -/
structure TenantRec where
  present : Bool
  strictDead : Bool
  fallbackM8 : Bool
  fallbackShadow : Bool
  minShare : Nat
  stepRoot : Nat
  shadowShift : Nat
  lsInit : Int
  cleanSteps : Nat
  seed : BitVec 64
  globalClip : Word
  verdictTimeout : Nat
  fallbackLimit : Nat
  bytes : List Byte
deriving DecidableEq, Repr

/-- A group record (Table 6-3). -/
structure GroupRec where
  rule : Nat
  drop : Bool
  skipStep : Bool
  global : Bool
  allowM8 : Bool
  m1Fmt : Nat
  m2Fmt : Nat
  computeFmt : Nat
  margin : Nat
  expected : Nat
  quorum : Nat
  lrSched : Nat
  wdSched : Nat
  deadline : Nat
  clip : Word
  beta1 : Word
  beta2 : Word
  epsilon : Word
  recipe : Nat
deriving DecidableEq, Repr

/-- A schedule record (Table 6-4). -/
structure SchedRec where
  kind : Nat
  base : Word
  final : Word
  warmup : Nat
  total : Nat
  period : Nat
  gamma : Word
deriving DecidableEq, Repr

/-- A tensor record (Table 6-5). -/
structure TensorRec where
  id : Nat
  mask : Bool
  group : Nat
  rank : Nat
  axis : Nat
  shards : Nat
  dims : List Nat
  homeStart : Nat
  stride : Nat
  keepP16 : Nat
deriving DecidableEq, Repr

/-- A stash site record (Table 6-7). -/
structure SiteRec where
  id : Nat
  codec : Nat
  channels : Nat
  reserve : Nat
deriving DecidableEq, Repr

/-- A region record (Table 6-7). -/
structure RegionRec where
  base : Nat
  pages : Nat
  attr : Nat
deriving DecidableEq, Repr

/-- A CATALOGUE section (R108), with its bytes for the layout hash. -/
structure Catalogue where
  groups : List GroupRec
  scheds : List SchedRec
  tensors : List TensorRec
  sites : List SiteRec
  regions : List RegionRec
  bytes : List Byte
deriving DecidableEq, Repr

/-- A stage record (Table 19-3). -/
structure StageRec where
  code : Nat
  arg : Nat
  ins : List Nat
  outs : List Nat
  shardScale : Bool
  raw : Bool
  sync : Nat
  target : Nat
  operand : Nat
  bound : Nat
deriving DecidableEq, Repr

/-- A stream descriptor (Table 17-1). -/
structure DescRec where
  role : Nat
  op : Nat
  space : Nat
  hint : Nat
  elemSize : Nat
  array : Nat
  warp : Nat
  queue : Nat
  surplus : Nat
  base : Nat
  count : Nat
  stride : Nat
  row : Nat
  pitch : Nat
  buffer : Nat
deriving DecidableEq, Repr

/-- A recipe record (R351). -/
structure Recipe where
  use : Nat
  prologue : Nat
  l1 : Nat
  tile : Nat
  work : Nat
  stages : List StageRec
  descs : List DescRec
deriving DecidableEq, Repr

/-- An accepted image. -/
structure Image where
  generation : BitVec 32
  xSize : Nat
  ySize : Nat
  wrapX : Bool
  wrapY : Bool
  etherType : BitVec 16
  tenants : List TenantRec
  catalogues : Tab Nat Catalogue
  bind : List Nat
  recipes : List Recipe
  bytes : List Byte
deriving DecidableEq, Repr

/-! ## Links -/

/-- A receive pool of a port (Table 8-6): VC0 general or dateline, or VC1 or VC2 of one tenant, general or dateline. -/
inductive Pool where
  | vc0 (dl : Bool)
  | ten (vc2 : Bool) (dl : Bool) (t : Nat)
deriving DecidableEq, Repr

/-- A frame on its way out: its VC, tenant and route. -/
structure TxFrame where
  frame : Frame
  vc : BitVec 2
  route : Prefix
deriving DecidableEq, Repr

/-- A frame being assembled from flits: the pool it came into, whether it overran its credit, and its units in order. -/
structure Assembly where
  pool : Pool
  overrun : Bool
  units : List (BitVec 320)
deriving DecidableEq, Repr

/-- A port. `stale` counts, at the head of each ingress queue, the frames that a training found there: their flits stand in no pool
of the new training, and leaving frees no credit (R149, R150). `dispatched` are the frames that have left their queue for processing here and
whose flits still stand in their pools. -/
structure Port where
  mode : PortMode
  step : TrainStep
  epoch : Nat
  peerEpoch : BitVec 32
  nonce : BitVec 32
  echoed : Bool
  checked : Bool
  rttUs : Nat
  peerMac : BitVec 48
  txSeq : Nat
  replay : List (BitVec 320)
  resends : Nat
  rxSeq : Nat
  nakSent : Bool
  crcFails : Nat
  creditsIn : Bool
  creditsOut : Bool
  advertised : Tab Pool Nat
  sent : Tab Pool Nat
  granted : Tab Pool Nat
  heldFlits : Tab Pool Nat
  assembly : Tab (BitVec 2) Assembly
  ingress : Tab (BitVec 2 × Nat) (List RxFrame)
  stale : Tab (BitVec 2 × Nat) Nat
  dispatched : List RxFrame
  inDeficit : Tab (BitVec 2 × Nat) Nat
  egress : Tab (BitVec 2 × Nat) (List TxFrame)
  unacked : List TxFrame
  outDeficit : Tab (BitVec 2 × Nat) Nat
  vc2Next : Bool
  ethQueue : List (BitVec 320)
  wire : List (BitVec 320)
  macWire : List MacFrame
  lastFault : Nat
deriving DecidableEq, Repr

/-! ## Tenants, shards and steps -/

/-- One contributor to a shard in a step: how it contributes, its first frame's format, its arrival bits, the LAST frames
whose DONE is still owed (R174), the duplicates of each bucket by its start, and its row list (R230). -/
structure Source where
  whole : Bool
  format : Nat
  slots : List Nat
  owed : List RxFrame
  dups : Tab Nat Nat
  indexDups : Nat
  rows : List Nat
  indexSeqs : List Nat
  indexDone : Bool
  started : Bool
deriving DecidableEq, Repr

/-- A shard in a step, from its first frame to the release of its arrival bits. `timely`: frames the home's links had accepted when the
deadline expired and that still wait to be taken (R203); `autumnDue`: the deadline has run out in Autumn, which closes the shard
whatever the count (R82); `scale`: the exponent e of the step, once its stage has begun (R266). -/
structure ShardStep where
  acc : Mem Word
  accPoison : Bool
  sources : Tab Nat Source
  folds : List (Nat × Nat)
  foldRows : List Nat
  deadline : Timer
  timely : List RxFrame
  autumnDue : Bool
  waited : Bool
  closing : Bool
  closeFault : Bool
  closed : Bool
  closedAt : Nat
  included : List Nat
  inclusion : Tab Nat Nat
  nonfinite : Bool
  below : Bool
  norm2 : Word
  amax : Word
  update : UpdState
  tilesDone : List Nat
  factor : Word
  rerunDue : Bool
  direct : Bool
  pend : Tab Nat (Mem Byte)
  pendAmax : Option Word
  scale : Option Int
  pendPoison : List (Nat × Nat)
  applied : Bool
  rolledBack : Bool
deriving DecidableEq, Repr

/-- A shard at its home: its committed arrays by selector, its poisoned lines by (array, line, in HBM), its amax history
(R265), the scale exponent and step of the state it holds (R267, R178), and of each fill, by 4 × source + selector, the frames
accepted, as first element and count, the duplicates, and whether its LAST frame has come (R184). `filledBlocks` are the blocks of 8-bit
moments, by array and number, that an INIT has written. -/
structure Shard where
  fill : Fill
  arrays : Tab Nat (Mem Byte)
  poison : List (Nat × Nat × Bool)
  histPoison : Bool
  history : List Word
  scaleExp : Int
  stateStep : Nat
  initFrames : Tab Nat (List (Nat × Nat))
  initDups : Tab Nat Nat
  initDone : List Nat
  filledBlocks : List (Nat × Nat)
  steps : Tab Nat ShardStep
deriving DecidableEq, Repr

/-- A recorded VERDICT (R190). -/
structure VerdictRec where
  aux : Nat
  factor : Word
  lsExp : Int
  clean : Nat
  tensors : List Nat
deriving DecidableEq, Repr

/-- A step of a tenant on a home chip. -/
structure StepRec where
  verdict : Option VerdictRec
  arrived : List Nat
  deviceArrived : Bool
  resolved : Bool
  hosts : List Nat
  timer : Timer
  cascade : Bool
  firstAccept : Option Nat
  fullCycles : Tab (PortNo × Pool) Nat
  saturated : Bool
deriving DecidableEq, Repr

/-- A shard verdict as the step root keeps it (R189). -/
structure ShardVerdict where
  nonfinite : Bool
  below : Bool
  included : Nat
  norm2 : Word
  amax : Word
deriving DecidableEq, Repr

/-- The step root's gather of one step (R349, R367). -/
structure Gather where
  verdicts : Tab (Nat × Nat) ShardVerdict
  timer : Timer
  decided : Bool
deriving DecidableEq, Repr

/-- A tenant's page: the frame of its committed state where a commit has moved it, and the spill frame and line map of
each parity (section 12.2). -/
structure PageRec where
  live : Option Nat
  spill0 : Option (Nat × List Nat)
  spill1 : Option (Nat × List Nat)
deriving DecidableEq, Repr

/-- A frame of the shadow pool that holds accumulator lines of a step: the page whose lines they are, the frame, and its line map (R304). -/
structure AccFrame where
  step : Nat
  page : Nat
  frame : Nat
  lines : List Nat
deriving DecidableEq, Repr

/-- A pending line in the cache (R235): the page and line it covers, its step, shard and slice; the list order is the order
of last write, oldest first. -/
structure PendLine where
  page : Nat
  line : Nat
  step : Nat
  tensor : Nat
  shard : Nat
  slice : Nat
deriving DecidableEq, Repr

/-- A chunk of a stash slot (R278): units charged, and for ZRL the bytes of its data, the token whose encoding ends them, the index
unit's entries by token (OFFSET[31:0] and BLOCKS[43:32]), and the list of data extents of 64 KiB, numbered as the chunk has charged them. -/
structure Chunk where
  units : Nat
  dataBytes : Nat
  lastToken : Nat
  entries : Tab Nat (BitVec 32 × BitVec 12)
  extents : List Nat
deriving DecidableEq, Repr

/-- A stash slot on a chip: the codec bytes of each written block by (token, block), its chunks, its chunk tables, its poisoned blocks by
(token, block, in HBM), and of the run
of STASH_PUT under way the frames accepted, as token, first block and count, and the duplicates (R165, R184). -/
structure Slot where
  blocks : Tab (Nat × Nat) (List Byte)
  chunks : Tab Nat Chunk
  tables : List Nat
  poison : List (Nat × Nat × Bool)
  run : List (Nat × Nat × Nat)
  runDups : Nat
deriving DecidableEq, Repr

/-- What a chip remembers of the SYNC_OP it has sent to one target for one tenant (R344). -/
structure SyncTx where
  next : Nat
  outstanding : Option (Nat × ClusterNo)
  waiting : List (ClusterNo × TxFrame)
deriving DecidableEq, Repr

structure TenantCtx where
  state : TenantState
  fault : Nat
  hash : BitVec 32
  m8 : Bool
  shadowShift : Nat
  footprint : Nat
  regionBase : Nat
  regionSize : Nat
  seed : BitVec 64
  loaded : Bool
  committed : Option Nat
  resolved : Option Nat
  initStep : Option Nat
  lsExp : Int
  clean : Nat
  exponents : Tab Nat Int
  initSeen : Bool
  origins : Tab Nat (BitVec 10 × BitVec 8)
  heldPulls : List RxFrame
  resetPhase : ResetPhase
  wasReset : Bool
  winterMark : Bool
  downDue : Bool
  counters : Tab Nat Nat
  rootChip : Nat
  rootExp : Int
  rootClean : Nat
  gathers : Tab Nat Gather
  steps : Tab Nat StepRec
  shards : Tab (Nat × Nat) Shard
  laneSeed : BitVec 64
  lanes : Tab Nat (BitVec 64)
  savedSeed : Option (BitVec 64)
  saved : Tab Nat (BitVec 64)
  badLanes : List Nat
  pages : Tab Nat PageRec
  frames : List Nat
  accFrames : List AccFrame
  pendLines : List PendLine
  stalled : Bool
  slots : Tab (Nat × Nat) Slot
  stashUsed : Tab Nat Nat
  syncTx : Tab Nat SyncTx
  syncRx : Tab Nat Nat
deriving DecidableEq, Repr

/-! ## Clusters -/

/-- A task's launch header (R359) and what the device keeps with it: the causing frame, when it became ready, the first element and the
count of the whole work that it is one task of, its place in that work and the array it reads (R357, R424), and its place in the order in
which the chip took its frames in (R271). -/
structure Task where
  recipe : Nat
  tenant : Nat
  kind : Nat
  l1 : Nat
  tensor : Nat
  shard : Nat
  step : Nat
  first : Nat
  count : Nat
  tag : BitVec 32
  cause : Option RxFrame
  readyAt : Nat
  workFirst : Nat
  workCount : Nat
  part : Nat
  array : Nat
  order : Nat
deriving DecidableEq, Repr

/-- A request in flight (R319): its address in its space, its bytes, its place in the order of its task's stages and in the chip's order of
issue, and the lines whose L1 miss registers it has joined (R312). -/
structure Request where
  address : Nat
  bytes : Nat
  stamp : Nat
  serial : Nat
  missed : List Nat
deriving DecidableEq, Repr

/-- A running stream: bytes in all, bytes issued, bytes completed, requests in flight, buffers in use, buffers borrowed, the data
of the transfer under way in its order of issue with the fault code of any poison in it, its warp's indices as delivered, for a store the
byte of the stream where the transfer under way begins and its bytes, and its place in the order of the task's stages: a load's as its
stage issued it, a store's as the stage pushed the buffer under way (R318). -/
structure Stream where
  total : Nat
  issued : Nat
  completed : Nat
  inFlight : List Request
  inUse : Nat
  borrowed : Nat
  data : List Byte
  poison : Nat
  indices : List Nat
  start : Nat
  length : Nat
  stamp : Nat
deriving DecidableEq, Repr

/-- A handle in a queue (R322): its stream, where in the stream it begins, its bytes, the fault code of any poison in them, its LAST
mark, and its place among the task's pushes. -/
structure Handle where
  desc : Nat
  stamp : Nat
  start : Nat
  bytes : List Byte
  poison : Nat
  last : Bool
deriving DecidableEq, Repr

/-- What a waiting stage waits for (Table 18-2, R343). -/
inductive WaitFor where
  | nothing
  | reach (object : Nat) (value : BitVec 32)
  | released
  | ack (target : Nat)
deriving DecidableEq, Repr

/-- A transfer on the short path: its bytes, and whether it is outstanding (R320). -/
structure ShortMove where
  bytes : Nat
  issued : Bool
deriving DecidableEq, Repr

/-- A task on a cluster: `consumed` and `outs` are the inputs a stage under way holds and the handles it pushes as it ends, `shorts` the
short-path transfers it waits on. -/
structure RunTask where
  task : Task
  stage : Nat
  active : Bool
  count : Nat
  waitFor : WaitFor
  streams : Tab Nat Stream
  queues : Tab Nat (List Handle)
  consumed : List Nat
  outs : List Handle
  shorts : List ShortMove
  stamps : Nat
  deadReuse : Bool
  loadsIssued : Bool
  prologueOnly : Bool
deriving DecidableEq, Repr

/-- A line an L1 holds (R306, R307): in M when `modified`, its valid and dirty byte masks, its data. -/
structure L1Line where
  modified : Bool
  valid : BitVec 128
  dirty : BitVec 128
  data : BitVec 1024
  poison : Bool
deriving DecidableEq, Repr

/-- How a debug step ends (R401). -/
inductive StepMode where
  | none | stage | cycles (n : Nat)
deriving DecidableEq, Repr

/-- A task's completion: the task, and DEAD_REUSE (R311). -/
structure Completion where
  task : Task
  deadReuse : Bool
deriving DecidableEq, Repr

structure Cluster where
  queue : List Task
  deficit : Tab Nat Nat
  lastTenant : Option Nat
  lastL1 : Nat
  run : Option RunTask
  next : Option RunTask
  l1 : Tab Nat L1Line
  scratch : Mem Byte
  scratchPoison : List Nat
  readTokens : Nat
  writeTokens : Nat
  egressTokens : Nat
  halted : Bool
  passed : Bool
  prologueDue : Bool
  completion : Option Completion
  stepMode : StepMode
deriving DecidableEq, Repr

/-! ## Slices, sync objects, vault, debug -/

/-- Directory state of a coherent line (Table 16-3). -/
inductive DirState where
  | i | s | m
deriving DecidableEq, Repr

/-- What a slice's line belongs to: a region, an array of a shard's committed state, or a shard's accumulator in a step. -/
inductive LineKind where
  | region
  | tensor (tensor shard array : Nat)
  | acc (tensor shard step : Nat)
deriving DecidableEq, Repr

/-- A slice line, by line address. The bytes of a region's line stand in it; those of tensor state and of accumulators stand with their
shard, and its line says that the slice holds them, which of them are dirty, and how it is replaced (log entry 11). -/
structure SliceLine where
  tenant : Nat
  kind : LineKind
  valid : BitVec 128
  dirty : BitVec 128
  data : BitVec 1024
  hint : Nat
  stamp : Nat
  poison : Bool
  dir : DirState
  sharers : List ClusterNo
deriving DecidableEq, Repr

/-- A line's miss in a slice: the clusters and streams waiting for its one HBM read (R313). -/
structure Miss where
  tenant : Nat
  kind : LineKind
  waiters : List (ClusterNo × Nat)
deriving DecidableEq, Repr

/-- A sync object (R337): counter, target, the waiting clusters with the value each waits for, and the device's bit of the waiter set. -/
structure SyncObj where
  c : BitVec 32
  t : BitVec 32
  device : Bool
  waiters : List (ClusterNo × BitVec 32)
deriving DecidableEq, Repr

/-- A key record (Table 21-2). -/
structure KeyRec where
  valid : Bool
  draws : Nat
  key1 : BitVec 256
  key2 : BitVec 256
  id : Nat
deriving DecidableEq, Repr

/-- A tamper log entry (R390). -/
structure TamperEntry where
  code : Nat
  season : Nat
  lifeCycle : Nat
  ticks : Nat
  wipes : Nat
deriving DecidableEq, Repr

/-- A wipe under way (Table 21-4). -/
structure Wipe where
  codes : List Nat
  inWinter : Bool
  retentionOpen : Bool
deriving DecidableEq, Repr

structure Vault where
  keys : Tab Nat KeyRec
  lifeCycle : LifeCycle
  log : List TamperEntry
  wipes : Nat
  springOffAt : Nat
  hbmRefused : Bool
  drawn : Nat
deriving DecidableEq, Repr

/-- A breakpoint slot (Table 22-4). -/
structure BreakSlot where
  enabled : Bool
  kind : Nat
  everyCluster : Bool
  code : Nat
  stage : Nat
  tenant : Nat
  tensor : Nat
  step : Nat
deriving DecidableEq, Repr

structure Debug where
  tap : Tap
  refused : Bool
  memDone : Bool
  memError : Bool
  memData : BitVec 64
  slots : Tab Nat BreakSlot
  hits : BitVec 8
  lastHit : ClusterNo
  selected : ClusterNo
deriving DecidableEq, Repr

/-- An active fault of page 0 (R372, Table 9-13). -/
structure FaultRec where
  code : Nat
  level : Nat
  port : Option PortNo
  reportedOnly : Bool
deriving DecidableEq, Repr

/-- Seasons, wake, straps and heat of one chip. -/
structure Wake where
  season : Season
  entered : Bool
  seasonError : Bool
  phase : SpringPhase
  fromOff : Bool
  beganValid : Bool
  coldBegun : Bool
  summerDue : Bool
  ctxValid : Bool
  winterReported : Bool
  drain : DrainPhase
  drained : Bool
  answering : Bool
  latched : StrapSet
  prevLatched : StrapSet
  observed : StrapSet
  sensed : Bool
  generation : BitVec 32
  prevGeneration : BitVec 32
  bank : Bool
  failedBank : Option Bool
  cold : Bool
  heating : Bool
  temps : Temps
  hot : Bool
  issueRate : Nat
  stopped : Bool
  hbm : HbmState
deriving DecidableEq, Repr

structure Chip where
  wake : Wake
  faults : List FaultRec
  occurrences : Tab Nat Nat
  counters : Tab Nat Nat
  unusedRecords : Nat
  image : Option Image
  candidate : Option Image
  tenants : Tab Nat TenantCtx
  ports : Tab PortNo Port
  outbox : List TxFrame
  inbox : List RxFrame
  lostPeers : List (Fin 3)
  lostDirs : List Direction
  ingressTokens : Tab Nat Nat
  collisions : Tab RxFrame Nat
  clusters : Tab ClusterNo Cluster
  lines : Tab Nat SliceLine
  lineMisses : Tab Nat Miss
  deadDue : Tab Nat (List Nat)
  deadLines : List Nat
  lineClock : Nat
  hbm : Mem Byte
  hbmPoison : List Nat
  sync : Tab Nat SyncObj
  vault : Vault
  fuses : LifeCycle
  wipe : Option Wipe
  clearAtSpring : Bool
  dbg : Debug
  nonces : Nat
  launches : Nat
deriving DecidableEq, Repr

/-- The four chips of the tray, by position. -/
structure Chips where
  a : Chip
  b : Chip
  c : Chip
  d : Chip
deriving DecidableEq, Repr

/-- One tray, and the commands waiting for it, first in first out. -/
structure State where
  pending : List Instr
  tray : Tray
  chips : Chips
deriving DecidableEq, Repr

/-! ## Reasons to stop -/

/-- Why the machine stops with a fault. -/
inductive Fault where
  /-- Raised by FLASH_PROGRAM_ERASE_SEQUENCE for an address at or above 0x0400_0000, where the flash has no byte (R89). Safe:
  the model stops where the spec gives no flash. -/
  | outsideFlash
deriving DecidableEq, Repr

/-- Why the machine refuses a command. -/
inductive Refusal where
  /-- Raised by a dispatch arm whose command has no meaning yet. Safe. -/
  | notModelled (mnemonic : String)
deriving DecidableEq, Repr

/-! ## Reset: the tray Off -/

/-- A strap set before the first delivery (log entry 4). -/
def StrapSet.reset : StrapSet :=
  { trayidH := some 0, trayidL := some 0, tenlayout := some 0, bwsplit := some 0, portmodeH := some 0,
    portmodeT := some 0, bankSel := some false, heatEn := some false, debugEn := some false, chippos := some 0#2 }

/-- A TAP in Test-Logic-Reset, which selects IDCODE (R393). -/
def Tap.reset : Tap := { ir := 0x02#8, dr := 0#320, cells := 0#38, driving := false, outputsOff := false }

def Cage.reset : Cage := { present := false, milliwatts := 0, highPower := false }

def FanModule.reset : FanModule := { present := true, slow0 := false, slow1 := false }

def Load.reset : Load := { phase := .idle, bank := false, otherFailed := false, reports := [] }

/-- The tray keeper Off: no rail up, both feeds absent (R24, R25), the TMC inputs at their pull-ups (section 2.5). -/
def Tray.reset : Tray :=
  { feedA := false, feedB := false, rails := [], forwarding := false, refClock := false, seasonPins := 3#2,
    pinTaken := false, forwarded := none, held := [], prep := false, strapsDelivered := false, winterWait := false,
    railFault := false, railCodeDue := false, winterFault := false, fancurve := some 0, thermistors := [], fans := [],
    fanDutyNum := 0, fanDutyDen := 1, cages := [], lidOpen := false, tamperLow := false, tenrstLow := 0#8,
    flashReq := false, flashGnt := false, grantDue := false, flashOctal := false, flash := [],
    flashConfigAltered := false, load := .reset, tap := .reset, now := 0 }

/-- A port that has not trained (R153: in Winter every port is down). -/
def Port.reset : Port :=
  { mode := .off, step := .down, epoch := 0, peerEpoch := 0#32, nonce := 0#32, echoed := false, checked := false,
    rttUs := 0, peerMac := 0xFFFFFFFFFFFF#48, txSeq := 0, replay := [], resends := 0, rxSeq := 0, nakSent := false,
    crcFails := 0, creditsIn := false, creditsOut := false, advertised := [], sent := [], granted := [],
    heldFlits := [], assembly := [], ingress := [], stale := [], dispatched := [], inDeficit := [], egress := [], unacked := [], outDeficit := [],
    vc2Next := false, ethQueue := [], wire := [], macWire := [], lastFault := 0 }

/-- A contributor none of whose frames has been accepted. -/
def Source.reset : Source :=
  { whole := false, format := 0, slots := [], owed := [], dups := [], indexDups := 0, rows := [], indexSeqs := [], indexDone := false,
    started := false }

/-- A shard in a step none of whose frames has been accepted: the accumulator is +0 throughout (R199). -/
def ShardStep.reset : ShardStep :=
  { acc := [], accPoison := false, sources := [], folds := [], foldRows := [], deadline := .idle, timely := [], autumnDue := false,
    waited := false, closing := false, closeFault := false, closed := false, closedAt := 0, included := [], inclusion := [], nonfinite := false, below := false, norm2 := 0#32, amax := 0#32,
    update := .none, tilesDone := [], factor := 0x3F800000#32, rerunDue := false, direct := false, pend := [],
    pendAmax := none, scale := none, pendPoison := [], applied := false, rolledBack := false }

/-- An EMPTY shard (R176). -/
def Shard.reset : Shard :=
  { fill := .empty, arrays := [], poison := [], histPoison := false, history := List.replicate 16 0#32, scaleExp := 0, stateStep := 0,
    initFrames := [], initDups := [], initDone := [], filledBlocks := [], steps := [] }

def StepRec.reset : StepRec :=
  { verdict := none, arrived := [], deviceArrived := false, resolved := false, hosts := [], timer := .idle,
    cascade := false, firstAccept := none, fullCycles := [], saturated := false }

def Gather.reset : Gather := { verdicts := [], timer := .idle, decided := false }

def PageRec.reset : PageRec := { live := none, spill0 := none, spill1 := none }

/-- A chunk that nothing has been written to. -/
def Chunk.reset : Chunk := { units := 0, dataBytes := 0, lastToken := 0, entries := [], extents := [] }

def Slot.reset : Slot := { blocks := [], chunks := [], tables := [], poison := [], run := [], runDups := 0 }

def SyncTx.reset : SyncTx := { next := 0, outstanding := none, waiting := [] }

/-- A tenant that does not exist yet. -/
def TenantCtx.reset : TenantCtx :=
  { state := .absent, fault := 0, hash := 0#32, m8 := false, shadowShift := 4, footprint := 0, regionBase := 0,
    regionSize := 0, seed := 0#64, loaded := false, committed := none, resolved := none, initStep := none, lsExp := 0, clean := 0,
    exponents := [], initSeen := false, origins := [], heldPulls := [], resetPhase := .none, wasReset := false,
    winterMark := false, downDue := false, counters := [], rootChip := 0, rootExp := 0, rootClean := 0, gathers := [], steps := [],
    shards := [], laneSeed := 0#64, lanes := [], savedSeed := none, saved := [], badLanes := [], pages := [],
    frames := [], accFrames := [], pendLines := [], stalled := false, slots := [], stashUsed := [], syncTx := [],
    syncRx := [] }

/-- An idle cluster. -/
def Cluster.reset : Cluster :=
  { queue := [], deficit := [], lastTenant := none, lastL1 := 0, run := none, next := none, l1 := [],
    scratch := [], scratchPoison := [], readTokens := 327680, writeTokens := 327680, egressTokens := 327680,
    halted := false, passed := false, prologueDue := false, completion := none, stepMode := .none }

/-- A sync object at a Spring from Off (R337). -/
def SyncObj.reset : SyncObj := { c := 0#32, t := 0#32, device := false, waiters := [] }

/-- A key record with no key (Table 21-2). -/
def KeyRec.reset : KeyRec := { valid := false, draws := 0, key1 := 0#256, key2 := 0#256, id := 0 }

def BreakSlot.reset : BreakSlot :=
  { enabled := false, kind := 0, everyCluster := false, code := 0, stage := 0, tenant := 0, tensor := 0, step := 0 }

/-- The vault, whose contents are lost in Off (section 21.1). -/
def Vault.reset : Vault :=
  { keys := [], lifeCycle := .field, log := [], wipes := 0, springOffAt := 0, hbmRefused := false, drawn := 0 }

def Debug.reset : Debug :=
  { tap := .reset, refused := false, memDone := false, memError := false, memData := 0#64, slots := [], hits := 0#8,
    lastHit := 0, selected := 0 }

/-- Readings of 25 °C before the first one (log entry 4). -/
def tempsReset : Temps := { tj0 := 400, tj1 := 400, tj2 := 400, hbm0 := 400, hbm1 := 400, hbm2 := 400, hbm3 := 400 }

def Wake.reset : Wake :=
  { season := .off, entered := false, seasonError := false, phase := .idle, fromOff := true, beganValid := false,
    coldBegun := false, summerDue := false, ctxValid := false, winterReported := false, drain := .idle, drained := false, answering := false,
    latched := .reset, prevLatched := .reset, observed := .reset, sensed := false, generation := 0#32,
    prevGeneration := 0#32, bank := false, failedBank := none, cold := false, heating := false, temps := tempsReset,
    hot := false, issueRate := 16, stopped := false, hbm := .down }

/-- A chip Off: it holds nothing but its fuses, which leave Svazan in FIELD (section 21.6). -/
def Chip.reset : Chip :=
  { wake := .reset, faults := [], occurrences := [], counters := [], unusedRecords := 0, image := none,
    candidate := none, tenants := [], ports := [], outbox := [], inbox := [], lostPeers := [], lostDirs := [],
    ingressTokens := [], collisions := [], clusters := [], lines := [], lineMisses := [], deadDue := [], deadLines := [], lineClock := 0,
    hbm := [], hbmPoison := [], sync := [], vault := .reset, fuses := .field, wipe := none, clearAtSpring := false,
    dbg := .reset, nonces := 0, launches := 0 }

def Chips.reset : Chips := { a := .reset, b := .reset, c := .reset, d := .reset }

/-- The block right after reset: the tray Off, nothing waiting. -/
def State.reset : State := { pending := [], tray := .reset, chips := .reset }

end Sys2Proof.Machine
end

