-- ==== Sys2Proof/Machine/Memory.lean ====
section
/-!
DEFINITION. Addressed memories in canonical form: reading, writing, and the form itself.
-/
namespace Sys2Proof.Machine

/-- What address `a` of a memory reads as; `d` where it lists nothing. -/
def memGet {α : Type} (d : α) : Mem α → Nat → α
  | [], _ => d
  | (a', v) :: rest, a => if a' = a then v else memGet d rest a

/-- The memory with `v` at `a`, in canonical form: writing `d` removes the entry. -/
def memSet {α : Type} [DecidableEq α] (d : α) : Mem α → Nat → α → Mem α
  | [], a, v => if v = d then [] else [(a, v)]
  | (a', v') :: rest, a, v =>
    if a < a' then (if v = d then (a', v') :: rest else (a, v) :: (a', v') :: rest)
    else if a = a' then (if v = d then rest else (a, v) :: rest)
    else (a', v') :: memSet d rest a v

/-- The memory with a run of values written from address `a` upward. -/
def memWrite {α : Type} [DecidableEq α] (d : α) : Mem α → Nat → List α → Mem α
  | m, _, [] => m
  | m, a, v :: rest => memWrite d (memSet d m a v) (a + 1) rest

/-- The memory that holds a run of values from address `a` upward and nothing else. -/
def memFrom {α : Type} [DecidableEq α] (d : α) : Nat → List α → Mem α
  | _, [] => []
  | a, v :: rest => if v = d then memFrom d (a + 1) rest else (a, v) :: memFrom d (a + 1) rest

/-- The `n` values from address `a` upward. -/
def memRead {α : Type} (d : α) (m : Mem α) (a : Nat) : Nat → List α
  | 0 => []
  | n + 1 => memGet d m a :: memRead d m (a + 1) n

/-- The memory without its entries at addresses where `p` holds. -/
def memDrop {α : Type} (p : Nat → Bool) : Mem α → Mem α
  | [] => []
  | (a, v) :: rest => if p a then memDrop p rest else (a, v) :: memDrop p rest

/-- A memory whose byte `d` would not be an entry: every address of a run is made to read `d`. -/
def memErase {α : Type} (a n : Nat) (m : Mem α) : Mem α := memDrop (fun x => decide (a ≤ x) && decide (x < a + n)) m

/-- The value listed at an address, where nothing listed has no value of its own. -/
def memFind {α : Type} : Mem α → Nat → Option α
  | [], _ => none
  | (a', v) :: rest, a => if a' = a then some v else memFind rest a

/-- The memory with `v` listed at `a`, addresses rising; for a memory whose unlisted addresses have no fixed value. -/
def memPut {α : Type} : Mem α → Nat → α → Mem α
  | [], a, v => [(a, v)]
  | (a', v') :: rest, a, v =>
    if a < a' then (a, v) :: (a', v') :: rest
    else if a = a' then (a, v) :: rest
    else (a', v') :: memPut rest a v

/-- Addresses rise strictly above `lo`. -/
def Mem.risingFrom {α : Type} : Option Nat → Mem α → Bool
  | _, [] => true
  | lo, (a, _) :: rest =>
    (match lo with
     | none => true
     | some b => decide (b < a)) && Mem.risingFrom (some a) rest

/-- The form of a memory whose unlisted addresses have no fixed value: addresses strictly rising. -/
def Memory.rising {α : Type} (m : Mem α) : Bool := Mem.risingFrom none m

/-- The canonical form: every address is above `lo`, addresses rise strictly, and no entry equals `d`. -/
def Mem.wfFrom {α : Type} [DecidableEq α] (d : α) : Option Nat → Mem α → Bool
  | _, [] => true
  | lo, (a, v) :: rest =>
    (match lo with
     | none => true
     | some b => decide (b < a)) && decide (v ≠ d) && Mem.wfFrom d (some a) rest

/-- A memory is in canonical form for the value `d` of its unlisted addresses. -/
def Memory.wf {α : Type} [DecidableEq α] (d : α) (m : Mem α) : Bool := Mem.wfFrom d none m

end Sys2Proof.Machine
end

