-- ==== Sys2Proof/Machine/Bits.lean ====
section
/-!
DEFINITION. Bit fields, little-endian bytes, tables by key and the CRC-32C of R94, which the links and the image share.
-/
namespace Sys2Proof.Machine

/-- `table[k]`, or `d` where `k` is not listed. -/
def tabGet {κ α : Type} [DecidableEq κ] (d : α) : Tab κ α → κ → α
  | [], _ => d
  | (k', v) :: rest, k => if k' = k then v else tabGet d rest k

/-- The table with `v` at `k`. -/
def tabSet {κ α : Type} [DecidableEq κ] : Tab κ α → κ → α → Tab κ α
  | [], k, v => [(k, v)]
  | (k', v') :: rest, k, v => if k' = k then (k, v) :: rest else (k', v') :: tabSet rest k v

/-- The entry at `k`, when it is listed. -/
def tabFind {κ α : Type} [DecidableEq κ] : Tab κ α → κ → Option α
  | [], _ => none
  | (k', v) :: rest, k => if k' = k then some v else tabFind rest k

/-- The table without `k`. -/
def tabErase {κ α : Type} [DecidableEq κ] : Tab κ α → κ → Tab κ α
  | [], _ => []
  | (k', v) :: rest, k => if k' = k then tabErase rest k else (k', v) :: tabErase rest k

/-- The table with every value changed by `f`, which may look at the key. -/
def tabMap {κ α β : Type} (f : κ → α → β) : Tab κ α → Tab κ β
  | [] => []
  | (k, v) :: rest => (k, f k v) :: tabMap f rest

/-- Byte `i` of a wide number whose byte 0 is its least significant (R2, R3). -/
def byteOf {w : Nat} (x : BitVec w) (i : Nat) : Byte := x.extractLsb' (8 * i) 8

/-- The 16-bit field in bytes `i` and `i + 1` (R2). -/
def u16Of {w : Nat} (x : BitVec w) (i : Nat) : BitVec 16 := x.extractLsb' (8 * i) 16

/-- The 32-bit field in bytes `i` to `i + 3` (R2). -/
def u32Of {w : Nat} (x : BitVec w) (i : Nat) : BitVec 32 := x.extractLsb' (8 * i) 32

/-- The `n` bytes of a wide number, byte 0 first. -/
def bytesOf {w : Nat} (x : BitVec w) : Nat → List Byte
  | 0 => []
  | n + 1 => bytesOf x n ++ [byteOf x n]

/-- `n` little-endian bytes of a natural number (R2). -/
def leBytes : Nat → Nat → List Byte
  | 0, _ => []
  | n + 1, v => BitVec.ofNat 8 v :: leBytes n (v / 256)

/-- The natural number that little-endian bytes spell (R2). -/
def leNat : List Byte → Nat
  | [] => 0
  | b :: rest => b.toNat + 256 * leNat rest

/-- The number with byte 0 lowest that a byte list spells. -/
def packBytes (w : Nat) (bs : List Byte) : BitVec w := BitVec.ofNat w (leNat bs)

/-- The sub-list of `n` bytes from offset `i`, short where the list ends. -/
def sliceBytes (bs : List Byte) (i n : Nat) : List Byte := (bs.drop i).take n

/-- The little-endian field of `n` bytes at offset `i`. -/
def fieldAt (bs : List Byte) (i n : Nat) : Nat := leNat (sliceBytes bs i n)

/-- The list with `v` at place `i`, unchanged where it is too short. -/
def setAt {α : Type} (l : List α) (i : Nat) (v : α) : List α := l.set i v

/-- `ceil(a / b)`, 0 where `b` is 0. -/
def ceilDiv (a b : Nat) : Nat := (a + b - 1) / b

/-- The integers `a, a+1, …` of which there are `n`. -/
def upFrom (a : Nat) : Nat → List Nat
  | 0 => []
  | n + 1 => a :: upFrom (a + 1) n

/-- A two's-complement field of `w` bits as an integer. -/
def signedOf (w : Nat) (v : Nat) : Int := (BitVec.ofNat w v).toInt

/-- The two's-complement field of `w` bits that holds an integer. -/
def fieldOfInt (w : Nat) (v : Int) : Nat := (BitVec.ofInt w v).toNat

/-- Eight steps of the reflected Castagnoli division (R94). -/
def crcBits : Nat → BitVec 32 → BitVec 32
  | 0, c => c
  | n + 1, c => crcBits n (if c.getLsbD 0 then (c >>> 1) ^^^ 0x82F63B78#32 else c >>> 1)

/-- CRC-32C over a run of bytes from a running register (R94). -/
def crcRun : BitVec 32 → List Byte → BitVec 32
  | c, [] => c
  | c, b :: rest => crcRun (crcBits 8 (c ^^^ b.zeroExtend 32)) rest

/-- CRC-32C of R94: initial value and final exclusive-or all ones. -/
def crc32c (bs : List Byte) : BitVec 32 := crcRun 0xFFFFFFFF#32 bs ^^^ 0xFFFFFFFF#32

/-- A counter that saturates at 2^64 − 1 (R373). -/
def satAdd64 (a b : Nat) : Nat := min (a + b) (2 ^ 64 - 1)

/-- A 16-bit count that saturates at 65,535 (Table 9-5). -/
def sat16 (a : Nat) : Nat := min a 65535

end Sys2Proof.Machine
end

