-- ==== Sys2Proof/Machine/F32.lean ====
section
/-!
DEFINITION. Binary32 arithmetic of R216: exact values as dyadic numbers, one rounding to nearest with ties to even at the
end of each operation, subnormals kept, every NaN produced 0x7FC0_0000.
-/
namespace Sys2Proof.Machine

/-- The canonical NaN (R216). -/
def qnan : Word := 0x7FC00000#32

/-- Plus infinity. -/
def f32Inf : Word := 0x7F800000#32

/-- One. -/
def f32One : Word := 0x3F800000#32

/-- An exact finite value: (−1)^neg × m × 2^e. -/
structure Dyadic where
  neg : Bool
  m : Nat
  e : Int
deriving DecidableEq, Repr

/-- The sign bit. -/
def f32Neg (x : Word) : Bool := x.getLsbD 31

/-- The bits without the sign. -/
def f32Mag (x : Word) : Nat := x.toNat % 2 ^ 31

def f32IsNaN (x : Word) : Bool := decide (f32Mag x > 0x7F800000)

def f32IsInf (x : Word) : Bool := decide (f32Mag x = 0x7F800000)

def f32IsFinite (x : Word) : Bool := decide (f32Mag x < 0x7F800000)

def f32IsZero (x : Word) : Bool := decide (f32Mag x = 0)

/-- The magnitude bits of |x|. -/
def f32Abs (x : Word) : Word := BitVec.ofNat 32 (f32Mag x)

/-- A sign change, which is exact (R222, R228). -/
def f32Negate (x : Word) : Word := x ^^^ 0x80000000#32

/-- The value of a magnitude code in a format of `p` mantissa bits whose least subnormal is 2^`qmin` (R253). -/
def codeValue (p : Nat) (qmin : Int) (code : Nat) : Nat × Int :=
  if code < 2 ^ p then (code, qmin) else (2 ^ p + code % 2 ^ p, qmin + ((code / 2 ^ p : Nat) : Int) - 1)

/-- The exact value of a finite binary32 pattern. -/
def f32Value (x : Word) : Dyadic :=
  let v := codeValue 23 (-149) (f32Mag x)
  ⟨f32Neg x, v.1, v.2⟩

/-- `floor(log2(m × 2^e))` for m > 0. -/
def dyLog (m : Nat) (e : Int) : Int := (Nat.log2 m : Int) + e

/-- The quantum in which a value m × 2^e rounds in a format of `p` mantissa bits and least subnormal 2^`qmin`. -/
def quantum (p : Nat) (qmin : Int) (m : Nat) (e : Int) : Int := max (dyLog m e - (p : Int)) qmin

/-- m × 2^e counted in quanta 2^q, rounded to nearest with ties to even. -/
def quantaNearest (m : Nat) (e q : Int) : Nat :=
  if q ≤ e then m * 2 ^ (e - q).toNat
  else
    let d := 2 ^ (q - e).toNat
    let lo := m / d
    let r := m % d
    if 2 * r < d then lo else if d < 2 * r then lo + 1 else if lo % 2 = 0 then lo else lo + 1

/-- m × 2^e counted in whole quanta 2^q, with the fraction left over in units of 2^-32, rounded down (R261). -/
def quantaFloor (m : Nat) (e q : Int) : Nat × Nat :=
  if q ≤ e then (m * 2 ^ (e - q).toNat, 0)
  else
    let d := 2 ^ (q - e).toNat
    (m / d, m % d * 2 ^ 32 / d)

/-- The magnitude code nearest to m × 2^e, ties to even, with exponents running on above the largest finite value. -/
def nearestCode (p : Nat) (qmin : Int) (m : Nat) (e : Int) : Nat :=
  if m = 0 then 0
  else
    let q := quantum p qmin m e
    (q - qmin).toNat * 2 ^ p + quantaNearest m e q

/-- A binary32 pattern from a sign and a magnitude code that overflows to infinity. -/
def f32Pack (neg : Bool) (code : Nat) : Word :=
  let mag := BitVec.ofNat 32 (min code 0x7F800000)
  if neg then mag ||| 0x80000000#32 else mag

/-- The binary32 value nearest to an exact value. -/
def f32Round (d : Dyadic) : Word := f32Pack d.neg (nearestCode 23 (-149) d.m d.e)

/-- The exact sum of two values; `neg` of an exact zero is false (rounding to nearest gives +0). -/
def dyAdd (a b : Dyadic) : Dyadic :=
  let e := min a.e b.e
  let va : Int := (a.m * 2 ^ (a.e - e).toNat : Nat)
  let vb : Int := (b.m * 2 ^ (b.e - e).toNat : Nat)
  let v : Int := (if a.neg then -va else va) + (if b.neg then -vb else vb)
  ⟨decide (v < 0), v.natAbs, e⟩

/-- The exact product of two values. -/
def dyMul (a b : Dyadic) : Dyadic := ⟨a.neg != b.neg, a.m * b.m, a.e + b.e⟩

/-- The sum of two finite values: an exact zero is −0 only when both terms are negative. -/
def dySum (a b : Dyadic) : Word :=
  let v := dyAdd a b
  if v.m = 0 then f32Pack (a.neg && b.neg) 0 else f32Round v

/-- Binary32 addition (R216). -/
def f32Add (a b : Word) : Word :=
  if f32IsNaN a || f32IsNaN b then qnan
  else if f32IsInf a then (if f32IsInf b && f32Neg a != f32Neg b then qnan else a)
  else if f32IsInf b then b
  else dySum (f32Value a) (f32Value b)

/-- Binary32 subtraction. -/
def f32Sub (a b : Word) : Word := if f32IsNaN b then qnan else f32Add a (f32Negate b)

/-- Binary32 multiplication (R216). -/
def f32Mul (a b : Word) : Word :=
  if f32IsNaN a || f32IsNaN b then qnan
  else if f32IsInf a || f32IsInf b then
    (if f32IsZero a || f32IsZero b then qnan else f32Pack (f32Neg a != f32Neg b) 0x7F800000)
  else f32Round (dyMul (f32Value a) (f32Value b))

/-- Fused multiply-add a × b + c, rounded once (R216). -/
def f32Fma (a b c : Word) : Word :=
  if f32IsNaN a || f32IsNaN b || f32IsNaN c then qnan
  else if f32IsInf a || f32IsInf b then
    (if f32IsZero a || f32IsZero b then qnan
     else if f32IsInf c && f32Neg c != (f32Neg a != f32Neg b) then qnan
     else f32Pack (f32Neg a != f32Neg b) 0x7F800000)
  else if f32IsInf c then c
  else dySum (dyMul (f32Value a) (f32Value b)) (f32Value c)

/-- Binary32 division (R216): the quotient to 64 places, with one more place that says whether a remainder is left. -/
def f32Div (a b : Word) : Word :=
  let neg := f32Neg a != f32Neg b
  if f32IsNaN a || f32IsNaN b then qnan
  else if f32IsInf a then (if f32IsInf b then qnan else f32Pack neg 0x7F800000)
  else if f32IsInf b then f32Pack neg 0
  else if f32IsZero b then (if f32IsZero a then qnan else f32Pack neg 0x7F800000)
  else if f32IsZero a then f32Pack neg 0
  else
    let x := f32Value a
    let y := f32Value b
    let n := x.m * 2 ^ 64
    let sticky := if n % y.m = 0 then 0 else 1
    f32Round ⟨neg, 2 * (n / y.m) + sticky, x.e - y.e - 65⟩

/-- The integer square root, one bit at a time from bit `k − 1` down. -/
def isqrtFrom : Nat → Nat → Nat → Nat
  | 0, _, r => r
  | k + 1, n, r => if (r + 2 ^ k) * (r + 2 ^ k) ≤ n then isqrtFrom k n (r + 2 ^ k) else isqrtFrom k n r

/-- Binary32 square root (R216): the root of an even-exponent value to over 30 places, and one more for a remainder. -/
def f32Sqrt (a : Word) : Word :=
  if f32IsNaN a then qnan
  else if f32IsZero a then a
  else if f32Neg a then qnan
  else if f32IsInf a then a
  else
    let x := f32Value a
    let odd := x.e % 2 != 0
    let m := (if odd then 2 * x.m else x.m) * 2 ^ 64
    let e := (if odd then x.e - 1 else x.e) - 64
    let r := isqrtFrom 48 m 0
    let sticky := if r * r = m then 0 else 1
    f32Round ⟨false, 2 * r + sticky, e / 2 - 1⟩

/-- The signed order of two finite or infinite values as integers of their magnitude bits. -/
def f32Key (x : Word) : Int := if f32Neg x then -(f32Mag x : Int) else (f32Mag x : Int)

/-- a < b; false with a NaN (R216). -/
def f32Lt (a b : Word) : Bool := !f32IsNaN a && !f32IsNaN b && decide (f32Key a < f32Key b)

/-- a ≤ b; false with a NaN (R216). -/
def f32Le (a b : Word) : Bool := !f32IsNaN a && !f32IsNaN b && decide (f32Key a ≤ f32Key b)

/-- float(k): an unsigned integer to binary32, to nearest even (R216). -/
def f32OfNat (k : Nat) : Word := f32Round ⟨false, k, 0⟩

/-- 2^e as binary32. -/
def f32Pow2 (e : Int) : Word := f32Round ⟨false, 1, e⟩

/-- powf of R222: `k` counted down through its bits, the fuel its bit length. -/
def f32PowFrom : Nat → Word → Word → Nat → Word
  | 0, q, _, _ => q
  | n + 1, q, y, k =>
    if k = 0 then q
    else
      let q' := if k % 2 = 1 then f32Mul q y else q
      let k' := k / 2
      f32PowFrom n q' (if 0 < k' then f32Mul y y else y) k'

/-- powf(x, k) of R222. -/
def f32Powf (x : Word) (k : Nat) : Word := f32PowFrom (Nat.log2 k + 1) f32One x k

/-- The largest finite |x| of a list, +0 where none is finite (R265). -/
def amaxFinite : List Word → Word
  | [] => 0#32
  | x :: rest =>
    let r := amaxFinite rest
    if f32IsFinite x && decide (r.toNat < f32Mag x) then f32Abs x else r

/-- The largest |x| of a list by magnitude bits (R210). -/
def amaxOf : List Word → Word
  | [] => 0#32
  | x :: rest =>
    let r := amaxOf rest
    if r.toNat < f32Mag x then f32Abs x else r

/-- Block sum p[b] of R210: ascending fused multiply-adds from a start value. -/
def blockSquares : Word → List Word → Word
  | p, [] => p
  | p, x :: rest => blockSquares (f32Fma x x p) rest

/-- The list cut into runs of 32, with fuel at least the number of runs. -/
def chunks32 {α : Type} : Nat → List α → List (List α)
  | 0, _ => []
  | n + 1, l => if l.isEmpty then [] else l.take 32 :: chunks32 n (l.drop 32)

/-- One level of the tree of R210: neighbours added, an odd last term carried unchanged. -/
def pairSums : List Word → List Word
  | a :: b :: rest => f32Add a b :: pairSums rest
  | l => l

/-- The tree of R210, with fuel at least its depth. -/
def treeSum : Nat → List Word → Word
  | 0, l => l.headD 0#32
  | n + 1, l =>
    match l with
    | [] => 0#32
    | [x] => x
    | l => treeSum n (pairSums l)

/-- NORM2 of R210 over the elements in ascending order. -/
def norm2Of (g : List Word) : Word :=
  treeSum g.length ((chunks32 g.length g).map (blockSquares 0#32))

end Sys2Proof.Machine
end

