-- ==== Sys2Proof/Machine/Formats.lean ====
section
/-!
DEFINITION. Number formats of chapter 13: element layouts, conversions to nearest, block encodes, stochastic rounding and
the scale exponent of a shard.
-/
namespace Sys2Proof.Machine

/-- Payload bytes of n elements on the wire in a format code (Table 9-3), where the code has a payload size. -/
def wireBytes (code n : Nat) : Option Nat :=
  match code with
  | 0x00 => some (4 * n)
  | 0x01 => some (2 * n)
  | 0x02 => some (2 * n)
  | 0x03 => some n
  | 0x04 => some n
  | 0x10 => some (33 * ceilDiv n 32)
  | 0x11 => some (33 * ceilDiv n 32)
  | 0x12 => some (33 * ceilDiv n 32)
  | 0x20 => some (33 * ceilDiv n 32)
  | 0x31 => some (ceilDiv n 8)
  | 0x32 => some (33 * ceilDiv n 32)
  | _ => none

/-- Whether a code is a block format: 32 elements under one scale byte (R254). -/
def isBlockFormat (code : Nat) : Bool := code = 0x10 || code = 0x11 || code = 0x12 || code = 0x20 || code = 0x32

/-- Bytes in storage of an array of n elements (Table 6-8): a partial last block counts only its elements. -/
def storedBytes (code n : Nat) : Nat :=
  match code with
  | 0x00 => 4 * n
  | 0x01 => 2 * n
  | 0x02 => 2 * n
  | 0x03 => n
  | 0x04 => n
  | _ => n + ceilDiv n 32

/-- EMAX of R257 for MXFP8 E4M3, MXFP8 E5M2, MXINT8 and UE5M3-B. -/
def emaxOf (code : Nat) : Int :=
  match code with
  | 0x11 => 15
  | 0x12 => 0
  | 0x20 => 16
  | _ => 8

/-- A rounded magnitude code with the sign on top of an 8-bit or 16-bit element. -/
def signedCode (neg : Bool) (signBit code : Nat) : Nat := if neg then signBit + code else code

/-- binary32 to BF16 (R255). -/
def toBf16 (x : Word) : BitVec 16 :=
  if f32IsNaN x then 0x7FC0#16
  else if f32IsInf x then BitVec.ofNat 16 (signedCode (f32Neg x) 0x8000 0x7F80)
  else
    let v := f32Value x
    BitVec.ofNat 16 (signedCode v.neg 0x8000 (min (nearestCode 7 (-133) v.m v.e) 0x7F80))

/-- binary32 to FP16 (R255). -/
def toFp16 (x : Word) : BitVec 16 :=
  if f32IsNaN x then 0x7E00#16
  else if f32IsInf x then BitVec.ofNat 16 (signedCode (f32Neg x) 0x8000 0x7C00)
  else
    let v := f32Value x
    BitVec.ofNat 16 (signedCode v.neg 0x8000 (min (nearestCode 10 (-24) v.m v.e) 0x7C00))

/-- BF16 to binary32, exact (R259). -/
def ofBf16 (x : BitVec 16) : Word := x.zeroExtend 32 <<< 16

/-- FP16 to binary32, exact (R259). -/
def ofFp16 (x : BitVec 16) : Word :=
  let mag := x.toNat % 0x8000
  let neg := x.getLsbD 15
  if mag > 0x7C00 then qnan
  else if mag = 0x7C00 then f32Pack neg 0x7F800000
  else
    let v := codeValue 10 (-24) mag
    f32Round ⟨neg, v.1, v.2⟩

/-- binary32 × 2^e to OFP8 E4M3 or E5M2, rounding the exact product once, saturating (R256). -/
def toOfp8 (e5m2 : Bool) (e : Int) (x : Word) : Byte :=
  let top := if e5m2 then 0x7B else 0x7E
  if f32IsNaN x then (if e5m2 then 0x7E#8 else 0x7F#8)
  else if f32IsInf x then BitVec.ofNat 8 (signedCode (f32Neg x) 0x80 top)
  else
    let v := f32Value x
    let code := if e5m2 then nearestCode 2 (-16) v.m (v.e + e) else nearestCode 3 (-9) v.m (v.e + e)
    BitVec.ofNat 8 (signedCode v.neg 0x80 (min code top))

/-- The value of an 8-bit block element, `none` for a NaN and infinities as a code of their own (R253). -/
inductive ElemValue where
  | finite (v : Dyadic)
  | inf (neg : Bool)
  | nan
deriving DecidableEq, Repr

/-- Decode one 8-bit element of a block format or of OFP8 (R253). -/
def elemValue (code : Nat) (b : Byte) : ElemValue :=
  let neg := b.getLsbD 7
  let mag := b.toNat % 0x80
  match code with
  | 0x12 => .finite ⟨neg, b.toInt.natAbs, -6⟩
  | 0x20 => let v := codeValue 3 (-17) b.toNat; .finite ⟨false, v.1, v.2⟩
  | 0x11 =>
    if mag = 0x7C then .inf neg else if mag > 0x7C then .nan
    else let v := codeValue 2 (-16) mag; .finite ⟨neg, v.1, v.2⟩
  | 0x04 =>
    if mag = 0x7C then .inf neg else if mag > 0x7C then .nan
    else let v := codeValue 2 (-16) mag; .finite ⟨neg, v.1, v.2⟩
  | _ => if mag = 0x7F then .nan else let v := codeValue 3 (-9) mag; .finite ⟨neg, v.1, v.2⟩

/-- Decode one element under a power-of-two scale to binary32, exact where in range, ±∞ beyond it (R259). -/
def scaledElem (code : Nat) (k : Int) (b : Byte) : Word :=
  match elemValue code b with
  | .nan => qnan
  | .inf neg => f32Pack neg 0x7F800000
  | .finite v => f32Round ⟨v.neg, v.m, v.e + k⟩

/-- Decode an element of a block whose scale byte is X (R254): scale 0xFF makes every element NaN. -/
def decodeElem (code : Nat) (scale b : Byte) : Word :=
  if scale = 0xFF#8 then qnan else scaledElem code ((scale.toNat : Int) - 127) b

/-- The block scale exponent xs of R257, `none` for a block with a NaN or an infinity. -/
def blockExponent (code : Nat) (xs : List Word) : Option Int :=
  if xs.any (fun x => !f32IsFinite x) then none
  else
    let a := amaxOf xs
    if f32IsZero a then some (-127)
    else
      let v := f32Value a
      some (max (dyLog v.m v.e - emaxOf code) (-127))

/-- round(y) of R258 for one element of a block format, to nearest. -/
def nearestElem (code : Nat) (y : Dyadic) : Byte :=
  match code with
  | 0x12 =>
    let q := min (quantaNearest y.m y.e (-6)) 127
    BitVec.ofInt 8 (if y.neg then -(q : Int) else q)
  | 0x20 => if y.neg then 0#8 else BitVec.ofNat 8 (min (nearestCode 3 (-17) y.m y.e) 0xFF)
  | 0x11 => BitVec.ofNat 8 (signedCode y.neg 0x80 (min (nearestCode 2 (-16) y.m y.e) 0x7B))
  | _ => BitVec.ofNat 8 (signedCode y.neg 0x80 (min (nearestCode 3 (-9) y.m y.e) 0x7E))

/-- round(y) of R261 with a 32-bit draw: up when the draw is below the fraction. -/
def stochasticElem (code : Nat) (y : Dyadic) (draw : BitVec 32) : Byte :=
  if code = 0x12 then
    let f := quantaFloor y.m y.e (-6)
    let q := if 127 ≤ f.1 then 127 else if draw.toNat < f.2 then f.1 + 1 else f.1
    BitVec.ofInt 8 (if y.neg then -(q : Int) else q)
  else if y.neg || y.m = 0 then 0#8
  else
    let q := quantum 3 (-17) y.m y.e
    let f := quantaFloor y.m y.e q
    let lo := (q + 17).toNat * 8 + f.1
    BitVec.ofNat 8 (if 0xFF ≤ lo then 0xFF else if draw.toNat < f.2 then lo + 1 else lo)

/-- y = x × 2^-xs, the exact real value (R257). -/
def unscale (xs : Int) (x : Word) : Dyadic := let v := f32Value x; ⟨v.neg, v.m, v.e - xs⟩

/-- One block to nearest: its scale byte and one byte for each element (R257, R258). -/
def encodeBlock (code : Nat) (xs : List Word) : List Byte :=
  match blockExponent code xs with
  | none => 0xFF#8 :: xs.map (fun _ => 0#8)
  | some k => BitVec.ofInt 8 (k + 127) :: xs.map (fun x => nearestElem code (unscale k x))

/-- One block rounded stochastically, one draw for each element (R261, R262). -/
def encodeBlockDraws (code : Nat) (xs : List Word) (draws : List (BitVec 32)) : List Byte :=
  match blockExponent code xs with
  | none => 0xFF#8 :: xs.map (fun _ => 0#8)
  | some k => BitVec.ofInt 8 (k + 127) :: List.zipWith (fun x d => stochasticElem code (unscale k x) d) xs draws

/-- Elements in a format's bytes, in order (R167, R254): binary32 from each element or block of 33 bytes. -/
def decodeBlocks (code : Nat) : Nat → Nat → List Byte → List Word
  | 0, _, _ => []
  | fuel + 1, n, bs =>
    match n, bs with
    | 0, _ => []
    | _, [] => []
    | n + 1, scale :: rest =>
      let k := min (n + 1) 32
      (rest.take k).map (decodeElem code scale) ++ decodeBlocks code fuel (n + 1 - k) (rest.drop 32)

/-- Pairs of bytes as 16-bit elements. -/
def halves : List Byte → List (BitVec 16)
  | a :: b :: rest => (b ++ a : BitVec 16) :: halves rest
  | _ => []

/-- Fours of bytes as 32-bit words. -/
def words : List Byte → List Word
  | a :: b :: c :: d :: rest => (d ++ (c ++ (b ++ a : BitVec 16) : BitVec 24) : BitVec 32) :: words rest
  | _ => []

/-- n elements of wire bytes in a format as binary32; OFP8 is read under the scale exponent e (R256). -/
def decodeElems (code : Nat) (e : Int) (n : Nat) (bs : List Byte) : List Word :=
  match code with
  | 0x00 => (words bs).take n
  | 0x01 => ((halves bs).map ofBf16).take n
  | 0x02 => ((halves bs).map ofFp16).take n
  | 0x03 => (bs.map (scaledElem 0x03 (-e))).take n
  | 0x04 => (bs.map (scaledElem 0x04 (-e))).take n
  | c => decodeBlocks c n n bs

/-- One block on the wire: completed to 33 bytes with 0x00 (R254). -/
def padBlock (bs : List Byte) : List Byte := bs ++ List.replicate (33 - bs.length) 0#8

/-- A list of binary32 values in a format, to nearest; `pad` completes the last block as the wire does. -/
def encodeElems (code : Nat) (e : Int) (pad : Bool) (xs : List Word) : List Byte :=
  match code with
  | 0x00 => xs.flatMap (fun x => bytesOf x 4)
  | 0x01 => xs.flatMap (fun x => bytesOf (toBf16 x) 2)
  | 0x02 => xs.flatMap (fun x => bytesOf (toFp16 x) 2)
  | 0x03 => xs.map (toOfp8 false e)
  | 0x04 => xs.map (toOfp8 true e)
  | c => (chunks32 xs.length xs).flatMap (fun b => if pad then padBlock (encodeBlock c b) else encodeBlock c b)

/-- expo(a): floor(log2(a)) of a finite non-zero binary32 value (R257). -/
def f32Expo (a : Word) : Int := let v := f32Value a; dyLog v.m v.e

/-- The scale exponent e of a shard from its committed amax history (R266). -/
def scaleExponent (computeFmt margin : Nat) (history : List Word) : Int :=
  let a := amaxOf history
  let ef : Int := if computeFmt = 0x04 then 15 else 8
  let e :=
    if f32IsZero a then 0
    else
      let ea := f32Expo a
      let m := (f32Value a).m
      -- ma > 1.75 where ma = m / 2^floor(log2 m)
      let big := decide (7 * 2 ^ Nat.log2 m < 4 * m)
      ef - ea - (if big then 1 else 0) - (margin : Int)
  min (max e (-127)) 127

/-- SIGN1: 1 when a BF16 element compares greater than +0 (R273). -/
def sign1Bit (x : BitVec 16) : Bool := !x.getLsbD 15 && decide (0 < x.toNat) && decide (x.toNat ≤ 0x7F80)

/-- Bits packed eight to a byte, bit j of byte i being element 8i + j (R183, R273). -/
def packBits : Nat → List Bool → List Byte
  | 0, _ => []
  | n + 1, bits =>
    if bits.isEmpty then []
    else
      BitVec.ofNat 8 ((bits.take 8).foldr (fun b acc => 2 * acc + (if b then 1 else 0)) 0) :: packBits n (bits.drop 8)

/-- The bits of bytes, least significant first. -/
def unpackBits (bs : List Byte) : List Bool :=
  bs.flatMap (fun b => (List.range 8).map (fun j => b.getLsbD j))

/-- A 32-channel block in the ZRL codec (R275): the mask of elements that are not 0x0000, then those elements. -/
def zrlEncode (xs : List (BitVec 16)) : List Byte :=
  let mask := xs.foldr (fun x acc => 2 * acc + (if x = 0#16 then 0 else 1)) 0
  leBytes 4 mask ++ (xs.filter (fun x => x ≠ 0#16)).flatMap (fun x => bytesOf x 2)

/-- The elements that a ZRL mask and value list stand for. -/
def zrlFill : List Bool → List (BitVec 16) → List (BitVec 16)
  | [], _ => []
  | false :: rest, vs => 0#16 :: zrlFill rest vs
  | true :: rest, vs => vs.headD 0#16 :: zrlFill rest vs.tail

/-- A ZRL block decoded (R275). -/
def zrlDecode (bs : List Byte) : List (BitVec 16) := zrlFill (unpackBits (bs.take 4)) (halves (bs.drop 4))

/-- A 32-channel block of BF16 elements in a stash codec (R273 to R275). -/
def stashEncode (codec : Nat) (xs : List (BitVec 16)) : List Byte :=
  match codec with
  | 0x30 => zrlEncode xs
  | 0x31 => packBits xs.length (xs.map sign1Bit)
  | _ => encodeBlock 0x10 (xs.map ofBf16)

/-- Codec bytes of one 32-channel block back to BF16 (R273 to R275). -/
def stashDecode (codec : Nat) (bs : List Byte) : List (BitVec 16) :=
  match codec with
  | 0x30 => zrlDecode bs
  | 0x31 => (unpackBits bs).map (fun b => if b then 0x3F80#16 else 0#16)
  | _ => (decodeBlocks 0x10 1 32 bs).map toBf16

end Sys2Proof.Machine
end

