-- ==== Sys2Proof/Machine/Catalogue.lean ====
section
/-!
DEFINITION. The catalogue of chapter 6: reading its records, the checks of Tables 6-1 to 6-7, shards and homes, the layout
hash, the footprint.
-/
namespace Sys2Proof.Machine

/-- Whether a chip number lies inside a torus (R105). -/
def insideTorus (xSize ySize chip : Nat) : Bool :=
  decide (chip / 4 / 16 < ySize) && decide (chip / 4 % 16 < xSize)

/-- "Finite, at least 0" of Table 6-4. -/
def finiteNonneg (w : Word) : Bool := f32IsFinite w && f32Le 0#32 w

/-- "+0, or positive and finite" of Tables 6-2 and 6-3. -/
def zeroOrPositive (w : Word) : Bool := decide (w = 0#32) || (f32IsFinite w && f32Lt 0#32 w)

/-- "0 ≤ value < 1" of Table 6-3. -/
def unitInterval (w : Word) : Bool := f32Le 0#32 w && f32Lt w f32One

/-- The tenant record in 64 bytes (Table 6-2); SHADOW_SHIFT 0 selects 4, CLEAN_STEPS 0 selects 2,000, VERDICT_TIMEOUT 0
selects 65,000. -/
def parseTenantRec (bs : List Byte) : TenantRec :=
  let flags := BitVec.ofNat 8 (fieldAt bs 0 1)
  let shift := fieldAt bs 4 1
  let clean := fieldAt bs 6 2
  let timeout := fieldAt bs 20 4
  { present := flags.getLsbD 0, strictDead := flags.getLsbD 1, fallbackM8 := flags.getLsbD 2,
    fallbackShadow := flags.getLsbD 3, minShare := fieldAt bs 1 1, stepRoot := fieldAt bs 2 2 % 1024,
    shadowShift := if shift = 0 then 4 else shift, lsInit := signedOf 8 (fieldAt bs 5 1),
    cleanSteps := if clean = 0 then 2000 else clean, seed := BitVec.ofNat 64 (fieldAt bs 8 8),
    globalClip := BitVec.ofNat 32 (fieldAt bs 16 4), verdictTimeout := if timeout = 0 then 65000 else timeout,
    fallbackLimit := fieldAt bs 24 4, bytes := bs.take 64 }

/-- The valid values of Table 6-2 in a PRESENT record. -/
def tenantRecValid (xSize ySize : Nat) (bs : List Byte) : Bool :=
  let r := parseTenantRec bs
  let shift := fieldAt bs 4 1
  let timeout := fieldAt bs 20 4
  decide (1 ≤ r.minShare) && decide (r.minShare ≤ 16) && insideTorus xSize ySize r.stepRoot &&
  (decide (shift = 0) || (decide (2 ≤ shift) && decide (shift ≤ 10))) &&
  decide (-24 ≤ r.lsInit) && decide (r.lsInit ≤ 24) && zeroOrPositive r.globalClip &&
  (decide (timeout = 0) || (decide (100 ≤ timeout) && decide (timeout ≤ 600000)))

/-- The group record in 64 bytes (Table 6-3). -/
def parseGroup (bs : List Byte) : GroupRec :=
  let flags := BitVec.ofNat 8 (fieldAt bs 1 1)
  { rule := fieldAt bs 0 1, drop := flags.getLsbD 0, skipStep := flags.getLsbD 1, global := flags.getLsbD 2,
    allowM8 := flags.getLsbD 3, m1Fmt := fieldAt bs 2 1, m2Fmt := fieldAt bs 3 1, computeFmt := fieldAt bs 4 1,
    margin := fieldAt bs 5 1, expected := fieldAt bs 6 2, quorum := fieldAt bs 8 2, lrSched := fieldAt bs 10 1,
    wdSched := fieldAt bs 11 1, deadline := fieldAt bs 12 4, clip := BitVec.ofNat 32 (fieldAt bs 16 4),
    beta1 := BitVec.ofNat 32 (fieldAt bs 20 4), beta2 := BitVec.ofNat 32 (fieldAt bs 24 4),
    epsilon := BitVec.ofNat 32 (fieldAt bs 28 4), recipe := fieldAt bs 32 1 }

/-- The formats a compute copy may have (Table 6-3). -/
def computeFmtValid (f : Nat) : Bool := decide (f ≤ 4) || (decide (0x10 ≤ f) && decide (f ≤ 0x12))

/-- The valid values of Table 6-3. -/
def groupValid (scheds recipes : Nat) (g : GroupRec) : Bool :=
  decide (g.rule ≤ 7) && (decide (g.m1Fmt = 0) || decide (g.m1Fmt = 0x12)) &&
  (decide (g.m2Fmt = 0) || decide (g.m2Fmt = 0x20)) && computeFmtValid g.computeFmt && decide (g.margin ≤ 15) &&
  decide (1 ≤ g.expected) && decide (g.expected ≤ 4096) && decide (1 ≤ g.quorum) && decide (g.quorum ≤ 256) &&
  decide (g.lrSched < scheds) && (decide (g.wdSched < scheds) || decide (g.wdSched = 0xFF)) &&
  decide (1000 ≤ g.deadline) && decide (g.deadline ≤ 60000000) && zeroOrPositive g.clip && unitInterval g.beta1 &&
  unitInterval g.beta2 && (f32IsFinite g.epsilon && f32Lt 0#32 g.epsilon) && decide (g.recipe < recipes)

/-- The schedule record in 32 bytes (Table 6-4). -/
def parseSched (bs : List Byte) : SchedRec :=
  { kind := fieldAt bs 0 1, base := BitVec.ofNat 32 (fieldAt bs 4 4), final := BitVec.ofNat 32 (fieldAt bs 8 4),
    warmup := fieldAt bs 12 4, total := fieldAt bs 16 4, period := fieldAt bs 20 4,
    gamma := BitVec.ofNat 32 (fieldAt bs 24 4) }

/-- The valid values of Table 6-4. -/
def schedValid (r : SchedRec) : Bool :=
  decide (r.kind ≤ 4) && finiteNonneg r.base && finiteNonneg r.final &&
  (if r.kind = 1 || r.kind = 4 then decide (r.warmup < r.total) && decide (1 ≤ r.total) else true) &&
  (if r.kind = 2 then decide (1 ≤ r.period) && f32Lt 0#32 r.gamma && f32Le r.gamma f32One else true)

/-- The tensor record in 64 bytes (Table 6-5). -/
def parseTensor (bs : List Byte) : TensorRec :=
  let rank := fieldAt bs 4 1
  { id := fieldAt bs 0 2, mask := fieldAt bs 2 1 = 1, group := fieldAt bs 3 1, rank := rank, axis := fieldAt bs 5 1,
    shards := fieldAt bs 6 2, dims := [fieldAt bs 8 4, fieldAt bs 12 4, fieldAt bs 16 4, fieldAt bs 20 4],
    homeStart := fieldAt bs 24 2 % 1024, stride := fieldAt bs 26 2, keepP16 := fieldAt bs 28 2 }

/-- The element count E of R113. -/
def tensorElems (t : TensorRec) : Nat := (t.dims.take t.rank).foldl (· * ·) 1

/-- S of R114: the elements of every shard but perhaps the last. -/
def shardStride (rule : Nat) (t : TensorRec) : Nat :=
  if rule = 7 then ceilDiv (t.dims.headD 0) t.shards * (t.dims.drop 1).headD 0
  else ceilDiv (tensorElems t) (32 * t.shards) * 32

/-- The valid values of Table 6-5 and the shard checks of R114. -/
def tensorValid (xSize ySize : Nat) (groups : List GroupRec) (kindByte : Nat) (t : TensorRec) : Bool :=
  let used := t.dims.take t.rank
  let rule := match groups[t.group]? with | some g => g.rule | none => 0
  decide (kindByte ≤ 1) && decide (1 ≤ t.rank) && decide (t.rank ≤ 4) && used.all (fun d => decide (1 ≤ d)) &&
  (t.dims.drop t.rank).all (fun d => decide (d = 0)) && decide (tensorElems t ≤ 2 ^ 40) &&
  (if t.mask then
     decide (t.group = 0) && decide (t.axis = 0) && decide (t.shards = 0) && decide (t.homeStart = 0) &&
     decide (t.stride = 0) && decide (1 ≤ t.keepP16)
   else
     decide (t.group < groups.length) && decide (t.axis ≤ 3) && decide (1 ≤ t.shards) && decide (t.shards ≤ 1024) &&
     insideTorus xSize ySize t.homeStart && decide (1 ≤ t.stride) && decide (t.stride ≤ 1023) &&
     decide (t.keepP16 = 0) &&
     (if rule = 7 then decide (t.rank = 2) && decide ((t.dims.drop 1).headD 0 % 32 = 0) else true) &&
     decide (shardStride rule t ≤ 2 ^ 32) && decide ((t.shards - 1) * shardStride rule t < tensorElems t))

/-- The site record in 32 bytes (Table 6-7). -/
def parseSite (bs : List Byte) : SiteRec :=
  { id := fieldAt bs 0 2, codec := fieldAt bs 2 1, channels := fieldAt bs 4 4, reserve := fieldAt bs 8 4 }

/-- The valid values of a site (Table 6-7). -/
def siteValid (s : SiteRec) : Bool :=
  (decide (0x30 ≤ s.codec) && decide (s.codec ≤ 0x32)) && decide (32 ≤ s.channels) && decide (s.channels ≤ 65536) &&
  decide (s.channels % 32 = 0) && decide (1 ≤ s.reserve)

/-- The region record in 16 bytes (Table 6-7). -/
def parseRegion (bs : List Byte) : RegionRec :=
  { base := fieldAt bs 0 8, pages := fieldAt bs 8 4, attr := fieldAt bs 12 1 }

/-- The valid values of a region (Table 6-7). -/
def regionValid (r : RegionRec) : Bool :=
  decide (r.base % 2097152 = 0) && decide (1 ≤ r.pages) && decide (r.base + 2097152 * r.pages ≤ 2 ^ 39) &&
  decide (r.attr ≤ 2)

/-- Whether two regions share an address. -/
def regionsOverlap (a b : RegionRec) : Bool :=
  decide (a.base < b.base + 2097152 * b.pages) && decide (b.base < a.base + 2097152 * a.pages)

/-- Whether a relation holds between every earlier and later item. -/
def allPairs {α : Type} (p : α → α → Bool) : List α → Bool
  | [] => true
  | x :: rest => rest.all (p x) && allPairs p rest

/-- Whether a list of numbers rises strictly. -/
def rising : List Nat → Bool
  | a :: b :: rest => decide (a < b) && rising (b :: rest)
  | _ => true

/-- `n` records of `size` bytes from offset `i`. -/
def records (bs : List Byte) (i size : Nat) : Nat → List (List Byte)
  | 0 => []
  | n + 1 => sliceBytes bs i size :: records bs (i + size) size n

/-- A CATALOGUE section of LENGTH `bs.length` for the tenant of its TYPE (R108), or none when a check fails (R100). -/
def parseCatalogue (xSize ySize recipes tenant : Nat) (bs : List Byte) : Option Catalogue :=
  let nG := fieldAt bs 2 2
  let nS := fieldAt bs 4 2
  let nT := fieldAt bs 6 4
  let nSi := fieldAt bs 10 4
  let nR := fieldAt bs 14 2
  let oS := 64 + 64 * nG
  let oT := oS + 32 * nS
  let oSi := oT + 64 * nT
  let oR := oSi + 32 * nSi
  if decide (bs.length < 64) || decide (fieldAt bs 0 1 ≠ tenant) || decide (fieldAt bs 1 1 ≠ 1) || decide (256 < nG) ||
      decide (255 < nS) || decide (65536 < nT) || decide (65536 < nSi) || decide (64 < nR) ||
      decide (bs.length ≠ oR + 16 * nR) then none
  else
    let groups := (records bs 64 64 nG).map parseGroup
    let scheds := (records bs oS 32 nS).map parseSched
    let tBytes := records bs oT 64 nT
    let tensors := tBytes.map parseTensor
    let sites := (records bs oSi 32 nSi).map parseSite
    let regions := (records bs oR 16 nR).map parseRegion
    if groups.all (groupValid nS recipes) && scheds.all schedValid &&
        tBytes.all (fun b => tensorValid xSize ySize groups (fieldAt b 2 1) (parseTensor b)) &&
        rising (tensors.map (·.id)) && sites.all siteValid && rising (sites.map (·.id)) &&
        regions.all regionValid && allPairs (fun a b => !regionsOverlap a b) regions then
      some { groups := groups, scheds := scheds, tensors := tensors, sites := sites, regions := regions, bytes := bs }
    else none

/-- The layout hash of R119 from the tenant record and its CATALOGUE section. -/
def layoutHash (rec : List Byte) (cat : Catalogue) : BitVec 32 :=
  let bs := cat.bytes
  let byte (l : List Byte) (i : Nat) (mask : Byte) : List Byte := [l.getD i 0#8 &&& mask]
  let nG := cat.groups.length
  let oT := 64 + 64 * nG + 32 * cat.scheds.length
  let oSi := oT + 64 * cat.tensors.length
  let oR := oSi + 32 * cat.sites.length
  crc32c
    (sliceBytes bs 2 2 ++ sliceBytes bs 6 10 ++
     byte rec 0 0x0C#8 ++ sliceBytes rec 4 1 ++ sliceBytes rec 24 4 ++
     (records bs 64 64 nG).flatMap (fun g => sliceBytes g 0 1 ++ byte g 1 0x08#8 ++ sliceBytes g 2 3) ++
     (records bs oT 64 cat.tensors.length).flatMap (fun t => sliceBytes t 0 25 ++ byte t 25 0x03#8 ++ sliceBytes t 26 2) ++
     (records bs oSi 32 cat.sites.length).flatMap (fun t => sliceBytes t 0 3 ++ [0#8] ++ sliceBytes t 4 8) ++
     (records bs oR 16 cat.regions.length).flatMap (fun t => sliceBytes t 0 13))

/-- The tensor record of an id. -/
def findTensor (cat : Catalogue) (id : Nat) : Option TensorRec := cat.tensors.find? (fun t => t.id = id)

/-- The site record of an id. -/
def findSite (cat : Catalogue) (id : Nat) : Option SiteRec := cat.sites.find? (fun s => s.id = id)

/-- The group of a PARAM tensor. -/
def groupOf (cat : Catalogue) (t : TensorRec) : Option GroupRec := cat.groups[t.group]?

/-- The update rule of a tensor's group. -/
def ruleOf (cat : Catalogue) (t : TensorRec) : Nat :=
  match groupOf cat t with
  | some g => g.rule
  | none => 0

/-- The element count of shard k (R114). -/
def shardElems (cat : Catalogue) (t : TensorRec) (k : Nat) : Nat :=
  let s := shardStride (ruleOf cat t) t
  min ((k + 1) * s) (tensorElems t) - k * s

/-- The chip number of the home of shard k (R115, Table 6-6). -/
def homeChip (xSize ySize : Nat) (t : TensorRec) (k : Nat) : Nat :=
  let y0 := t.homeStart / 64
  let x0 := t.homeStart / 4 % 16
  let p0 := t.homeStart % 4
  let n := p0 + k * t.stride
  match t.axis with
  | 0 => (y0 * 16 + (x0 + n / 4) % xSize) * 4 + n % 4
  | 1 => ((y0 + n / 4) % ySize * 16 + x0) * 4 + n % 4
  | 2 => (y0 * 16 + (x0 + k * t.stride) % xSize) * 4 + p0
  | _ => ((y0 + k * t.stride) % ySize * 16 + x0) * 4 + p0

/-- The shards of the PARAM tensors of a catalogue, in ascending tensor id and shard index. -/
def allShards (cat : Catalogue) : List (TensorRec × Nat) :=
  (cat.tensors.filter (fun t => !t.mask)).flatMap (fun t => (List.range t.shards).map (fun k => (t, k)))

/-- The shards that a chip homes. -/
def shardsHomedOn (xSize ySize : Nat) (cat : Catalogue) (chip : Nat) : List (TensorRec × Nat) :=
  (allShards cat).filter (fun p => homeChip xSize ySize p.1 p.2 = chip)

/-- Whether a rule keeps a first moment (Table 6-8). -/
def keepsM1 (rule : Nat) : Bool := rule ≠ 0

/-- Whether a rule keeps a second moment (Table 6-8). -/
def keepsM2 (rule : Nat) : Bool := rule = 3 || rule = 4 || rule = 5 || rule = 7

/-- The stored format of an array: 0 master, 1 compute copy, 2 first moment, 3 second moment, 4 accumulator; the moments of
an ALLOW_M8 group are 8-bit when the fallback was applied (R121). -/
def storedFmt (g : GroupRec) (m8 : Bool) (array : Nat) : Nat :=
  match array with
  | 1 => g.computeFmt
  | 2 => if m8 && g.allowM8 then 0x12 else g.m1Fmt
  | 3 => if m8 && g.allowM8 then 0x20 else g.m2Fmt
  | _ => 0

/-- The format that an array's frames may name beside FP32: the stored one. A moment that the rule does not keep has none (R121, R175). -/
def reportedFmt (g : GroupRec) (m8 : Bool) (array : Nat) : Nat :=
  if (array = 2 && !keepsM1 g.rule) || (array = 3 && !keepsM2 g.rule) then 0 else storedFmt g m8 array

/-- Whether a tensor's rule and formats keep an array of their own (Table 6-8). -/
def keepsArray (g : GroupRec) (array : Nat) : Bool :=
  match array with
  | 0 => true
  | 1 => g.computeFmt ≠ 0
  | 2 => keepsM1 g.rule
  | 3 => keepsM2 g.rule
  | _ => false

/-- pg(b) of R120 in pages of 2 MiB. -/
def pagesOf (bytes : Nat) : Nat := ceilDiv bytes 2097152

/-- Pages of one array of a shard of n elements. -/
def arrayPages (g : GroupRec) (m8 : Bool) (n array : Nat) : Nat :=
  if keepsArray g array then pagesOf (storedBytes (storedFmt g m8 array) n) else 0

/-- P(shard) of R120 in pages. -/
def shardPages (g : GroupRec) (m8 : Bool) (n : Nat) : Nat :=
  ((List.range 4).map (arrayPages g m8 n)).sum

/-- Z of R120 in pages: the shadow region in whole frames. -/
def shadowFrames (h shift : Nat) : Nat := h / 2 ^ shift / 2097152

/-- F(c) of R120 in pages. -/
def footprint (xSize ySize : Nat) (cat : Catalogue) (m8 : Bool) (h shift chip : Nat) : Nat :=
  ((shardsHomedOn xSize ySize cat chip).map (fun p =>
    match groupOf cat p.1 with
    | some g => shardPages g m8 (shardElems cat p.1 p.2)
    | none => 0)).sum +
  (cat.sites.map (·.reserve)).sum + (cat.regions.map (·.pages)).sum + shadowFrames h shift

/-- The chips for which F is evaluated: every home of the tenant and every chip of the tray (R120). -/
def footprintChips (xSize ySize tray : Nat) (cat : Catalogue) : List Nat :=
  (allShards cat).map (fun p => homeChip xSize ySize p.1 p.2) ++ (List.range 4).map (fun p => 4 * tray + p)

/-- The excess X of R120 in pages, as an integer. -/
def excess (xSize ySize tray : Nat) (cat : Catalogue) (m8 : Bool) (h shift : Nat) : Int :=
  ((footprintChips xSize ySize tray cat).map (fun c =>
    ((footprint xSize ySize cat m8 h shift c : Nat) : Int) - ((h / 2097152 : Nat) : Int))).foldl max
      (-((h / 2097152 : Nat) : Int))

/-- What loading a tenant comes to (R121): fault 0x53, or loaded with the 8-bit fallback or not and a shadow shift. -/
inductive LoadOutcome where
  | tooLarge (m8 : Bool) (shift : Nat)
  | loaded (m8 : Bool) (shift : Nat)
deriving DecidableEq, Repr

/-- Whether the tenant does not load (fault 0x53). -/
def LoadOutcome.fails : LoadOutcome → Bool
  | .tooLarge _ _ => true
  | .loaded _ _ => false

/-- The steps of R121, in order; a tenant too large for them answers the fallbacks that were tried. -/
def loadOutcome (xSize ySize tray : Nat) (r : TenantRec) (cat : Catalogue) (h : Nat) : LoadOutcome :=
  let x0 := excess xSize ySize tray cat false h r.shadowShift
  if x0 ≤ 0 then .loaded false r.shadowShift
  else if 2 * x0 > (r.fallbackLimit : Int) then .tooLarge false r.shadowShift
  else
    let m8 := r.fallbackM8
    if m8 && decide (excess xSize ySize tray cat true h r.shadowShift ≤ 0) then .loaded true r.shadowShift
    else if r.fallbackShadow && decide (excess xSize ySize tray cat m8 h (r.shadowShift + 1) ≤ 0) then
      .loaded m8 (r.shadowShift + 1)
    else .tooLarge m8 (if r.fallbackShadow then r.shadowShift + 1 else r.shadowShift)

/-- B_t of R299: the ledger need on a chip, in bytes. -/
def ledgerNeed (xSize ySize : Nat) (cat : Catalogue) (chip : Nat) : Nat :=
  ((shardsHomedOn xSize ySize cat chip).map (fun p =>
    let n := shardElems cat p.1 p.2
    let e := match groupOf cat p.1 with | some g => g.expected | none => 0
    64 + 3 * e * ceilDiv (ceilDiv n 4096 + 1) 8)).sum

/-- Q of R111. -/
def quorumOf (g : GroupRec) : Nat := ceilDiv (g.quorum * g.expected) 256

end Sys2Proof.Machine
end

