-- ==== Sys2Proof/Machine/Recipes.lean ====
section
/-!
DEFINITION. The RECIPES section of chapter 19: reading it, and every check that Table 19-6 marks "Loader".
-/
namespace Sys2Proof.Machine

/-- A stage record in 32 bytes (Table 19-3). -/
def parseStage (bs : List Byte) : StageRec :=
  let target := fieldAt bs 14 2
  let flags := BitVec.ofNat 8 (fieldAt bs 10 1)
  { code := fieldAt bs 0 1, arg := fieldAt bs 1 1, ins := (List.range 4).map (fun i => fieldAt bs (2 + i) 1),
    outs := (List.range 4).map (fun i => fieldAt bs (6 + i) 1), shardScale := flags.getLsbD 0, raw := flags.getLsbD 1,
    sync := fieldAt bs 12 2, target := if fieldAt bs 0 1 = 0x12 && decide (target ≠ 0xFFFF) then target % 1024 else target, operand := fieldAt bs 16 4, bound := fieldAt bs 20 4 }

/-- A stream descriptor in 64 bytes (Table 17-1). -/
def parseDesc (bs : List Byte) : DescRec :=
  let mode := fieldAt bs 3 1
  { role := fieldAt bs 0 1, op := fieldAt bs 1 1, space := fieldAt bs 2 1, hint := mode % 4,
    elemSize := 2 ^ (mode / 4 % 4), array := fieldAt bs 4 1, warp := fieldAt bs 5 1, queue := fieldAt bs 6 1,
    surplus := fieldAt bs 7 1, base := fieldAt bs 8 8, count := fieldAt bs 16 4, stride := fieldAt bs 20 4,
    row := fieldAt bs 24 4, pitch := fieldAt bs 28 4, buffer := fieldAt bs 32 4 }

/-- A recipe record (R351). -/
def parseRecipe (bs : List Byte) : Recipe :=
  let nS := fieldAt bs 2 1
  let nD := fieldAt bs 3 1
  { use := fieldAt bs 1 1, prologue := fieldAt bs 4 1, l1 := fieldAt bs 5 1, tile := fieldAt bs 8 4,
    work := fieldAt bs 12 4, stages := (records bs 64 32 nS).map parseStage,
    descs := (records bs (64 + 32 * nS) 64 nD).map parseDesc }

/-- The valid values of Table 17-1 for descriptor `i` of a recipe. -/
def descValid (r : Recipe) (i : Nat) (d : DescRec) : Bool :=
  decide (d.role ≤ 2) && decide (d.op ≤ 3) && (decide (d.role ≠ 1) || decide (d.op = 0)) && decide (d.space ≤ 2) &&
  (decide (d.op ≠ 3) || decide (d.space = 0)) &&
  (if d.space = 2 then decide (d.array ≤ 4) else decide (d.array = 0)) &&
  (if d.role = 2 then
     decide (d.warp < i) && (match r.descs[d.warp]? with | some w => decide (w.role = 1) | none => false)
   else decide (d.warp = 0xFF)) &&
  decide (d.queue ≤ 15) && decide (d.surplus ≤ 14) &&
  (match d.space with
   | 0 => decide (d.base < (8 - r.l1) * 524288)
   | 1 => decide (d.base < 2 ^ 39)
   | _ => decide (d.base < 2 ^ 34)) &&
  (if d.role = 2 then decide (d.count = 0) else decide (1 ≤ d.count)) && decide (d.stride % d.elemSize = 0) &&
  decide (d.row % 128 = 0) && decide (d.pitch % 128 = 0) && decide (128 ≤ d.buffer) && decide (d.buffer ≤ 262144) &&
  decide (d.buffer % 128 = 0)

/-- Whether a stage names its range by IN0 instead of a handle: PREFETCH, FLUSH, INVALIDATE (R353). -/
def isRangeStage (code : Nat) : Bool := code = 0x0E || code = 0x0F || code = 0x10

/-- The descriptors a stage issues as streams: LOAD, STORE, GATHER and SCATTER (Table 19-4). -/
def issuedBy (s : StageRec) : List Nat :=
  match s.code with
  | 0x01 => [s.outs.getD 0 0xFF]
  | 0x02 => [s.outs.getD 0 0xFF]
  | 0x03 => [s.outs.getD 0 0xFF, s.outs.getD 1 0xFF]
  | 0x04 => [s.outs.getD 0 0xFF, s.outs.getD 1 0xFF]
  | _ => []

/-- The descriptors a stage waits on handles of. -/
def handleIns (s : StageRec) : List Nat :=
  if isRangeStage s.code then [] else s.ins.filter (fun x => decide (x < 0xFE))

/-- The descriptors a stage puts data into without issuing them. -/
def handleOuts (s : StageRec) : List Nat := s.outs.filter (fun x => decide (x < 0xFE) && !(issuedBy s).contains x)

/-- Whether a USE's causing frame always carries a payload (R352). -/
def usePayload (u : Nat) : Bool := u = 0 || u = 1 || u = 3 || u = 5 || u = 6 || u = 7

/-- Whether a descriptor index is named, and what it names satisfies `p`. -/
def descHas (r : Recipe) (i : Nat) (p : DescRec → Bool) : Bool :=
  match r.descs[i]? with
  | some d => p d
  | none => false

/-- Table 19-4's conditions on ARG, OPERAND, SYNC, TARGET and the streams of a stage. -/
def stageFields (xSize ySize : Nat) (r : Recipe) (s : StageRec) : Bool :=
  let out (i : Nat) := s.outs.getD i 0xFF
  let arg0 := decide (s.arg = 0)
  let op0 := decide (s.operand = 0)
  let sync0 := decide (s.sync = 0)
  let target0 := decide (s.target = 0)
  let plain := arg0 && op0 && sync0 && target0
  match s.code with
  | 0x01 => plain && descHas r (out 0) (fun d => decide (d.role = 0) && decide (d.op = 0))
  | 0x02 => plain && descHas r (out 0) (fun d => decide (d.role = 0) && decide (1 ≤ d.op))
  | 0x03 => plain && descHas r (out 0) (fun d => decide (d.role = 1)) &&
      descHas r (out 1) (fun d => decide (d.role = 2) && decide (d.op = 0) && decide (d.warp = out 0))
  | 0x04 => plain && descHas r (out 0) (fun d => decide (d.role = 1)) &&
      descHas r (out 1) (fun d => decide (d.role = 2) && decide (1 ≤ d.op) && decide (d.warp = out 0))
  | 0x05 => decide (s.arg ≤ 7) && op0 && sync0 && target0
  | 0x06 => decide (0x30 ≤ s.arg) && decide (s.arg ≤ 0x32) && op0 && sync0 && target0
  | 0x07 => decide (0x30 ≤ s.arg) && decide (s.arg ≤ 0x32) && op0 && sync0 && target0
  | 0x08 => plain && descHas r (out 0) (fun d => decide (d.op = 2))
  | 0x09 => plain
  | 0x0A => plain
  | 0x0B => decide (s.arg ≤ 3) && decide (s.operand < 65536) && sync0 && target0
  | 0x0C => (computeFmtValid s.arg || decide (s.arg = 0x20)) && op0 && sync0 && target0
  | 0x0D => arg0 && sync0 && target0
  | 0x0E => arg0 && sync0 && target0 && descHas r (s.ins.getD 0 0xFF) (fun d => decide (1 ≤ d.space))
  | 0x0F => arg0 && sync0 && target0 && descHas r (s.ins.getD 0 0xFF) (fun d => decide (1 ≤ d.space))
  | 0x10 => arg0 && sync0 && target0 && descHas r (s.ins.getD 0 0xFF) (fun d => decide (1 ≤ d.space))
  | 0x11 => plain
  | 0x12 => decide (s.arg ≤ 3) &&
      (decide (s.target = 0xFFFF) || insideTorus xSize ySize s.target)
  | 0x13 => decide (s.arg = 4) && target0
  | 0x14 => decide (s.arg = 3) && op0 && target0
  | _ => false

/-- IN and OUT name a descriptor, the payload where R352 allows it, or nothing; FLAGS stand only on their stages. -/
def stageNames (r : Recipe) (s : StageRec) : Bool :=
  s.ins.all (fun x => decide (x < r.descs.length) || decide (x = 0xFF) || (decide (x = 0xFE) && usePayload r.use)) &&
  s.outs.all (fun x => decide (x < r.descs.length) || decide (x = 0xFF)) &&
  (!s.shardScale || decide (s.code = 0x0D)) && (!s.raw || decide (s.code = 0x0B))

/-- The slots of an UPDATE stage (R353): IN0 to IN3 master, moments, accumulator, OUT0 to OUT3 master, moments, copy. -/
def updateSlots (r : Recipe) (copyNeeded : Bool) (s : StageRec) : Bool :=
  let slot (i array : Nat) := descHas r i (fun d => decide (d.space = 2) && decide (d.array = array))
  let inAt (i : Nat) := s.ins.getD i 0xFF
  let outAt (i : Nat) := s.outs.getD i 0xFF
  let moment (keeps : Bool) (i array : Nat) := if keeps then slot i array else decide (i = 0xFF)
  slot (inAt 0) 0 && moment (keepsM1 s.arg) (inAt 1) 2 && moment (keepsM2 s.arg) (inAt 2) 3 && slot (inAt 3) 4 &&
  slot (outAt 0) 0 && moment (keepsM1 s.arg) (outAt 1) 2 && moment (keepsM2 s.arg) (outAt 2) 3 &&
  (slot (outAt 3) 1 || (decide (outAt 3 = 0xFF) && !copyNeeded))

/-- Cycles per element of a rule (Table 11-2): with 8-bit moments, and raised to the recompute cost of R234. -/
def updateCost (rule : Nat) (m8 recompute : Bool) : Nat :=
  let base :=
    match rule with
    | 0 => 6
    | 1 => if m8 then 11 else 7
    | 2 => if m8 then 12 else 8
    | 5 => if m8 then 22 else 19
    | 6 => if m8 then 15 else 11
    | _ => if m8 then 20 else 16
  if recompute && !(!m8 && (rule = 3 || rule = 4 || rule = 7)) then base + 1 else base

/-- The least BOUND of a stage (Table 19-4) with m taken as TILE; the groups that name the recipe set UPDATE's cost. -/
def leastBound (r : Recipe) (groups : List GroupRec) (s : StageRec) : Nat :=
  let l := ceilDiv r.tile 128
  match s.code with
  | 0x01 => 80
  | 0x02 => 80
  | 0x03 => 96
  | 0x04 => 96
  | 0x05 =>
    let m8 := groups.any (fun g => decide (g.m1Fmt = 0x12) || decide (g.m2Fmt = 0x20) || g.allowM8)
    64 + updateCost s.arg m8 (groups.any (·.global)) * l
  | 0x06 => 64 + (match s.arg with | 0x30 => 3 | 0x31 => 1 | _ => 2) * l
  | 0x07 => 64 + (match s.arg with | 0x30 => 3 | _ => 1) * l
  | 0x08 => 64 + l
  | 0x09 => 64 + 2 * l
  | 0x0A => 64 + l
  | 0x0B => 64 + 10 * l
  | 0x0C =>
    let c := if r.use = 3 then 4 else if r.use = 4 then 2 else if s.arg ≤ 4 then 1 else if s.arg = 0x20 then 4 else 2
    64 + c * l
  | 0x0D => 64 + l
  | 0x0E => 64 + 2 * s.operand
  | 0x0F => 64 + 2 * s.operand
  | 0x10 => 64 + 2 * s.operand
  | 0x11 => 2464
  | _ => 1200

/-- Conditions 1 to 3 of R325 over the stages in order, with the streams issued so far: inputs and outputs come from
streams issued before, and no stage waits on a stream with more than one earlier handle unreleased. -/
def streamOrder : List Nat → List StageRec → Bool
  | _, [] => true
  | seen, s :: rest =>
    (handleIns s).all (fun i => seen.contains i && decide ((handleIns s).count i ≤ 2)) &&
    (handleOuts s).all (fun o => seen.contains o) && streamOrder (issuedBy s ++ seen) rest

/-- Condition 4 of R325: no descriptor is issued twice. -/
def issuedOnce (r : Recipe) : Bool := decide ((r.stages.flatMap issuedBy).Nodup)

/-- R354: a SPACE 2 store belongs to the UPDATE stage's slots of an update recipe, to REDUCE_ADD of the accumulator (kind 0), or to INIT. -/
def space2Stores (r : Recipe) : Bool :=
  r.use = 3 ||
  (List.range r.descs.length).all (fun i =>
    descHas r i (fun d =>
      !(decide (d.space = 2) && (decide (d.op = 1) || decide (d.op = 2))) ||
      (decide (r.use = 12) && r.stages.any (fun s => decide (s.code = 0x05) && s.outs.contains i)) ||
      (decide (r.use = 0) && decide (d.array = 4) &&
        r.stages.any (fun s => decide (s.code = 0x08) && s.outs.contains i))))

/-- The core stages that Table 19-1 requires of a recipe of a kind. -/
def coreStages (kind : Nat) (r : Recipe) : Bool :=
  let takesPayload (s : StageRec) := s.ins.contains 0xFE
  let onAcc (s : StageRec) := (handleIns s).any (fun i => descHas r i (fun d => decide (d.space = 2) && decide (d.array = 4)))
  let sends := r.descs.any (fun d => decide (d.op = 3))
  let has (p : StageRec → Bool) := r.stages.any p
  match kind with
  | 0 => has (fun s => decide (s.code = 0x08) && takesPayload s)
  | 1 => sends
  | 2 => has (fun s => decide (s.code = 0x09) && onAcc s) && has (fun s => decide (s.code = 0x0A) && onAcc s)
  | 3 => has (fun s => decide (s.code = 0x0C) && takesPayload s)
  | 4 => has (fun s => decide (s.code = 0x0C)) && sends
  | 5 => has (fun s => decide (s.code = 0x06) && decide (s.arg = 0x30) && takesPayload s)
  | 6 => has (fun s => decide (s.code = 0x06) && decide (s.arg = 0x31) && takesPayload s)
  | 7 => has (fun s => decide (s.code = 0x06) && decide (s.arg = 0x32) && takesPayload s)
  | 8 => sends && has (fun s => decide (s.code = 0x07) && decide (s.arg = 0x30))
  | 9 => sends && has (fun s => decide (s.code = 0x07) && decide (s.arg = 0x31))
  | 10 => sends && has (fun s => decide (s.code = 0x07) && decide (s.arg = 0x32))
  | 11 => has (fun s => decide (s.code = 0x0B) && decide (s.arg = 0)) && sends
  | _ => false

/-- Every check of one recipe that Table 19-6 gives the loader; `groups` are the groups that name it. -/
def recipeValid (xSize ySize : Nat) (groups : List GroupRec) (bs : List Byte) (r : Recipe) : Bool :=
  let copyNeeded := groups.any (fun g => decide (g.computeFmt ≠ 0))
  decide (fieldAt bs 0 1 = 1) && decide (r.use ≤ 12) && decide (1 ≤ r.stages.length) && decide (r.stages.length ≤ 32) &&
  decide (r.descs.length ≤ 32) && decide (r.prologue < r.stages.length) && decide (r.l1 ≤ 8) &&
  (r.stages.take r.prologue).all (fun s => decide (s.code = 0x01) || decide (s.code = 0x03)) &&
  decide (r.tile % 4096 = 0) && decide (4096 ≤ r.tile) && decide (r.tile ≤ 16777216) && decide (r.work % 128 = 0) &&
  decide (bs.length = 64 + 32 * r.stages.length + 64 * r.descs.length) &&
  (List.range r.descs.length).all (fun i => descHas r i (descValid r i)) &&
  r.stages.all (fun s =>
    stageNames r s && stageFields xSize ySize r s && decide (leastBound r groups s ≤ s.bound) &&
    (decide (s.code ≠ 0x05) || updateSlots r copyNeeded s)) &&
  streamOrder [] r.stages && issuedOnce r && space2Stores r

/-- Each group's UPDATE_RECIPE is a USE 12 recipe with exactly one UPDATE, of the group's rule (Table 19-1). -/
def updateRecipeValid (recipes : List Recipe) (g : GroupRec) : Bool :=
  match recipes[g.recipe]? with
  | some r =>
    decide (r.use = 12) && decide ((r.stages.filter (fun s => decide (s.code = 0x05))).length = 1) &&
    r.stages.all (fun s => decide (s.code ≠ 0x05) || decide (s.arg = g.rule))
  | none => false

/-- The RECIPES section's binds and records, or none where its own layout breaks R350. -/
def parseRecipes (bs : List Byte) : Option (List Nat × List (List Byte)) :=
  let n := fieldAt bs 0 2
  if decide (n < 1) || decide (256 < n) || decide (fieldAt bs 2 1 ≠ 1) || decide (bs.length < 64 + 8 * n) then none
  else
    let dir := (records bs 64 8 n).map (fun e => (fieldAt e 0 4, fieldAt e 4 4))
    if dir.all (fun e => decide (e.1 % 64 = 0) && decide (64 + 8 * n ≤ e.1) && decide (e.1 + e.2 ≤ bs.length) &&
          decide (64 ≤ e.2)) &&
        allPairs (fun a b => decide (a.1 + a.2 ≤ b.1) || decide (b.1 + b.2 ≤ a.1)) dir then
      some ((List.range 12).map (fun i => fieldAt bs (32 + i) 1), dir.map (fun e => sliceBytes bs e.1 e.2))
    else none

/-- Whether each BIND names a recipe of its USE that holds its core stages (Table 19-6). -/
def bindsValid (binds : List Nat) (recipes : List Recipe) : Bool :=
  (List.range 12).all (fun k =>
    match recipes[binds.getD k 0]? with
    | some r => decide (r.use = k) && coreStages k r
    | none => false)

end Sys2Proof.Machine
end

