-- ==== Sys2Proof/Machine/Flash.lean ====
section
/-!
DEFINITION. The flash image of chapter 5: the header checks of R96, the directory checks of R100, and the image that comes
of a bank that passes them.
-/
namespace Sys2Proof.Machine

/-- A bank's bytes from its start (R89); an unwritten byte reads 0xFF (R96). -/
def bankBytes (flash : Mem Byte) (bank : Bool) (n : Nat) : List Byte :=
  memRead 0xFF#8 flash (if bank then 0x02000000 else 0) n

/-- The header checks of R96 over a bank's 128 header bytes. -/
def headerOk (h : List Byte) : Bool :=
  let gen := fieldAt h 8 4
  let len := fieldAt h 12 4
  let n := fieldAt h 16 2
  let x := fieldAt h 18 1
  let y := fieldAt h 19 1
  let eth := fieldAt h 22 1 * 256 + fieldAt h 23 1
  decide (fieldAt h 0 4 = 0x4934544F) && decide (fieldAt h 4 1 = 1) && decide (fieldAt h 6 2 = 128) &&
  decide (fieldAt h 124 4 = (crc32c (h.take 124)).toNat) && decide (gen ≠ 0) && decide (gen ≠ 0xFFFFFFFF) &&
  decide (len % 4 = 0) && decide (128 + 16 * n ≤ len) && decide (len ≤ 0x01000000) && decide (2 ≤ n) &&
  decide (n ≤ 32) && decide (1 ≤ x) && decide (x ≤ 16) && decide (1 ≤ y) && decide (y ≤ 16) &&
  !(decide (1 ≤ eth) && decide (eth ≤ 0x05FF))

/-- A directory entry (Table 5-2): TYPE, OFFSET, LENGTH, SECTION_CRC. -/
structure Section where
  type : Nat
  offset : Nat
  length : Nat
  crc : Nat
deriving DecidableEq, Repr

/-- The directory (R98). -/
def directory (img : List Byte) : List Section :=
  (records img 128 16 (fieldAt img 16 2)).map (fun e =>
    { type := fieldAt e 0 2, offset := fieldAt e 4 4, length := fieldAt e 8 4, crc := fieldAt e 12 4 })

/-- Whether a section type is one of Table 5-3. -/
def sectionTypeValid (t : Nat) : Bool :=
  decide (t = 1) || decide (t = 2) || (decide (0x10 ≤ t) && decide (t ≤ 0x17)) || decide (0x8000 ≤ t)

/-- A section's bytes. -/
def sectionBytes (img : List Byte) (s : Section) : List Byte := sliceBytes img s.offset s.length

/-- The checks of R100 that concern the directory itself, and the two CRCs. -/
def directoryOk (img : List Byte) (dir : List Section) : Bool :=
  let len := fieldAt img 12 4
  let count (t : Nat) := (dir.filter (fun s => decide (s.type = t))).length
  dir.all (fun s =>
    sectionTypeValid s.type && decide (128 + 16 * dir.length ≤ s.offset) && decide (s.offset + s.length ≤ len) &&
    decide (s.offset % 64 = 0) && decide (1 ≤ s.length) && decide (s.crc = (crc32c (sectionBytes img s)).toNat) &&
    (decide (s.type ≠ 1) || decide (s.length = 512))) &&
  allPairs (fun a b => decide (a.offset + a.length ≤ b.offset) || decide (b.offset + b.length ≤ a.offset)) dir &&
  decide (count 1 = 1) && decide (count 2 = 1) &&
  (List.range 8).all (fun t => decide (count (0x10 + t) ≤ 1)) &&
  decide (fieldAt img 120 4 = (crc32c ((img.take len).drop 128)).toNat)

/-- The first section of a type. -/
def findSection (dir : List Section) (t : Nat) : Option Section := dir.find? (fun s => decide (s.type = t))

/-- The catalogue of tenant t, where its record is PRESENT exactly when it has a section, and the section is valid. -/
def catalogueOf (img : List Byte) (dir : List Section) (xSize ySize recipes : Nat) (r : TenantRec) (t : Nat) :
    Option (Option Catalogue) :=
  match findSection dir (0x10 + t), r.present with
  | none, false => some none
  | some s, true => (parseCatalogue xSize ySize recipes t (sectionBytes img s)).map some
  | _, _ => none

/-- The catalogues of T0 to T7, or none where one fails. -/
def cataloguesOf (img : List Byte) (dir : List Section) (xSize ySize recipes : Nat) :
    List (Nat × TenantRec) → Option (Tab Nat Catalogue)
  | [] => some []
  | (t, r) :: rest =>
    match catalogueOf img dir xSize ySize recipes r t, cataloguesOf img dir xSize ySize recipes rest with
    | some (some c), some cs => some ((t, c) :: cs)
    | some none, some cs => some cs
    | _, _ => none

/-- The groups of all tenants that name a recipe. -/
def groupsNaming (cats : Tab Nat Catalogue) (i : Nat) : List GroupRec :=
  cats.flatMap (fun p => p.2.groups.filter (fun g => decide (g.recipe = i)))

/-- The image in a bank's first IMAGE_LENGTH bytes when every check of R100 passes (its header has passed R96). -/
def parseImage (img : List Byte) : Option Image :=
  let dir := directory img
  let x := fieldAt img 18 1
  let y := fieldAt img 19 1
  if !directoryOk img dir then none
  else
    match findSection dir 1, findSection dir 2 with
    | some st, some sr =>
      let recs := records (sectionBytes img st) 0 64 8
      let tenants := recs.map parseTenantRec
      match parseRecipes (sectionBytes img sr) with
      | none => none
      | some (binds, recBytes) =>
        let recipes := recBytes.map parseRecipe
        match cataloguesOf img dir x y recipes.length ((List.range 8).zip tenants) with
        | none => none
        | some cats =>
          if recs.all (fun b => !(parseTenantRec b).present || tenantRecValid x y b) &&
              ((List.range recBytes.length).zip recBytes).all (fun p =>
                recipeValid x y (groupsNaming cats p.1) p.2 (parseRecipe p.2)) &&
              bindsValid binds recipes &&
              cats.all (fun p => p.2.groups.all (updateRecipeValid recipes)) then
            some { generation := BitVec.ofNat 32 (fieldAt img 8 4), xSize := x, ySize := y,
                   wrapX := (BitVec.ofNat 8 (fieldAt img 20 1)).getLsbD 0,
                   wrapY := (BitVec.ofNat 8 (fieldAt img 20 1)).getLsbD 1,
                   etherType := BitVec.ofNat 16 (fieldAt img 22 1 * 256 + fieldAt img 23 1), tenants := tenants,
                   catalogues := cats, bind := binds, recipes := recipes, bytes := img }
          else none
    | _, _ => none

end Sys2Proof.Machine
end

