-- ==== Sys2Proof/Machine/Operands.lean ====
section
/-!
DEFINITION. The operand forms of chapters 8 and 9: the 32-byte frame header, frames and their trailer, the route prefix, the
40-byte wire unit, and the control flits. Each is read and built here and nowhere else.
-/
namespace Sys2Proof.Machine

/-! ## The frame header (Table 9-1) -/

/-- The frame types of Table 9-2. -/
def tyGrad : Nat := 0x01
def tyInit : Nat := 0x02
def tyPull : Nat := 0x03
def tyParam : Nat := 0x04
def tyStashPut : Nat := 0x05
def tyStashGet : Nat := 0x06
def tyStashData : Nat := 0x07
def tyMaskGet : Nat := 0x08
def tyMaskData : Nat := 0x09
def tyScaleGet : Nat := 0x0A
def tyScaleData : Nat := 0x0B
def tyStatGet : Nat := 0x0C
def tyStatData : Nat := 0x0D
def tyIndex : Nat := 0x0E
def tyReduce : Nat := 0x10
def tyShardVerdict : Nat := 0x11
def tyVerdict : Nat := 0x12
def tySyncOp : Nat := 0x13
def tySyncAck : Nat := 0x14
def tyTenantDown : Nat := 0x15
def tyDone : Nat := 0x20
def tyFault : Nat := 0x21
def tyStepReport : Nat := 0x22

/-- The bits of FLAGS (R165). -/
def flLate : Nat := 1
def flNonfinite : Nat := 2
def flLast : Nat := 4
def flRetry : Nat := 8
def flCompressed : Nat := 16
def flPiece : Nat := 32
def flFinal : Nat := 64

/-- A frame header, field by field (Table 9-1). -/
structure Hdr where
  version : Nat
  type : Nat
  tenant : Nat
  vc : Nat
  flags : Nat
  tensor : Nat
  shard : Nat
  step : Nat
  source : Nat
  seq : Nat
  offset : Nat
  count : Nat
  format : Nat
  aux : Nat
  dest : Nat
  tag : BitVec 32
deriving DecidableEq, Repr

/-- Read a header (Table 9-1); reserved bits are ignored (R4). -/
def parseHdr (h : BitVec 256) : Hdr :=
  let b (i : Nat) : Nat := (byteOf h i).toNat
  { version := b 0 / 16, type := b 1, tenant := b 2 / 32, vc := b 2 / 8 % 4, flags := b 3 % 128,
    tensor := (u16Of h 4).toNat, shard := (u16Of h 6).toNat, step := (u32Of h 8).toNat, source := (u16Of h 12).toNat,
    seq := (u16Of h 14).toNat, offset := (u32Of h 16).toNat, count := (u32Of h 20).toNat, format := b 24, aux := b 25,
    dest := (u16Of h 26).toNat % 1024, tag := u32Of h 28 }

/-- The 32 bytes of a header (Table 9-1), reserved fields zero (R4). -/
def hdrBytes (h : Hdr) : List Byte :=
  leBytes 1 (h.version * 16) ++ leBytes 1 h.type ++ leBytes 1 (h.tenant * 32 + h.vc * 8) ++ leBytes 1 (h.flags % 128) ++
  leBytes 2 h.tensor ++ leBytes 2 h.shard ++ leBytes 4 h.step ++ leBytes 2 h.source ++ leBytes 2 h.seq ++
  leBytes 4 h.offset ++ leBytes 4 h.count ++ leBytes 1 h.format ++ leBytes 1 h.aux ++ leBytes 2 (h.dest % 1024) ++
  leBytes 4 h.tag.toNat

/-- A header as one number. -/
def packHdr (h : Hdr) : BitVec 256 := packBytes 256 (hdrBytes h)

/-- Whether a flag bit of FLAGS is set (R165). -/
def hasFlag (flags bit : Nat) : Bool := decide (flags / bit % 2 = 1)

/-- The header of a frame. -/
def frameHead (f : Frame) : Hdr := parseHdr f.hdr

/-- The header of a received frame. -/
def rxHead (f : RxFrame) : Hdr := parseHdr f.frame.hdr

/-- Whether a received frame carries a flag. -/
def rxFlag (f : RxFrame) (bit : Nat) : Bool := hasFlag (rxHead f).flags bit

/-- The virtual channel of a frame type (Table 8-5), none for a type it does not list. -/
def vcOfType (type : Nat) : Option Nat :=
  if type = tyGrad || type = tyInit || type = tyPull || type = tyStashPut || type = tyStashGet || type = tyMaskGet ||
     type = tyScaleGet || type = tyStatGet || type = tyIndex then some 1
  else if type = tyReduce || type = tySyncOp then some 2
  else if type = tyDone || type = tyFault || type = tyStepReport || type = tyParam || type = tyStashData ||
     type = tyMaskData || type = tyScaleData || type = tyStatData || type = tyShardVerdict || type = tyVerdict ||
     type = tySyncAck || type = tyTenantDown then some 0
  else none

/-- Whether a type is a host request: "Host → home" or "Host → chip" in Table 9-2. -/
def isHostRequest (type : Nat) : Bool :=
  type = tyGrad || type = tyInit || type = tyPull || type = tyStashPut || type = tyStashGet || type = tyMaskGet ||
  type = tyScaleGet || type = tyStatGet || type = tyIndex

/-- Whether a type is listed in Table 9-2. -/
def isListedType (type : Nat) : Bool := (vcOfType type).isSome

/-- The trailer of a frame: CRC-32C over header and payload (section 9.1, R94). -/
def frameTrailer (hdr : BitVec 256) (payload : List Byte) : BitVec 32 := crc32c (bytesOf hdr 32 ++ payload)

/-- A frame built from a header and a payload. -/
def mkFrame (h : Hdr) (payload : List Byte) : Frame :=
  { hdr := packHdr h, payload := payload, trailer := frameTrailer (packHdr h) payload }

/-- Flits of a frame with a payload of L bytes on a host link (R143). -/
def flitsOf (payloadBytes : Nat) : Nat := 1 + ceilDiv (payloadBytes + 4) 32

/-- Bytes with which R129 charges a frame: header, payload and trailer. -/
def chargeBytes (f : Frame) : Nat := 36 + f.payload.length

/-- The payload length L of R168 by Table 9-2, where it is defined: by type, with FORMAT where the size depends on it (Table
9-3), and with the counts that VERDICT and STEP_REPORT payloads carry themselves. -/
def payloadLen (h : Hdr) (body : List Byte) : Option Nat :=
  if h.type = tyGrad || h.type = tyInit || h.type = tyReduce || h.type = tyParam || h.type = tyStashData then
    wireBytes h.format h.count
  else if h.type = tyStashPut then some (2 * h.count)
  else if h.type = tyIndex then some (4 * h.count)
  else if h.type = tyPull || h.type = tyStashGet || h.type = tyMaskGet || h.type = tyScaleGet || h.type = tyStatGet then
    some 0
  else if h.type = tyMaskData then some (ceilDiv h.count 8)
  else if h.type = tyScaleData then some 80
  else if h.type = tyStatData then
    some (match h.aux with | 0 => 256 | 1 => 128 | 2 => 512 | _ => 2048)
  else if h.type = tyShardVerdict then some 528
  else if h.type = tyVerdict then some (16 + 2 * fieldAt body 6 2)
  else if h.type = tySyncOp || h.type = tySyncAck || h.type = tyTenantDown || h.type = tyDone then some 16
  else if h.type = tyFault then some 32
  else if h.type = tyStepReport then some (64 + 16 * fieldAt body 12 2)
  else none

/-! ## The route prefix (Table 8-11) -/

/-- A prefix as the bytes of its flit. -/
def prefixBytes (p : Prefix) : List Byte :=
  let b (x : Bool) (k : Nat) : Nat := if x then k else 0
  leBytes 1 p.version.toNat ++ leBytes 1 p.hops.toNat ++ leBytes 2 p.originChip.toNat ++ leBytes 1 p.originPort.toNat ++
  leBytes 1 (b p.dl 1 + b p.detourX 2 + b p.detourY 4 + b p.dirX 8 + b p.dirY 16) ++ leBytes 2 p.targetChip.toNat ++
  leBytes 1 p.targetPort.toNat ++ List.replicate 23 0#8

/-- Read a prefix flit. -/
def parsePrefix (x : BitVec 256) : Prefix :=
  let fl := byteOf x 5
  { version := byteOf x 0, hops := byteOf x 1, originChip := (u16Of x 2).setWidth 10, originPort := byteOf x 4,
    dl := fl.getLsbD 0, detourX := fl.getLsbD 1, detourY := fl.getLsbD 2, dirX := fl.getLsbD 3, dirY := fl.getLsbD 4,
    targetChip := (u16Of x 6).setWidth 10, targetPort := byteOf x 8 }

/-- The prefix with which a chip sends a frame it originates (Table 8-11): ORIGIN_PORT 0x3F. -/
def newPrefix (chip port target targetPort : Nat) : Prefix :=
  { version := 0x01#8, hops := 0#8, originChip := BitVec.ofNat 10 chip, originPort := BitVec.ofNat 8 port, dl := false,
    detourX := false, detourY := false, dirX := false, dirY := false, targetChip := BitVec.ofNat 10 target,
    targetPort := BitVec.ofNat 8 targetPort }

/-! ## The wire unit (Table 8-2) -/

/-- A wire unit's tag and content. -/
structure Unit40 where
  kind : Nat
  vc : Nat
  sof : Bool
  eof : Bool
  dl : Bool
  tenant : Nat
  seq : Nat
  content : BitVec 256
deriving DecidableEq, Repr

/-- The 36 bytes under the CRC. -/
def unitBytes (u : Unit40) : List Byte :=
  let b (x : Bool) (k : Nat) : Nat := if x then k else 0
  leBytes 1 (u.kind + 4 * u.vc + b u.sof 16 + b u.eof 32 + b u.dl 64) ++ leBytes 1 u.tenant ++ leBytes 2 u.seq ++
  bytesOf u.content 32

/-- A wire unit with its CRC (R142). -/
def packUnit (u : Unit40) : BitVec 320 :=
  packBytes 320 (unitBytes u ++ bytesOf (crc32c (unitBytes u)) 4)

/-- Read a wire unit (Table 8-2). -/
def parseUnit (x : BitVec 320) : Unit40 :=
  let t := byteOf x 0
  { kind := t.toNat % 4, vc := t.toNat / 4 % 4, sof := t.getLsbD 4, eof := t.getLsbD 5, dl := t.getLsbD 6,
    tenant := (byteOf x 1).toNat % 8, seq := (u16Of x 2).toNat, content := x.extractLsb' 32 256 }

/-- Whether a unit's CRC passes; KIND 3 is treated as a failure (R142, Table 8-2). -/
def unitOk (x : BitVec 320) : Bool :=
  decide (crc32c (bytesOf x 36) = u32Of x 36) && decide ((parseUnit x).kind ≠ 3)

/-! ## Control flits (Tables 8-3, 8-4, 8-8) -/

/-- The four pool-report CLASS values of Table 8-4. -/
def creditClassOk (cls : Nat) : Bool := cls = 1 || cls = 2 || cls = 5 || cls = 6

/-- HELLO or HELLO_ACK content (Table 8-8). -/
structure HelloContent where
  ctype : Nat
  role : Nat
  chip : Nat
  port : Nat
  mode : Nat
  xSize : Nat
  ySize : Nat
  wrap : Nat
  epoch : BitVec 32
  nonce : BitVec 32
deriving DecidableEq, Repr

/-- Read a HELLO or HELLO_ACK (Table 8-8); reserved bits are ignored. -/
def parseHello (x : BitVec 256) : HelloContent :=
  let b (i : Nat) : Nat := (byteOf x i).toNat
  { ctype := b 0, role := b 1, chip := (u16Of x 2).toNat % 1024, port := b 4 % 64, mode := b 5, xSize := b 6, ySize := b 7,
    wrap := b 8 % 4, epoch := u32Of x 12, nonce := u32Of x 16 }

/-- Build a HELLO or HELLO_ACK (Table 8-8). -/
def packHello (h : HelloContent) : BitVec 256 :=
  packBytes 256
    (leBytes 1 h.ctype ++ leBytes 1 h.role ++ leBytes 2 h.chip ++ leBytes 1 h.port ++ leBytes 1 h.mode ++
     leBytes 1 h.xSize ++ leBytes 1 h.ySize ++ leBytes 1 h.wrap ++ leBytes 3 0 ++ leBytes 4 h.epoch.toNat ++
     leBytes 4 h.nonce.toNat)

/-- A control flit on the wire (Table 8-2). -/
def controlUnit (content : BitVec 256) : BitVec 320 :=
  packUnit { kind := 2, vc := 0, sof := false, eof := false, dl := false, tenant := 0, seq := 0, content := content }

/-- A NAK for an expected SEQ (Table 8-3). -/
def nakContent (expected : Nat) : BitVec 256 := packBytes 256 (leBytes 2 0x02 ++ leBytes 2 expected)

end Sys2Proof.Machine
end

