-- ==== Sys2Proof/Machine/Rng.lean ====
section
/-!
DEFINITION. The two generators of chapter 15: the index-keyed generator and the free-running lane generator, all on 64-bit
integers modulo 2^64 (R281).
-/
namespace Sys2Proof.Machine

/-- mix(z) of R282. -/
def rngMix (z : BitVec 64) : BitVec 64 :=
  let z := z ^^^ (z >>> 31)
  let z := z * 0xC7A15E3B94D20F6D#64
  let z := z ^^^ (z >>> 29)
  let z := z * 0x8B3F61E92A7CD519#64
  z ^^^ (z >>> 32)

/-- The constant G of R283. -/
def rngG : BitVec 64 := 0xB5AD4ECEDA1CE2A9#64

/-- The key of R283 for a seed, step, tensor id and purpose. -/
def rngKey (seed : BitVec 64) (step tensor purpose : Nat) : BitVec 64 :=
  let w1 := BitVec.ofNat 64 step <<< 32 ||| BitVec.ofNat 64 tensor <<< 16 ||| BitVec.ofNat 64 purpose <<< 8
  rngMix (seed ^^^ rngMix (w1 + rngG))

/-- value(i) of R283. -/
def rngValue (seed : BitVec 64) (step tensor purpose i : Nat) : BitVec 32 :=
  (rngMix (rngKey seed step tensor purpose + BitVec.ofNat 64 i * rngG)).extractLsb' 32 32

/-- Whether drop-out keeps element i (R285). -/
def maskKeeps (seed : BitVec 64) (step tensor keepP16 i : Nat) : Bool :=
  decide ((rngValue seed step tensor 0 i).toNat < keepP16 * 65536)

/-- The multiplier of R287. -/
def laneMul : BitVec 64 := 0x9E6C63D0676A9A99#64

/-- The increment of R287. -/
def laneInc : BitVec 64 := 0x000000006F3A2C8B#64

/-- The lane state after one draw (R287). -/
def laneNext (s : BitVec 64) : BitVec 64 := s * laneMul + laneInc

/-- The draw that the new state gives (R287). -/
def laneDraw (s : BitVec 64) : BitVec 32 := (s ^^^ (s >>> 29)).extractLsb' 32 32

/-- Skip-ahead of R290, bit by bit of n from bit 0, squaring the jump of Table 15-2 as it goes. -/
def skipFrom : Nat → BitVec 64 × BitVec 64 → Nat → BitVec 64 → BitVec 64
  | 0, _, _, s => s
  | k + 1, (a, c), n, s =>
    skipFrom k (a * a, c * (a + 1#64)) (n / 2) (if n % 2 = 1 then a * s + c else s)

/-- skip(s, n) of R290 over the 64 entries of the jump table. -/
def laneSkip (s : BitVec 64) (n : Nat) : BitVec 64 := skipFrom 64 (laneMul, laneInc) n s

/-- The state with which lane L of a tenant is seeded (R291). -/
def laneSeed (seed : BitVec 64) (lane : Nat) : BitVec 64 := laneSkip seed (lane * 2 ^ 40)

/-- n draws in a row from a state: the draws, first to last, and the state after them (R262). -/
def laneDraws : Nat → BitVec 64 → List (BitVec 32) × BitVec 64
  | 0, s => ([], s)
  | n + 1, s =>
    let s' := laneNext s
    let r := laneDraws n s'
    (laneDraw s' :: r.1, r.2)

end Sys2Proof.Machine
end

