-- ==== Sys2Proof/Machine/Ops.lean ====
section
/-!
DEFINITION. The named operations every command is built from: reaching a chip, a tenant, a port, a cluster, a shard; the
straps' tables; counters; fault records; and sending replies.
-/
namespace Sys2Proof.Machine

/-! ## Reaching parts of the state -/

/-- The chip at a position. -/
def getChip (s : State) (p : Pos) : Chip :=
  match p with
  | 0 => s.chips.a
  | 1 => s.chips.b
  | 2 => s.chips.c
  | 3 => s.chips.d

/-- The four chips with one of them replaced. -/
def putChip (x : Chips) (p : Pos) (c : Chip) : Chips :=
  match p with
  | 0 => { x with a := c }
  | 1 => { x with b := c }
  | 2 => { x with c := c }
  | 3 => { x with d := c }

/-- The state with the chip at a position replaced. -/
def setChip (s : State) (p : Pos) (c : Chip) : State := { s with chips := putChip s.chips p c }

/-- The state with one chip changed. -/
def modChip (s : State) (p : Pos) (f : Chip → Chip) : State := setChip s p (f (getChip s p))

/-- The state with every chip changed, each by its position. -/
def mapChips (s : State) (f : Pos → Chip → Chip) : State :=
  { s with chips := { a := f 0 s.chips.a, b := f 1 s.chips.b, c := f 2 s.chips.c, d := f 3 s.chips.d } }

/-- Whether something holds of all four chips. -/
def allChips (s : State) (p : Chip → Bool) : Bool := p s.chips.a && p s.chips.b && p s.chips.c && p s.chips.d

/-- Whether something holds of any chip. -/
def anyChip (s : State) (p : Chip → Bool) : Bool := p s.chips.a || p s.chips.b || p s.chips.c || p s.chips.d

/-- The state with the keeper changed. -/
def modTray (s : State) (f : Tray → Tray) : State := { s with tray := f s.tray }

/-- Tenant t's context on a chip. -/
def ten (c : Chip) (t : Nat) : TenantCtx := tabGet .reset c.tenants t

/-- The chip with tenant t's context replaced. -/
def setTen (c : Chip) (t : Nat) (x : TenantCtx) : Chip := { c with tenants := tabSet c.tenants t x }

/-- The chip with tenant t's context changed. -/
def modTen (c : Chip) (t : Nat) (f : TenantCtx → TenantCtx) : Chip := setTen c t (f (ten c t))

/-- A port of a chip. -/
def portOf (c : Chip) (p : PortNo) : Port := tabGet .reset c.ports p

/-- The chip with a port replaced. -/
def setPort (c : Chip) (p : PortNo) (x : Port) : Chip := { c with ports := tabSet c.ports p x }

/-- The chip with a port changed. -/
def modPort (c : Chip) (p : PortNo) (f : Port → Port) : Chip := setPort c p (f (portOf c p))

/-- A cluster of a chip. -/
def clusterOf (c : Chip) (k : ClusterNo) : Cluster := tabGet .reset c.clusters k

/-- The chip with a cluster replaced. -/
def setCluster (c : Chip) (k : ClusterNo) (x : Cluster) : Chip := { c with clusters := tabSet c.clusters k x }

/-- The chip with a cluster changed. -/
def modCluster (c : Chip) (k : ClusterNo) (f : Cluster → Cluster) : Chip := setCluster c k (f (clusterOf c k))

/-- The chip's wake record changed. -/
def modWake (c : Chip) (f : Wake → Wake) : Chip := { c with wake := f c.wake }

/-- A shard of a tenant at this chip. -/
def shardOf (x : TenantCtx) (tensor shard : Nat) : Shard := tabGet .reset x.shards (tensor, shard)

/-- The tenant with a shard replaced. -/
def setShard (x : TenantCtx) (tensor shard : Nat) (h : Shard) : TenantCtx :=
  { x with shards := tabSet x.shards (tensor, shard) h }

/-- The tenant with a shard changed. -/
def modShard (x : TenantCtx) (tensor shard : Nat) (f : Shard → Shard) : TenantCtx :=
  setShard x tensor shard (f (shardOf x tensor shard))

/-- A shard's record of a step. -/
def stepOf (h : Shard) (step : Nat) : ShardStep := tabGet .reset h.steps step

/-- The shard with a step's record replaced. -/
def setStep (h : Shard) (step : Nat) (r : ShardStep) : Shard := { h with steps := tabSet h.steps step r }

/-- The shard with a step's record changed. -/
def modStep (h : Shard) (step : Nat) (f : ShardStep → ShardStep) : Shard := setStep h step (f (stepOf h step))

/-- The tenant with one shard's step record changed. -/
def modShardStep (x : TenantCtx) (tensor shard step : Nat) (f : ShardStep → ShardStep) : TenantCtx :=
  modShard x tensor shard (fun h => modStep h step f)

/-- A tenant's record of a step. -/
def stepRec (x : TenantCtx) (step : Nat) : StepRec := tabGet .reset x.steps step

/-- The tenant with its record of a step changed. -/
def modStepRec (x : TenantCtx) (step : Nat) (f : StepRec → StepRec) : TenantCtx :=
  { x with steps := tabSet x.steps step (f (stepRec x step)) }

/-- A sync object of a chip. -/
def syncObj (c : Chip) (n : Nat) : SyncObj := tabGet .reset c.sync n

/-- The chip with a sync object replaced. -/
def setSync (c : Chip) (n : Nat) (o : SyncObj) : Chip := { c with sync := tabSet c.sync n o }

/-! ## The straps' tables (chapter 3) -/

/-- Shares in sixteenths of a TENLAYOUT code, T0 first (Table 3-3); none for a reserved code. -/
def tenlayoutShares (code : Nat) : List Nat :=
  match code with
  | 0 => [16]
  | 15 => [16]
  | 1 => [8, 8]
  | 2 => [12, 4]
  | 3 => [8, 4, 4]
  | 4 => [6, 5, 5]
  | 5 => [4, 4, 4, 4]
  | 6 => [10, 2, 2, 2]
  | 7 => [4, 4, 4, 2, 2]
  | 8 => [4, 4, 2, 2, 2, 2]
  | 9 => [4, 2, 2, 2, 2, 2, 2]
  | 10 => [2, 2, 2, 2, 2, 2, 2, 2]
  | 11 => [14, 2]
  | 12 => [12, 2, 2]
  | _ => []

/-- Read, write and remote percentages of a BWSPLIT code (Table 3-4). -/
def bwsplitShares (code : Nat) : Option (Nat × Nat × Nat) :=
  match code with
  | 0 => some (50, 30, 20)
  | 15 => some (50, 30, 20)
  | 1 => some (60, 30, 10)
  | 2 => some (40, 40, 20)
  | 3 => some (45, 25, 30)
  | 4 => some (55, 35, 10)
  | 5 => some (40, 30, 30)
  | 6 => some (35, 35, 30)
  | 7 => some (70, 20, 10)
  | _ => none

/-- The modes of P24–P27 and P28–P31 of a PORTMODE_H code (Table 3-5). -/
def portModeH (code : Nat) : Option (PortMode × PortMode) :=
  match code with
  | 0 => some (.native, .native)
  | 15 => some (.native, .native)
  | 1 => some (.ethernet, .ethernet)
  | 2 => some (.native, .ethernet)
  | 3 => some (.off, .off)
  | _ => none

/-- The modes of east, west, north and south of a PORTMODE_T code (Table 3-6). -/
def portModeT (code : Nat) : PortMode × PortMode × PortMode × PortMode :=
  match code with
  | 0 => (.native, .native, .native, .native)
  | 15 => (.native, .native, .native, .native)
  | 1 => (.ethernet, .ethernet, .ethernet, .ethernet)
  | 3 => (.native, .native, .off, .off)
  | 4 => (.ethernet, .ethernet, .off, .off)
  | 5 => (.off, .off, .native, .native)
  | 6 => (.off, .off, .ethernet, .ethernet)
  | 7 => (.ethernet, .ethernet, .native, .native)
  | 8 => (.native, .native, .ethernet, .ethernet)
  | 9 => (.ethernet, .native, .native, .native)
  | 10 => (.native, .ethernet, .native, .native)
  | 11 => (.native, .native, .ethernet, .native)
  | 12 => (.native, .native, .native, .ethernet)
  | 13 => (.ethernet, .native, .off, .off)
  | 14 => (.native, .ethernet, .off, .off)
  | _ => (.off, .off, .off, .off)

/-- A latched ladder code, 0 where it was unstable (no Spring goes on with one, R55). -/
def codeOf (x : Option (Fin 16)) : Nat :=
  match x with
  | some v => v.val
  | none => 0

/-- The latched shares of a chip. -/
def sharesOf (c : Chip) : List Nat := tenlayoutShares (codeOf c.wake.latched.tenlayout)

/-- How many tenants exist under the latched TENLAYOUT (R58). -/
def tenantCount (c : Chip) : Nat := (sharesOf c).length

/-- w_t, 0 for a tenant that does not exist. -/
def shareOf (c : Chip) (t : Nat) : Nat := (sharesOf c).getD t 0

/-- W_t of R123. -/
def shareBase (c : Chip) (t : Nat) : Nat := ((sharesOf c).take t).sum

/-- Whether tenant t exists (R58, R126). -/
def tenantExists (c : Chip) (t : Nat) : Bool := decide (t < tenantCount c)

/-- H_t of R123 in bytes. -/
def regionSizeOf (c : Chip) (t : Nat) : Nat := shareOf c t * 6442450944

/-- The base of tenant t's HBM region (R123). -/
def regionBaseOf (c : Chip) (t : Nat) : Nat := shareBase c t * 6442450944

/-- The chip's position on its tray as latched. -/
def posOf (c : Chip) : Nat :=
  match c.wake.latched.chippos with
  | some p => p.toNat
  | none => 0

/-- The tray number in use: 0 for a torus of one tray, else y and x as latched (section 0.5, R57, R105). -/
def trayOf (c : Chip) : Nat :=
  let latched := codeOf c.wake.latched.trayidH * 16 + codeOf c.wake.latched.trayidL
  match c.image with
  | some i => if i.xSize = 1 && i.ySize = 1 then 0 else latched
  | none => latched

/-- The chip number in use (section 0.5). -/
def chipNo (c : Chip) : Nat := 4 * trayOf c + posOf c

/-- The torus of the accepted image: X_SIZE and Y_SIZE, 0 and 0 with no image. -/
def torusOf (c : Chip) : Nat × Nat :=
  match c.image with
  | some i => (i.xSize, i.ySize)
  | none => (0, 0)

/-- The tenant record of the accepted image. -/
def tenantRec (c : Chip) (t : Nat) : Option TenantRec :=
  match c.image with
  | some i => i.tenants[t]?
  | none => none

/-- The catalogue of tenant t in the accepted image. -/
def catOf (c : Chip) (t : Nat) : Option Catalogue :=
  match c.image with
  | some i => tabFind i.catalogues t
  | none => none

/-- A tensor record of tenant t. -/
def tensorOf (c : Chip) (t id : Nat) : Option TensorRec :=
  match catOf c t with
  | some cat => findTensor cat id
  | none => none

/-- The group of a PARAM tensor of tenant t. -/
def groupOfTensor (c : Chip) (t id : Nat) : Option GroupRec :=
  match catOf c t with
  | some cat =>
    (match findTensor cat id with
     | some r => if r.mask then none else groupOf cat r
     | none => none)
  | none => none

/-- The element count of a shard of tenant t, 0 where there is none. -/
def elemsOf (c : Chip) (t id shard : Nat) : Nat :=
  match catOf c t with
  | some cat =>
    (match findTensor cat id with
     | some r => if decide (shard < r.shards) then shardElems cat r shard else 0
     | none => 0)
  | none => 0

/-- The home chip of a shard of tenant t. -/
def homeOf (c : Chip) (t id shard : Nat) : Option Nat :=
  match tensorOf c t id with
  | some r =>
    if !r.mask && decide (shard < r.shards) then some (homeChip (torusOf c).1 (torusOf c).2 r shard) else none
  | none => none

/-- The shards of tenant t that this chip homes, as (tensor id, shard index). -/
def homedShards (c : Chip) (t : Nat) : List (Nat × Nat) :=
  match catOf c t with
  | some cat =>
    (shardsHomedOn (torusOf c).1 (torusOf c).2 cat (chipNo c)).map (fun p => (p.1.id, p.2))
  | none => []

/-- The step root of tenant t (Table 6-2). -/
def stepRootOf (c : Chip) (t : Nat) : Nat :=
  match tenantRec c t with
  | some r => r.stepRoot
  | none => 0

/-- VCORE is up on this tray: the chip's core runs (Table 4-3). -/
def coreUp (c : Chip) : Bool :=
  match c.wake.season with
  | .spring => true
  | .summer => true
  | .autumn => true
  | _ => false

/-- The core runs and thermal shutdown has not stopped it (R88). -/
def coreRuns (c : Chip) : Bool := coreUp c && !c.wake.stopped

/-- The SEASON code in force (Table 4-1). -/
def seasonCode (x : Season) : Nat :=
  match x with
  | .spring => 1
  | .summer => 3
  | .autumn => 2
  | _ => 0

/-! ## Counters (R373) -/

/-- Count n events of a device counter (Table 20-3). -/
def countDev (c : Chip) (i n : Nat) : Chip :=
  { c with counters := tabSet c.counters i (satAdd64 (tabGet 0 c.counters i) n) }

/-- Count n events of a tenant counter; a tenant that does not exist has none. -/
def countTen (c : Chip) (t i n : Nat) : Chip :=
  if tenantExists c t then
    modTen c t (fun x => { x with counters := tabSet x.counters i (satAdd64 (tabGet 0 x.counters i) n) })
  else c

/-! ## Fault records (chapter 20) -/

/-- The level of a fault code (Table 20-2). -/
def faultLevel (code : Nat) : Nat :=
  if code = 0x10 || code = 0x11 || code = 0x12 || code = 0x13 || code = 0x15 || code = 0x55 then 0
  else if code = 0x23 || code = 0x53 || code = 0x57 || code = 0x5A || code = 0x83 || code = 0x84 || code = 0x85 then 2
  else if code = 0x14 || code = 0x24 || code = 0x52 || code = 0x59 || code = 0x61 || code = 0x62 || code = 0x72 ||
     code = 0x73 || code = 0x74 || code = 0x75 then 3
  else if code = 0x50 || code = 0x51 || code = 0x54 || code = 0x56 || code = 0x58 || code = 0x63 || code = 0x64 ||
     code = 0x65 || code = 0x70 || code = 0x71 then 4
  else 1

/-- Count one occurrence of a code since the last Spring (R372, R186). -/
def countCode (c : Chip) (code : Nat) : Chip :=
  { c with occurrences := tabSet c.occurrences code (tabGet 0 c.occurrences code + 1) }

/-- Drop the oldest level-0 entry of the list. -/
def dropOldestLevel0 : List FaultRec → List FaultRec
  | [] => []
  | f :: rest => if f.level = 0 then rest else f :: dropOldestLevel0 rest

/-- The page-0 list with one more active code (R372): sixteen entries, a full list giving up its oldest level-0 entry. -/
def listFault (l : List FaultRec) (f : FaultRec) : List FaultRec :=
  if l.any (fun x => decide (x.code = f.code) && decide (x.port = f.port)) then
    l.map (fun x => if x.code = f.code && x.port = f.port then f else x)
  else if l.length < 16 then l ++ [f]
  else if l.any (fun x => decide (x.level = 0)) then dropOldestLevel0 l ++ [f]
  else l

/-- Record a code of level 0, 3 or 4: counted, and listed on page 0 (R372). -/
def recordFault (c : Chip) (code : Nat) (port : Option PortNo) : Chip :=
  let c := countCode c code
  { c with faults := listFault c.faults { code := code, level := faultLevel code, port := port, reportedOnly := false } }

/-- Take a code off the page-0 list, everywhere it stands or on one port. -/
def clearFault (c : Chip) (code : Nat) : Chip := { c with faults := c.faults.filter (fun f => decide (f.code ≠ code)) }

/-- Take a port's link code off the list: its cause has ended. -/
def clearPortFaults (c : Chip) (p : PortNo) : Chip :=
  { c with faults := c.faults.filter (fun f => !(decide (f.port = some p))) }

/-- Whether a code is held: listed, and not as reported only (section 20.2). -/
def holdsFault (c : Chip) (code : Nat) : Bool := c.faults.any (fun f => decide (f.code = code) && !f.reportedOnly)

/-- The chip-level or tray-level code the chip holds, oldest first; 0x63 stops no work (R66). -/
def stoppingFault (c : Chip) : Option Nat :=
  (c.faults.find? (fun f => decide (3 ≤ f.level) && !f.reportedOnly && decide (f.code ≠ 0x63))).map (·.code)

/-- Whether any held code is at level 3 or 4 (R371). -/
def holdsLevel34 (c : Chip) : Bool := c.faults.any (fun f => decide (3 ≤ f.level) && !f.reportedOnly)

/-- Whether a code is one of a wipe's (Table 21-3). -/
def isWipeCode (code : Nat) : Bool := decide (0x70 ≤ code) && decide (code ≤ 0x75)

/-- A Spring failed: it stays until 00 is forwarded (R55), and what was read of the image is dropped. -/
def failSpring (c : Chip) : Chip := modWake { c with candidate := none } (fun w => { w with phase := .failed, entered := false })

/-! ## Sending -/

/-- Put a frame among those waiting to be routed (FRAME_FORWARD takes them in order). -/
def emit (c : Chip) (f : TxFrame) : Chip := { c with outbox := c.outbox ++ [f] }

/-- Where a request came from: the origin of its prefix, or this chip and the port it came in on (R160). -/
def originOf (c : Chip) (f : RxFrame) : BitVec 10 × BitVec 8 :=
  match f.route with
  | some p => (p.originChip, p.originPort)
  | none => (BitVec.ofNat 10 (chipNo c), BitVec.ofNat 8 f.port.val)

/-- The header of a reply (R164): the request's tenant, tensor, shard, step, source and tag, this chip as DEST, VC0. -/
def replyHdr (c : Chip) (q : Hdr) (type flags aux : Nat) : Hdr :=
  { version := 1, type := type, tenant := q.tenant, vc := 0, flags := flags, tensor := q.tensor, shard := q.shard,
    step := q.step, source := q.source, seq := 0, offset := 0, count := 0, format := 0, aux := aux, dest := chipNo c,
    tag := q.tag }

/-- Send a frame to an origin chip and port on VC0. -/
def sendTo (c : Chip) (dst : BitVec 10 × BitVec 8) (h : Hdr) (payload : List Byte) : Chip :=
  emit c { frame := mkFrame h payload, vc := 0#2, route := newPrefix (chipNo c) 0x3F dst.1.toNat dst.2.toNat }

/-- Send a reply to a request (R160). -/
def sendReply (c : Chip) (f : RxFrame) (h : Hdr) (payload : List Byte) : Chip := sendTo c (originOf c f) h payload

/-- COMMITTED of a DONE: the latest committed step on this chip, all ones if none (Table 9-5). -/
def committedField (c : Chip) (t : Nat) : Nat :=
  match (ten c t).committed with
  | some s => s
  | none => 0xFFFFFFFF

/-- What a DONE says (Table 9-5). -/
structure DoneInfo where
  status : Nat
  detail : Nat
  frames : Nat
  duplicates : Nat
  flags : Nat
deriving DecidableEq, Repr

/-- A DONE of a status with a detail and nothing counted. -/
def doneInfo (status detail : Nat) : DoneInfo :=
  { status := status, detail := detail, frames := 0, duplicates := 0, flags := 0 }

/-- The 16 bytes of a DONE payload (Table 9-5). -/
def donePayload (d : DoneInfo) (committed : Nat) : List Byte :=
  leBytes 1 d.status ++ leBytes 1 0 ++ leBytes 2 (sat16 d.frames) ++ leBytes 2 (sat16 d.duplicates) ++ leBytes 2 0 ++
  leBytes 4 committed ++ leBytes 4 d.detail

/-- Send DONE to the sender of a request (R184): LAST set, AUX the status, counted by status (Table 20-3). -/
def sendDone (c : Chip) (f : RxFrame) (d : DoneInfo) : Chip :=
  let q := rxHead f
  let c := sendReply c f (replyHdr c q tyDone (flLast + d.flags) d.status) (donePayload d (committedField c q.tenant))
  if d.status = 0 then c else countTen c q.tenant (d.status - 1) 1

/-- Statuses of Table 9-6. -/
def stOk : Nat := 0x00
def stDup : Nat := 0x01
def stLateFolded : Nat := 0x02
def stLateDropped : Nat := 0x03
def stAutumn : Nat := 0x04
def stTenantReset : Nat := 0x05
def stBadType : Nat := 0x06
def stBadTensor : Nat := 0x07
def stRange : Nat := 0x08
def stFormat : Nat := 0x09
def stNotEmpty : Nat := 0x0A
def stAborted : Nat := 0x0B
def stEmpty : Nat := 0x0C
def stBadHeader : Nat := 0x0D

/-- The 32 bytes of a FAULT payload (R186). -/
def faultPayload (c : Chip) (code tenant tensor shard step detail : Nat) : List Byte :=
  leBytes 1 code ++ leBytes 1 (faultLevel code) ++ leBytes 2 (chipNo c) ++ leBytes 1 tenant ++ leBytes 1 0x3F ++
  leBytes 2 tensor ++ leBytes 2 shard ++ leBytes 2 0 ++ leBytes 4 step ++ leBytes 4 detail ++
  leBytes 4 (tabGet 0 c.occurrences code) ++ leBytes 8 0

/-- Answer a request with FAULT (R186): its own tensor, shard, step, source and tag. -/
def sendFault (c : Chip) (f : RxFrame) (code : Nat) : Chip :=
  let q := rxHead f
  let c := sendReply c f (replyHdr c q tyFault flLast code) (faultPayload c code q.tenant q.tensor q.shard q.step 0)
  countTen c q.tenant 13 1

/-- A FAULT sent unprompted to a source of a tenant (R131, R251): TAG 0, to the origin of its latest accepted frame. -/
def sendUnprompted (c : Chip) (t source code tensor shard step : Nat) : Chip :=
  match tabFind (ten c t).origins source with
  | none => c
  | some dst =>
    let h : Hdr :=
      { version := 1, type := tyFault, tenant := t, vc := 0, flags := flLast, tensor := tensor, shard := shard,
        step := step, source := source, seq := 0, offset := 0, count := 0, format := 0, aux := code, dest := chipNo c,
        tag := 0#32 }
    countTen (sendTo c dst h (faultPayload c code t tensor shard step 0)) t 13 1

/-- A frame from this chip to a chip (Table 8-11: origin port 0x3F, target port 0x3F). -/
def sendChip (c : Chip) (target : Nat) (h : Hdr) (payload : List Byte) : Chip :=
  emit c { frame := mkFrame h payload, vc := BitVec.ofNat 2 h.vc, route := newPrefix (chipNo c) 0x3F target 0x3F }

/-- The header of a frame from chip to chip (section 9.9): DEST names the target, fields with no meaning are 0. -/
def chipHdr (type tenant vc dest : Nat) : Hdr :=
  { version := 1, type := type, tenant := tenant, vc := vc, flags := 0, tensor := 0, shard := 0, step := 0, source := 0, seq := 0,
    offset := 0, count := 0, format := 0, aux := 0, dest := dest, tag := 0#32 }

/-- Apply a chip operation to each item of a list, in order. -/
def forEach {α : Type} (c : Chip) (l : List α) (f : Chip → α → Chip) : Chip := l.foldl f c

/-- Whether a STEP exceeds the tenant's latest resolved step by more than `n` (R172, R18); with no resolved step there is no
INIT either, and the shard answers EMPTY (R176). -/
def beyondResolved (x : TenantCtx) (step n : Nat) : Bool :=
  match x.resolved with
  | some r => decide (r + n < step)
  | none => false

/-- Whether a step is at or below the latest committed step less `n`. -/
def atOrBelowCommitted (x : TenantCtx) (step n : Nat) : Bool :=
  match x.committed with
  | some k => decide (step + n ≤ k)
  | none => false

/-! ## Breakpoints that a code hits (R402) -/

/-- The breakpoint slots of kind 2 that a raised code hits (R402). -/
def faultSlots (c : Chip) (code : Nat) : List Nat :=
  (List.range 8).filter (fun i =>
    let b := tabGet .reset c.dbg.slots i
    b.enabled && decide (b.kind = 2) && decide (b.code = code))

/-- Halt one cluster; a debug step ends with it (R400, R401). -/
def haltCluster (c : Chip) (k : ClusterNo) : Chip := modCluster c k (fun x => { x with halted := true, stepMode := .none })

/-- Every cluster number. -/
def allClusters : List ClusterNo := List.finRange 256

/-- Halt every cluster of a chip. -/
def haltAll (c : Chip) : Chip := forEach c allClusters haltCluster

/-- Set a slot's hit bit and the latest hit's cluster (Table 22-4). -/
def noteHit (c : Chip) (slot : Nat) (k : ClusterNo) : Chip :=
  { c with dbg := { c.dbg with hits := c.dbg.hits ||| (1#8 <<< slot), lastHit := k } }

/-- The hits of a raised code after its containment (R402): the faulting task's cluster, or every cluster when the slot says
so or the code is not at task level. -/
def hitFault (c : Chip) (code : Nat) (k : Option ClusterNo) : Chip :=
  if coreUp c then
    forEach c (faultSlots c code) (fun c i =>
      let b := tabGet .reset c.dbg.slots i
      let c := noteHit c i (k.getD 0)
      match k with
      | some k => if b.everyCluster then haltAll c else haltCluster c k
      | none => haltAll c)
  else c

end Sys2Proof.Machine
end

