-- ==== Sys2Proof/Machine/Flags.lean ====
section
/-!
DEFINITION. What the status outputs and flag fields read: the chip's and the tray's pins (R33, R371, R425), STAT_DATA's and
STEP_REPORT's flags. They are functions of the state, kept nowhere else.
-/
namespace Sys2Proof.Machine

/-! ## A chip's outputs toward the keeper (R371) -/

/-- READY: the season's entry is finished (R67) and no code of level 3 or 4 is held. -/
def chipReady (c : Chip) : Bool := c.wake.entered && !holdsLevel34 c

/-- FAULT_n asserted: a code of level 3 or 4 is held, 0x63 among them (R371, R66). -/
def chipFaultPin (c : Chip) : Bool := holdsLevel34 c

/-- TENFLT_n[t] asserted: the tenant exists and holds a tenant-level fault (R132, R58). -/
def chipTenflt (c : Chip) (t : Nat) : Bool := tenantExists c t && decide ((ten c t).fault ≠ 0)

/-! ## Boundary scan at a chip's outputs (Table 22-2, R395) -/

/-- The level of output cell n of a chip: its function's, the cell's while EXTEST or CLAMP drives it in Winter, or an undriven line's. -/
def outCell (p : Nat) (now : Nat) (c : Chip) (n : Nat) (level : Bool) : Bool :=
  let t := c.dbg.tap
  if c.wake.season ≠ .winter then level
  else if t.outputsOff || (t.driving && !t.cells.getLsbD 37) then Config.pinLevel (p + 1) n now
  else if t.driving then t.cells.getLsbD n
  else level

/-- The levels of cells 13 to 24: READY, HOT_n, COLD_n, FAULT_n and TENFLT_n[0] to [7] toward the keeper. -/
def chipLevel (p : Nat) (now : Nat) (c : Chip) (n : Nat) : Bool :=
  outCell p now c n
    (if n = 13 then chipReady c
     else if n = 14 then !c.wake.hot
     else if n = 15 then !c.wake.cold
     else if n = 16 then !chipFaultPin c
     else !chipTenflt c (n - 17))

/-- Whether every chip's output cell is high. -/
def allHigh (s : State) (n : Nat) : Bool :=
  let l (p : Pos) : Bool := chipLevel p.val s.tray.now (getChip s p) n
  l 0 && l 1 && l 2 && l 3

/-! ## The tray's outputs (R33, R425) -/

/-- The TMC status outputs: READY high, the others asserted (low), and whether FL_SO is driven (Table 2-4). -/
structure Pins where
  ready : Bool
  hot : Bool
  cold : Bool
  fault : Bool
  tenflt : List Bool
  flashGnt : Bool
  flSoDriven : Bool
deriving DecidableEq, Repr

/-- The state of a rail. -/
def railOf (y : Tray) (r : Rail) : RailState := tabGet .down y.rails r

/-- What the TMC reads: released outputs while VKEEP is down; READY alone held low until step 5 of Table 2-2 is done; R33 from
then on. FL_SO is driven only while FLASH_GNT_n is asserted (R41). R30 asserts FAULT_n for a rail fault, and R40 FLASH_GNT_n for a
request, where R425 still releases every output but READY: the model lets R30 win over R425, and R425 over R40, the grant itself being
given (DESIGN CHOICE, log entry 60). -/
def pinsOf (s : State) : Pins :=
  let y := s.tray
  let released (ready : Bool) : Pins :=
    { ready := ready, hot := false, cold := false, fault := false, tenflt := List.replicate 8 false, flashGnt := false,
      flSoDriven := false }
  if railOf y .vkeep ≠ .up then released true
  else if !y.forwarding && !y.railFault then released false
  else
    { ready := allHigh s 13 && !y.railFault,
      hot := !allHigh s 14,
      cold := !allHigh s 15,
      fault := !allHigh s 16 || y.railFault || y.winterFault,
      tenflt := (List.range 8).map (fun t => !allHigh s (17 + t)),
      flashGnt := y.flashGnt,
      flSoDriven := y.flashGnt }

/-! ## Flag fields -/

/-- STRAPS_CHANGED: an observed code or level differs from the latched one (R54); none before the first re-sense. -/
def strapsChanged (w : Wake) : Bool :=
  let o := w.observed
  let l := w.latched
  w.sensed &&
  (decide (o.trayidH ≠ l.trayidH) || decide (o.trayidL ≠ l.trayidL) || decide (o.tenlayout ≠ l.tenlayout) ||
   decide (o.bwsplit ≠ l.bwsplit) || decide (o.portmodeH ≠ l.portmodeH) || decide (o.portmodeT ≠ l.portmodeT) ||
   decide (o.bankSel ≠ l.bankSel) || decide (o.heatEn ≠ l.heatEn) || decide (o.debugEn ≠ l.debugEn))

/-- ETHERTYPE_ABSENT: the accepted image's ETHERTYPE is 0 (R106). -/
def ethertypeAbsent (c : Chip) : Bool :=
  match c.image with
  | some i => decide (i.etherType = 0#16)
  | none => false

/-- THROTTLED: the issue rate is below 16/16 (R87). -/
def throttled (c : Chip) : Bool := decide (c.wake.issueRate < 16)

/-- A sum of powers of two for the bits that are set. -/
def bitSum (l : List (Bool × Nat)) : Nat := (l.map (fun p => if p.1 then p.2 else 0)).sum

/-- FLAGS of STAT_DATA page 0 (Table 9-13). -/
def statFlags (y : Tray) (c : Chip) : Nat :=
  bitSum [(c.wake.seasonError, 1), (strapsChanged c.wake, 2), (ethertypeAbsent c, 4), (throttled c, 8), (y.feedA, 16),
    (y.feedB, 32), (y.fancurve.isNone, 64)]

/-- FLAGS of STEP_REPORT (Table 9-7): saturated, throttled, straps changed, non-finite, cascade, globally clipped. -/
def reportFlags (c : Chip) (saturated nonfinite cascade clipped : Bool) : Nat :=
  bitSum [(saturated, 1), (throttled c, 2), (strapsChanged c.wake, 4), (nonfinite, 8), (cascade, 16), (clipped, 32)]

end Sys2Proof.Machine
end

