-- ==== Sys2Proof/Machine/Serve.lean ====
section
/-!
DEFINITION. Reading a shard's committed arrays, and the data replies that carry them: PARAM frames (R178, R179) and the DONE
that replaces a poisoned one (Table 16-6).
-/
namespace Sys2Proof.Machine

/-! ## Elements of a stored array (Tables 6-8, 13-1) -/

/-- Element i of an array stored in a format; OFP8 is read under the scale exponent e (R256, R259). -/
def elemAt (fmt : Nat) (e : Int) (m : Mem Byte) (i : Nat) : Word :=
  match fmt with
  | 0x00 => packBytes 32 (memRead 0#8 m (4 * i) 4)
  | 0x01 => ofBf16 (packBytes 16 (memRead 0#8 m (2 * i) 2))
  | 0x02 => ofFp16 (packBytes 16 (memRead 0#8 m (2 * i) 2))
  | 0x03 => scaledElem 0x03 (-e) (memGet 0#8 m i)
  | 0x04 => scaledElem 0x04 (-e) (memGet 0#8 m i)
  | f => decodeElem f (memGet 0#8 m (33 * (i / 32))) (memGet 0#8 m (33 * (i / 32) + 1 + i % 32))

/-- n elements from element i on. -/
def elemsFrom (fmt : Nat) (e : Int) (m : Mem Byte) (i n : Nat) : List Word :=
  (upFrom i n).map (elemAt fmt e m)

/-- Where element i's byte, or its block, begins in an array stored in a format. -/
def storedAt (fmt i : Nat) : Nat :=
  match fmt with
  | 0x00 => 4 * i
  | 0x01 => 2 * i
  | 0x02 => 2 * i
  | 0x03 => i
  | 0x04 => i
  | _ => 33 * (i / 32)

/-- The end of the bytes that elements o to o + c − 1 occupy in a stored array. -/
def storedEnd (fmt o c : Nat) : Nat :=
  match fmt with
  | 0x00 => 4 * (o + c)
  | 0x01 => 2 * (o + c)
  | 0x02 => 2 * (o + c)
  | 0x03 => o + c
  | 0x04 => o + c
  | _ => 33 * ((o + c) / 32) + (if (o + c) % 32 = 0 then 0 else 1 + (o + c) % 32)

/-- The 128-byte lines of an array that elements o to o + c − 1 touch. -/
def storedLines (fmt o c : Nat) : List Nat :=
  let lo := storedAt fmt o / 128
  let hi := ceilDiv (storedEnd fmt o c) 128
  upFrom lo (hi - lo)

/-- What a shard's home keeps of one tensor: its group, whether the 8-bit fallback is on, its element count. -/
structure ArrayInfo where
  group : GroupRec
  m8 : Bool
  n : Nat
deriving DecidableEq, Repr

/-- The stored format of an array of a shard (Table 6-8, R121). -/
def arrayFmt (a : ArrayInfo) (array : Nat) : Nat := storedFmt a.group a.m8 array

/-- Whether the tensor keeps an array. -/
def arrayKept (a : ArrayInfo) (array : Nat) : Bool := keepsArray a.group array

/-- The bytes of a shard's committed array. -/
def arrayMem (h : Shard) (array : Nat) : Mem Byte := tabGet [] h.arrays array

/-- The array a selector is read from: the master where the tensor keeps no compute copy (R233). -/
def sourceArray (a : ArrayInfo) (sel : Nat) : Nat := if sel = 1 && !arrayKept a 1 then 0 else sel

/-- The array a reply in a format is read from: a compute copy in another format than COMPUTE_FMT comes from the master
(R179, R424). -/
def pullArray (a : ArrayInfo) (sel fmt : Nat) (all : Bool) : Nat :=
  if sel = 1 && !all && decide (fmt ≠ a.group.computeFmt) then 0 else sourceArray a sel

/-- Elements o to o + c − 1 of an array as binary32. -/
def arrayWords (a : ArrayInfo) (h : Shard) (array o c : Nat) : List Word :=
  elemsFrom (arrayFmt a array) h.scaleExp (arrayMem h array) o c

/-- Block b of an array in a block format up to element `stop`: copied when stored so, else encoded from the array's values, completed with
+0 (R254, R260). -/
def arrayBlock (a : ArrayInfo) (h : Shard) (array fmt b stop : Nat) : List Byte :=
  let k := min 32 (stop - 32 * b)
  if arrayFmt a array = fmt then memRead 0#8 (arrayMem h array) (33 * b) (1 + k)
  else (encodeBlock fmt (arrayWords a h array (32 * b) k ++ List.replicate (32 - k) 0#32)).take (1 + k)

/-- The payload for elements o to o + c − 1 of an array in a format: elements beyond COUNT are sent as 0x00 (R254). -/
def arrayBytes (a : ArrayInfo) (h : Shard) (array fmt o c : Nat) : List Byte :=
  if isBlockFormat fmt then
    (upFrom (o / 32) (ceilDiv c 32)).flatMap (fun b =>
      padBlock (arrayBlock a h array fmt b (o + c)))
  else if arrayFmt a array = fmt then
    memRead 0#8 (arrayMem h array) (storedAt fmt o) (storedEnd fmt o c - storedAt fmt o)
  else encodeElems fmt h.scaleExp true (arrayWords a h array o c)

/-- Elements in one PARAM frame (R179). -/
def paramPerFrame (fmt : Nat) : Nat :=
  match fmt with
  | 0x00 => 4096
  | 0x01 => 8192
  | 0x02 => 8192
  | 0x03 => 16384
  | 0x04 => 16384
  | _ => 15872

/-- A range cut into runs of at most `per`, in ascending order. -/
def cutRange : Nat → Nat → Nat → Nat → List (Nat × Nat)
  | 0, _, _, _ => []
  | fuel + 1, per, o, c => if c = 0 then [] else (o, min per c) :: cutRange fuel per (o + per) (c - per)

/-- The poison of a shard's array that a range would carry: 0x22 from HBM, 0x21 from SRAM (Table 16-6). -/
def arrayPoison (a : ArrayInfo) (h : Shard) (array o c : Nat) : Option Nat :=
  let lines := storedLines (arrayFmt a array) o c
  (h.poison.find? (fun p => decide (p.1 = array) && lines.contains p.2.1)).map (fun p => if p.2.2 then 0x22 else 0x21)

/-- The selectors a PULL sends, in order (R179): one, or every array the tensor keeps. -/
def pullSelectors (a : ArrayInfo) (aux : Nat) : List Nat :=
  if aux = 4 then [0, 1, 2, 3].filter (arrayKept a) else [aux]

/-- The pieces of a PULL's reply in order: selector, first element, count. -/
def pullPieces (a : ArrayInfo) (aux fmt o c : Nat) : List (Nat × Nat × Nat) :=
  (pullSelectors a aux).flatMap (fun s => (cutRange c (paramPerFrame fmt) o c).map (fun p => (s, p.1, p.2)))

/-- A task-level fault of a reply: counted, and the reply ends with DONE ABORTED (Table 16-6, R361). -/
def sendAborted (c : Chip) (f : RxFrame) (code : Nat) : Chip :=
  hitFault (countTen (sendDone (countCode c code) f (doneInfo stAborted code)) (rxHead f).tenant 28 1) code none

/-- Send the PARAM frames that remain, numbered from `i`; a poisoned one is replaced by DONE ABORTED, which ends the reply. -/
def sendParams (c : Chip) (f : RxFrame) (a : ArrayInfo) (h : Shard) (all : Bool) (fmt i : Nat) :
    List (Nat × Nat × Nat) → Chip
  | [] => c
  | (sel, o, n) :: rest =>
    let array := pullArray a sel fmt all
    match arrayPoison a h array o n with
    | some code => sendAborted c f code
    | none =>
      let q := rxHead f
      let fl := if rest.isEmpty then flLast else 0
      let hd := { replyHdr c q tyParam fl sel with seq := i % 65536, step := h.stateStep, offset := o, count := n, format := fmt }
      sendParams (sendReply c f hd (arrayBytes a h array fmt o n)) f a h all fmt (i + 1) rest

/-- What this chip keeps of a shard of a PARAM tensor it homes. -/
def arrayInfoOf (c : Chip) (t tensor shard : Nat) : Option ArrayInfo :=
  match groupOfTensor c t tensor with
  | some g => some { group := g, m8 := (ten c t).m8, n := elemsOf c t tensor shard }
  | none => none

/-- COUNT 0 means to the end of the shard (R178). -/
def pullCount (n : Nat) (q : Hdr) : Nat := if q.count = 0 then n - q.offset else q.count

/-- Answer a PULL from the committed state (R178, R179). -/
def servePull (c : Chip) (f : RxFrame) : Chip :=
  let q := rxHead f
  let h := shardOf (ten c q.tenant) q.tensor q.shard
  match arrayInfoOf c q.tenant q.tensor q.shard with
  | none => sendDone c f (doneInfo stBadTensor 0)
  | some a =>
    if h.fill ≠ .filled then sendDone c f (doneInfo stEmpty 0)
    else
      let n := pullCount a.n q
      sendParams c f a h (decide (q.aux = 4)) q.format 0 (pullPieces a q.aux q.format q.offset n)

/-- Take a tenant's held PULLs and answer each (R17, R19). -/
def releasePulls (c : Chip) (t : Nat) (p : RxFrame → Bool) (answer : Chip → RxFrame → Chip) : Chip :=
  let x := ten c t
  let out := x.heldPulls.filter p
  forEach (setTen c t { x with heldPulls := x.heldPulls.filter (fun f => !p f) }) out answer

end Sys2Proof.Machine
end

