-- ==== Sys2Proof/Machine/Layout.lean ====
section
/-!
DEFINITION. Where a tenant's pages lie on a chip (R118, R124, R315), the slice and set of a physical address (R302), and the
shadow pool's frames (R240, R243).
-/
namespace Sys2Proof.Machine

/-- What a run of pages holds. -/
inductive ExtentKind where
  | region (index : Nat)
  | site (id : Nat)
  | array (tensor shard array : Nat)
  | shadow
deriving DecidableEq, Repr

/-- A run of pages: what it holds, its first tenant page TA[39:21], how many pages, its first physical page PA[39:21]. A site's
reservation may lie in several runs. -/
structure Extent where
  kind : ExtentKind
  page : Nat
  pages : Nat
  phys : Nat
deriving DecidableEq, Repr

/-- Lay kinds with their tenant pages and sizes on consecutive physical pages (R118; the choice of pages is log entry 11). -/
def placeExtents : Nat → List (ExtentKind × Nat × Nat) → List Extent
  | _, [] => []
  | phys, (k, page, n) :: rest => { kind := k, page := page, pages := n, phys := phys } :: placeExtents (phys + n) rest

/-- Lay tensor state and the shadow region at tenant addresses from 2^39 upward (R118). -/
def highPages : Nat → List (ExtentKind × Nat) → List (ExtentKind × Nat × Nat)
  | _, [] => []
  | page, (k, n) :: rest => (k, page, n) :: highPages (page + n) rest

/-- A list of page runs with one more in its place by first page. -/
def insertRun (p : Nat × Nat) : List (Nat × Nat) → List (Nat × Nat)
  | [] => [p]
  | q :: rest => if p.1 < q.1 then p :: q :: rest else q :: insertRun p rest

/-- The free runs (first page, pages) from a page up to 2^18, between the runs of regions in ascending order. -/
def freeRuns : Nat → List (Nat × Nat) → List (Nat × Nat)
  | page, [] => [(page, 2 ^ 18 - page)]
  | page, (p, n) :: rest => (page, p - page) :: freeRuns (max page (p + n)) rest

/-- Take n pages from free runs, lowest first: the runs taken, and the runs left. -/
def takePages : Nat → List (Nat × Nat) → List (Nat × Nat) × List (Nat × Nat)
  | _, [] => ([], [])
  | n, (p, k) :: rest =>
    if n = 0 then ([], (p, k) :: rest)
    else if n < k then ([(p, n)], (p + n, k - n) :: rest)
    else
      let r := takePages (n - k) rest
      (if k = 0 then r else ((p, k) :: r.1, r.2))

/-- Lay site reservations in the free pages below 2^39, in ascending site (R118; the choice of pages is log entry 11). -/
def sitePages : List (Nat × Nat) → List SiteRec → List (ExtentKind × Nat × Nat)
  | _, [] => []
  | free, s :: rest =>
    let r := takePages s.reserve free
    r.1.map (fun p => (ExtentKind.site s.id, p.1, p.2)) ++ sitePages r.2 rest

/-- Regions and site reservations of a catalogue, below 2^39. -/
def lowPages (cat : Catalogue) : List (ExtentKind × Nat × Nat) :=
  let runs := cat.regions.map (fun r => (r.base / 2097152, r.pages))
  (List.zip (List.range runs.length) runs).map (fun p => (ExtentKind.region p.1, p.2.1, p.2.2)) ++
  sitePages (freeRuns 0 (runs.foldr insertRun [])) cat.sites

/-- The arrays of the shards homed here, with their pages. -/
def arrayRuns (c : Chip) (t : Nat) : List (ExtentKind × Nat) :=
  (homedShards c t).flatMap (fun p =>
    match arrayInfoOf c t p.1 p.2 with
    | none => []
    | some a => ([0, 1, 2, 3].filter (arrayKept a)).map (fun k => (ExtentKind.array p.1 p.2 k, arrayPages a.group a.m8 a.n k)))

/-- The pages a tenant holds on this chip, in the order of R118: regions, sites, tensor state in ascending tensor id and
shard, master, compute copy, first and second moment of each, and the shadow region last, which a tenant with no catalogue has too. -/
def layoutOf (c : Chip) (t : Nat) : List Extent :=
  let low := match catOf c t with | some cat => lowPages cat | none => []
  placeExtents (regionBaseOf c t / 2097152)
    (low ++ highPages (2 ^ 18)
      (arrayRuns c t ++ [(ExtentKind.shadow, shadowFrames (regionSizeOf c t) (ten c t).shadowShift)]))

/-- The run of pages of a kind. -/
def extentOf (c : Chip) (t : Nat) (k : ExtentKind) : Option Extent := (layoutOf c t).find? (fun e => decide (e.kind = k))

/-- The run that holds a physical page. -/
def extentAt (c : Chip) (t page : Nat) : Option Extent :=
  (layoutOf c t).find? (fun e => decide (e.phys ≤ page) && decide (page < e.phys + e.pages))

/-- The ATTR of a region of tenant t (Table 6-7). -/
def regionAttr (c : Chip) (t i : Nat) : Nat :=
  match catOf c t with
  | some cat => (match cat.regions[i]? with | some r => r.attr | none => 0)
  | none => 0

/-- The ATTR of a run that streams reach by tenant address: a region's own, and plain for a site reservation; tensor state and the shadow
region are reached by tensor id only (R118). -/
def extentAttr (c : Chip) (t : Nat) (k : ExtentKind) : Option Nat :=
  match k with
  | .region i => some (regionAttr c t i)
  | .site _ => some 0
  | .array _ _ _ => none
  | .shadow => none

/-- Where a tenant address is mapped: the ATTR there and the physical address (R315). -/
def mapAddress (c : Chip) (t ta : Nat) : Option (Nat × Nat) :=
  let page := ta / 2097152
  match (layoutOf c t).find? (fun e => (extentAttr c t e.kind).isSome && decide (e.page ≤ page) && decide (page < e.page + e.pages)) with
  | some e => (extentAttr c t e.kind).map (fun a => (a, (e.phys + (page - e.page)) * 2097152 + ta % 2097152))
  | none => none

/-- The physical pages of a shard's arrays on this chip. -/
def shardPhysPages (c : Chip) (t tensor shard : Nat) : List Nat :=
  (layoutOf c t).flatMap (fun e =>
    match e.kind with
    | .array a b _ => if a = tensor && b = shard then upFrom e.phys e.pages else []
    | _ => [])

/-- The physical address of a byte of a shard's array. -/
def arrayAddress (c : Chip) (t tensor shard array offset : Nat) : Nat :=
  match extentOf c t (.array tensor shard array) with
  | some e => e.phys * 2097152 + offset
  | none => 0

/-- A field of an address. -/
def paField (pa lo w : Nat) : BitVec 6 := BitVec.ofNat 6 (pa / 2 ^ lo % 2 ^ w)

/-- The slice of a physical address (R302). -/
def sliceOf (pa : Nat) : Nat :=
  (paField pa 7 6 ^^^ paField pa 13 6 ^^^ paField pa 19 6 ^^^ paField pa 25 6 ^^^ paField pa 31 6).toNat

/-- The set of a physical address (R302). -/
def setOf (pa : Nat) : Nat := pa / 8192 % 2048

/-- The pseudo-channel of a physical address (R302). -/
def pseudoChannelOf (pa : Nat) : Nat := 2 * sliceOf pa + (pa / 2 ^ 13 + pa / 2 ^ 25 + pa / 2 ^ 37) % 2

/-- The HBM stack of a physical address (R302). -/
def stackOf (pa : Nat) : Nat := pseudoChannelOf pa / 32

/-- The tenant whose HBM region holds a physical address (R123). -/
def ownerOf (c : Chip) (pa : Nat) : Nat :=
  ((List.range (tenantCount c)).find? (fun t =>
    decide (regionBaseOf c t ≤ pa) && decide (pa < regionBaseOf c t + regionSizeOf c t))).getD 8

/-- The frames a tenant's shadow pool starts with (R240): the physical pages of its shadow region. -/
def shadowPool (c : Chip) (t : Nat) : List Nat :=
  match extentOf c t .shadow with
  | some e => upFrom e.phys e.pages
  | none => []

/-- The version record of a page. -/
def pageRec (x : TenantCtx) (page : Nat) : PageRec := tabGet .reset x.pages page

/-- The spill frame and line map of a page for a step's parity. -/
def spillOf (r : PageRec) (step : Nat) : Option (Nat × List Nat) := if step % 2 = 0 then r.spill0 else r.spill1

/-- The page with its spill of a step's parity replaced. -/
def setSpill (r : PageRec) (step : Nat) (v : Option (Nat × List Nat)) : PageRec :=
  if step % 2 = 0 then { r with spill0 := v } else { r with spill1 := v }

/-- Return a page's spill frame of a step's parity to the pool and clear SPILL (Table 12-1). -/
def returnSpill (step : Nat) (x : TenantCtx) (page : Nat) : TenantCtx :=
  let r := pageRec x page
  match spillOf r step with
  | none => x
  | some s => { x with frames := x.frames ++ [s.1], pages := tabSet x.pages page (setSpill r step none) }

/-- The frame that holds a page's committed state: its own physical page until a commit has moved it. -/
def liveFrame (x : TenantCtx) (page : Nat) : Nat := (pageRec x page).live.getD page

/-- Commit a page: LIVE becomes the spill frame of the step's parity and the old LIVE frame joins the pool (R243). -/
def swapLive (step : Nat) (x : TenantCtx) (page : Nat) : TenantCtx :=
  let r := pageRec x page
  match spillOf r step with
  | none => x
  | some s =>
    let old := liveFrame x page
    { x with frames := x.frames ++ [old], pages := tabSet x.pages page { setSpill r step none with live := some s.1 } }

/-- Discard the pending state of a step on a shard (Table 12-1): lines, spills, the amax entry. What it frees ends a stall (R241). -/
def discardPending (c : Chip) (t tensor shard step : Nat) : Chip :=
  let pages := shardPhysPages c t tensor shard
  modTen c t (fun x =>
    let x := { x with pendLines := x.pendLines.filter (fun l =>
      !(decide (l.tensor = tensor) && decide (l.shard = shard) && decide (l.step = step))) }
    let x := pages.foldl (returnSpill step) x
    modShardStep { x with stalled := false } tensor shard step (fun r => { r with pend := [], pendAmax := none, pendPoison := [] }))

/-- Every spill frame of a page list back to the pool, both parities. -/
def clearSpills (x : TenantCtx) : TenantCtx :=
  let pages := x.pages.map (·.1)
  pages.foldl (returnSpill 1) (pages.foldl (returnSpill 0) x)

/-- Discard every pending line of a tenant, clear its shadow version bits and return its frames (R131, R252). Steps in
flight end with it: their records, accumulators and timers are gone. -/
def discardTenant (x : TenantCtx) : TenantCtx :=
  let x := clearSpills x
  { x with pendLines := [], stalled := false, frames := x.frames ++ x.accFrames.map (·.frame), accFrames := [],
           steps := [], gathers := [], shards := tabMap (fun _ h => { h with steps := [] }) x.shards }

/-- A line that holds accumulators of tenant t. -/
def isAccLine (t : Nat) (l : SliceLine) : Bool :=
  decide (l.tenant = t) && (match l.kind with | .acc _ _ _ => true | _ => false)

/-- Discard a tenant's work on a chip; its accumulator lines and the device objects of its steps go back to 0 with it (Table 18-1, log
entry 14). -/
def discardOn (c : Chip) (t : Nat) : Chip :=
  let own (n : Nat) : Bool := decide (n / 2 = t) || decide (n / 2 = 8 + t)
  modTen { c with sync := c.sync.filter (fun o => !own o.1), lines := c.lines.filter (fun l => !isAccLine t l.2) } t discardTenant

end Sys2Proof.Machine
end

