-- ==== Sys2Proof/Machine/Contain.lean ====
section
/-!
DEFINITION. What a fault stops: ending tasks, dropping queued frames, and the containment of chapter 20 at tenant, chip and
tray level (R131, R251, R363).
-/
namespace Sys2Proof.Machine

/-! ## Tasks -/

/-- A cluster without the tasks that `p` names, a next task that stays going on (R330); a debug step that waited for its stage's end halts it (R401). -/
def dropTasks (p : Task → Bool) (k : Cluster) : Cluster :=
  let gone : Bool := match k.run with | some r => p r.task | none => false
  let halt : Bool := gone && decide (k.stepMode = .stage)
  let next := match k.next with | some r => if p r.task then none else some r | none => none
  { k with
    queue := k.queue.filter (fun t => !p t),
    run := if gone then next.map (fun r => { r with prologueOnly := false }) else k.run,
    next := if gone then none else next,
    halted := k.halted || halt,
    passed := k.passed && !gone && !k.queue.any p,
    stepMode := if halt then .none else k.stepMode }

/-- Whether a cluster holds a task that `p` names, queued, running or in prologue. -/
def holdsTask (k : Cluster) (p : Task → Bool) : Bool :=
  k.queue.any p || (match k.run with | some r => p r.task | none => false) || (match k.next with | some r => p r.task | none => false)

/-- Whether any cluster of a chip does. -/
def anyTask (c : Chip) (p : Task → Bool) : Bool := c.clusters.any (fun k => holdsTask k.2 p)

/-- The clusters whose running task `p` names. -/
def clustersRunning (c : Chip) (p : Task → Bool) : List ClusterNo :=
  (c.clusters.filter (fun k => match k.2.run with | some r => p r.task | none => false)).map (·.1)

/-- Take clusters out of every waiter set (R347). -/
def leaveWaiters (c : Chip) (ks : List ClusterNo) : Chip :=
  { c with sync := tabMap (fun _ o => { o with waiters := o.waiters.filter (fun w => !ks.contains w.1) }) c.sync }

/-- End every task that `p` names, queued, running or in prologue; their waiters leave (R316, R330, R347). -/
def endTasks (c : Chip) (p : Task → Bool) : Chip :=
  let c := leaveWaiters c (clustersRunning c p)
  { c with clusters := tabMap (fun _ k => dropTasks p k) c.clusters }

/-! ## Queued frames -/

/-- The pool a received frame's flits stand in (Table 8-6). -/
def rxPool (f : RxFrame) : Pool :=
  let dl := match f.route with | some p => p.dl | none => false
  if f.vc = 1#2 then .ten false dl f.tagTenant.toNat
  else if f.vc = 2#2 then .ten true dl f.tagTenant.toNat
  else .vc0 dl

/-- The flits a received frame occupies: one more than on a host link when a prefix came with it (R143). -/
def rxFlits (f : RxFrame) : Nat := f.flits + (if f.route.isSome then 1 else 0)

/-- Free n flits of a pool: its cumulative credits rise by as many (R150); flits from before a training hold no credit (R149). -/
def freeFlits (p : Port) (pool : Pool) (n : Nat) : Port :=
  let k := min n (tabGet 0 p.heldFlits pool)
  { p with granted := tabSet p.granted pool ((tabGet 0 p.granted pool + k) % 65536),
           heldFlits := tabSet p.heldFlits pool (tabGet 0 p.heldFlits pool - k) }

/-- The ingress queue of a VC and tenant. -/
def ingressQueue (p : Port) (vc : BitVec 2) (t : Nat) : List RxFrame := tabGet [] p.ingress (vc, t)

/-- The target chip of a received frame: its prefix's, or the DEST of a host request (R160). -/
def rxTarget (f : RxFrame) : Nat :=
  match f.route with
  | some p => p.targetChip.toNat
  | none => (rxHead f).dest

/-- The frames of an ingress queue that came in this training: those behind the ones a training found there. -/
def freshFrames (q : Port) (key : BitVec 2 × Nat) (l : List RxFrame) : List RxFrame := l.drop (tabGet 0 q.stale key)

/-- Take out of a port's ingress queues the frames that `p` names, freeing the flits that this training holds (R149, R150). -/
def dropIngress (p : RxFrame → Bool) (q : Port) : Port :=
  let gone := (q.ingress.flatMap (fun e => freshFrames q e.1 e.2)).filter p
  gone.foldl (fun q f => freeFlits q (rxPool f) (rxFlits f))
    { q with ingress := tabMap (fun _ l => l.filter (fun f => !p f)) q.ingress,
             stale := q.ingress.map (fun e => (e.1, ((e.2.take (tabGet 0 q.stale e.1)).filter (fun f => !p f)).length)) }

/-- The queued frames of a chip that `p` names: in ingress queues and dispatched but not yet processed. -/
def queuedFrames (c : Chip) (p : RxFrame → Bool) : List RxFrame :=
  (c.ports.flatMap (fun q => (q.2.ingress.flatMap (·.2)).filter p)) ++ c.inbox.filter p

/-- A dispatched frame that has left the inbox: its flits are freed (R150). -/
def freeDispatched (c : Chip) (f : RxFrame) : Chip :=
  let x := portOf c f.port
  if c.inbox.count f < x.dispatched.count f then
    setPort c f.port { freeFlits x (rxPool f) (rxFlits f) with dispatched := x.dispatched.erase f }
  else c

/-- Drop the queued frames that `p` names. -/
def dropQueued (c : Chip) (p : RxFrame → Bool) : Chip :=
  let gone := c.inbox.filter p
  gone.foldl freeDispatched
    { c with ports := tabMap (fun _ q => dropIngress p q) c.ports, inbox := c.inbox.filter (fun f => !p f) }

/-- Whether a frame is a chip-to-chip frame by its type (section 9.9). -/
def isChipFrame (f : RxFrame) : Bool :=
  let ty := (rxHead f).type
  decide (0x10 ≤ ty) && decide (ty ≤ 0x15)

/-- A queued frame that this chip would consume: a request or a chip-to-chip frame, on VC0 too, and no reply on its way to a host. -/
def consumedHere (c : Chip) (f : RxFrame) : Bool :=
  (decide (f.vc ≠ 0#2) || isChipFrame f) && decide (rxTarget f = chipNo c)

/-- A queued frame of tenant t that this chip would consume. -/
def queuedHere (c : Chip) (t : Nat) (f : RxFrame) : Bool := decide ((rxHead f).tenant = t) && consumedHere c f

/-- Drop tenant t's queued frames; chip-to-chip ones are counted (R131, counter 32). -/
def dropTenantFrames (c : Chip) (t : Nat) : Chip :=
  let n := ((queuedFrames c (queuedHere c t)).filter isChipFrame).length
  countTen (dropQueued c (queuedHere c t)) t 32 n

/-! ## Containment -/

/-- The sources that contributed to a step of tenant t still in flight on this chip, each once. -/
def hostsInFlight (x : TenantCtx) : List Nat :=
  ((x.steps.filter (fun s => !s.2.resolved)).flatMap (fun s => s.2.hosts)).eraseDups

/-- The latest step in flight to which a source contributed. -/
def stepInFlight (x : TenantCtx) (source : Nat) : Nat :=
  ((x.steps.filter (fun s => !s.2.resolved && s.2.hosts.contains source)).map (·.1)).foldl max 0

/-- Stop all of a tenant's work on a chip, as R131 lists it: tasks, pending lines and shadow bits, queued frames, and a FAULT
to each host that contributed to a step in flight; held PULLs are answered from committed state (R19). -/
def stopTenant (c : Chip) (t code : Nat) : Chip :=
  let x := ten c t
  let c := endTasks c (fun k => decide (k.tenant = t))
  let c := dropTenantFrames c t
  let c := forEach c (hostsInFlight x) (fun c s => sendUnprompted c t s code 0 0 (stepInFlight x s))
  let c := discardOn c t
  releasePulls c t (fun _ => true) servePull

/-- A change of season releases every halt and clears every breakpoint slot (R403). -/
def releaseHalts (c : Chip) : Chip :=
  { c with clusters := tabMap (fun _ k => { k with halted := false, passed := false, stepMode := .none }) c.clusters,
           dbg := { c.dbg with slots := [] } }

/-- Raise a tenant-level code (R131, R364): the first one faults the tenant; a later one is only counted. -/
def tenantFault (c : Chip) (t code : Nat) : Chip :=
  let c := countCode c code
  let x := ten c t
  if x.fault ≠ 0 then hitFault c code none
  else
    let c := modTen c t (fun x => { x with fault := code, state := if x.resetPhase = .none then .faulted else x.state })
    hitFault (if x.loaded then stopTenant c t code else c) code none

/-- The tenants of a chip. -/
def tenantsOf (c : Chip) : List Nat := List.range (tenantCount c)

/-- Every tenant stops as at chip level (Table 20-1); none is marked faulted. -/
def stopAllTenants (c : Chip) (code : Nat) : Chip :=
  forEach c (tenantsOf c) (fun c t => if (ten c t).loaded then stopTenant c t code else c)

/-- Raise a chip-level or tray-level code that stops work (R363, R371): recorded, every tenant stopped. -/
def chipFault (c : Chip) (code : Nat) : Chip := hitFault (stopAllTenants (recordFault c code none) code) code none

/-- Raise a code that fails Spring (R55): recorded, READY held low, and Spring goes no further; no tenant work exists for it to
stop (Table 20-1). -/
def springFault (c : Chip) (code : Nat) : Chip := hitFault (failSpring (recordFault c code none)) code none

/-- Raise a level-0 code, with its port where it has one. -/
def opFault (c : Chip) (code : Nat) (port : Option PortNo) : Chip := hitFault (recordFault c code port) code none

/-- The outcome for the frame that caused a task that ended on a fault (R361): DONE ABORTED with the code. -/
def abortCause (c : Chip) (cause : Option RxFrame) (code : Nat) : Chip :=
  match cause with
  | some f => sendDone c f (doneInfo stAborted code)
  | none => c

/-- The sources that contributed to a shard in a step, those of contributions folded into it among them (R209). -/
def shardSources (x : TenantCtx) (tensor shard step : Nat) : List Nat :=
  let r := stepOf (shardOf x tensor shard) step
  (r.sources.map (·.1) ++ r.folds.map (·.1)).eraseDups

/-- An update task's abort (R251): the shard's pending state of the step is discarded, its stage stands aborted, and each
contributing host gets FAULT. Tasks of the shard on other clusters run on (R10) and write nothing that commits. -/
def abortUpdate (c : Chip) (t tensor shard step code : Nat) : Chip :=
  let srcs := shardSources (ten c t) tensor shard step
  let c := discardPending c t tensor shard step
  let c := modTen c t (fun x => modShardStep x tensor shard step (fun r => { r with update := .aborted, direct := false }))
  forEach c srcs (fun c s => sendUnprompted c t s code tensor shard step)

/-- The running task of a cluster, or the next one in its prologue. -/
def taskAt (x : Cluster) (next : Bool) : Option RunTask := if next then x.next else x.run

/-- A cluster whose running task, or whose next one, has ended on a fault: the next task goes on with its prologue run (R330), and a debug
step that waited for the task's stage to end halts the cluster (R401). -/
def withoutTask (next : Bool) (r : RunTask) (x : Cluster) : Cluster :=
  let halt : Bool := decide (x.stepMode = .stage) && (!next || r.active)
  { x with run := if next then x.run else x.next.map (fun n => { n with prologueOnly := false }), next := none,
           completion := some { task := r.task, deadReuse := r.deadReuse }, prologueDue := next && x.prologueDue, halted := x.halted || halt, stepMode := if halt then .none else x.stepMode }

/-- A running task, or the next one in its prologue, ends on a task-level fault (R251, R316, R330, R361): counted, out of the waiter sets,
with its own outcome. -/
def taskFault (c : Chip) (k : ClusterNo) (next : Bool) (code : Nat) : Chip :=
  match taskAt (clusterOf c k) next with
  | none => c
  | some r =>
    let t := r.task
    let c := countTen (countCode c code) t.tenant 28 1
    let c := modCluster (if next then c else leaveWaiters c [k]) k (withoutTask next r)
    let c := if t.kind = 12 then abortUpdate c t.tenant t.tensor t.shard t.step code else abortCause c t.cause code
    hitFault c code (some k)

end Sys2Proof.Machine
end

