-- ==== Sys2Proof/Machine/Lines.lean ====
section
/-!
DEFINITION. Cache lines (chapter 16): byte masks, HBM under a key, the slices' lines and their victims, the L1 caches and the
directory, write-back. A line is named by its number, PA / 128: of tensor state, by the physical address its page was mapped to first;
of an accumulator, by its master's line and its step (log entry 11).
-/
namespace Sys2Proof.Machine

/-! ## Byte masks (R307) -/

/-- The bits of the bytes that a mask marks. -/
def expandMask (m : BitVec 128) : BitVec 1024 :=
  (List.range 128).foldl (fun x i => if m.getLsbD i then x ||| (0xFF#1024 <<< (8 * i)) else x) 0#1024

/-- `new` in the bytes that the mask marks, `old` in the others. -/
def mergeLine (m : BitVec 128) (new old : BitVec 1024) : BitVec 1024 :=
  (new &&& expandMask m) ||| (old &&& ~~~ expandMask m)

/-- The mask of n bytes from byte i of a line. -/
def byteMask (i n : Nat) : BitVec 128 := BitVec.ofNat 128 ((2 ^ n - 1) * 2 ^ i)

/-- Every byte of a line. -/
def fullMask : BitVec 128 := BitVec.allOnes 128

/-- Whether a mask marks every byte that another one does. -/
def covers (m need : BitVec 128) : Bool := decide (need &&& ~~~ m = 0#128)

/-- The mask of the bytes of a line that some addresses name. -/
def maskOf (line : Nat) (l : List Nat) : BitVec 128 :=
  (l.filter (fun a => decide (a / 128 = line))).foldl (fun m a => m ||| byteMask (a % 128) 1) 0#128

/-- The lines that addresses lie in, each once. -/
def linesOf (l : List Nat) : List Nat := (l.map (· / 128)).eraseDups

/-- A line's data with bytes placed from byte i. -/
def placeBytes (i : Nat) (bs : List Byte) : BitVec 1024 := BitVec.ofNat 1024 (leNat bs * 2 ^ (8 * i))

/-! ## HBM under the key in force (R380 to R382) -/

/-- The key record of a tenant. -/
def keyOf (c : Chip) (t : Nat) : KeyRec := tabGet .reset c.vault.keys t

/-- A byte of HBM: what was written under the key in force, else a value that no proof can know (log entry 6). -/
def hbmRead (c : Chip) (pa : Nat) : Byte :=
  match memFind c.hbm pa with
  | some b => b
  | none => Config.hbmByte (posOf c) (keyOf c (ownerOf c pa)).id pa

/-- n bytes of HBM. -/
def hbmBytes (c : Chip) (pa n : Nat) : List Byte := (upFrom pa n).map (hbmRead c)

/-- A line of HBM. -/
def hbmLine (c : Chip) (line : Nat) : BitVec 1024 := packBytes 1024 (hbmBytes c (128 * line) 128)

/-- Write the marked bytes of a line to HBM. -/
def hbmWriteLine (m : Mem Byte) (line : Nat) (mask : BitVec 128) (data : BitVec 1024) : Mem Byte :=
  (List.range 128).foldl (fun m i => if mask.getLsbD i then memPut m (128 * line + i) (byteOf data i) else m) m

/-! ## Lines of tensor state and of accumulators -/

/-- The first line of a shard's array. -/
def arrayLine (c : Chip) (t tensor shard array : Nat) : Nat := arrayAddress c t tensor shard array 0 / 128

/-- The name of a line of an array. -/
def tensorKey (c : Chip) (t tensor shard array n : Nat) : Nat := arrayLine c t tensor shard array + n

/-- Line numbers end at 2^33; accumulators are named above them, by their step. -/
def accBase (step : Nat) : Nat := 2 ^ 33 * (1 + step % 3)

/-- The name of a line of a shard's accumulator in a step: its master's line. -/
def accKey (c : Chip) (t tensor shard step n : Nat) : Nat := accBase step + arrayLine c t tensor shard 0 + n

/-- The line of the page that an accumulator's line stands for. -/
def pageLine (key : Nat) : Nat := key % 2 ^ 33

/-- Where a line of tensor state lies in HBM: in its page's LIVE frame. -/
def liveLine (x : TenantCtx) (key : Nat) : Nat := liveFrame x (key / 16384) * 16384 + key % 16384

/-- The bytes of a line of an array, as committed. -/
def arrayLineData (h : Shard) (array n : Nat) : BitVec 1024 := packBytes 1024 (memRead 0#8 (arrayMem h array) (128 * n) 128)

/-- The bytes of a line of an accumulator. -/
def accLineData (r : ShardStep) (n : Nat) : BitVec 1024 :=
  packBytes 1024 ((memRead 0#32 r.acc (32 * n) 32).flatMap (fun w => bytesOf w 4))

/-- The place in HBM that a line of tensor state has, whose bytes are now those of its LIVE frame: poison of the line goes there with it. -/
def poisonToHbm (h : Shard) (array n : Nat) : Shard :=
  { h with poison := h.poison.map (fun p => if p.1 = array && p.2.1 = n then (array, n, true) else p) }

/-- A clean line's poison stands in the slice only and goes with the line. -/
def poisonGone (h : Shard) (array n : Nat) : Shard :=
  { h with poison := h.poison.filter (fun p => !(decide (p.1 = array) && decide (p.2.1 = n) && !p.2.2)) }

/-! ## Slice lines -/

/-- A slice line, when the slice holds it. -/
def sliceLine (c : Chip) (line : Nat) : Option SliceLine := tabFind c.lines line

/-- The slice's line replaced. -/
def setLine (c : Chip) (line : Nat) (l : SliceLine) : Chip := { c with lines := tabSet c.lines line l }

/-- The slice's line changed, where it holds it. -/
def modLine (c : Chip) (line : Nat) (f : SliceLine → SliceLine) : Chip :=
  match sliceLine c line with
  | some l => setLine c line (f l)
  | none => c

/-- The line dropped from its slice. -/
def dropLine (c : Chip) (line : Nat) : Chip := { c with lines := tabErase c.lines line }

/-- A line's directory entry without a cluster; with no sharer left it stands in I (Table 16-3). -/
def leaveDir (k : ClusterNo) (l : SliceLine) : SliceLine :=
  let s := l.sharers.filter (fun x => decide (x ≠ k))
  { l with sharers := s, dir := if s.isEmpty then .i else l.dir }

/-- A line taken out of a cluster's L1, and the cluster out of the line's directory entry. -/
def dropL1 (c : Chip) (line : Nat) (k : ClusterNo) : Chip :=
  modLine (modCluster c k (fun x => { x with l1 := tabErase x.l1 line })) line (leaveDir k)

/-- The dirty bytes that an L1 owner holds go to the slice's line (R306). -/
def pullDirty (c : Chip) (line : Nat) (k : ClusterNo) : Chip :=
  match tabFind (clusterOf c k).l1 line with
  | some o =>
    if o.modified then
      modLine c line (fun l =>
        { l with data := mergeLine o.dirty o.data l.data, valid := l.valid ||| o.dirty, dirty := l.dirty ||| o.dirty,
                 poison := l.poison || o.poison })
    else c
  | none => c

/-- The clusters whose L1 holds a line. -/
def holdersOf (c : Chip) (line : Nat) : List ClusterNo :=
  (c.clusters.filter (fun k => (tabFind k.2.l1 line).isSome)).map (·.1)

/-- Recall a line from every L1 that holds it: dirty bytes go to the slice, the copies are dropped (R306). -/
def recallLine (c : Chip) (line : Nat) : Chip :=
  (holdersOf c line).foldl (fun c k => dropL1 (pullDirty c line k) line k) c

/-- HBM's poison of a line after a write-back of it: poison goes with a line, and a write of every byte clears it (R317). -/
def poisonAfter (old : List Nat) (line : Nat) (poison full : Bool) : List Nat :=
  let rest := old.filter (fun x => decide (x ≠ line))
  if poison then line :: rest else if full then rest else old

/-- Write a slice line's dirty bytes back to HBM, a line of tensor state to its page's LIVE frame; the line stays, clean (R308). Poison goes
with it. An accumulator's line has no place to be written back to but a frame of the shadow pool (R304). -/
def writeBackLine (c : Chip) (line : Nat) : Chip :=
  match sliceLine c line with
  | none => c
  | some l =>
    match l.kind with
    | .region =>
      let c := { c with hbm := hbmWriteLine c.hbm line l.dirty l.data,
                        hbmPoison := poisonAfter c.hbmPoison line l.poison (decide (l.dirty = fullMask)) }
      setLine c line { l with dirty := 0#128 }
    | .tensor tensor shard array =>
      if l.dirty = 0#128 then c
      else
        let x := ten c l.tenant
        let n := line - arrayLine c l.tenant tensor shard array
        let c := { c with hbm := hbmWriteLine c.hbm (liveLine x line) l.dirty (arrayLineData (shardOf x tensor shard) array n) }
        setLine (modTen c l.tenant (fun x => modShard x tensor shard (fun h => poisonToHbm h array n))) line { l with dirty := 0#128 }
    | .acc _ _ _ => c

/-- Evict a slice line: recalled, written back, dropped (R306). -/
def evictLine (c : Chip) (line : Nat) : Chip :=
  let c := writeBackLine (recallLine c line) line
  let c :=
    match sliceLine c line with
    | some l =>
      (match l.kind with
       | .tensor tensor shard array =>
         modTen c l.tenant (fun x => modShard x tensor shard (fun h =>
           poisonGone h array (line - arrayLine c l.tenant tensor shard array)))
       | _ => c)
    | none => c
  dropLine c line

/-! ## Dead lines (R310, R311) -/

/-- The serial numbers of the requests in flight on a chip. -/
def inFlightSerials (c : Chip) : List Nat :=
  c.clusters.flatMap (fun k =>
    [k.2.run, k.2.next].flatMap (fun o =>
      match o with
      | some r => r.streams.flatMap (fun s => s.2.inFlight.map (·.serial))
      | none => []))

/-- Whether a line's last use under a dead hint is complete: every access issued before the dead one has completed. -/
def deadDone (c : Chip) (line : Nat) : Bool :=
  match tabFind c.deadDue line with
  | some l => let now := inFlightSerials c; l.all (fun n => !now.contains n)
  | none => false

/-- Invalidate a dead line in the slice and in every L1, without write-back. -/
def dropDead (c : Chip) (line : Nat) : Chip :=
  let c := dropLine ((holdersOf c line).foldl (fun c k => dropL1 c line k) c) line
  { c with deadDue := tabErase c.deadDue line, deadLines := (c.deadLines ++ [line]).eraseDups }

/-! ## Frames of the shadow pool for accumulator lines (R304) -/

/-- The frame that holds accumulator lines of a page in a step, and the tenant with it, one taken from the pool where there is none yet;
nothing where the pool is empty. -/
def accFrameFor (x : TenantCtx) (step page : Nat) : Option (Nat × TenantCtx) :=
  match x.accFrames.find? (fun f => decide (f.step = step) && decide (f.page = page)) with
  | some f => some (f.frame, x)
  | none =>
    match x.frames with
    | [] => none
    | f :: rest =>
      some (f, { x with frames := rest, accFrames := x.accFrames ++ [{ step := step, page := page, frame := f, lines := [] }] })

/-- The tenant with a line marked in the line map of its accumulator frame. -/
def markAcc (x : TenantCtx) (step page line : Nat) : TenantCtx :=
  { x with accFrames := x.accFrames.map (fun f =>
      if f.step = step && f.page = page && !f.lines.contains line then { f with lines := f.lines ++ [line] } else f) }

/-- An accumulator line leaves its slice for a frame of the shadow pool; false where the pool is empty (R304). -/
def spillAcc (c : Chip) (key : Nat) : Chip × Bool :=
  match sliceLine c key with
  | none => (c, true)
  | some l =>
    match l.kind with
    | .acc tensor shard step =>
      let page := pageLine key / 16384
      (match accFrameFor (ten c l.tenant) step page with
       | none => (c, false)
       | some (f, x) =>
         let n := pageLine key - arrayLine c l.tenant tensor shard 0
         let data := accLineData (stepOf (shardOf x tensor shard) step) n
         let c := setTen c l.tenant (markAcc x step page (key % 16384))
         (dropLine { c with hbm := hbmWriteLine c.hbm (f * 16384 + key % 16384) fullMask data } key, true))
    | _ => (c, true)

/-! ## Victims (R303) -/

/-- The lines of a tenant in the set and slice of a line. -/
def sameSet (c : Chip) (t line : Nat) : List (Nat × SliceLine) :=
  c.lines.filter (fun l => decide (l.2.tenant = t) && decide (sliceOf (128 * l.1) = sliceOf (128 * line)) &&
    decide (setOf (128 * l.1) = setOf (128 * line)))

/-- A tenant's pending lines in the set and slice of a line. -/
def pendingInSet (c : Chip) (t line : Nat) : List PendLine :=
  (ten c t).pendLines.filter (fun l =>
    decide (l.slice = sliceOf (128 * line)) && decide (setOf (l.page * 2097152 + 128 * l.line) = setOf (128 * line)))

/-- Whether a tenant has an invalid way in the set of a line. -/
def hasWay (c : Chip) (t line : Nat) : Bool :=
  decide ((sameSet c t line).length + (pendingInSet c t line).length < shareOf c t)

/-- The least recently used of some lines. -/
def oldestLine (l : List (Nat × SliceLine)) : Option Nat :=
  (l.foldl (fun best x =>
    match best with
    | none => some x
    | some b => if x.2.stamp < b.2.stamp then some x else some b) (none : Option (Nat × SliceLine))).map (·.1)

/-- The first answer of two. -/
def orElse' (a b : Option Nat) : Option Nat := match a with | some v => some v | none => b

/-- The victim of R303 among the lines that the slice may evict: evict-first, oldest normal, oldest keep. A line whose dead access still
waits for earlier accesses stays, as those return what the slice holds (R310, R311). -/
def victimOf (c : Chip) (l : List (Nat × SliceLine)) : Option Nat :=
  let l := l.filter (fun x => !isAccLine x.2.tenant x.2 && (tabFind c.deadDue x.1).isNone)
  orElse' (oldestLine (l.filter (fun x => decide (x.2.hint = 2))))
    (orElse' (oldestLine (l.filter (fun x => decide (x.2.hint ≠ 1)))) (oldestLine l))

/-- Make room in a tenant's ways for a line (R303): a line whose last use under a dead hint is complete goes first, without write-back;
accumulator lines go only when no other line stands there that the slice may evict (log entry 31). False when no way can be had. -/
def makeRoom (c : Chip) (t line : Nat) : Chip × Bool :=
  if hasWay c t line then (c, true)
  else
    let l := sameSet c t line
    match oldestLine (l.filter (fun x => deadDone c x.1)) with
    | some v => (dropDead c v, true)
    | none =>
      match victimOf c l with
      | some v => (evictLine c v, true)
      | none =>
        match oldestLine (l.filter (fun x => isAccLine t x.2)) with
        | some v => spillAcc c v
        | none => (c, false)

/-- The next use stamp. -/
def touch (c : Chip) : Chip := { c with lineClock := c.lineClock + 1 }

/-- A slice line newly allocated, with some bytes valid. -/
def newLine (c : Chip) (t : Nat) (kind : LineKind) (hint : Nat) (valid dirty : BitVec 128) (data : BitVec 1024) (poison : Bool) : SliceLine :=
  { tenant := t, kind := kind, valid := valid, dirty := dirty, data := data, hint := hint, stamp := c.lineClock, poison := poison,
    dir := .i, sharers := [] }

/-- Fill a region's line from HBM into its slice, merging under the bytes it already holds (R307). -/
def fillSlice (c : Chip) (t line hint : Nat) : Chip :=
  let c := touch c
  match sliceLine c line with
  | some l =>
    if l.valid = fullMask then setLine c line { l with stamp := c.lineClock, hint := hint }
    else
      setLine c line { l with data := mergeLine l.valid l.data (hbmLine c line), valid := fullMask, stamp := c.lineClock,
                              hint := hint, poison := l.poison || c.hbmPoison.contains line }
  | none =>
    let r := makeRoom c t line
    if r.2 then setLine r.1 line (newLine r.1 t .region hint fullMask 0#128 (hbmLine r.1 line) (r.1.hbmPoison.contains line)) else r.1

/-- Whether a slice holds the marked bytes of a line. -/
def sliceHit (c : Chip) (line : Nat) (need : BitVec 128) : Bool :=
  match sliceLine c line with
  | some l => covers l.valid need
  | none => false

/-- A use of a line that the slice holds: its age and its hint (R303, Table 16-4). -/
def useLine (c : Chip) (line hint : Nat) : Chip :=
  let c := touch c
  modLine c line (fun l => { l with stamp := c.lineClock, hint := hint })

/-- A slice's copy of a line as a reader sees it: with the bytes of an L1 owner in M (R306), HBM's where it holds none. -/
def observeLine (c : Chip) (line : Nat) : BitVec 1024 :=
  let base :=
    match sliceLine c line with
    | some l => mergeLine l.valid l.data (hbmLine c line)
    | none => hbmLine c line
  (holdersOf c line).foldl (fun d k =>
    match tabFind (clusterOf c k).l1 line with
    | some o => if o.modified then mergeLine o.dirty o.data d else d
    | none => d) base

/-! ## L1 (Tables 16-2, 16-3) -/

/-- How many lines an L1 of k × 512 KiB holds (R294). -/
def l1Capacity (x : Cluster) : Nat := x.lastL1 * 4096

/-- Put a line in a cluster's L1; with no room it takes the place of the line held longest, whose dirty bytes go to the slice. -/
def putL1 (c : Chip) (k : ClusterNo) (line : Nat) (o : L1Line) : Chip :=
  let x := clusterOf c k
  let place (c : Chip) : Chip := modCluster c k (fun x => { x with l1 := tabSet x.l1 line o })
  if x.l1.length < l1Capacity x || (tabFind x.l1 line).isSome then place c
  else
    match x.l1 with
    | (v, _) :: _ => place (dropL1 (pullDirty c v k) v k)
    | [] => c

/-- Whether the slice's copy of a line is poisoned, or HBM's where the slice holds none. -/
def linePoison (c : Chip) (line : Nat) : Bool :=
  match sliceLine c line with
  | some l => l.poison
  | none => c.hbmPoison.contains line

/-- A clean copy of what the slice holds of a line. -/
def cleanCopy (c : Chip) (line : Nat) : L1Line :=
  match sliceLine c line with
  | some l => { modified := false, valid := l.valid, dirty := 0#128, data := l.data, poison := l.poison }
  | none => { modified := false, valid := 0#128, dirty := 0#128, data := 0#1024, poison := false }

/-- A cluster among a coherent line's sharers. -/
def joinDir (k : ClusterNo) (l : SliceLine) : SliceLine := { l with dir := .s, sharers := k :: l.sharers.filter (fun x => decide (x ≠ k)) }

/-- A load's fill of an L1 by attribute, where the cluster has an L1 and the slice holds the line (R306): read-only in S without a
directory, a copy already held staying as it is (R305); coherent in S, another owner in M writing its dirty bytes back and keeping S; the
cluster's own line in M keeps its stored bytes (Table 16-3, R307). -/
def fillL1 (c : Chip) (k : ClusterNo) (line attr : Nat) : Chip :=
  let mine := tabFind (clusterOf c k).l1 line
  if l1Capacity (clusterOf c k) = 0 || (sliceLine c line).isNone then c
  else if attr = 1 then (if mine.isSome then c else putL1 c k line (cleanCopy c line))
  else if attr = 2 then
    match mine with
    | some o =>
      if o.modified then
        putL1 c k line { o with valid := o.valid ||| (cleanCopy c line).valid, data := mergeLine o.valid o.data (cleanCopy c line).data,
                                poison := o.poison || linePoison c line }
      else modLine (putL1 c k line (cleanCopy c line)) line (joinDir k)
    | none =>
      let c := (holdersOf c line).foldl (fun c o =>
        modCluster (pullDirty c line o) o (fun x =>
          match tabFind x.l1 line with
          | some l => { x with l1 := tabSet x.l1 line { l with modified := false, dirty := 0#128 } }
          | none => x)) c
      modLine (putL1 c k line (cleanCopy c line)) line (joinDir k)
  else c

/-- Store bytes at the slice (R305, R307): a line that is absent is allocated with only those bytes valid, and nothing is fetched. -/
def storeSlice (c : Chip) (t line hint : Nat) (mask : BitVec 128) (data : BitVec 1024) : Chip :=
  let c := touch { c with deadLines := c.deadLines.filter (fun x => decide (x ≠ line)) }
  let full := decide (mask = fullMask)
  match sliceLine c line with
  | some l =>
    setLine c line { l with data := mergeLine mask data l.data, valid := l.valid ||| mask, dirty := l.dirty ||| mask,
                            hint := hint, stamp := c.lineClock, poison := l.poison && !full }
  | none =>
    let r := makeRoom c t line
    if r.2 then setLine r.1 line (newLine r.1 t .region hint mask mask (mergeLine mask data 0#1024) false)
    else
      { r.1 with hbm := hbmWriteLine r.1.hbm line mask data,
                 hbmPoison := if full then r.1.hbmPoison.filter (fun x => decide (x ≠ line)) else r.1.hbmPoison }

/-- The slice's place for a line that an L1 is to own: one absent is allocated with no byte valid (R306, R307); false where no way can be had. -/
def placeLine (c : Chip) (t line hint : Nat) : Chip × Bool :=
  let c := touch c
  match sliceLine c line with
  | some l => (setLine c line { l with hint := hint, stamp := c.lineClock }, true)
  | none =>
    let r := makeRoom c t line
    if r.2 then (setLine r.1 line (newLine r.1 t .region hint 0#128 0#128 0#1024 false), true) else r

/-- What a cluster's L1 holds of a line before a store to it: its own copy, else the bytes valid in the slice. -/
def ownCopy (c : Chip) (k : ClusterNo) (line : Nat) : L1Line :=
  match tabFind (clusterOf c k).l1 line with
  | some o => o
  | none => cleanCopy c line

/-- A store of a cluster to a coherent line (Table 16-3): the others write back and invalidate, and the cluster owns it in M; with no L1, or
no way in the slice, it goes to the slice. -/
def storeCoherent (c : Chip) (k : ClusterNo) (t line hint : Nat) (mask : BitVec 128) (data : BitVec 1024) : Chip :=
  let others := (holdersOf c line).filter (fun o => decide (o ≠ k))
  let c := others.foldl (fun c o => dropL1 (pullDirty c line o) line o) c
  let r := placeLine c t line hint
  if l1Capacity (clusterOf c k) = 0 || !r.2 then storeSlice (recallLine c line) t line hint mask data
  else
    let c := { r.1 with deadLines := r.1.deadLines.filter (fun x => decide (x ≠ line)) }
    let old := ownCopy c k line
    let c := putL1 c k line
      { modified := true, valid := old.valid ||| mask, dirty := old.dirty ||| mask, data := mergeLine mask data old.data,
        poison := old.poison && !decide (mask = fullMask) }
    modLine c line (fun l => { l with dir := .m, sharers := [k] })

/-! ## Whole-cache operations -/

/-- Every dirty byte of a chip's caches goes to HBM; lines stay, clean (R82 step 5). -/
def writeBackAll (c : Chip) : Chip :=
  let c := (c.lines.map (·.1)).foldl (fun c line => (holdersOf c line).foldl (fun c k => pullDirty c line k) c) c
  (c.lines.map (·.1)).foldl writeBackLine c

/-- The last-level cache holds nothing, and with it no L1 copy (Table 4-3, R306); poison of the lines it held is gone with them. -/
def emptyCaches (c : Chip) : Chip :=
  { c with lines := [], lineMisses := [], deadDue := [], deadLines := [], clusters := tabMap (fun _ k => { k with l1 := [] }) c.clusters,
           tenants := tabMap (fun _ x =>
             { x with shards := tabMap (fun _ h => { h with poison := h.poison.filter (fun p => p.2.2) }) x.shards }) c.tenants }

/-- A tenant's lines invalidated without write-back (Table 7-3 step 3). -/
def dropTenantLines (c : Chip) (t : Nat) : Chip :=
  let mine := (c.lines.filter (fun l => decide (l.2.tenant = t))).map (·.1)
  let own (line : Nat) : Bool := mine.contains line || decide (ownerOf c (128 * line) = t)
  { c with lines := c.lines.filter (fun l => !decide (l.2.tenant = t)),
           lineMisses := c.lineMisses.filter (fun m => decide (m.2.tenant ≠ t)),
           deadDue := c.deadDue.filter (fun l => !own l.1), deadLines := c.deadLines.filter (fun l => !own l),
           clusters := tabMap (fun _ k => { k with l1 := k.l1.filter (fun l => !own l.1) }) c.clusters }

end Sys2Proof.Machine
end

