-- ==== Sys2Proof/Machine/Pending.lean ====
section
/-!
DEFINITION. Lines of tensor state in the slices: pending lines and their spills (R235, R239 to R241), what a commit makes of them (R238,
R243), lines of committed state (R303, R307, R310), and accumulator lines (R199, R304).
-/
namespace Sys2Proof.Machine

/-! ## Committed lines -/

/-- The hint of an access to committed tensor state: dead acts as evict-first (Table 16-4). -/
def stateHint (hint : Nat) : Nat := if hint = 3 then 2 else hint

/-- Fill lines of an array of committed state into their slices (R303, Table 16-5). -/
def loadTensor (t tensor shard array hint : Nat) (c : Chip) (ns : List Nat) : Chip :=
  ns.foldl (fun c n =>
    let key := tensorKey c t tensor shard array n
    let c := touch c
    match sliceLine c key with
    | some l => setLine c key { l with valid := fullMask, stamp := c.lineClock, hint := stateHint hint }
    | none =>
      let r := makeRoom c t key
      if r.2 then setLine r.1 key (newLine r.1 t (.tensor tensor shard array) (stateHint hint) fullMask 0#128 0#1024 false) else r.1) c

/-- A line of an array with bytes just written to committed state: dirty in its slice, or in HBM where the slice takes it in no way. With
`evict` it may take another line's way (R307); a run-ahead's results written directly take a free way only (R245). -/
def storeTensorLine (evict : Bool) (t tensor shard array hint : Nat) (c : Chip) (n : Nat) (mask : BitVec 128) : Chip :=
  let key := tensorKey c t tensor shard array n
  let c := touch c
  match sliceLine c key with
  | some l => setLine c key { l with valid := l.valid ||| mask, dirty := l.dirty ||| mask, stamp := c.lineClock, hint := stateHint hint }
  | none =>
    let r := if evict then makeRoom c t key else (c, hasWay c t key)
    if r.2 then setLine r.1 key (newLine r.1 t (.tensor tensor shard array) (stateHint hint) mask mask 0#1024 false)
    else
      let x := ten r.1 t
      { r.1 with hbm := hbmWriteLine r.1.hbm (liveLine x key) mask (arrayLineData (shardOf x tensor shard) array n) }

/-- The lines of an array that hold some offsets, with bytes just written to committed state. -/
def storeTensor (evict : Bool) (t tensor shard array hint : Nat) (c : Chip) (l : List Nat) : Chip :=
  (linesOf l).foldl (fun c n => storeTensorLine evict t tensor shard array hint c n (maskOf n l)) c

/-! ## Pending lines (R235) -/

/-- The pending bytes of a step's array, each listed where it has been written. -/
def pendMem (r : ShardStep) (array : Nat) : Mem Byte := tabGet [] r.pend array

/-- The name of the line that a pending line may share its address with. -/
def pendKey (l : PendLine) : Nat := l.page * 16384 + l.line

/-- The array of a pending line, and its line in it. -/
def pendPlace (c : Chip) (t : Nat) (l : PendLine) : Nat × Nat :=
  match extentAt c t l.page with
  | some e => (match e.kind with | .array _ _ a => (a, pendKey l - e.phys * 16384) | _ => (0, 0))
  | none => (0, 0)

/-- The bytes that a pending line marks. -/
def pendMask (m : Mem Byte) (n : Nat) : BitVec 128 :=
  (List.range 128).foldl (fun x i => if (memFind m (128 * n + i)).isSome then x ||| byteMask i 1 else x) 0#128

/-- The data of a pending line. -/
def pendData (m : Mem Byte) (n : Nat) : BitVec 1024 :=
  packBytes 1024 ((upFrom (128 * n) 128).map (fun a => (memFind m a).getD 0#8))

/-- The physical page and line of a byte of a shard's array. -/
def pendingPlace (c : Chip) (t tensor shard array offset : Nat) : Nat × Nat :=
  let pa := arrayAddress c t tensor shard array offset
  (pa / 2097152, pa % 2097152 / 128)

/-- The pending lines of some offsets in an array. -/
def pendingOf (c : Chip) (t tensor shard step array : Nat) (l : List Nat) : List PendLine :=
  ((l.map (pendingPlace c t tensor shard array)).eraseDups).map (fun p =>
    { page := p.1, line := p.2, step := step, tensor := tensor, shard := shard, slice := sliceOf (p.1 * 2097152 + 128 * p.2) })

/-! ## Spills (R239, R240) -/

/-- The pending line that a slice gives up: of the later step first, then the least recently written. -/
def spillVictim : List PendLine → Option PendLine
  | [] => none
  | l :: rest =>
    match spillVictim rest with
    | none => some l
    | some m => if l.step < m.step then some m else some l

/-- The spill frame of a pending line's page and parity with the line in its map, one taken from the pool where there is none; nothing
where the pool is empty (R239, R240). -/
def spillFrame (x : TenantCtx) (l : PendLine) : Option (Nat × TenantCtx) :=
  let r := pageRec x l.page
  match spillOf r l.step with
  | some s =>
    let map := if s.2.contains l.line then s.2 else s.2 ++ [l.line]
    some (s.1, { x with pages := tabSet x.pages l.page (setSpill r l.step (some (s.1, map))) })
  | none =>
    match x.frames with
    | [] => none
    | f :: rest => some (f, { x with frames := rest, pages := tabSet x.pages l.page (setSpill r l.step (some (f, [l.line]))) })

/-- Spill a pending line: its bytes go to the frame of its parity for its page (R239); none where a frame is needed and the pool is empty. -/
def spillLine (c : Chip) (t : Nat) (l : PendLine) : Option Chip :=
  let x := ten c t
  match spillFrame { x with pendLines := x.pendLines.erase l } l with
  | none => none
  | some (f, x) =>
    let p := pendPlace c t l
    let m := pendMem (stepOf (shardOf x l.tensor l.shard) l.step) p.1
    some { setTen c t x with hbm := hbmWriteLine c.hbm (f * 16384 + l.line) (pendMask m p.2) (pendData m p.2) }

/-- A way for a pending or an accumulator line: one that R303 gives, else that of a pending line of the set, which is spilled (log
entry 11). -/
def takeWay (c : Chip) (t key : Nat) : Chip × Bool :=
  let r := makeRoom c t key
  if r.2 then r
  else
    match spillVictim (pendingInSet r.1 t key) with
    | some v => (match spillLine r.1 t v with | some c => (c, true) | none => (r.1, false))
    | none => (r.1, false)

/-- Take a line of a step into the pending lines of its slice, within three quarters of the quota and in a way of its set; none where it
must stall (R239, R241). -/
def notePending (c : Chip) (t : Nat) (l : PendLine) : Option Chip :=
  let x := ten c t
  if x.pendLines.contains l then some (setTen c t { x with pendLines := x.pendLines.erase l ++ [l] })
  else
    let mine := x.pendLines.filter (fun m => decide (m.slice = l.slice))
    let room : Option Chip :=
      if mine.length < shareOf c t * 1536 then some c
      else match spillVictim mine with | some v => spillLine c t v | none => none
    match room with
    | none => none
    | some c =>
      let r := takeWay c t (pendKey l)
      if r.2 then some (modTen r.1 t (fun x => { x with pendLines := x.pendLines ++ [l] })) else none

/-- Take every line of a request in; none where one must stall. -/
def noteAll (t : Nat) : List PendLine → Chip → Option Chip
  | [], c => some c
  | l :: rest, c =>
    match notePending c t l with
    | some c => noteAll t rest c
    | none => none

/-! ## The commit of pending lines (R238, R243) -/

/-- A memory with every byte of another written over it. -/
def mergeBytes (m : Mem Byte) : Mem Byte → Mem Byte
  | [] => m
  | (a, b) :: rest => mergeBytes (memSet 0#8 m a b) rest

/-- Whether pending bytes cover all that an array of `size` bytes has in a line. -/
def lineCovered (p : Mem Byte) (size line : Nat) : Bool :=
  (upFrom (128 * line) 128).all (fun a => decide (size ≤ a) || (memFind p a).isSome)

/-- Bytes of a shard's array. -/
def arraySize (a : ArrayInfo) (array : Nat) : Nat := storedBytes (arrayFmt a array) a.n

/-- A shard with the pending bytes of a step become committed ones, with their poison (R238); `spilled` says which lines stand in HBM. -/
def commitBytes (a : ArrayInfo) (step : Nat) (spilled : Nat → Nat → Bool) (h : Shard) : Shard :=
  let r := stepOf h step
  let kept := h.poison.filter (fun p => !lineCovered (pendMem r p.1) (arraySize a p.1) p.2.1)
  modStep
    { h with
      arrays := [0, 1, 2, 3].foldl (fun l k => tabSet l k (mergeBytes (tabGet [] l k) (pendMem r k))) h.arrays,
      poison := kept ++ r.pendPoison.map (fun p => (p.1, p.2, spilled p.1 p.2)) }
    step (fun r => { r with pend := [], pendPoison := [] })

/-- A pending line becomes a dirty line, merged with the committed copy that the slice may hold (R238, R243). -/
def turnLine (t : Nat) (c : Chip) (l : PendLine) : Chip :=
  let p := pendPlace c t l
  let mask := pendMask (pendMem (stepOf (shardOf (ten c t) l.tensor l.shard) l.step) p.1) p.2
  let c := touch (modTen c t (fun x => { x with pendLines := x.pendLines.erase l }))
  match sliceLine c (pendKey l) with
  | some o => setLine c (pendKey l) { o with valid := o.valid ||| mask, dirty := o.dirty ||| mask, hint := 0, stamp := c.lineClock }
  | none => setLine c (pendKey l) (newLine c t (.tensor l.tensor l.shard p.1) 0 mask mask 0#1024 false)

/-- A page's spill frame of a step's parity gets every line of the page as committed, read through the cache (R243). -/
def copyPage (a : ArrayInfo) (t tensor shard step : Nat) (c : Chip) (page : Nat) : Chip :=
  let x := ten c t
  match spillOf (pageRec x page) step, extentAt c t page with
  | some s, some e =>
    (match e.kind with
     | .array _ _ k =>
       let from' := (page - e.phys) * 2097152
       let n := min 2097152 (arraySize a k - from')
       let m := arrayMem (shardOf x tensor shard) k
       { c with hbm := (List.range n).foldl (fun h i => memPut h (s.1 * 2097152 + i) (memGet 0#8 m (from' + i))) c.hbm }
     | _ => c)
  | _, _ => c

/-- The lines of an array with pending bytes of a step that no pending line and no spill frame holds, each with their mask: results that the
step's stage has written with its VERDICT known (R245). -/
def looseLines (c : Chip) (t tensor shard step array : Nat) : List (Nat × BitVec 128) :=
  let x := ten c t
  let m := pendMem (stepOf (shardOf x tensor shard) step) array
  let held (n : Nat) : Bool :=
    let p := pendingPlace c t tensor shard array (128 * n)
    x.pendLines.any (fun l => decide (l.page = p.1) && decide (l.line = p.2) && decide (l.step = step)) ||
    (match spillOf (pageRec x p.1) step with | some s => s.2.contains p.2 | none => false)
  ((linesOf (m.map (·.1))).filter (fun n => !held n)).map (fun n => (n, pendMask m n))

/-- R243 for the lines and pages of a shard: pending lines of the step turn over, pages with a spill frame are completed and swapped in.
What it frees ends a stall (R241). -/
def turnOver (a : ArrayInfo) (t tensor shard step : Nat) (c : Chip) : Chip :=
  let x := ten c t
  let mine (l : PendLine) : Bool := decide (l.tensor = tensor) && decide (l.shard = shard) && decide (l.step = step)
  let pages := shardPhysPages c t tensor shard
  let spilled (k n : Nat) : Bool :=
    let p := pendingPlace c t tensor shard k (128 * n)
    match spillOf (pageRec x p.1) step with | some s => s.2.contains p.2 | none => false
  let loose := [0, 1, 2, 3].flatMap (fun k => (looseLines c t tensor shard step k).map (fun p => (k, p)))
  let c := (x.pendLines.filter mine).foldl (turnLine t) c
  let c := modTen c t (fun x => modShard x tensor shard (commitBytes a step spilled))
  let c := pages.foldl (copyPage a t tensor shard step) c
  let c := modTen c t (fun x => pages.foldl (swapLive step) { x with stalled := false })
  loose.foldl (fun c p => storeTensorLine false t tensor shard p.1 0 c p.2.1 p.2.2) c

/-! ## Accumulator lines (R199, R304; log entry 31) -/

/-- An accumulator's line held by its slice for an add: the one there, or a new one, which starts as +0 without a fetch (R309); false
where the slice refuses the add. -/
def holdAcc (t tensor shard step : Nat) (c : Chip) (n : Nat) : Chip × Bool :=
  let key := accKey c t tensor shard step n
  match sliceLine c key with
  | some _ => (useLine c key 0, true)
  | none =>
    let r := takeWay (touch c) t key
    if r.2 then (setLine r.1 key (newLine r.1 t (.acc tensor shard step) 0 fullMask fullMask 0#1024 false), true) else r

/-- An accumulator is gone: its lines, and the frames that held some, which ends a stall for want of one (R215, R241, R304). -/
def dropAcc (c : Chip) (t tensor shard step : Nat) : Chip :=
  let pages := shardPhysPages c t tensor shard
  let c := { c with lines := c.lines.filter (fun l => !(decide (l.2.tenant = t) && decide (l.2.kind = .acc tensor shard step))) }
  modTen c t (fun x =>
    let mine (f : AccFrame) : Bool := decide (f.step = step) && pages.contains f.page
    { x with frames := x.frames ++ (x.accFrames.filter mine).map (·.frame), accFrames := x.accFrames.filter (fun f => !mine f),
             stalled := x.stalled && !x.accFrames.any mine })

end Sys2Proof.Machine
end

