-- ==== Sys2Proof/Machine/Keeper.lean ====
section
/-!
DEFINITION. The tray keeper's own work (chapters 2 and 3): feeds, rails, ladders, fans, cages and the flash grant.
-/
namespace Sys2Proof.Machine

/-! ## Ladders (R50, R52) -/

/-- The lower edges of the bands of codes 1 to 15 in tenths of a millivolt (Table 3-1). -/
def bandEdges : List Nat := [100, 286, 510, 748, 1022, 1346, 1732, 2200, 2800, 3600, 4680, 6180, 8440, 12380, 24000]

/-- The code of a node voltage: a voltage on an edge belongs to the higher code (R50). -/
def ladderCode (tenthsMv : Nat) : Fin 16 :=
  ⟨(bandEdges.filter (fun e => decide (e ≤ tenthsMv))).length % 16, Nat.mod_lt _ (by decide)⟩

/-- The one value of a list of conversions, when they agree (R52). -/
def agreed {α : Type} [DecidableEq α] : List α → Option α
  | [] => none
  | x :: rest => if rest.all (fun y => decide (y = x)) then some x else none

/-- A ladder's reading: eight agreeing conversions, or eight of the one repeat; unstable otherwise (R52). -/
def senseLadder (r : LadderReading) : Option (Fin 16) :=
  match agreed (r.first.map ladderCode) with
  | some v => some v
  | none => agreed (r.again.map ladderCode)

/-- A two-level input's reading by the same rule (R52). -/
def senseLevel (r : LevelReading) : Option Bool :=
  match agreed r.first with
  | some v => some v
  | none => agreed r.again

/-- The set the keeper senses, with a CHIPPOS reading (R35, R53). -/
def senseStraps (r : StrapReadings) (pos : Option (BitVec 2)) : StrapSet :=
  { trayidH := senseLadder r.trayidH, trayidL := senseLadder r.trayidL, tenlayout := senseLadder r.tenlayout,
    bwsplit := senseLadder r.bwsplit, portmodeH := senseLadder r.portmodeH, portmodeT := senseLadder r.portmodeT,
    bankSel := senseLevel r.bankSel, heatEn := senseLevel r.heatEn, debugEn := senseLevel r.debugEn, chippos := pos }

/-! ## Fans (R36, R62) -/

/-- Low duty, low and high temperature of a FANCURVE code (Table 3-8); none for the code 3 curve. -/
def fanCurve (code : Option (Fin 16)) : Option (Nat × Nat × Nat) :=
  match code.map (·.val) with
  | some 0 => some (30, 25, 55)
  | some 15 => some (30, 25, 55)
  | some 1 => some (20, 30, 60)
  | some 2 => some (40, 20, 50)
  | some 4 => some (25, 35, 62)
  | some 5 => some (50, 15, 45)
  | _ => none

/-- Fan duty in percent as a fraction, for a temperature in whole °C (R62). -/
def curveDuty (code : Option (Fin 16)) (celsius : Int) : Nat × Nat :=
  match fanCurve code with
  | none => (100, 1)
  | some (low, lo, hi) =>
    if celsius ≤ (lo : Int) then (low, 1)
    else if (hi : Int) ≤ celsius then (100, 1)
    else (low * (hi - lo) + (100 - low) * (celsius - (lo : Int)).toNat, hi - lo)

/-- The highest thermistor reading. -/
def highestReading (l : List Int) : Option Int :=
  match l with
  | [] => none
  | x :: rest => some (rest.foldl max x)

/-- Whether every fan module is present and no rotor slow (R36). -/
def fansWhole (y : Tray) : Bool := y.fans.all (fun f => f.2.present && !f.2.slow0 && !f.2.slow1)

/-- Set the duty by R36, with COLD_n as it stands. Where COLD_n's stop and a failed fan's 100 % meet, the stop wins, and the curve
holds in every season, Winter too (DESIGN CHOICE, log entry 59). -/
def setFans (y : Tray) (cold : Bool) : Tray :=
  let temps := y.thermistors.map (·.2)
  let duty :=
    if cold && temps.all (fun t => decide (t < 60)) then (0, 1)
    else if !fansWhole y then (100, 1)
    else
      match highestReading temps with
      | some t => curveDuty y.fancurve t
      | none => (y.fanDutyNum, y.fanDutyDen)
  { y with fanDutyNum := duty.1, fanDutyDen := duty.2 }

/-- Set the fans after a change of COLD_n or of a reading. -/
def refreshFans (s : State) : State := modTray s (fun y => setFans y (anyChip s (fun c => c.wake.cold)))

/-- A thermistor reads; open or short counts as +125 °C (R36). -/
def execThermistorReading (i : Fin 6) (celsius : Option Int) (s : State) : Host.Outcome State Fault Refusal :=
  if railOf s.tray .vkeep = .up then
    .next (refreshFans (modTray s (fun y => { y with thermistors := tabSet y.thermistors i (celsius.getD 125) })))
  else .next s

/-- A fan module after a failure or the end of one (R36, R37). -/
def failFan (m : FanModule) (f : FanFault) : FanModule :=
  match f with
  | .rotor true => { m with slow1 := true }
  | .rotor false => { m with slow0 := true }
  | .absent => { m with present := false }
  | .regained true => { m with slow1 := false }
  | .regained false => { m with slow0 := false }
  | .fitted => { present := true, slow0 := false, slow1 := false }

/-- A rotor is slow or a module absent: every remaining rotor runs at 100 % while it lasts (R36). -/
def execFanFailure (m : Fin 6) (f : FanFault) (s : State) : Host.Outcome State Fault Refusal :=
  .next (refreshFans (modTray s (fun y => { y with fans := tabSet y.fans m (failFan (tabGet .reset y.fans m) f) })))

/-! ## Cages (R38, R43) -/

/-- The first port of a cage within its chip's block, by row and column (Table 2-3). -/
def cageFirstPort (row column : Nat) : Nat :=
  match row, column with
  | 0, 0 => 24
  | 0, 1 => 28
  | 0, 2 => 48
  | 0, 3 => 52
  | 0, _ => 32
  | _, 0 => 36
  | _, 1 => 40
  | _, 2 => 44
  | _, 3 => 56
  | _, _ => 60

/-- The chip position of a cage (R43). -/
def cageChip (cage : Fin 40) : Pos := ⟨cage.val % 20 / 5, by omega⟩

/-- The first port of a cage on its chip (R43). -/
def cagePort (cage : Fin 40) : Nat := cageFirstPort (cage.val / 20) (cage.val % 5)

/-- The cage of a port of the chip at a position, none for a mesh port (R43). -/
def cageOfPort (pos : Pos) (p : PortNo) : Option (Fin 40) :=
  (List.finRange 40).find? (fun g =>
    decide (cageChip g = pos) && decide (cagePort g ≤ p.val) && decide (p.val < cagePort g + 4))

/-- The mode of a group's ports under the latched PORTMODE codes (R60, R61, Table 8-1). -/
def strappedMode (w : StrapSet) (p : PortNo) : PortMode :=
  let h := portModeH (codeOf w.portmodeH)
  let t := portModeT (codeOf w.portmodeT)
  if p.val < 24 then .native
  else if p.val < 28 then (match h with | some m => m.1 | none => .off)
  else if p.val < 32 then (match h with | some m => m.2 | none => .off)
  else if p.val < 40 then t.1
  else if p.val < 48 then t.2.1
  else if p.val < 56 then t.2.2.1
  else t.2.2.2

/-- Whether a module's cage may go to high power: 5 W or less, and its ports not strapped off (R38, section 3.6). -/
def cageHighPower (s : State) (cage : Fin 40) (milliwatts : Nat) : Bool :=
  let w := (getChip s (cageChip cage)).wake.latched
  decide (milliwatts ≤ 5000) &&
  (match Fin.ofNat 64 (cagePort cage) with | p => decide (strappedMode w p ≠ .off))

/-- Read a present module's power class and set its power mode (R38). -/
def readCage (s : State) (cage : Fin 40) (g : Cage) : Cage :=
  if g.present then { g with highPower := cageHighPower s cage g.milliwatts } else g

/-- Read every module, as on each entry to Spring (R38). -/
def readCages (s : State) : State := modTray s (fun y => { y with cages := tabMap (fun k g => readCage s k g) y.cages })

/-! ## Feeds and power (R24, R25) -/

/-- The keeper's report of a feed. -/
def setFeed (y : Tray) (f : Feed) (v : Bool) : Tray :=
  match f with
  | .a => { y with feedA := v }
  | .b => { y with feedB := v }

/-- A feed has held 40.0 V for 10 ms: reported present (R24), by a keeper that runs. -/
def execFeedPresent (f : Feed) (s : State) : Host.Outcome State Fault Refusal :=
  if railOf s.tray .vkeep = .down then .next s else .next (modTray s (fun y => setFeed y f true))

/-- A feed has stayed below 38.0 V for 2 ms: reported absent (R24), by a keeper that runs. -/
def execFeedAbsent (f : Feed) (s : State) : Host.Outcome State Fault Refusal :=
  if railOf s.tray .vkeep = .down then .next s else .next (modTray s (fun y => setFeed y f false))

/-- A chip without power: it keeps its fuses, and the model's counts of draws and nonces so that free values stay fresh. -/
def chipOff (c : Chip) : Chip :=
  { Chip.reset with fuses := c.fuses, vault := { Vault.reset with drawn := c.vault.drawn }, nonces := c.nonces }

/-- Every chip without power. -/
def chipsOff (s : State) : State := mapChips s (fun _ c => chipOff c)

/-- A rail's state set. -/
def setRail (y : Tray) (r : Rail) (v : RailState) : Tray := { y with rails := tabSet y.rails r v }

/-- VKEEP rises and the keeper leaves reset: both feeds start as absent, FANCURVE is sensed and sets the duty, the lid is found as it
stands, the keeper's TAP in Test-Logic-Reset (R24, R25, R27, R62, R393). Only from Off. -/
def execTrayStart (fancurve : LadderReading) (lidOpen : Bool) (s : State) : Host.Outcome State Fault Refusal :=
  if railOf s.tray .vkeep = .down then
    .next (refreshFans (modTray s (fun y =>
      { setRail y .vkeep .rising with
        feedA := false, feedB := false, fancurve := senseLadder fancurve, lidOpen := lidOpen, tap := .reset })))
  else .next s

/-- The keeper Off: it keeps what is physical (flash contents, pin levels, modules, fans, readings) and nothing else. -/
def trayOff (y : Tray) : Tray :=
  { Tray.reset with
    seasonPins := y.seasonPins, thermistors := y.thermistors, fans := y.fans, cages := tabMap (fun _ g => { g with highPower := false }) y.cages,
    lidOpen := y.lidOpen, tamperLow := y.tamperLow, tenrstLow := y.tenrstLow, flashReq := y.flashReq, flash := y.flash,
    flashConfigAltered := y.flashConfigAltered, now := y.now }

/-- Both feeds are lost: every rail is removed and the tray is Off (R25). -/
def execTrayPowerLoss (s : State) : Host.Outcome State Fault Refusal := .next (chipsOff (modTray s trayOff))

/-! ## The flash grant (R40, R91 to R93) -/

/-- Chip A is reading the image: from the start of step 6 until a bank is accepted or both have failed (R93). -/
def reading (y : Tray) : Bool := decide (y.load.phase ≠ .idle) && decide (y.load.phase ≠ .waitGrant)

/-- The keeper resets the flash into 1S-1S-1S mode and grants it (R40). -/
def grantFlash (y : Tray) : Tray := { y with flashOctal := false, flashGnt := true, grantDue := false }

/-- FLASH_REQ_n is asserted: granted at once, or after the read (R40, R93). -/
def execFlashRequest (s : State) : Host.Outcome State Fault Refusal :=
  if railOf s.tray .vkeep = .up then
    .next (modTray s (fun y =>
      let y := { y with flashReq := true }
      if reading y then { y with grantDue := true } else grantFlash y))
  else .next (modTray s (fun y => { y with flashReq := true }))

/-- The read has ended with a request waiting: it is granted (R40). -/
def execFlashGrantAfterRead (s : State) : Host.Outcome State Fault Refusal :=
  if s.tray.grantDue && s.tray.flashReq && !reading s.tray then .next (modTray s grantFlash) else .next s

/-- FLASH_REQ_n is deasserted: the grant ends, the flash is reset and returns to chip A, which begins a read that waited for
it (R40, R92). -/
def execFlashRelease (s : State) : Host.Outcome State Fault Refusal :=
  .next (modTray s (fun y =>
    let y := { y with flashReq := false, flashGnt := false, grantDue := false, flashOctal := y.flashOctal && reading y }
    if y.load.phase = .waitGrant then { y with load := { y.load with phase := .header }, flashOctal := true } else y))

/-- The bytes of the flash (R89). -/
def flashSize : Nat := 67108864

/-- Whether a flash operation stays inside the device (R89). -/
def flashOpInside (op : FlashOp) : Bool :=
  match op with
  | .program a bs => decide (a + bs.length ≤ flashSize)
  | .erase a n => decide (a + n ≤ flashSize)
  | .configure _ => true

/-- What a sequence leaves in the flash: programmed bytes, erased bytes reading 0xFF, or another configuration (R91). -/
def applyFlashOp (y : Tray) (op : FlashOp) : Tray :=
  match op with
  | .program a bs => { y with flash := memWrite 0xFF#8 y.flash a bs }
  | .erase a n => { y with flash := memErase a n y.flash }
  | .configure v => { y with flashConfigAltered := v }

/-- A host's program or erase sequence; while FLASH_GNT_n is not asserted the keeper ignores the pins (R41). -/
def execFlashProgramEraseSequence (op : FlashOp) (s : State) : Host.Outcome State Fault Refusal :=
  if (pinsOf s).flashGnt then
    if flashOpInside op then .next (modTray s (fun y => applyFlashOp y op)) else .fault .outsideFlash
  else .next s

end Sys2Proof.Machine
end

