-- ==== Sys2Proof/Machine/Ports.lean ====
section
/-!
DEFINITION. A chip's ports as the links use them (chapter 8): which port is what, pools and credits, training, the flits of a
frame, loss of a port, and the route of R158, R159 and R163.
-/
namespace Sys2Proof.Machine

/-! ## Port groups (Table 8-1) -/

/-- A mesh port, G0 to G2. -/
def isMesh (p : PortNo) : Bool := decide (p.val < 24)

/-- A host port, G3. -/
def isHostPort (p : PortNo) : Bool := decide (24 ≤ p.val) && decide (p.val < 32)

/-- A torus port, G4 to G7. -/
def isTorus (p : PortNo) : Bool := decide (32 ≤ p.val)

/-- A link to another chip: its frames carry a route prefix (R143). -/
def isChipLink (p : PortNo) : Bool := !isHostPort p

/-- The ports of a group. -/
def groupPorts (g : Nat) : List PortNo := (List.finRange 64).filter (fun p => decide (p.val / 8 = g))

/-- The group of a torus direction (section 2.4). -/
def directionGroup (d : Direction) : Nat :=
  match d with
  | .east => 4
  | .west => 5
  | .north => 6
  | .south => 7

/-- The other direction on the same axis. -/
def opposite (d : Direction) : Direction :=
  match d with
  | .east => .west
  | .west => .east
  | .north => .south
  | .south => .north

/-- Whether a port is up. -/
def portUp (c : Chip) (p : PortNo) : Bool := decide ((portOf c p).step = .up)

/-- The ports of a group that are up, ascending. -/
def upPorts (c : Chip) (g : Nat) : List PortNo := (groupPorts g).filter (portUp c)

/-! ## Receive pools (Table 8-6) -/

/-- The size of a pool of a port, in flits. -/
def poolSize (c : Chip) (p : PortNo) (pool : Pool) : Nat :=
  match pool with
  | .vc0 false => if isTorus p then 1024 else 2048
  | .vc0 true => if isTorus p then 1024 else 0
  | .ten _ false t => shareOf c t * 512
  | .ten _ true t => if isTorus p && tenantExists c t then 515 else 0

/-- Every pool of a port. -/
def allPools : List Pool :=
  [.vc0 false, .vc0 true] ++
  (List.range 8).flatMap (fun t => [.ten false false t, .ten true false t, .ten false true t, .ten true true t])

/-- The pools of a CREDIT flit's CLASS, T0 first (Table 8-4). -/
def classPools (cls : Nat) : List Pool :=
  let vc2 : Bool := cls = 2 || cls = 6
  let dl : Bool := cls = 5 || cls = 6
  (List.range 8).map (fun t => .ten vc2 dl t)

/-- The pool of a data flit by its VC, DL bit and tenant. -/
def flitPool (vc : Nat) (dl : Bool) (t : Nat) : Pool :=
  match vc with
  | 1 => .ten false dl t
  | 2 => .ten true dl t
  | _ => .vc0 dl

/-- Flits that a pool's last advertised count still allows (R150). -/
def creditOf (x : Port) (pool : Pool) : Nat := (tabGet 0 x.advertised pool + 65536 - tabGet 0 x.sent pool) % 65536

/-! ## Sending units -/

/-- Send a wire unit: at once in native mode, by way of the MAC frame being filled in Ethernet mode (R156). -/
def sendUnit (x : Port) (u : BitVec 320) : Port :=
  if x.mode = .ethernet then { x with ethQueue := x.ethQueue ++ [u] } else { x with wire := x.wire ++ [u] }

/-- Send several units in order. -/
def sendUnits (x : Port) (us : List (BitVec 320)) : Port := us.foldl sendUnit x

/-- A CREDIT flit of a class with the port's cumulative counts (Table 8-4). -/
def creditContent (x : Port) (cls : Nat) : BitVec 256 :=
  let g (pool : Pool) : List Byte := leBytes 2 (tabGet 0 x.granted pool)
  packBytes 256
    (leBytes 1 0x01 ++ leBytes 1 cls ++ leBytes 2 ((x.rxSeq + 65535) % 65536) ++ g (.vc0 false) ++ g (.vc0 true) ++
     (classPools cls).flatMap g)

/-- Send a CREDIT flit of a class. -/
def sendCredit (x : Port) (cls : Nat) : Port := sendUnit x (controlUnit (creditContent x cls))

/-! ## Training (R153) -/

/-- How many frames each ingress queue of a port holds. -/
def queueLengths (x : Port) : Tab (BitVec 2 × Nat) Nat := x.ingress.map (fun q => (q.1, q.2.length))

/-- A port with everything that a training resets: SEQ, replay, pools, credits, partial frames (R145, R149, R162). Frames received
whole stay in their queues. -/
def clearLink (x : Port) (step : TrainStep) : Port :=
  { x with step := step, nonce := 0#32, echoed := false, checked := false, txSeq := 0, replay := [], resends := 0,
           rxSeq := 0, nakSent := false, crcFails := 0, creditsIn := false, creditsOut := false, advertised := [],
           sent := [], granted := [], heldFlits := [], stale := queueLengths x, dispatched := [], assembly := [], unacked := [], ethQueue := [] }

/-- A port down, with what STAT_DATA still reports of it (Table 9-15). -/
def portOff (x : Port) : Port := { Port.reset with mode := x.mode, epoch := x.epoch, rttUs := x.rttUs, lastFault := x.lastFault, wire := x.wire, macWire := x.macWire }

/-- A port that goes down for good: nothing of its link is left, but the frames it has received whole (R162). -/
def portStopped (x : Port) : Port :=
  { portOff x with ingress := x.ingress, stale := queueLengths x, inDeficit := x.inDeficit }

/-- Begin a training attempt at a step of Table 8-7; EPOCH counts attempts. -/
def beginTraining (x : Port) (step : TrainStep) : Port := { clearLink x step with epoch := (x.epoch + 1) % 2 ^ 32 }

/-- Whether frames still move on a chip: its links run, or it is on its way to Winter and its links have not gone down yet (R19,
R153). -/
def framesMove (c : Chip) (on : Bool) : Bool := on || (decide (c.wake.season = .winter) && !c.wake.winterReported)

/-- Whether the chip's links may run: VCORE is up, Spring has begun and has not failed, and the chip is not stopped. -/
def linksOn (c : Chip) : Bool :=
  coreUp c && !c.wake.stopped &&
  decide (c.wake.phase ≠ .idle) && decide (c.wake.phase ≠ .failed) && decide (c.wake.phase ≠ .blank) &&
  !(decide (c.wake.phase ≠ .done) && decide (c.vault.lifeCycle = .blank))

/-- Whether R105 and R155 let a torus port train: an axis of size 1 stays down, and so does the edge of an axis that does not
wrap. Before an image is accepted neither is known, and no torus port trains (DESIGN CHOICE, log entry 39). -/
def axisEnabled (c : Chip) (p : PortNo) : Bool :=
  match c.image with
  | none => decide (p.val < 32)
  | some i =>
    let x := trayOf c % 16
    let y := trayOf c / 16
    match p.val / 8 with
    | 4 => decide (2 ≤ i.xSize) && (i.wrapX || decide (x + 1 < i.xSize))
    | 5 => decide (2 ≤ i.xSize) && (i.wrapX || decide (0 < x))
    | 6 => decide (2 ≤ i.ySize) && (i.wrapY || decide (y + 1 < i.ySize))
    | 7 => decide (2 ≤ i.ySize) && (i.wrapY || decide (0 < y))
    | _ => true

/-- Whether a port's cage lets it train: a module of more than 5 W keeps its ports down, and an Ethernet port needs its module
in high-power mode (R38, Table 8-7). -/
def cageEnabled (s : State) (pos : Pos) (p : PortNo) (mode : PortMode) : Bool :=
  match cageOfPort pos p with
  | none => true
  | some g =>
    let k := tabGet .reset s.tray.cages g
    !(k.present && decide (5000 < k.milliwatts)) && (decide (mode ≠ .ethernet) || k.highPower)

/-- Whether R106 lets a port of a mode train: one strapped to Ethernet needs an ETHERTYPE, which only an accepted image gives (log entry
39). -/
def etherEnabled (c : Chip) (mode : PortMode) : Bool :=
  decide (mode ≠ .ethernet) || (c.image.isSome && !ethertypeAbsent c)

/-- Whether a port trains (R105, R106, R153, R155). -/
def portEnabled (s : State) (pos : Pos) (p : PortNo) : Bool :=
  let c := getChip s pos
  let mode := strappedMode c.wake.latched p
  linksOn c && decide (mode ≠ .off) && axisEnabled c p && etherEnabled c mode &&
  cageEnabled s pos p mode

/-- Begin training every port that may train, at entry to Spring (R153). -/
def startPorts (s : State) (pos : Pos) : State :=
  let ps := (List.finRange 64).filter (portEnabled s pos)
  modChip s pos (fun c =>
    ps.foldl (fun c p => modPort c p (fun x =>
      beginTraining { portOff x with mode := strappedMode c.wake.latched p, lastFault := 0 } .lanes))
      { c with ports := tabMap (fun p x => { portOff x with mode := strappedMode c.wake.latched p, lastFault := 0 }) c.ports })

/-- Begin training a port that is down (Table 8-7 step 1). -/
def openPort (c : Chip) (p : PortNo) : Chip :=
  modPort c p (fun x => if x.step = .down then beginTraining x .lanes else x)

/-- Begin training every port that is down and may now train: those that waited for the image (R105, R106, R155, log entry 39). -/
def openPorts (s : State) (pos : Pos) : State :=
  modChip s pos (fun c => ((List.finRange 64).filter (portEnabled s pos)).foldl openPort c)

/-- Every port of a chip down (R153: in Winter every port is down; R88). -/
def allPortsOff (c : Chip) : Chip := { c with ports := tabMap (fun _ x => portOff x) c.ports, lostPeers := [], lostDirs := [] }

/-! ## Loss of a port (R162) -/

/-- Every frame that a port has not had acknowledged or has not yet sent, oldest first. -/
def waitingFrames (x : Port) : List TxFrame := x.unacked ++ x.egress.flatMap (·.2)

/-- The frames of a port that goes down: a mesh or torus port's go back to be routed over another port of its group; a host
port's are discarded and counted (R162, R160). -/
def returnFrames (c : Chip) (p : PortNo) : Chip :=
  let fs := waitingFrames (portOf c p)
  let c := modPort c p (fun x => { x with unacked := [], egress := [], outDeficit := [] })
  if isChipLink p then { c with outbox := fs ++ c.outbox } else countDev c 133 fs.length

/-- Record a link fault with its port (R163). -/
def linkFault (c : Chip) (p : PortNo) (code : Nat) : Chip :=
  opFault (modPort c p (fun x => { x with lastFault := code })) code (some p)

/-- A port is lost and trains again from step 1 when it may (R153). -/
def losePort (s : State) (pos : Pos) (p : PortNo) : State :=
  let on := portEnabled s pos p
  modChip s pos (fun c =>
    modPort (returnFrames c p) p (fun x => if on then beginTraining x .lanes else portStopped x))

/-! ## The flits of a frame (R143) -/

/-- A byte string cut into 32-byte flits, the last filled with zeros. -/
def flitContents : Nat → List Byte → List (BitVec 256)
  | 0, _ => []
  | n + 1, bs => if bs.isEmpty then [] else packBytes 256 (bs.take 32) :: flitContents n (bs.drop 32)

/-- The contents of a frame's flits: on a chip link its prefix first, then header, payload, trailer and fill. -/
def frameContents (chipLink : Bool) (f : TxFrame) : List (BitVec 256) :=
  let body := f.frame.payload ++ bytesOf f.frame.trailer 4
  (if chipLink then [packBytes 256 (prefixBytes f.route)] else []) ++
  f.frame.hdr :: flitContents (ceilDiv body.length 32) body

/-- A frame's tenant tag: its tenant on VC1 and VC2, 0 otherwise (Table 8-2). -/
def tagOf (f : TxFrame) : Nat := if f.vc = 0#2 then 0 else (frameHead f.frame).tenant

/-- The numbered data units of a frame from a SEQ on, SOF first and EOF last. -/
def frameUnits (seq : Nat) (f : TxFrame) (cs : List (BitVec 256)) : List (BitVec 320) :=
  (List.zip (List.range cs.length) cs).map (fun p =>
    packUnit { kind := 1, vc := f.vc.toNat, sof := p.1 = 0, eof := p.1 + 1 = cs.length, dl := f.route.dl, tenant := tagOf f,
               seq := (seq + p.1) % 65536, content := p.2 })

/-! ## Routing (R158, R159, R163) -/

/-- Where a frame goes next: nowhere but here, or along a torus direction or a mesh group. -/
inductive Hop where
  | here
  | torus (d : Direction) (route : Prefix)
  | mesh (group : Nat)
deriving DecidableEq, Repr

/-- The tray coordinates of a chip number. -/
def coordsOf (chip : Nat) : Nat × Nat := (chip / 4 % 16, chip / 64)

/-- The direction on one axis: the one a detour holds, the shorter on a wrapped axis (a tie goes up), else the only one. -/
def axisUp (n : Nat) (wrapped : Bool) (detour : Option Bool) (here there : Nat) : Bool :=
  if wrapped then
    match detour with
    | some down => !down
    | none =>
      let up := (there + n - here) % n
      decide (up ≤ n - up)
  else decide (here < there)

/-- Take a direction unless it is lost on a wrapped axis: then the other one, held in the prefix (R163). -/
def detourX (c : Chip) (wrapped : Bool) (r : Prefix) (east : Bool) : Hop :=
  let d : Direction := if east then .east else .west
  if wrapped && !r.detourX && c.lostDirs.contains d then .torus (opposite d) { r with detourX := true, dirX := east }
  else .torus d r

/-- The same on the y axis. -/
def detourY (c : Chip) (wrapped : Bool) (r : Prefix) (north : Bool) : Hop :=
  let d : Direction := if north then .north else .south
  if wrapped && !r.detourY && c.lostDirs.contains d then .torus (opposite d) { r with detourY := true, dirY := north }
  else .torus d r

/-- The next hop of a frame: x, then y, then the mesh group to the target position (R158). -/
def nextHop (c : Chip) (r : Prefix) : Hop :=
  let target := r.targetChip.toNat
  let me := coordsOf (chipNo c)
  let dst := coordsOf target
  let wrapX := match c.image with | some i => i.wrapX | none => false
  let wrapY := match c.image with | some i => i.wrapY | none => false
  if me.1 ≠ dst.1 then
    detourX c wrapX r (axisUp (torusOf c).1 wrapX (if r.detourX then some r.dirX else none) me.1 dst.1)
  else if me.2 ≠ dst.2 then
    detourY c wrapY r (axisUp (torusOf c).2 wrapY (if r.detourY then some r.dirY else none) me.2 dst.2)
  else if target = chipNo c then .here
  else .mesh ((target % 4 + 7 - chipNo c % 4) % 4)

/-- The group of ports that a hop takes. -/
def hopGroup (h : Hop) : Nat :=
  match h with
  | .here => 8
  | .torus d _ => directionGroup d
  | .mesh g => g

/-- The prefix that a hop leaves on the frame. -/
def hopRoute (h : Hop) (r : Prefix) : Prefix :=
  match h with
  | .torus _ r' => r'
  | _ => r

/-- Whether the link from coordinate a in a direction on an axis of n crosses the dateline (R159). -/
def crossesDateline (n : Nat) (wrapped up : Bool) (a : Nat) : Bool :=
  wrapped && decide (2 ≤ n) && (if up then decide (a + 1 = n / 2) else decide (a = n / 2))

/-- The prefix as it stands on the link that leaves by a port: one more hop, DL set where the link crosses the dateline. -/
def linkRoute (c : Chip) (p : PortNo) (r : Prefix) : Prefix :=
  let wrapX := match c.image with | some i => i.wrapX | none => false
  let wrapY := match c.image with | some i => i.wrapY | none => false
  let me := coordsOf (chipNo c)
  let crosses :=
    match p.val / 8 with
    | 4 => crossesDateline (torusOf c).1 wrapX true me.1
    | 5 => crossesDateline (torusOf c).1 wrapX false me.1
    | 6 => crossesDateline (torusOf c).2 wrapY true me.2
    | 7 => crossesDateline (torusOf c).2 wrapY false me.2
    | _ => false
  { r with hops := r.hops + 1#8, dl := r.dl || crosses }

/-- The prefix as the chip that a frame has reached leaves it: a detour ends at its target coordinate, DL at a turn from x to y
and on the target tray (R159, R163). -/
def arriveRoute (c : Chip) (p : PortNo) (r : Prefix) : Prefix :=
  let me := coordsOf (chipNo c)
  let dst := coordsOf r.targetChip.toNat
  let xDone := decide (me.1 = dst.1)
  let yDone := decide (me.2 = dst.2)
  let fromX := decide (p.val / 8 = 4) || decide (p.val / 8 = 5)
  { r with detourX := r.detourX && !xDone, detourY := r.detourY && !(xDone && yDone),
           dl := r.dl && !((xDone && fromX) || (xDone && yDone)) }

/-- The port a frame leaves by among those that are up: (tensor + shard + tenant) mod U (R158). -/
def choosePort (ups : List PortNo) (h : Hdr) : Option PortNo := ups[(h.tensor + h.shard + h.tenant) % ups.length]?

/-- The queue of a port that a frame waits in: by VC, and by tenant on VC1 and VC2. -/
def egressKey (f : TxFrame) : BitVec 2 × Nat := (f.vc, tagOf f)

/-- Put a frame in a port's egress queue. -/
def enqueue (c : Chip) (p : PortNo) (f : TxFrame) : Chip :=
  modPort c p (fun x => { x with egress := tabSet x.egress (egressKey f) (tabGet [] x.egress (egressKey f) ++ [f]) })

/-- A frame with no port to take: discarded and counted; a VC0 frame is not sent again (R369). -/
def discardFrame (c : Chip) (f : TxFrame) : Chip :=
  let c := countDev c 133 1
  if f.vc = 0#2 then countTen c (frameHead f.frame).tenant 36 1 else c

/-- A frame for this chip itself, as it stands before processing. -/
def deliverHere (c : Chip) (f : TxFrame) : Chip :=
  { c with inbox := c.inbox ++ [{ frame := f.frame, port := 0, vc := f.vc, tagTenant := BitVec.ofNat 3 (tagOf f),
                                  flits := flitsOf f.frame.payload.length, route := some f.route }] }

/-- Route one frame: to this chip, to a host port of it, or along the next link (R158, R160, R369). -/
def routeFrame (c : Chip) (f : TxFrame) : Chip :=
  match nextHop c f.route with
  | .here =>
    if f.route.targetPort = 0x3F#8 then deliverHere c f
    else
      let p : PortNo := Fin.ofNat 64 f.route.targetPort.toNat
      if isHostPort p && portUp c p then enqueue c p f else countDev c 133 1
  | h =>
    match choosePort (upPorts c (hopGroup h)) (frameHead f.frame) with
    | some p => enqueue c p { f with route := hopRoute h f.route }
    | none => discardFrame c f

end Sys2Proof.Machine
end

