-- ==== Sys2Proof/Machine/Seasons.lean ====
section
/-!
DEFINITION. Rails and seasons (chapters 2 to 4): power-up, the forwarded codes and their answers, strap delivery, the Autumn
drain, the way into Winter, rail faults and re-sensing.
-/
namespace Sys2Proof.Machine

/-! ## Rails (R27, R28, R30) -/

/-- The five rails that Spring raises, in order (R28). -/
def springRails : List Rail := [.vcore, .vsram, .vser, .vserh, .vcage]

/-- Raise the first rail of a list that is down, once every rail before it is in regulation (R27). -/
def raiseNext : List Rail → Tray → Tray
  | [], y => y
  | r :: rest, y =>
    match railOf y r with
    | .up => raiseNext rest y
    | .rising => y
    | .down => setRail y r .rising

/-- A chip whose always-on reset is released: it stands in Winter, holding nothing from before Off (Table 2-2 step 5); its life
cycle is read from its fuses. HBM was never initialised and so is in no self-refresh, which R67 asks of a finished Winter: the model
counts this Winter as finished and reported, READY high (DESIGN CHOICE, log entry 61). -/
def powerUpChip (c : Chip) : Chip :=
  let c := chipOff c
  { c with wake := { c.wake with season := .winter, entered := true, winterReported := true },
           vault := { c.vault with lifeCycle := c.fuses } }

/-! ## Keys (R377, R378) -/

/-- A tenant's key record. -/
def setKey (c : Chip) (t : Nat) (k : KeyRec) : Chip := { c with vault := { c.vault with keys := tabSet c.vault.keys t k } }

/-- HBM bytes of a region whose key is gone: what was written can no longer be read (R381). -/
def loseRegion (c : Chip) (base size : Nat) : Chip := { c with hbm := memErase base size c.hbm }

/-- KEY2 of the n-th key that a chip draws: any value but KEY1 (R377). -/
def keyTwo (c : Chip) (n : Nat) : BitVec 256 :=
  Config.keyOne (posOf c) n + BitVec.ofNat 256 (1 + Config.keyGap (posOf c) n % (2 ^ 256 - 1))

/-- Draw a fresh key for tenant t, which destroys the slot's old key and with it what the region held (R377, R381). -/
def drawKey (c : Chip) (t : Nat) : Chip :=
  let n := c.vault.drawn
  let c := setKey c t
    { valid := true, draws := (tabGet .reset c.vault.keys t).draws + 1, key1 := Config.keyOne (posOf c) n, key2 := keyTwo c n, id := n + 1 }
  loseRegion { c with vault := { c.vault with drawn := n + 1 } } (regionBaseOf c t) (regionSizeOf c t)

/-! ## Leaving work behind -/

/-- Whether a step of a tenant is in flight on a chip: something of it was accepted and it is not resolved. -/
def stepOpen (r : StepRec) : Bool := r.firstAccept.isSome && !r.resolved

/-- Whether a tenant has a step in flight on a chip. -/
def inFlight (x : TenantCtx) : Bool := x.steps.any (fun r => stepOpen r.2)

/-- Whether any tenant has. -/
def chipInFlight (c : Chip) : Bool := c.tenants.any (fun t => inFlight t.2)

/-- How many steps are in flight on a chip. -/
def stepsInFlight (c : Chip) : Nat := (c.tenants.map (fun t => (t.2.steps.filter (fun r => stepOpen r.2)).length)).sum

/-- Object 32 (Table 18-1): in the Autumn drain the steps in flight, which the device waits for; 0 else. It is a view of the steps' records and
has no other store. -/
def drainObject (c : Chip) : SyncObj :=
  let on := decide (c.wake.season = .autumn) && decide (c.wake.drain = .steps)
  { c := if on then BitVec.ofNat 32 (stepsInFlight c) else 0#32, t := 0#32, device := on, waiters := [] }

/-- Whether a step has committed or rolled back here (R17). -/
def resolvedBy (x : TenantCtx) (step : Nat) : Bool :=
  match x.resolved with
  | some r => decide (step ≤ r)
  | none => false

/-- Whether a shard's step holds only folds: nothing of the step itself was accepted here, and it is neither closed nor resolved. -/
def strayStep (x : TenantCtx) (r : Nat × ShardStep) : Bool := !stepOpen (stepRec x r.1) && !r.2.closed && !resolvedBy x r.1

/-- Contributions folded toward such steps: how many, over a tenant's shards (Table 4-6 step 4). -/
def strayFolds (x : TenantCtx) : Nat :=
  (x.shards.map (fun h => (h.2.steps.map (fun r => if strayStep x r then r.2.folds.length else 0)).sum)).sum

/-- Discard them and count them. -/
def discardFolds (c : Chip) (t : Nat) : Chip :=
  let x := ten c t
  let n := strayFolds x
  countTen (setTen c t { x with shards := tabMap (fun _ h =>
    { h with steps := h.steps.filter (fun r => !strayStep x r || r.2.folds.isEmpty) }) x.shards }) t 19 n

/-- Save a tenant's lane states as they stand (R292, R293). -/
def saveLanes (x : TenantCtx) : TenantCtx := { x with savedSeed := some x.laneSeed, saved := x.lanes, badLanes := [] }

/-- Save every tenant's lane states (Table 4-6 step 6). -/
def saveAllLanes (c : Chip) : Chip := { c with tenants := tabMap (fun _ x => saveLanes x) c.tenants }

/-- Roll back every step of a tenant not yet committed, answering held PULLs from committed state (R84 step 1, R19, R252). -/
def rollBackAll (c : Chip) (t : Nat) : Chip :=
  let x := ten c t
  let open' := (x.steps.filter (fun r => stepOpen r.2)).map (·.1)
  let last := open'.foldl max (x.resolved.getD 0)
  let c := countTen c t 22 open'.length
  let c := modTen (discardOn c t) t (fun y => { y with resolved := if open'.isEmpty then x.resolved else some last })
  releasePulls c t (fun _ => true) servePull

/-- Steps end uncommitted and dirty bytes are written back, without a save of lane states. -/
def leaveSteps (c : Chip) : Chip :=
  writeBackAll (forEach (endTasks c (fun _ => true)) (c.tenants.map (·.1)) rollBackAll)

/-- R84: discard folds, roll back, write back, save lane states; the held PULLs answered on the way go out before the links do (R19). -/
def leaveWork (c : Chip) : Chip :=
  modWake (saveAllLanes (leaveSteps (forEach c (c.tenants.map (·.1)) discardFolds))) (fun w => { w with answering := true })

/-! ## Into Winter -/

/-- Whether a wipe has touched this chip since it left Winter, or is under way (R70). -/
def wipedHere (c : Chip) : Bool :=
  c.wipe.isSome || decide (c.wake.phase = .wiped) || c.faults.any (fun f => isWipeCode f.code && !f.reportedOnly)

/-- Whether the context will stand as valid when this chip reports Winter reached: after a drain, the save of R84, or the
abandoning of a Spring that began valid and had not begun the cold path's step 8 (R70, R80). -/
def staysValid (c : Chip) : Bool :=
  let w := c.wake
  !wipedHere c && !w.stopped &&
  (match w.season with
   | .spring => w.beganValid && !w.coldBegun && w.ctxValid
   | .autumn => true
   | _ => false)

/-- A reset of t in Winter, or one that Winter overtakes: its key is replaced at once, its SRAM footprint is marked, and the
TENANT_DOWN of its peers is due after the next Spring (R71, R135). -/
def winterReset (c : Chip) (t : Nat) : Chip :=
  modTen (drawKey c t) t (fun x => { x with winterMark := true, downDue := true, resetPhase := .none })

/-- Entry to Winter on 00 (R80, R84, R88): held codes of level 3 and 4 end with it (Table 20-1), tasks end, halts are over. The
chip has yet to report Winter reached, and until it does its links still carry what waits (R19, log entry 65). A Spring left after its
final step saves no lane states (Table 15-3); what such a Spring had begun ends as R84 has it (DESIGN CHOICE, log entry 66). -/
def enterWinter (c : Chip) : Chip :=
  let valid := staysValid c
  let c :=
    if c.wake.stopped || wipedHere c then c
    else if decide (c.wake.season = .autumn) && !c.wake.drained then leaveWork c
    else if decide (c.wake.season = .spring) && decide (c.wake.phase = .done) then leaveSteps c
    else c
  let c := endTasks c (fun _ => true)
  let c := forEach c ((c.tenants.filter (fun x => decide (x.2.resetPhase = .erasing))).map (·.1)) winterReset
  let c := { c with faults := c.faults.filter (fun f => f.reportedOnly || decide (f.level < 3)) }
  modWake (releaseHalts c) (fun w =>
    { w with season := .winter, entered := false, winterReported := false, phase := .idle, summerDue := false,
             drain := .idle, drained := valid, cold := false, heating := false, stopped := false })

/-- What a chip no longer holds in Winter: links, caches, frames, live lane states, steps (Table 4-3, R153, R347). A PULL still held
when a completed drain is followed by Winter is an event of none of R19's kinds: the model drops it unanswered (DESIGN CHOICE, log
entry 65). -/
def winterEmpty (c : Chip) : Chip :=
  let c := emptyCaches (allPortsOff c)
  { c with outbox := [], inbox := [], collisions := [],
           clusters := tabMap (fun _ k => { k with queue := [], deficit := [], run := none, next := none }) c.clusters,
           tenants := tabMap (fun _ x => { discardTenant x with lanes := [], heldPulls := [] }) c.tenants }

/-- HBM in Winter: in self-refresh if it ever ran. -/
def hbmToWinter (h : HbmState) : HbmState := if h = .down then .down else .selfRefresh

/-- The chip reports Winter reached, with its context valid or not (R67, R70). -/
def reportWinter (c : Chip) (valid : Bool) : Chip :=
  modWake (winterEmpty c) (fun w =>
    { w with season := .winter, winterReported := true, entered := true, ctxValid := valid, hbm := hbmToWinter w.hbm,
             drained := false, drain := .idle, answering := false, phase := .idle, cold := false, heating := false })

/-- Whether a reply of a chip still waits to be routed or sent. -/
def repliesWait (c : Chip) : Bool :=
  c.outbox.any (fun f => decide (f.vc = 0#2)) || c.ports.any (fun p => !(tabGet [] p.2.egress ((0#2 : BitVec 2), 0)).isEmpty)

/-! ## The forwarded code (Table 4-2) -/

/-- A season error (R66): nothing changes but the fault and READY. -/
def seasonErr (c : Chip) : Chip :=
  hitFault (modWake (recordFault c 0x63 none) (fun w => { w with seasonError := true })) 0x63 none

/-- The error ends with a code that is answered otherwise (R66). -/
def clearSeasonErr (c : Chip) : Chip :=
  if c.wake.seasonError then modWake (clearFault c 0x63) (fun w => { w with seasonError := false }) else c

/-- Entry to Spring; a set that failed its checks leaves Spring failed (R55). -/
def enterSpring (c : Chip) : Chip :=
  modWake (releaseHalts c) (fun w =>
    { w with season := .spring, entered := false, winterReported := false, summerDue := false, fromOff := !w.ctxValid,
             beganValid := w.ctxValid, coldBegun := false,
             phase := if w.phase = .failed then .failed else .idle })

/-- Entry to Summer, at once in a Spring that is done, else when it completes (Table 4-2). -/
def enterSummer (c : Chip) : Chip :=
  if c.wake.phase = .done then modWake (releaseHalts c) (fun w => { w with season := .summer, entered := true, summerDue := false })
  else modWake c (fun w => { w with summerDue := true })

/-- Shards whose deadline ran out before and that still wait for a quorum have their deadline behind them as Autumn begins: they close
whatever the count (Table 4-6 step 2, log entry 38). -/
def autumnShards (c : Chip) : Chip :=
  let due : ShardStep → ShardStep := fun r => if r.deadline = .expired then { r with autumnDue := true } else r
  let each : Shard → Shard := fun h => { h with steps := tabMap (fun _ r => due r) h.steps }
  { c with tenants := tabMap (fun _ x => { x with shards := tabMap (fun _ h => each h) x.shards }) c.tenants }

/-- A chip's answer to a forwarded code; a stopped chip ignores all but 00 (R65, R88). Table 4-2 has 01 stay in Spring and says
nothing of an 11 recorded before: the model takes the later code as withdrawing it (DESIGN CHOICE, log entry 62). -/
def answerCode (c : Chip) (code : BitVec 2) : Chip :=
  let w := c.wake
  if w.season = .off then c
  else if w.stopped then (if code = 0#2 then enterWinter (clearSeasonErr c) else c)
  else
    match w.season, code.toNat with
    | .winter, 0 => clearSeasonErr c
    | .winter, 1 => enterSpring (clearSeasonErr c)
    | .spring, 0 => enterWinter (clearSeasonErr c)
    | .spring, 1 => modWake (clearSeasonErr c) (fun w => { w with summerDue := false })
    | .spring, 3 => enterSummer (clearSeasonErr c)
    | .summer, 3 => clearSeasonErr c
    | .summer, 2 =>
      modWake (releaseHalts (autumnShards (clearSeasonErr c))) (fun w => { w with season := .autumn, entered := false, drain := .steps, drained := false })
    | .autumn, 2 => clearSeasonErr c
    | .autumn, 0 => enterWinter (clearSeasonErr c)
    | .autumn, 3 =>
      modWake (releaseHalts (clearSeasonErr c)) (fun w => { w with season := .summer, entered := true, drain := .idle, drained := false })
    | _, _ => seasonErr c

/-- A chip that has yet to report Winter reached. -/
def awaitsWinter (c : Chip) : Bool := decide (c.wake.season = .winter) && !c.wake.winterReported

/-- Forward a code to all four chips; the keeper then waits for the chips that are on their way to Winter (R28, R32), and sets the
fans by COLD_n as the answers leave it (R36). -/
def forwardCode (s : State) (code : BitVec 2) : State :=
  let s := mapChips s (fun _ c => answerCode c code)
  refreshFans (modTray s (fun y =>
    { y with forwarded := some code, winterWait := y.winterWait || anyChip s awaitsWinter,
             load := if (getChip s 0).wake.season = .spring then y.load else .reset }))

/-- Take up a stable code: held behind those before it while a Spring preparation runs; 01 for chips in Winter starts the
preparation that forwards it; any other is forwarded at once (R28, R32). While the keeper still waits for Winter, the preparation begins
with the removal of the rails that ends the wait (DESIGN CHOICE, log entry 58). -/
def takeCode (s : State) (code : BitVec 2) : State :=
  if s.tray.prep then modTray s (fun y => { y with held := y.held ++ [code] })
  else if decide (code = 1#2) && anyChip s (fun c => decide (c.wake.season = .winter)) then
    modTray s (fun y =>
      let y := { y with prep := true, strapsDelivered := false }
      if y.winterWait then y else raiseNext springRails y)
  else forwardCode s code

/-- Take up the codes that were held, in the order in which they became stable (R28, R32). -/
def takeHeld (s : State) : State := s.tray.held.foldl takeCode (modTray s (fun y => { y with held := [] }))

/-- The preparation is complete: Spring is forwarded, cages are read, the keeper's FAULT_n for 0x65 ends and the chips keep 0x65
as reported only; then come the held codes (R28, R29, R38). -/
def springForward (s : State) : State :=
  let y := s.tray
  if y.prep && y.refClock && y.strapsDelivered then
    let s := modTray s (fun y => { y with prep := false, winterFault := false })
    let s := mapChips s (fun _ c =>
      { c with faults := c.faults.map (fun f => if f.code = 0x65 then { f with reportedOnly := true } else f) })
    takeHeld (forwardCode (readCages s) 1#2)
  else s

/-- The host changes SEASON[1:0]: the 1 ms count starts again (R32, R416). -/
def execSeasonPinChange (code : BitVec 2) (s : State) : Host.Outcome State Fault Refusal :=
  if code = s.tray.seasonPins then .next s
  else .next (modTray s (fun y => { y with seasonPins := code, pinTaken := false }))

/-- A code has been stable for 1 ms (R32). -/
def execSeasonForward (s : State) : Host.Outcome State Fault Refusal :=
  if s.tray.forwarding && !s.tray.pinTaken then
    .next (takeCode (modTray s (fun y => { y with pinTaken := true })) s.tray.seasonPins)
  else .next s

/-! ## Power-up and the Spring rails -/

/-- What follows a rail that has come into regulation (Table 2-2, R28). While a rail fault is held, nothing that R30 removed rises. -/
def afterRail (s : State) (r : Rail) : State :=
  if s.tray.railFault && decide (r ≠ .vkeep) then s else
  match r with
  | .vkeep =>
    let s := modTray s (raiseNext [.vbus])
    if s.tray.flashReq then modTray s grantFlash else s
  | .vbus => modTray s (raiseNext [.vaon])
  | .vaon => modTray s (raiseNext [.vret])
  | .vret => modTray s (raiseNext [.vpp])
  | .vpp => modTray s (raiseNext [.vddh])
  | .vddh => modTray s (raiseNext [.vddq])
  | .vddq => modTray (mapChips s (fun _ c => powerUpChip c)) (fun y => { y with forwarding := true })
  | .vcage => springForward (modTray s (fun y => { y with refClock := y.refClock || y.prep }))
  | _ => if s.tray.prep then modTray s (raiseNext springRails) else s

/-- A rail has come within 3 % of nominal (R27). -/
def execRailInRegulation (r : Rail) (s : State) : Host.Outcome State Fault Refusal :=
  if railOf s.tray r = .rising then .next (afterRail (modTray s (fun y => setRail y r .up)) r) else .next s

/-! ## Straps (R53 to R55, R63) -/

/-- Whether a latched set holds a reserved code (R55, Tables 3-3 to 3-5). -/
def reservedStrap (w : StrapSet) : Bool :=
  (match w.tenlayout with | some v => (tenlayoutShares v.val).isEmpty | none => false) ||
  (match w.bwsplit with | some v => (bwsplitShares v.val).isNone | none => false) ||
  (match w.portmodeH with | some v => (portModeH v.val).isNone | none => false)

/-- Whether a latched ladder or input is unstable (R55). -/
def unstableStrap (w : StrapSet) : Bool :=
  w.trayidH.isNone || w.trayidL.isNone || w.tenlayout.isNone || w.bwsplit.isNone || w.portmodeH.isNone ||
  w.portmodeT.isNone || w.bankSel.isNone || w.heatEn.isNone || w.debugEn.isNone || w.chippos.isNone

/-- A chip latches the whole set; what was held of the last Spring ends, but 0x65 and a season error, which end as Spring is forwarded
(R29, R66); a due 0x64 is delivered as reported only (R53, section 20.2, R372). -/
def latchStraps (c : Chip) (set : StrapSet) (railCode : Bool) : Chip :=
  let c := { c with faults := c.faults.filter (fun f => (decide (f.code = 0x65) || decide (f.code = 0x63)) && !f.reportedOnly),
                    occurrences := [] }
  let c := modWake c (fun w =>
    { w with latched := set, observed := set, sensed := false, phase := .idle })
  if railCode then
    { countCode c 0x64 with faults := listFault c.faults { code := 0x64, level := 4, port := none, reportedOnly := true } }
  else c

/-- The strap checks of one chip: 0x50 and 0x51 for the tray's set, 0x52 for its own CHIPPOS (R55, R63). -/
def checkStraps (c : Chip) (pos : Pos) (unstable : Bool) : Chip :=
  let c := if reservedStrap c.wake.latched then springFault c 0x50 else c
  let c := if unstable then springFault c 0x51 else c
  match c.wake.latched.chippos with
  | some v => if v.toNat = pos.val then c else springFault c 0x52
  | none => c

/-- The CHIPPOS reading of a chip. -/
def posReading (r : ChipposReadings) (p : Pos) : Option (BitVec 2) :=
  match p with
  | 0 => r.a
  | 1 => r.b
  | 2 => r.c
  | 3 => r.d

/-- Sensing is complete: every chip that enters Spring latches the whole set and checks it; Spring follows once the rails and the
clock are ready (Table 3-2, R35). -/
def execStrapSetDelivery (r : StrapReadings) (pos : ChipposReadings) (s : State) : Host.Outcome State Fault Refusal :=
  if s.tray.prep && !s.tray.winterWait && !s.tray.strapsDelivered then
    let sets (p : Pos) : StrapSet := senseStraps r (posReading pos p)
    let unstable := unstableStrap (sets 0) || unstableStrap (sets 1) || unstableStrap (sets 2) || unstableStrap (sets 3)
    let due := s.tray.railCodeDue
    let s := mapChips s (fun p c =>
      if decide (c.wake.season = .winter) && !c.wake.stopped then checkStraps (latchStraps c (sets p) due) p unstable else c)
    .next (springForward (modTray s (fun y => { y with strapsDelivered := true, railCodeDue := false })))
  else .next s

/-- The observed set after a re-sense: an unstable strap keeps its last stable value (R54). -/
def observeStraps (old new : StrapSet) : StrapSet :=
  { trayidH := new.trayidH <|> old.trayidH, trayidL := new.trayidL <|> old.trayidL,
    tenlayout := new.tenlayout <|> old.tenlayout, bwsplit := new.bwsplit <|> old.bwsplit,
    portmodeH := new.portmodeH <|> old.portmodeH, portmodeT := new.portmodeT <|> old.portmodeT,
    bankSel := new.bankSel <|> old.bankSel, heatEn := new.heatEn <|> old.heatEn, debugEn := new.debugEn <|> old.debugEn,
    chippos := old.chippos }

/-- How many straps of a sensed set are unstable. -/
def unstableCount (w : StrapSet) : Nat :=
  bitSum [(w.trayidH.isNone, 1), (w.trayidL.isNone, 1), (w.tenlayout.isNone, 1), (w.bwsplit.isNone, 1),
    (w.portmodeH.isNone, 1), (w.portmodeT.isNone, 1), (w.bankSel.isNone, 1), (w.heatEn.isNone, 1), (w.debugEn.isNone, 1)]

/-- A re-sense in Summer, Autumn or Winter (R54): no observed code alters behaviour. -/
def execStrapResense (r : StrapReadings) (s : State) : Host.Outcome State Fault Refusal :=
  if s.tray.forwarding && !s.tray.prep then
    .next (mapChips s (fun _ c =>
      if c.wake.season = .winter || c.wake.season = .summer || c.wake.season = .autumn then
        let new := senseStraps r none
        countDev (modWake c (fun w => { w with observed := observeStraps w.observed new, sensed := true })) 148
          (unstableCount new)
      else c))
  else .next s

/-! ## Winter reached, and not (R28, R29, R67, R70) -/

/-- The five rails go and the clock stops (R28); a preparation that waited for it begins (log entry 58). -/
def removeSpringRails (s : State) : State :=
  refreshFans (modTray s (fun y =>
    let y := { springRails.foldl (fun y r => setRail y r .down) y with refClock := false, winterWait := false, load := .reset }
    if y.prep then raiseNext springRails y else y))

/-- HBM is in self-refresh and the chip reports Winter reached (R67); with it the links go down, so the replies of a drain that Winter cut
short have gone out before (R19). -/
def execWinterReached (c : Pos) (s : State) : Host.Outcome State Fault Refusal :=
  let k := getChip s c
  if awaitsWinter k && !(k.wake.answering && repliesWait k) then
    let s := setChip s c (reportWinter k (k.wake.drained && !wipedHere k))
    if s.tray.winterWait && allChips s (fun c => decide (c.wake.season = .winter) && c.wake.winterReported) then
      .next (removeSpringRails s)
    else .next s
  else .next s

/-- A chip has not reported within 100 ms: the rails go anyway, its context is invalid, and every chip records 0x65 (R29). -/
def execWinterReportTimeout (s : State) : Host.Outcome State Fault Refusal :=
  if s.tray.winterWait then
    let s := mapChips s (fun _ c =>
      let c := if decide (c.wake.season = .winter) && c.wake.winterReported then c else reportWinter c false
      recordFault c 0x65 none)
    .next (removeSpringRails (modTray s (fun y => { y with winterFault := true })))
  else .next s

/-! ## Rail faults (R30) -/

/-- A rail leaves ±5 % for 100 µs: every rail but VBUS and VKEEP is removed, and the chips lose everything. -/
def execRailOutOfBand (r : Rail) (s : State) : Host.Outcome State Fault Refusal :=
  if railOf s.tray r = .up then
    let s := chipsOff s
    .next (refreshFans (modTray s (fun y =>
      { y with rails := [(.vkeep, railOf y .vkeep), (.vbus, railOf y .vbus)], forwarding := false, refClock := false,
               forwarded := none, held := [], prep := false, strapsDelivered := false, winterWait := false,
               railFault := true, railCodeDue := true, load := .reset })))
  else .next s

/-- SEASON has been held at Winter for 1 s after a rail fault: Table 2-2 runs again from step 3, whose condition is VBUS in regulation
(R30). -/
def execRailFaultRecovery (s : State) : Host.Outcome State Fault Refusal :=
  if s.tray.railFault && decide (s.tray.seasonPins = 0#2) && decide (railOf s.tray .vbus = .up) then
    .next (modTray s (fun y => { raiseNext [.vaon] y with railFault := false, pinTaken := false }))
  else .next s

/-! ## The Autumn drain (Table 4-6) -/

/-- No step is in flight: stray folds are discarded and the write-back starts (step 4). -/
def execAutumnNoStepInFlight (c : Pos) (s : State) : Host.Outcome State Fault Refusal :=
  let k := getChip s c
  if decide (k.wake.season = .autumn) && decide (k.wake.drain = .steps) && !chipInFlight k && !k.wake.stopped then
    let k := forEach k (k.tenants.map (·.1)) discardFolds
    .next (setChip s c (modWake k (fun w => { w with drain := .writeBack })))
  else .next s

/-- Whether a stage of some task is under way on a chip. -/
def anyStage (c : Chip) : Bool :=
  c.clusters.any (fun k =>
    (match k.2.run with | some r => r.active | none => false) || (match k.2.next with | some r => r.active | none => false))

/-- The write-back completes: with no stage of any tenant under way, lane states are saved and READY is released (steps 5 to 7, R293). -/
def execAutumnWritebackDone (c : Pos) (s : State) : Host.Outcome State Fault Refusal :=
  let k := getChip s c
  if decide (k.wake.season = .autumn) && decide (k.wake.drain = .writeBack) && !k.wake.stopped && !anyStage k then
    let k := saveAllLanes (writeBackAll k)
    .next (setChip s c (modWake k (fun w => { w with drain := .done, drained := true, entered := true })))
  else .next s

end Sys2Proof.Machine
end

