-- ==== Sys2Proof/Machine/Spring.lean ====
section
/-!
DEFINITION. Spring on a chip (Tables 4-4, 4-5, 5-4, 5-5): clearing, keys, cold start, HBM, the image, and loading tenants.
-/
namespace Sys2Proof.Machine

/-! ## Beginning (R72, R388) -/

/-- Whether a chip stands in Spring at a phase. -/
def atPhase (c : Chip) (p : SpringPhase) : Bool := decide (c.wake.season = .spring) && decide (c.wake.phase = p)

/-- The chip with its phase set. -/
def setPhase (c : Chip) (p : SpringPhase) : Chip := modWake c (fun w => { w with phase := p })

/-- Every sync object of the device back to 0, as at every Spring (R337). -/
def clearDeviceSync (c : Chip) : Chip := { c with sync := c.sync.filter (fun o => decide (256 ≤ o.1)) }

/-- A tenant of whose context nothing is kept, but what a reset still owes: its mark, the frames it has the chip drop until the first
INIT, and the TENANT_DOWN to its peers (R71, R133, R135, R137). -/
def owedReset (x : TenantCtx) : TenantCtx :=
  { TenantCtx.reset with resetPhase := if x.resetPhase = .erasing then .erasing else .none, winterMark := x.winterMark,
                         wasReset := x.wasReset, downDue := x.downDue }

/-- Begin Table 4-4 or 4-5: the fused life cycle is copied, buckets are full, tables of SYNC_OP numbers are clear, no tenant is
loaded; a Spring from Off starts from nothing (R70, R87, R327, R344, R372, R373). The spec does not say what the issue rate is as a
Spring begins: the model sets 16/16 (DESIGN CHOICE, log entry 63). GENERATION and the bank number keep their old values until this
Spring accepts an image (DESIGN CHOICE, log entry 4). -/
def beginSpring (c : Chip) : Chip :=
  let off := c.wake.fromOff
  let c := clearDeviceSync
    { c with image := none, candidate := none, ingressTokens := [], unusedRecords := 0,
             vault := { c.vault with lifeCycle := c.fuses, hbmRefused := false },
             clusters := tabMap (fun _ k => { k with readTokens := 327680, writeTokens := 327680, egressTokens := 327680 }) c.clusters,
             tenants := tabMap (fun _ x => { x with loaded := false, state := .loading, syncTx := [], syncRx := [] }) c.tenants }
  let c := modWake c (fun w => { w with phase := .pll, issueRate := 16, failedBank := none })
  if off then { c with tenants := tabMap (fun _ x => owedReset x) c.tenants, counters := [], sync := [] } else c

/-- Spring reaches a chip: with TAMPER_n low or the lid open it fails at once and draws no key (R388); else it begins, and its
ports train (R72, R153). -/
def execSpringReceived (c : Pos) (s : State) : Host.Outcome State Fault Refusal :=
  let k := getChip s c
  if atPhase k .idle then
    if s.tray.tamperLow || s.tray.lidOpen then
      let k := if s.tray.tamperLow then springFault k 0x70 else k
      .next (setChip s c (if s.tray.lidOpen then springFault k 0x71 else k))
    else
      let k := beginSpring k
      let k := if k.wake.fromOff then { k with vault := { k.vault with springOffAt := s.tray.now, wipes := 0 } } else k
      .next (startPorts (setChip s c k) c)
  else .next s

/-! ## Steps 1 to 4: PLL, clearing, keys, cold start -/

/-- The highest of the three Tj readings (R412). -/
def tjOf (t : Temps) : Int := max t.tj0 (max t.tj1 t.tj2)

/-- The four HBM case readings. -/
def casesOf (t : Temps) : List Int := [t.hbm0, t.hbm1, t.hbm2, t.hbm3]

/-- Whether Tj or any HBM case is below 0 °C (R74). -/
def isCold (t : Temps) : Bool := decide (tjOf t < 0) || (casesOf t).any (fun h => decide (h < 0))

/-- Whether Tj is at least 5 °C and every HBM case at least 0 °C (R74). -/
def isWarm (t : Temps) : Bool := decide (80 ≤ tjOf t) && (casesOf t).all (fun h => decide (0 ≤ h))

/-- Step 4 with the readings in force: COLD_n and the heating load or the wait, or on to step 5 (R74). -/
def coldCheck (c : Chip) (t : Temps) : Chip :=
  modWake c (fun w =>
    if isCold t then { w with temps := t, phase := .cold, cold := true, heating := decide (w.latched.heatEn = some true) }
    else { w with temps := t, phase := .hbm })

/-- The core PLL locks: a Spring from Off clears SRAM next, a Spring from Winter goes to step 4 (R72, R78). -/
def execCorePllLocked (c : Pos) (t : Temps) (s : State) : Host.Outcome State Fault Refusal :=
  let k := getChip s c
  if atPhase k .pll then
    .next (refreshFans (setChip s c
      (if k.wake.fromOff then setPhase (modWake k (fun w => { w with temps := t })) .clear else coldCheck k t)))
  else .next s

/-- All cluster SRAM, ledgers and last-level cache cleared to zero. -/
def clearSram (c : Chip) : Chip :=
  let clear (k : Cluster) : Cluster :=
    { Cluster.reset with readTokens := k.readTokens, writeTokens := k.writeTokens, egressTokens := k.egressTokens, halted := k.halted,
                         stepMode := k.stepMode }
  { emptyCaches c with clusters := tabMap (fun _ k => clear k) c.clusters,
                       tenants := tabMap (fun _ x => owedReset x) c.tenants, sync := [], clearAtSpring := false }

/-- SRAM is clear: keys are drawn next; a BLANK chip stops here (Table 4-4 steps 2 and 3, Table 21-5). -/
def execSramClearDone (c : Pos) (s : State) : Host.Outcome State Fault Refusal :=
  let k := getChip s c
  if atPhase k .clear then
    .next (setChip s c (setPhase (clearSram k) (if k.vault.lifeCycle = .blank then .blank else .keys)))
  else .next s

/-- A fresh key for every tenant of the latched TENLAYOUT, in slots whose draws count from this Spring (R377, R378). -/
def drawAllKeys (c : Chip) : Chip :=
  forEach { c with vault := { c.vault with keys := [] } } (tenantsOf c) drawKey

/-- The key draws complete (R377). -/
def execKeyDrawDone (c : Pos) (t : Temps) (s : State) : Host.Outcome State Fault Refusal :=
  let k := getChip s c
  if atPhase k .keys then
    .next (refreshFans (setChip s c (coldCheck (drawAllKeys k) t)))
  else .next s

/-- Tj and the HBM cases have warmed: COLD_n is released and step 5 follows (R74). -/
def execColdStartEnd (c : Pos) (t : Temps) (s : State) : Host.Outcome State Fault Refusal :=
  let k := getChip s c
  if atPhase k .cold && isWarm t then
    .next (refreshFans (modChip s c (fun k =>
      modWake k (fun w => { w with temps := t, phase := .hbm, cold := false, heating := false }))))
  else .next s

/-- Heating has run 20 minutes: it stops with 0x62, and the chip stays in Spring (R76). -/
def execHeatingTimeout (c : Pos) (s : State) : Host.Outcome State Fault Refusal :=
  let k := getChip s c
  if atPhase k .cold && k.wake.heating then
    .next (refreshFans (modChip s c (fun k =>
      hitFault (modWake (recordFault k 0x62 none)
        (fun w => { w with phase := .heatingStopped, cold := false, heating := false, entered := false })) 0x62 none)))
  else .next s

/-! ## Steps 5 and 6: HBM and the image -/

/-- Spring fails on a chip: its ports stop with it (R55). -/
def failAt (s : State) (p : Pos) (code : Nat) : State := modChip s p (fun c => allPortsOff (springFault c code))

/-- Spring fails on every chip that is still in it. -/
def failAll (s : State) (code : Nat) : State :=
  let hit (c : Chip) : Bool :=
    decide (c.wake.season = .spring) && decide (c.wake.phase ≠ .done) && decide (c.wake.phase ≠ .failed)
  modTray (mapChips s (fun _ c => if hit c then allPortsOff (springFault c code) else c)) (fun y => { y with load := .reset })

/-- Start the image load at chip A: the bank that BANK_SEL selects, at once or after a flash grant held or due (R92, R93,
R101). -/
def startLoad (s : State) : State :=
  let bank : Bool := decide ((getChip s 0).wake.latched.bankSel = some false)
  modTray s (fun y =>
    let wait : Bool := y.flashGnt || y.flashReq
    { y with flashOctal := !wait,
             load := { phase := if wait then .waitGrant else .header, bank := bank, otherFailed := false, reports := [] } })

/-- Whether the mesh has trained: each of the three peers on the tray is reached by a port that is up (DEDUCED, log entry 64; R163
counts a peer as lost when all eight ports to it are down). -/
def meshTrained (c : Chip) : Bool := [0, 1, 2].all (fun g => !(upPorts c g).isEmpty)

/-- HBM and mesh training complete, or HBM training fails with 0x24 (Tables 4-4, 4-5 step 5): step 6 follows once both have trained. -/
def execHbmTrainingDone (c : Pos) (ok : Bool) (s : State) : Host.Outcome State Fault Refusal :=
  let k := getChip s c
  if atPhase k .hbm then
    if ok then
      if meshTrained k then
        let s := modChip s c (fun k => modWake k (fun w => { w with phase := .image, hbm := .running }))
        .next (if c = 0 then startLoad s else s)
      else .next s
    else .next (failAt s c 0x24)
  else .next s

/-- The host has held the grant for 1 s at step 6: every chip raises 0x54 (R92). -/
def execFlashGrantWaitTimeout (s : State) : Host.Outcome State Fault Refusal :=
  if s.tray.load.phase = .waitGrant then .next (failAll s 0x54) else .next s

/-- Whether a chip's Spring is under way: received, and neither ended nor completed. -/
def springRuns (c : Chip) : Bool :=
  atPhase c .pll || atPhase c .clear || atPhase c .keys || atPhase c .cold || atPhase c .hbm || atPhase c .image

/-- A bank's failure noted on a chip (R102). -/
def noteBank (c : Chip) (bank : Bool) : Chip :=
  { modWake (opFault c 0x55 none) (fun w => { w with failedBank := some bank }) with candidate := none }

/-- A bank has failed: 0x55 for it on every chip whose Spring is under way, then the other bank, or 0x56 on every chip (Table 5-4
steps 6 and 7, R102). -/
def bankFailed (s : State) : State :=
  let l := s.tray.load
  let s := mapChips s (fun _ c => if springRuns c then noteBank c l.bank else c)
  if l.otherFailed then failAll s 0x56
  else modTray s (fun y => { y with load := { phase := .header, bank := !l.bank, otherFailed := true, reports := [] } })

/-- Chip A has read a bank's header (R96, R91). -/
def execImageHeaderRead (s : State) : Host.Outcome State Fault Refusal :=
  let y := s.tray
  if decide (y.load.phase = .header) && atPhase (getChip s 0) .image then
    if headerOk (bankBytes y.flash y.load.bank 128) && !y.flashConfigAltered then
      .next (modTray s (fun y => { y with load := { y.load with phase := .body } }))
    else .next (bankFailed s)
  else .next s

/-- IMAGE_LENGTH of a bank. -/
def imageLength (flash : Mem Byte) (bank : Bool) : Nat := fieldAt (bankBytes flash bank 128) 12 4

/-- The last byte has reached a chip: it completes the checks of R100 and has its report ready (Table 5-4 step 4). -/
def execImageBankReadDone (c : Pos) (s : State) : Host.Outcome State Fault Refusal :=
  let y := s.tray
  let k := getChip s c
  if decide (y.load.phase = .body) && atPhase k .image && (tabFind y.load.reports c).isNone then
    let img := parseImage (bankBytes y.flash y.load.bank (imageLength y.flash y.load.bank))
    let s := setChip s c { k with candidate := img }
    .next (modTray s (fun y => { y with load := { y.load with reports := tabSet y.load.reports c img.isSome } }))
  else .next s

/-! ## Loading tenants (R77, R79, R107, R121, R299) -/

/-- Whether the layout straps equal those of the Spring that loaded last (R56, R77). -/
def sameLayout (a b : StrapSet) : Bool :=
  decide (a.trayidH = b.trayidH) && decide (a.trayidL = b.trayidL) && decide (a.tenlayout = b.tenlayout) &&
  decide (a.bwsplit = b.bwsplit) && decide (a.portmodeH = b.portmodeH) && decide (a.portmodeT = b.portmodeT) &&
  decide (a.chippos = b.chippos) && decide (a.bankSel = b.bankSel)

/-- Whether the tray position and CHIPPOS are unchanged (R79). -/
def samePlace (a b : StrapSet) : Bool :=
  decide (a.trayidH = b.trayidH) && decide (a.trayidL = b.trayidL) && decide (a.chippos = b.chippos)

/-- The layout hash of tenant t in the accepted image (R119); 0 for a tenant with no catalogue. -/
def hashOf (c : Chip) (t : Nat) : BitVec 32 :=
  match tenantRec c t, catOf c t with
  | some r, some cat => layoutHash r.bytes cat
  | _, _ => 0#32

/-- The load fault of a strapped tenant, if any: MIN_SHARE (Table 5-5), footprint (R121), ledger need (R299). -/
def loadFault (c : Chip) (t : Nat) : Option Nat :=
  match tenantRec c t, catOf c t with
  | some r, some cat =>
    if shareOf c t < r.minShare then some 0x57
    else if (loadOutcome (torusOf c).1 (torusOf c).2 (trayOf c) r cat (regionSizeOf c t)).fails then some 0x53
    else if shareOf c t * 3584 * 256 < ledgerNeed (torusOf c).1 (torusOf c).2 cat (chipNo c) then some 0x5A
    else none
  | _, _ => none

/-- The formats and shadow size chosen (R121). -/
def chosen (c : Chip) (t : Nat) : Bool × Nat :=
  match tenantRec c t, catOf c t with
  | some r, some cat =>
    (match loadOutcome (torusOf c).1 (torusOf c).2 (trayOf c) r cat (regionSizeOf c t) with
     | .loaded m8 shift => (m8, shift)
     | .tooLarge m8 shift => (m8, shift))
  | _, _ => (false, 4)

/-- F of this chip in pages (R120): the shadow region alone for a tenant with no catalogue. -/
def footprintOf (c : Chip) (t : Nat) (m8 : Bool) (shift : Nat) : Nat :=
  match catOf c t with
  | some cat => footprint (torusOf c).1 (torusOf c).2 cat m8 (regionSizeOf c t) shift (chipNo c)
  | none => shadowFrames (regionSizeOf c t) shift

/-- LS_INIT of tenant t. -/
def lsInitOf (c : Chip) (t : Nat) : Int := match tenantRec c t with | some r => r.lsInit | none => 0

/-- SEED of tenant t. -/
def seedOf (c : Chip) (t : Nat) : BitVec 64 := match tenantRec c t with | some r => r.seed | none => 0#64

/-- What every load sets from the image and the straps. -/
def withLayout (c : Chip) (t : Nat) (x : TenantCtx) : TenantCtx :=
  let p := chosen c t
  { x with hash := hashOf c t, m8 := p.1, shadowShift := p.2, footprint := footprintOf c t p.1 p.2,
           regionBase := regionBaseOf c t, regionSize := regionSizeOf c t, seed := seedOf c t, loaded := true,
           rootChip := stepRootOf c t }

/-- An empty tenant (R133 step 6, R176, R213, R291, R240): every tensor accepts INIT, no committed step, lanes seeded. -/
def emptyTenant (c : Chip) (t : Nat) (wasReset downDue : Bool) : Chip :=
  let x := withLayout c t
    { TenantCtx.reset with state := .running, lsExp := lsInitOf c t, rootExp := lsInitOf c t, laneSeed := seedOf c t,
                           wasReset := wasReset, downDue := downDue }
  let c := setTen c t x
  modTen c t (fun x => { x with frames := shadowPool c t })

/-- Lane states restored from the saved copy; a lane whose copy is bad is seeded, and so is every lane with no copy (R293). -/
def restoreLanes (c : Chip) (t : Nat) : Chip :=
  let x := ten c t
  match x.savedSeed with
  | some seed =>
    let lanes := x.badLanes.foldl (fun l k => tabSet l k (laneSeed x.seed k)) x.saved
    countDev (setTen c t { x with laneSeed := seed, lanes := lanes, badLanes := [] }) 146 x.badLanes.length
  | none => setTen c t { x with laneSeed := x.seed, lanes := [] }

/-- Codes that are evaluated again at every Spring (R132). -/
def isLoadFault (code : Nat) : Bool := code = 0x53 || code = 0x57 || code = 0x5A

/-- A tenant whose context is kept: its record and fallbacks are read again, its lane states restored; the loss scale of a step
root stays where the root stays (R79, R132, R213). -/
def keepTenant (c : Chip) (t : Nat) : Chip :=
  let old := ten c t
  let fault := if isLoadFault old.fault then 0 else old.fault
  let moved := decide (old.rootChip ≠ stepRootOf c t)
  let x := withLayout c t
    { old with fault := fault,
               state := if old.resetPhase = .loaded then .resetting else if fault = 0 then .running else .faulted,
               rootExp := if moved then lsInitOf c t else old.rootExp, rootClean := if moved then 0 else old.rootClean }
  restoreLanes (setTen c t x) t

/-- A tenant that fails its load (R107, R121, R299): tenant level, nothing of it loaded. One whose context is kept has its lane states
restored, so that the next Autumn saves them again (R79, Table 15-3). -/
def faultTenantLoad (c : Chip) (t code : Nat) (kept : Bool) : Chip :=
  let c := if kept then restoreLanes c t else setTen c t { TenantCtx.reset with wasReset := (ten c t).wasReset, downDue := (ten c t).downDue, lsExp := lsInitOf c t }
  let first := (ten c t).fault
  let held := if first = 0 || isLoadFault first then code else first
  hitFault (modTen (countCode c code) t (fun x => { x with fault := held, state := .faulted, loaded := false })) code none

/-- Zero what a tenant holds in SRAM: its scratchpad, its cache lines and its sync objects (R71, R133 step 5). -/
def zeroTenantSram (c : Chip) (t : Nat) : Chip :=
  let c := dropTenantLines c t
  let lo := 256 + 240 * shareBase c t
  { c with sync := c.sync.filter (fun o => !(decide (lo ≤ o.1) && decide (o.1 < lo + 240 * shareOf c t))),
           clusters := tabMap (fun _ k => if k.lastTenant = some t then { k with scratch := [], scratchPoison := [] } else k) c.clusters }

/-- Load one tenant as an empty tenant, or fault it. -/
def loadEmpty (c : Chip) (t : Nat) (wasReset downDue : Bool) : Chip :=
  match loadFault c t with
  | some code => faultTenantLoad (modTen c t (fun x => { x with wasReset := wasReset, downDue := downDue })) t code false
  | none => emptyTenant c t wasReset downDue

/-- A slot whose tenant does not exist: its key record is zero (R378); a PRESENT record for it is counted (Table 5-5). -/
def loadAbsent (c : Chip) (t : Nat) : Chip :=
  let c := { c with tenants := tabErase c.tenants t, vault := { c.vault with keys := tabErase c.vault.keys t } }
  match tenantRec c t with
  | some r => if r.present then countDev { c with unusedRecords := c.unusedRecords + 1 } 147 1 else c
  | none => c

/-- Where the tenant stands after a reset that reached it before its load: resetting until its pin is high (R133, R134). -/
def afterResetLoad (pinLow : Bool) (x : TenantCtx) : TenantCtx :=
  if pinLow then { x with resetPhase := .loaded, state := .resetting } else { x with resetPhase := .none }

/-- Load one slot. `fresh`: the Spring is from Off. `keep`: R77 or R79 keeps the tenant's context. A tenant that is not kept has its key
replaced, whether or not a reset in Winter had replaced it (R79); a reset whose pin is still low goes on (R134). -/
def loadSlot (c : Chip) (t : Nat) (fresh keep pinLow : Bool) : Chip :=
  if !tenantExists c t then loadAbsent c t
  else
    let x := ten c t
    let springReset := decide (x.resetPhase = .erasing)
    let marked := x.winterMark || springReset
    if !fresh && keep && !marked then
      (match loadFault c t with
       | some code => faultTenantLoad c t code true
       | none => keepTenant c t)
    else
      let c := if springReset || (!fresh && !keep) then drawKey c t else c
      let c := loadEmpty (zeroTenantSram c t) t (marked || x.wasReset) x.downDue
      if marked || decide (x.resetPhase ≠ .none) then modTen c t (afterResetLoad pinLow) else c

/-- Whether a tenant's context is kept on the cold path (R79). -/
def keptCold (c : Chip) (t : Nat) : Bool :=
  let x := ten c t
  decide (x.hash = hashOf c t) && decide (x.regionBase = regionBaseOf c t) && decide (x.regionSize = regionSizeOf c t) &&
  samePlace c.wake.latched c.wake.prevLatched

/-- Load every tenant by the path of R77; this Spring's straps and generation become the reference of the next. -/
def loadTenants (c : Chip) (low : BitVec 8) : Chip :=
  let w := c.wake
  let warm := !w.fromOff && decide (w.prevGeneration = w.generation) && sameLayout w.latched w.prevLatched
  let c := modWake c (fun w => { w with coldBegun := !w.fromOff && !warm })
  let c := forEach c (List.range 8) (fun c t => loadSlot c t w.fromOff (warm || keptCold c t) (low.getLsbD t))
  modWake c (fun w => { w with prevLatched := w.latched, prevGeneration := w.generation })

/-- Whether the chip's latched position lies in the image's torus (R105). -/
def placeOk (c : Chip) : Bool :=
  match c.image with
  | some i =>
    (i.xSize = 1 && i.ySize = 1) ||
    (decide (codeOf c.wake.latched.trayidH < i.ySize) && decide (codeOf c.wake.latched.trayidL < i.xSize))
  | none => true

/-- Spring completes: READY, and Summer at once when 11 was forwarded (Tables 4-2, 4-4, 4-5). -/
def finishSpring (c : Chip) : Chip :=
  let c := modWake c (fun w => { w with phase := .done, entered := true })
  if c.wake.summerDue then enterSummer c else c

/-- The bank is accepted on a chip that stands at step 6: generation and bank are latched (R103), the other bank's failure is on record
(R102), agreement is checked (R105), tenants are loaded. -/
def acceptImage (s : State) (p : Pos) : State :=
  let bank := s.tray.load.bank
  let low := s.tray.tenrstLow
  let k := getChip s p
  match (if atPhase k .image then k.candidate else none) with
  | none => s
  | some i =>
    let k := if s.tray.load.otherFailed && k.wake.failedBank.isNone then noteBank k (!bank) else k
    let k := modWake { k with image := some i, candidate := none } (fun w => { w with generation := i.generation, bank := bank })
    if placeOk k then openPorts (setChip s p (finishSpring (loadTenants k low))) p
    else failAt (setChip s p k) p 0x58

/-- Chip A has the reports: any fail is the bank's failure at once; with all four passes the bank is accepted, and every chip checks
it against its straps and loads its tenants (Table 5-4 steps 5, 6 and 8). -/
def execBankCheckReport (s : State) : Host.Outcome State Fault Refusal :=
  let l := s.tray.load
  if l.phase = .body then
    if l.reports.any (fun r => !r.2) then .next (bankFailed s)
    else if l.reports.length = 4 then
      let s := acceptImage (acceptImage (acceptImage (acceptImage s 0) 1) 2) 3
      .next (modTray s (fun y => { y with flashOctal := false, load := .reset }))
    else .next s
  else .next s

/-- Chip B, C or D has had no outcome within 1.2 s of its mesh training: 0x59 (R104). -/
def execImageOutcomeTimeout (c : Pos) (s : State) : Host.Outcome State Fault Refusal :=
  if decide (c ≠ 0) && atPhase (getChip s c) .image then .next (failAt s c 0x59) else .next s

end Sys2Proof.Machine
end

