-- ==== Sys2Proof/Machine/Heat.lean ====
section
/-!
DEFINITION. Heat (section 4.8): HOT_n, the governor, thermal shutdown. Readings are in sixteenths of a degree.
-/
namespace Sys2Proof.Machine

/-- Whether Tj or any HBM case has reached a pair of limits in °C (R86, R412). -/
def reaches (t : Temps) (tj hbm : Int) : Bool :=
  decide (16 * tj ≤ tjOf t) || (casesOf t).any (fun h => decide (16 * hbm ≤ h))

/-- Whether both are below a pair of limits (R86). -/
def below (t : Temps) (tj hbm : Int) : Bool :=
  decide (tjOf t < 16 * tj) && (casesOf t).all (fun h => decide (h < 16 * hbm))

/-- HOT_n under new readings (Table 4-7). -/
def hotAfter (hot : Bool) (t : Temps) : Bool := if hot then !below t 97 87 else reaches t 100 90

/-- A reading crosses a HOT_n threshold. -/
def execHotThreshold (c : Pos) (t : Temps) (s : State) : Host.Outcome State Fault Refusal :=
  if (getChip s c).wake.season = .off then .next s
  else .next (modChip s c (fun k => modWake k (fun w => { w with temps := t, hot := hotAfter w.hot t })))

/-- 1 ms of governor engagement: the issue rate steps down, to no lower than 4/16 (R87). -/
def execGovernorStepDown (c : Pos) (t : Temps) (s : State) : Host.Outcome State Fault Refusal :=
  if coreRuns (getChip s c) && reaches t 108 93 then
    .next (modChip s c (fun k => modWake k (fun w => { w with temps := t, issueRate := max 4 (w.issueRate - 1) })))
  else .next s

/-- 10 ms of release: the issue rate steps up, to 16/16 (R87). -/
def execGovernorStepUp (c : Pos) (t : Temps) (s : State) : Host.Outcome State Fault Refusal :=
  if coreRuns (getChip s c) && below t 104 90 then
    .next (modChip s c (fun k => modWake k (fun w => { w with temps := t, issueRate := min 16 (w.issueRate + 1) })))
  else .next s

/-- A tenant whose chip has stopped: pending work is gone, held PULLs get no reply (R19, R88). -/
def dropWork (x : TenantCtx) : TenantCtx := { discardTenant x with heldPulls := [] }

/-- Thermal shutdown of a chip (R88): tasks and links end, HBM goes to self-refresh without write-back, the context is invalid. -/
def shutDown (c : Chip) (t : Temps) : Chip :=
  let c := emptyCaches (allPortsOff (endTasks c (fun _ => true)))
  let c := { c with outbox := [], inbox := [], candidate := none, tenants := tabMap (fun _ x => dropWork x) c.tenants }
  let c := modWake c (fun w =>
    { w with temps := t, stopped := true, ctxValid := false, entered := false, hbm := hbmToWinter w.hbm, drained := false,
             cold := false, heating := false, drain := .idle,
             phase := if w.season = .spring && decide (w.phase ≠ .done) then .failed else w.phase })
  hitFault (recordFault c 0x61 none) 0x61 none

/-- A shutdown threshold is reached, in any season (Table 4-7): the sensors are in the always-on domain (section 4.2). -/
def execThermalShutdown (c : Pos) (t : Temps) (s : State) : Host.Outcome State Fault Refusal :=
  if decide ((getChip s c).wake.season ≠ .off) && !(getChip s c).wake.stopped && reaches t 115 95 then
    let s := refreshFans (modChip s c (fun k => shutDown k t))
    .next (if c = 0 then modTray s (fun y => { y with load := .reset }) else s)
  else .next s

end Sys2Proof.Machine
end

