-- ==== Sys2Proof/Machine/Security.lean ====
section
/-!
DEFINITION. Wipes (chapter 21): the sources of Table 21-3 and the wipe of Table 21-4.
-/
namespace Sys2Proof.Machine

/-- The code with which a wiped chip answers: the wipe under way, or the wipe code it holds (R385). -/
def wipeCode (c : Chip) : Option Nat :=
  match c.wipe with
  | some w => w.codes.head?
  | none => (c.faults.find? (fun f => isWipeCode f.code && !f.reportedOnly)).map (·.code)

/-- Steps 1 and 2 of a wipe: keys are gone and HBM refused, tasks end, pending state and queued frames are dropped, caches hold
nothing, held PULLs are answered FAULT (Table 21-4, R19). What was in progress ends (R386). -/
def beginWipe (c : Chip) (code : Nat) : Chip :=
  let winter := decide (c.wake.season = .winter)
  let pulls := c.tenants.flatMap (fun x => x.2.heldPulls)
  let c := { c with vault := { c.vault with keys := [], hbmRefused := true }, hbm := [], candidate := none,
                    wipe := some { codes := [code], inWinter := winter, retentionOpen := winter } }
  let c := emptyCaches (endTasks c (fun _ => true))
  let c := dropQueued { c with tenants := tabMap (fun _ x => { dropWork x with resetPhase := .none }) c.tenants }
    (consumedHere c)
  let c := modWake c (fun w =>
    { w with drain := .idle, drained := false, entered := w.entered && winter, cold := false, heating := false,
             phase := if w.season = .spring && decide (w.phase ≠ .done) && decide (w.phase ≠ .failed) then .wiped else w.phase })
  forEach c pulls (fun c f => sendFault c f code)

/-- A wipe source reaches a chip: a second one during a wipe writes its own log entry at the end (R384, R387). -/
def startWipe (c : Chip) (code : Nat) : Chip :=
  if c.wake.season = .off then c
  else
    match c.wipe with
    | some w => { c with wipe := some { w with codes := w.codes ++ [code] } }
    | none => beginWipe c code

/-- A wipe of one chip; chip A reads no more of the image (R386). -/
def wipeChip (s : State) (p : Pos) (code : Nat) : State :=
  let s := refreshFans (modChip s p (fun c => startWipe c code))
  if p = 0 then modTray s (fun y => { y with load := .reset }) else s

/-- A wipe of all four chips. -/
def wipeAll (s : State) (code : Nat) : State := [0, 1, 2, 3].foldl (fun s p => wipeChip s p code) s

/-- The number of a life-cycle state (Table 9-13). -/
def lifeCode (l : LifeCycle) : Nat :=
  match l with
  | .blank => 0
  | .manufacture => 1
  | .field => 2
  | .ret => 3

/-- One more entry of the tamper log, which keeps the latest 64 (R390). Core cycles of 1.2 GHz are counted as 32.768 kHz ticks. -/
def logWipe (c : Chip) (now code : Nat) : Chip :=
  let v := c.vault
  let e : TamperEntry :=
    { code := code, season := seasonCode c.wake.season, lifeCycle := lifeCode v.lifeCycle,
      ticks := (now - v.springOffAt) * 32768 / 1200000000, wipes := v.wipes }
  let l := v.log ++ [e]
  { c with vault := { v with log := l.drop (l.length - 64) } }

/-- The next life-cycle state in the order; RETURN has none (R391). -/
def nextLife (l : LifeCycle) : LifeCycle :=
  match l with
  | .blank => .manufacture
  | .manufacture => .field
  | .field => .ret
  | .ret => .ret

/-- Steps 3 and 4: SRAM holds nothing, the context is invalid, each source has its log entry, each code is raised (Table 21-4). After
the wipe of a life-cycle transition the fuses are programmed (R391). -/
def endWipe (c : Chip) (now : Nat) (w : Wipe) : Chip :=
  let c := { clearSram c with wipe := none, clearAtSpring := w.inWinter, vault := { c.vault with wipes := c.vault.wipes + 1 } }
  let c := { modWake c (fun w => { w with ctxValid := false }) with
    fuses := if w.codes.contains 0x74 then nextLife c.vault.lifeCycle else c.fuses }
  forEach c w.codes (fun c code => hitFault (recordFault (logWipe c now code) code none) code none)

/-- The SRAM clear of a wipe with VCORE up completes. -/
def execWipeClearDone (c : Pos) (s : State) : Host.Outcome State Fault Refusal :=
  match (getChip s c).wipe with
  | some w => if w.inWinter then .next s else .next (modChip s c (fun k => endWipe k s.tray.now w))
  | none => .next s

/-- The retention switch has been open 10 ms in a Winter wipe, and closes again. -/
def execRetentionSwitchTimer (c : Pos) (s : State) : Host.Outcome State Fault Refusal :=
  match (getChip s c).wipe with
  | some w => if w.inWinter && w.retentionOpen then .next (modChip s c (fun k => endWipe k s.tray.now w)) else .next s
  | none => .next s

/-- TAMPER_n has been low for 1 µs: all four chips wipe with 0x70 (R34, Table 21-3). -/
def execTamperAssert (s : State) : Host.Outcome State Fault Refusal :=
  if s.tray.tamperLow then .next s else .next (wipeAll (modTray s (fun y => { y with tamperLow := true })) 0x70)

/-- TAMPER_n is high again (R388). -/
def execTamperRelease (s : State) : Host.Outcome State Fault Refusal :=
  .next (modTray s (fun y => { y with tamperLow := false }))

/-- The lid has been open for 10 ms: a wipe with 0x71 where VKEEP is up; in Off an opening is not recorded (R39). -/
def execLidOpen (s : State) : Host.Outcome State Fault Refusal :=
  let opened := modTray s (fun y => { y with lidOpen := true })
  if decide (railOf s.tray .vkeep = .up) && !s.tray.lidOpen then .next (wipeAll opened 0x71) else .next opened

/-- The lid is closed again (R388). -/
def execLidClose (s : State) : Host.Outcome State Fault Refusal := .next (modTray s (fun y => { y with lidOpen := false }))

/-- A rail glitch on one chip: VAON in every season, VCORE and VSRAM while up (Table 21-3). -/
def execVoltageGlitch (c : Pos) (r : GlitchRail) (s : State) : Host.Outcome State Fault Refusal :=
  if r = .vaon || coreUp (getChip s c) then .next (wipeChip s c 0x72) else .next s

/-- Whether a clock runs, the crystal always. -/
def clockRuns (s : State) (c : Pos) (k : GlitchClock) : Bool :=
  match k with
  | .core => coreUp (getChip s c)
  | .reference => s.tray.refClock
  | .crystal => true

/-- A clock glitch on one chip (Table 21-3). -/
def execClockGlitch (c : Pos) (k : GlitchClock) (s : State) : Host.Outcome State Fault Refusal :=
  if clockRuns s c k then .next (wipeChip s c 0x73) else .next s

/-- An uncorrectable vault error (R376). -/
def execVaultError (c : Pos) (s : State) : Host.Outcome State Fault Refusal := .next (wipeChip s c 0x75)

/-- Whether a key draw is under way or has left its slot without a valid key: step 3 of Table 4-4, step 5 of Table 7-3, or a slot that
was drawn and holds none (R377, R378). -/
def drawPending (c : Chip) : Bool :=
  atPhase c .keys || c.tenants.any (fun x => decide (x.2.resetPhase = .erasing)) || c.vault.keys.any (fun k => !k.2.valid)

/-- A key draw has not completed within 1 ms: 0x75 and a wipe (R377). -/
def execKeyDrawTimeout (c : Pos) (s : State) : Host.Outcome State Fault Refusal :=
  if drawPending (getChip s c) then .next (wipeChip s c 0x75) else .next s

end Sys2Proof.Machine
end

