-- ==== Sys2Proof/Machine/Descs.lean ====
section
/-!
DEFINITION. Recipes and descriptors as a task takes them (R324, R355, R424): formats and addresses of a stream's bytes, the tokens it
takes (Table 17-2), its addresses' faults, and its place on the clusters (Table 19-5).
-/
namespace Sys2Proof.Machine

/-! ## Recipes -/

/-- The cluster of Table 19-5 for a placement sum. -/
def placeOf (n : Nat) : ClusterNo := Fin.ofNat 256 n

/-- Recipe i of the accepted image. -/
def recipeAt (c : Chip) (i : Nat) : Option Recipe :=
  match c.image with
  | some m => m.recipes[i]?
  | none => none

/-- The recipe index that a kind of Table 19-1 is bound to. -/
def boundIndex (c : Chip) (kind : Nat) : Nat :=
  match c.image with
  | some m => m.bind.getD kind 0
  | none => 0

/-- TILE of a recipe; the least valid one where there is no recipe. -/
def tileOf (c : Chip) (i : Nat) : Nat :=
  match recipeAt c i with
  | some r => r.tile
  | none => 4096

/-- The streams of a recipe: the descriptors that a stage issues. A range that a PREFETCH, FLUSH or INVALIDATE stage names is none (R353). -/
def issuedStreams (r : Recipe) : List Nat := ((r.stages.flatMap issuedBy).filter (fun i => decide (i < r.descs.length))).eraseDups

/-- Descriptor i of a recipe. -/
def descOf (r : Recipe) (i : Nat) : Option DescRec := r.descs[i]?

/-- Bytes of two reserve buffers for every stream of a recipe, and its WORK (R324). -/
def reserveBytes (r : Recipe) : Nat :=
  ((issuedStreams r).map (fun i => match descOf r i with | some d => 2 * d.buffer | none => 0)).sum + r.work

/-- Whether a recipe's reserves and WORK fit the scratchpad of its split (R294, R324). -/
def reservesFit (r : Recipe) : Bool := decide (reserveBytes r ≤ (8 - r.l1) * 524288)

/-- Whether recipe i, where there is one, has its reserves fit. -/
def recipeFits (c : Chip) (i : Nat) : Bool := match recipeAt c i with | some r => reservesFit r | none => true

/-- The L1 size a recipe's tasks name. -/
def l1Of (c : Chip) (i : Nat) : Nat :=
  match recipeAt c i with
  | some r => r.l1
  | none => 0

/-- Descriptor i of a task's recipe. -/
def descAt (c : Chip) (t : Task) (i : Nat) : Option DescRec :=
  match recipeAt c t.recipe with
  | some r => descOf r i
  | none => none

/-- Whether a task's SPACE 1 streams reach the storage of a stash site instead of regions (Table 19-8). -/
def isStash (t : Task) : Bool := decide (5 ≤ t.kind) && decide (t.kind ≤ 10)

/-! ## Stash ranges (R181, R268) -/

/-- A stash site of a tenant. -/
def siteOf (c : Chip) (t id : Nat) : Option SiteRec :=
  match catOf c t with
  | some cat => findSite cat id
  | none => none

/-- The first token of a stash frame: OFFSET[23:0] (Table 9-1). -/
def stashToken (q : Hdr) : Nat := q.offset % 16777216

/-- Where a stash range begins, counted in 32-channel blocks. -/
def stashStart (s : SiteRec) (q : Hdr) : Nat := stashToken q * (s.channels / 32) + q.seq

/-! ## Arrays and formats (R424, log entry 17) -/

/-- The array that a request's task reads or writes in place of its recipe's: INIT's selector, and PULL's, read by R179 (Table 19-8). -/
def requestArray (c : Chip) (kind : Nat) (q : Hdr) (sel : Nat) : Nat :=
  if kind = 4 then
    match arrayInfoOf c q.tenant q.tensor q.shard with
    | some a => pullArray a sel q.format (decide (q.aux = 4))
    | none => sel
  else sel

/-- The array a SPACE 2 descriptor names in a task: from the request under USE 3 and 4 (Table 19-8), else its own. -/
def taskArray (t : Task) (d : DescRec) : Nat := if t.kind = 3 || t.kind = 4 then t.array else d.array

/-- The format of the elements of a descriptor's data: the stored one in tensor state, binary32 in 4-byte elements elsewhere. -/
def descFmt (c : Chip) (t : Task) (d : DescRec) : Option Nat :=
  if d.space = 2 then
    match arrayInfoOf c t.tenant t.tensor t.shard with
    | some a => let k := taskArray t d; some (if k = 4 then 0 else arrayFmt a k)
    | none => none
  else if d.elemSize = 4 then some 0 else none

/-! ## Where a stream's bytes lie (R321, R355) -/

/-- Bytes of one element of a descriptor's data: those of the stored format in tensor state, four for an index, a block of 33 counted
byte by byte. -/
def descElem (c : Chip) (t : Task) (d : DescRec) : Nat :=
  if d.role = 1 then 4
  else if d.space = 2 then
    match descFmt c t d with
    | some 0 => 4
    | some 1 => 2
    | some 2 => 2
    | _ => 1
  else d.elemSize

/-- The address of a descriptor's first byte in its space. -/
def descBase (c : Chip) (t : Task) (d : DescRec) : Nat :=
  if d.space = 2 then d.base + storedAt ((descFmt c t d).getD 0) t.first else d.base

/-- Bytes that a stream moves in all; a driven weft moves a row for each index of its warp. A compute copy that a tensor does not keep
moves nothing (R353). -/
def descTotal (c : Chip) (t : Task) (d : DescRec) : Nat :=
  if d.role = 2 then (match descAt c t d.warp with | some w => w.count * d.row | none => 0)
  else if d.space = 2 then
    match arrayInfoOf c t.tenant t.tensor t.shard with
    | some a =>
      let k := taskArray t d
      if k = 4 || arrayKept a k then storedBytes ((descFmt c t d).getD 0) (min d.count t.count) else 0
    | none => d.count * descElem c t d
  else d.count * descElem c t d

/-- The address of byte p of a stream that no warp drives. -/
def denseAt (c : Chip) (t : Task) (d : DescRec) (p : Nat) : Nat :=
  let es := descElem c t d
  let stride := if d.stride = 0 || (d.space = 2 && isBlockFormat ((descFmt c t d).getD 0)) then es else d.stride
  descBase c t d + p / es * stride + p % es

/-! ## Tokens (Table 17-2) -/

/-- Tokens of a read: each of its lines in whole (R319). -/
def readCost (l : List Nat) : Nat := 20480 * (linesOf l).length

/-- Tokens of a store's addresses: 16-byte blocks, one covered in part charged twice. -/
def writeCost (l : List Nat) : Nat :=
  (((l.map (· / 16)).eraseDups).map (fun b => if (l.filter (fun a => decide (a / 16 = b))).length = 16 then 2560 else 5120)).sum

/-- The pieces of a whole-tensor range: shard, first element in it, count, and the element of the frame it begins at (R197). -/
def pieces (stride : Nat) : Nat → Nat → Nat → Nat → List (Nat × Nat × Nat × Nat)
  | 0, _, _, _ => []
  | fuel + 1, a, at', n =>
    if n = 0 then []
    else
      let k := a / stride
      let m := min n ((k + 1) * stride - a)
      (k, a - k * stride, m, at') :: pieces stride fuel (a + m) (at' + m) (n - m)

/-- Where in an OP 3 stream of n bytes the frames begin that it fills: a REDUCE at each shard (R197), else frames of the largest size for
their format (R179, R183, R277). -/
def frameStarts (c : Chip) (t : Task) (n : Nat) : List Nat :=
  match t.cause with
  | some f =>
    let q := rxHead f
    (match tensorOf c t.tenant t.tensor, groupOfTensor c t.tenant t.tensor with
     | some r, some g =>
       if t.kind = 1 then
         let size := if q.format = 0 then 4 else 2
         (pieces (shardStride g.rule r) t.count t.first 0 t.count).map (fun p => p.2.2.2 * size)
       else cut (if isBlockFormat q.format then 16368 else 16384)
     | _, _ => cut (if isBlockFormat q.format then 16368 else 16384))
  | none => cut 16384
where
  cut (room : Nat) : List Nat := (List.range (ceilDiv n room)).map (fun i => i * room)

/-- Tokens of a send of n bytes from byte p of a stream of `total`: its bytes, and a header for each frame that begins in them. -/
def sendCost (c : Chip) (t : Task) (total p n : Nat) : Nat :=
  320 * (n + 32 * ((frameStarts c t total).filter (fun a => decide (p ≤ a) && decide (a < p + n))).length)

/-! ## Faults of addresses -/

/-- Bytes of an array that a SPACE 2 stream may reach. -/
def spaceBytes (c : Chip) (t : Task) (d : DescRec) : Nat :=
  match arrayInfoOf c t.tenant t.tensor t.shard with
  | some a => let k := taskArray t d; if k = 4 then 4 * a.n else if arrayKept a k then arraySize a k else 0
  | none => 0

/-- Bytes of the scratchpad under a task's split (R294). -/
def scratchBytes (t : Task) : Nat := (8 - t.l1) * 524288

/-- Whether a stash task's offset lies in the storage of its site (Table 19-8, R278). -/
def inSite (c : Chip) (t : Task) (a : Nat) : Bool :=
  match siteOf c t.tenant t.tensor with
  | some s => decide (a < s.reserve * 2097152)
  | none => false

/-- The fault of a request's addresses, if any: 0x41 past the scratchpad, 0x30 unmapped or past the shard's array (R294, R315, R321). -/
def addressFault (c : Chip) (t : Task) (d : DescRec) (l : List Nat) : Option Nat :=
  if d.op = 3 then none
  else if d.space = 0 then (if l.any (fun a => decide (scratchBytes t ≤ a)) then some 0x41 else none)
  else if d.space = 1 then
    (if isStash t then (if l.all (inSite c t) then none else some 0x30)
     else if (linesOf l).all (fun n => (mapAddress c t.tenant (128 * n)).isSome) then none else some 0x30)
  else if l.any (fun a => decide (spaceBytes c t d ≤ a)) then some 0x30
  else none

/-- The tensor lines that a stream's offsets touch, as committed state; an accumulator's are its own (Table 16-4). -/
def committedLines (t : Task) (d : DescRec) (l : List Nat) : List Nat :=
  if d.space = 2 && decide (taskArray t d ≠ 4) then linesOf l else []

end Sys2Proof.Machine
end

