-- ==== Sys2Proof/Machine/Launch.lean ====
section
/-!
DEFINITION. The tasks that a frame causes (R357, R359, log entry 10): their tiles and clusters, the cluster queues (R128, R329), what a task
finds as it starts (R295, R296), breakpoints at a start (R402), and tasks that run whole.
-/
namespace Sys2Proof.Machine

/-! ## The tasks of a frame's work -/

/-- The task of a kind for a frame, over elements first to first + count − 1 (R359). -/
def frameTask (c : Chip) (kind : Nat) (f : RxFrame) (first count now : Nat) : Task :=
  let q := rxHead f
  let i := boundIndex c kind
  { recipe := i, tenant := q.tenant, kind := kind, l1 := l1Of c i, tensor := q.tensor, shard := q.shard, step := q.step,
    first := first, count := count, tag := q.tag, cause := some f, readyAt := now, workFirst := first, workCount := count, part := 0,
    array := requestArray c kind q (if kind = 4 && q.aux = 4 then 0 else q.aux), order := c.launches }

/-- The cluster of a task (Table 19-5): its first element, or its first token, gives the tile. -/
def taskPlace (c : Chip) (t : Task) : ClusterNo :=
  if isStash t then placeOf (t.tensor + 16 * t.shard + t.first / 256)
  else if t.kind = 1 || t.kind = 11 then placeOf (t.tensor + t.first / tileOf c t.recipe)
  else placeOf (t.tensor + 16 * t.shard + t.first / tileOf c t.recipe)

/-- A range cut at tile boundaries: first element and count of each. -/
def tileCuts (tile : Nat) : Nat → Nat → Nat → List (Nat × Nat)
  | 0, o, n => [(o, n)]
  | fuel + 1, o, n =>
    let k := min n (tile - o % tile)
    if n ≤ k then [(o, n)] else (o, k) :: tileCuts tile fuel (o + k) (n - k)

/-- The tokens and elements of a stash range in tasks of TILE elements each. -/
def stashCuts (c : Chip) (t : Task) (q : Hdr) : List (Nat × Nat) :=
  let tile := tileOf c t.recipe
  match siteOf c t.tenant t.tensor with
  | some s =>
    (List.range (max 1 (ceilDiv t.workCount tile))).map (fun i =>
      ((stashStart s q + i * (tile / 32)) / (s.channels / 32), min tile (t.workCount - i * tile)))
  | none => [(t.workFirst, t.workCount)]

/-- The arrays that a PULL under AUX 4 is answered from, one run of its tasks for each (R424); one run otherwise. -/
def workArrays (c : Chip) (t : Task) : List Nat :=
  match t.cause with
  | some f =>
    let q := rxHead f
    if t.kind = 4 && q.aux = 4 then
      match arrayInfoOf c t.tenant t.tensor t.shard with
      | some a => (pullSelectors a 4).map (requestArray c 4 q)
      | none => [t.array]
    else [t.array]
  | none => [t.array]

/-- The consecutive tasks of a frame's work, each over at most TILE elements (R357). -/
def workTasks (c : Chip) (t : Task) : List Task :=
  let cuts :=
    match t.cause with
    | some f => if isStash t then stashCuts c t (rxHead f) else tileCuts (tileOf c t.recipe) t.workCount t.workFirst t.workCount
    | none => [(t.first, t.count)]
  let ps := (workArrays c t).flatMap (fun a => cuts.map (fun p => (a, p.1, p.2)))
  (List.zip (List.range ps.length) ps).map (fun p => { t with part := p.1, array := p.2.1, first := p.2.2.1, count := p.2.2.2 })

/-! ## Cluster queues (R128, R329) -/

/-- Whether a tenant has a task on a cluster, queued or running. -/
def hasWork (x : Cluster) (t : Nat) : Bool :=
  x.queue.any (fun u => decide (u.tenant = t)) || (match x.run with | some r => decide (r.task.tenant = t) | none => false) ||
  (match x.next with | some r => decide (r.task.tenant = t) | none => false)

/-- A queue with a task in its place: behind the tenant's tasks that became ready no later (R329). -/
def insertTask (t : Task) : List Task → List Task
  | [] => [t]
  | u :: rest => if u.tenant = t.tenant && decide (t.readyAt < u.readyAt) then t :: u :: rest else u :: insertTask t rest

/-- Put a task into a cluster's queue; a tenant that had none there begins with a deficit of 0 (R128). -/
def queueTask (c : Chip) (k : ClusterNo) (t : Task) : Chip :=
  modCluster c k (fun x =>
    { x with queue := insertTask t x.queue, deficit := if hasWork x t.tenant then x.deficit else tabErase x.deficit t.tenant })

/-- The deficits of tenants with no task left on a cluster are gone (R128). -/
def dropDeficits (x : Cluster) : Cluster := { x with deficit := x.deficit.filter (fun d => hasWork x d.1) }

/-- A stash task of the same tenant, site and slot that comes before a task in the order in which the chip took its frames in (R271). -/
def stashBefore (t u : Task) : Bool :=
  isStash u && decide (u.tenant = t.tenant) && decide (u.tensor = t.tensor) && decide (u.shard = t.shard) && decide (u.order < t.order)

/-! ## Breakpoints at a start (R402) -/

/-- Whether a slot is hit by a task about to run its first stage (kind 1). -/
def taskSlot (b : BreakSlot) (t : Task) : Bool :=
  b.enabled && decide (b.kind = 1) && decide (b.tenant = t.tenant) && decide (b.tensor = t.tensor) &&
  (decide (b.step = 0xFFFFFFFF) || decide (b.step = t.step))

/-- Whether a slot is hit by a stage about to start (kind 0). -/
def stageSlot (b : BreakSlot) (recipe stage : Nat) : Bool :=
  b.enabled && decide (b.kind = 0) && decide (b.code = recipe) && decide (b.stage = stage)

/-- The breakpoint slots that `p` names. -/
def slotsWhere (c : Chip) (p : BreakSlot → Bool) : List Nat :=
  (List.range 8).filter (fun i => p (tabGet .reset c.dbg.slots i))

/-- Slots hit before a cluster starts something: hit bits set, and the cluster, or every cluster, halts (R402). -/
def hitSlots (c : Chip) (k : ClusterNo) (slots : List Nat) : Chip :=
  forEach c slots (fun c i =>
    let c := noteHit c i k
    let c := if (tabGet BreakSlot.reset c.dbg.slots i).everyCluster then haltAll c else haltCluster c k
    modCluster c k (fun x => { x with passed := true }))

/-! ## What a task finds as it starts (R295, R296) -/

/-- The L1 of a cluster emptied, dirty bytes of coherent lines written back first (R295). -/
def emptyL1 (c : Chip) (k : ClusterNo) : Chip :=
  let lines := (clusterOf c k).l1.map (·.1)
  lines.foldl (fun c n => dropL1 (pullDirty c n k) n k) c

/-- L1 empty after a change of split, scratchpad zero after another tenant (R295, R296). -/
def enterCluster (c : Chip) (k : ClusterNo) (t : Task) : Chip :=
  let c := if (clusterOf c k).lastL1 = t.l1 then c else emptyL1 c k
  modCluster c k (fun x =>
    let other := decide (x.lastTenant ≠ some t.tenant)
    { x with lastL1 := t.l1, lastTenant := some t.tenant, scratch := if other then [] else x.scratch,
             scratchPoison := if other then [] else x.scratchPoison })

/-! ## Tasks that run whole (log entry 10) -/

/-- Whether a recipe moves only the data its kind defines, through streams that no warp drives: the task's shard or stash storage, and
frames sent; no region, scratchpad, fence or sync object. -/
def isPlain (r : Recipe) : Bool :=
  r.stages.all (fun s => decide (s.code ≤ 0x0D)) &&
  r.descs.all (fun d =>
    decide (d.role = 0) &&
    (decide (d.space = 2) || (decide (d.space = 0) && decide (d.op = 3)) ||
     (decide (d.space = 1) && decide (5 ≤ r.use) && decide (r.use ≤ 10))))

/-- Whether recipe i runs whole: it is plain, and no breakpoint names one of its stages. -/
def runsWhole (c : Chip) (i : Nat) : Bool :=
  (match recipeAt c i with | some r => isPlain r | none => true) &&
  (slotsWhere c (fun b => b.enabled && decide (b.kind = 0) && decide (b.code = i))).isEmpty

/-- The streams of a task's recipe. -/
def taskStreams (c : Chip) (t : Task) : List DescRec :=
  match recipeAt c t.recipe with
  | some r => (issuedStreams r).filterMap (descOf r)
  | none => []

/-- The addresses of all of a dense stream's bytes. -/
def denseAddresses (c : Chip) (t : Task) (d : DescRec) : List Nat := (List.range (descTotal c t d)).map (denseAt c t d)

/-- Bytes of the block sums that a NORM2 stage writes for some elements (R210, R356). -/
def sumBytes (elems : Nat) : Nat := 4 * ceilDiv elems 32

/-- The tokens that a task which runs whole takes from the read, write or egress bucket of its cluster (class 0, 1 or 3). -/
def wholeCost (c : Chip) (t : Task) (op : Nat) : Nat :=
  let ds := taskStreams c t
  if op = 0 then ((ds.filter (fun d => decide (d.op = 0))).map (fun d => readCost (denseAddresses c t d))).sum
  else if op = 3 then
    ((ds.filter (fun d => decide (d.op = 3))).map (fun d => sendCost c t (descTotal c t d) 0 (descTotal c t d))).sum
  else
    ((ds.filter (fun d => decide (d.op = 1) || decide (d.op = 2))).map (fun d => writeCost (denseAddresses c t d))).sum +
    (match recipeAt c t.recipe with
     | some r => (r.stages.filter (fun s => decide (s.code = 0x09))).length * writeCost (List.range (sumBytes t.count))
     | none => 0)

/-- Whether each bucket of a cluster holds what a task takes of it. -/
def canPay (c : Chip) (x : Cluster) (t : Task) : Bool :=
  decide (wholeCost c t 0 ≤ x.readTokens) && decide (wholeCost c t 1 ≤ x.writeTokens) && decide (wholeCost c t 3 ≤ x.egressTokens)

/-- The cluster after it has paid. -/
def payWhole (c : Chip) (t : Task) (x : Cluster) : Cluster :=
  { x with readTokens := x.readTokens - wholeCost c t 0, writeTokens := x.writeTokens - wholeCost c t 1,
           egressTokens := x.egressTokens - wholeCost c t 3 }

/-- The fault that a task which runs whole meets: reserves that do not fit, or a stream's address (R315, R321, R324). -/
def wholeFault (c : Chip) (t : Task) : Option Nat :=
  if !recipeFits c t.recipe then some 0x42 else (taskStreams c t).findSome? (fun d => addressFault c t d (denseAddresses c t d))

/-- A task enters its cluster, pays, counts as run and completes (R295, R296, R311, R327). -/
def enterWhole (c : Chip) (t : Task) : Chip :=
  countTen (modCluster (enterCluster c (taskPlace c t) t) (taskPlace c t)
    (fun x => { payWhole c t x with completion := some { task := t, deadReuse := false } })) t.tenant 27 1

/-- Some tasks enter their clusters one after the other; none where one of them finds its buckets short. -/
def enterAll : List Task → Chip → Option Chip
  | [], c => some c
  | t :: rest, c => if canPay c (clusterOf c (taskPlace c t)) t then enterAll rest (enterWhole c t) else none

/-- A task that runs whole ends on a fault (R315, R324, R361). -/
def launchFault (c : Chip) (t : Task) (code : Nat) : Chip :=
  hitFault (abortCause (countTen (countCode c code) t.tenant 28 1) t.cause code) code (some (taskPlace c t))

/-- A cluster that runs nothing, has nothing queued and is not halted. -/
def isIdle (x : Cluster) : Bool := !x.halted && x.run.isNone && x.next.isNone && x.queue.isEmpty

/-- Whether some tasks find nothing in their way: their recipe runs whole, each one's cluster is idle, and a stash task has no earlier one of
its slot before it (R271, R329, R400). -/
def canRunNow (c : Chip) (ts : List Task) : Bool :=
  ts.all (fun t => runsWhole c t.recipe && isIdle (clusterOf c (taskPlace c t)) && !(isStash t && anyTask c (stashBefore t)))

/-- Start the tasks that a frame causes: whole and at once, where their clusters are free and their buckets hold all that they take; else the
first of them goes into its cluster's queue and each one queues the next as it ends (R327, R357, log entry 10). -/
def launch (c : Chip) (t : Task) (run : Chip → Chip) : Chip :=
  let c := { c with launches := c.launches + 1 }
  let ts := workTasks c t
  let first := ts.headD t
  let hits := slotsWhere c (fun b => taskSlot b first)
  if !canRunNow c ts then queueTask c (taskPlace c first) first
  else if !hits.isEmpty then queueTask (hitSlots c (taskPlace c first) hits) (taskPlace c first) first
  else
    match ts.findSome? (wholeFault c), enterAll ts c with
    | some code, _ => launchFault (countTen c t.tenant 27 1) first code
    | none, some c => run c
    | none, none => queueTask c (taskPlace c first) first

end Sys2Proof.Machine
end

