-- ==== Sys2Proof/Machine/Frames.lean ====
section
/-!
DEFINITION. What every frame meets at a chip before its own command serves it: the inbox, the receive checks of Table 9-4, and the checks
of chip-to-chip frames (section 9.9).
-/
namespace Sys2Proof.Machine

/-- A frame leaves the inbox as its command takes it (log entry 9), and the pool that it came into. -/
def consume (c : Chip) (f : RxFrame) : Chip := freeDispatched { c with inbox := c.inbox.erase f } f

/-- A frame that cannot be taken in yet stays at the front of the inbox (R304). -/
def putBack (c : Chip) (f : RxFrame) : Chip := { c with inbox := f :: c.inbox }

/-- Whether a frame that a command took has been put back. -/
def isPutBack (c c' : Chip) (f : RxFrame) : Bool := decide ((consume c f).inbox.count f < c'.inbox.count f)

/-- The state after a command: a frame that was put back has kept its place in its ingress pool (R304). -/
def keepInPool (pos : Pos) (f : RxFrame) (s s' : State) : State :=
  let c := getChip s pos
  let c' := getChip s' pos
  if isPutBack c c' f then
    let old := portOf c f.port
    setChip s' pos (modPort c' f.port (fun x =>
      { x with granted := old.granted, heldFlits := old.heldFlits, dispatched := old.dispatched }))
  else s'

/-- Whether an earlier frame of the same tenant on the same VC still waits: within a tenant, frames are served in arrival order (R332). VC0
waits on nothing (R334). -/
def waitsBehind (c : Chip) (f : RxFrame) : Bool :=
  decide (f.vc ≠ 0#2) &&
  (c.inbox.takeWhile (fun g => decide (g ≠ f))).any (fun g => decide (g.vc = f.vc) && decide (g.tagTenant = f.tagTenant))

/-! ## Checks 1 and 2 (R168) -/

/-- L of R168 for a received frame. -/
def rxLen (f : RxFrame) : Option Nat := payloadLen (rxHead f) f.frame.payload

/-- Whether the expected length is defined and its flit count equals the frame's. -/
def flitsMatch (f : RxFrame) : Bool :=
  match rxLen f with
  | some n => decide (flitsOf n = f.flits)
  | none => false

/-- Check 1 fails: the flit counts agree and the trailer, read directly after L bytes of payload, does not. -/
def trailerFails (f : RxFrame) : Bool :=
  flitsMatch f &&
  (decide (rxLen f ≠ some f.frame.payload.length) || decide (frameTrailer f.frame.hdr f.frame.payload ≠ f.frame.trailer))

/-- The length test of check 2 fails: the flit counts differ. An INIT whose payload would exceed the 16,384 bytes of section 9.1 fails it
too, as no rule of its own bounds its COUNT (R171, R230 and R272 bound the others, with RANGE). -/
def lengthFails (f : RxFrame) : Bool :=
  match rxLen f with
  | some n => !flitsMatch f || (decide ((rxHead f).type = tyInit) && decide (16384 < n))
  | none => false

/-- Types whose payload size depends on COUNT (R168). -/
def sizedByCount (type : Nat) : Bool := type = tyGrad || type = tyInit || type = tyStashPut || type = tyIndex

/-- A reserved AUX value (R166). -/
def reservedAux (q : Hdr) : Bool :=
  (decide (q.type = tyInit) && (decide (q.aux = 1) || decide (3 < q.aux))) ||
  (decide (q.type = tyPull) && decide (4 < q.aux)) || (decide (q.type = tyStatGet) && decide (3 < q.aux))

/-- Check 2: the byte offset of the first field that fails, in the order in which Table 9-4 lists the conditions. -/
def badHeader (f : RxFrame) : Option Nat :=
  let q := rxHead f
  if q.version ≠ 1 then some 0
  else if q.vc ≠ f.vc.toNat then some 2
  else if (f.vc = 1#2 || f.vc = 2#2) && decide (q.tenant ≠ f.tagTenant.toNat) then some 2
  else if hasFlag q.flags flCompressed then some 3
  else if lengthFails f then some (if sizedByCount q.type then 20 else 1)
  else if reservedAux q then some 25
  else none

/-! ## Checks 1 to 5 at the arrival chip -/

/-- What checks leave: the chip with the frame refused, dropped or sent on, or the frame still to be served. -/
inductive Gate where
  | stop (c : Chip)
  | pass (c : Chip)

/-- Whether DEST lies inside the torus (R160); before an image is accepted only this chip is known. -/
def destInside (c : Chip) (dest : Nat) : Bool :=
  match c.image with
  | some i => insideTorus i.xSize i.ySize dest
  | none => decide (dest = chipNo c)

/-- A host request goes on toward its destination chip (R160). -/
def sendOn (c : Chip) (f : RxFrame) (target : Nat) : Chip :=
  let o := originOf c f
  emit c { frame := f.frame, vc := f.vc, route := newPrefix o.1.toNat o.2.toNat target 0x3F }

/-- A frame that a chip link brought for another chip goes on with its own prefix. -/
def passOn (c : Chip) (f : RxFrame) (r : Prefix) : Chip := emit c { frame := f.frame, vc := f.vc, route := r }

/-- Checks 1 to 5 of Table 9-4 on a frame from a host port; a frame that a chip link brought has passed them at its arrival chip
and is only held to VC1 (R148) and to a tenant that exists (R126). -/
def arrivalGate (c : Chip) (f : RxFrame) : Gate :=
  let q := rxHead f
  match f.route with
  | none =>
    if trailerFails f then .stop (countDev c 128 1)
    else
      match badHeader f with
      | some d => .stop (sendDone c f (doneInfo stBadHeader d))
      | none =>
        if !isHostRequest q.type || f.vc ≠ 1#2 then .stop (sendDone c f (doneInfo stBadType q.type))
        else if !tenantExists c q.tenant then .stop (sendDone (countDev c 129 1) f (doneInfo stBadTensor 0))
        else if !destInside c q.dest then .stop (sendDone c f (doneInfo stRange 0))
        else if q.dest = chipNo c then .pass c
        else .stop (sendOn c f q.dest)
  | some r =>
    if r.targetChip.toNat ≠ chipNo c then .stop (passOn c f r)
    else if f.vc ≠ 1#2 then .stop (sendDone c f (doneInfo stBadType q.type))
    else if !tenantExists c q.tenant then .stop (sendDone (countDev c 129 1) f (doneInfo stBadTensor 0))
    else .pass c

/-! ## Checks 6 to 8 at the destination -/

/-- Requests that a tenant-level, chip-level or tray-level fault leaves served (R131, Table 20-1). -/
def isReadback (type : Nat) : Bool := type = tyPull || type = tyScaleGet || type = tyStatGet

/-- Requests that Autumn refuses (R81). -/
def isWrite (type : Nat) : Bool := type = tyGrad || type = tyInit || type = tyStashPut

/-- Whether a request of a tenant meets check 6: in reset, or not yet loaded in this Spring. -/
def awaitsReset (x : TenantCtx) : Bool := decide (x.resetPhase ≠ .none) || (!x.loaded && decide (x.fault = 0))

/-- A wipe (R385), a code that stops the chip (Table 20-1), then checks 6, 7 and 8 of Table 9-4. -/
def serveGate (c : Chip) (f : RxFrame) : Gate :=
  let q := rxHead f
  let x := ten c q.tenant
  match (if q.type = tyStatGet then none else wipeCode c) with
  | some code => .stop (sendFault c f code)
  | none =>
    match (if isReadback q.type then none else stoppingFault c) with
    | some code => .stop (sendFault c f code)
    | none =>
      let c := if rxFlag f flRetry then countTen c q.tenant 14 1 else c
      if awaitsReset x then .stop (sendDone c f (doneInfo stTenantReset 0))
      else if decide (x.fault ≠ 0) && !(isReadback q.type && x.loaded) then
        .stop (sendFault c f x.fault)
      else if decide (c.wake.season = .autumn) && isWrite q.type then .stop (sendDone c f (doneInfo stAutumn 0))
      else .pass c

/-- Take a host request of a type: its checks, then `serve` at the chip that DEST names. -/
def hostCommand (type : Nat) (serve : Nat → Chip → RxFrame → Chip) (pos : Pos) (f : RxFrame) (s : State) : State :=
  let k := getChip s pos
  if linksOn k && decide ((rxHead f).type = type) && !waitsBehind k f then
    match arrivalGate (consume k f) f with
    | .stop k => setChip s pos k
    | .pass k =>
      match serveGate k f with
      | .stop k => setChip s pos k
      | .pass k => setChip s pos (serve s.tray.now k f)
  else s

/-- The origin of the latest frame accepted from a tenant and source, where reports and faults go (R160). -/
def noteOrigin (c : Chip) (f : RxFrame) : Chip :=
  let q := rxHead f
  modTen c q.tenant (fun x => { x with origins := tabSet x.origins q.source (originOf c f) })

/-! ## Chip-to-chip frames (section 9.9) -/

/-- Whether a chip-to-chip frame is laid out as section 9.9 says: version, VC by Table 8-5, tenant tag on VC2, length, trailer. -/
def chipFrameOk (f : RxFrame) : Bool :=
  let q := rxHead f
  decide (q.version = 1) && decide (vcOfType q.type = some f.vc.toNat) && decide (q.vc = f.vc.toNat) &&
  (f.vc ≠ 2#2 || decide (q.tenant = f.tagTenant.toNat)) && flitsMatch f && !trailerFails f

/-- A chip that does no work for a tenant drops its chip frames: wiped, stopped by a code, the tenant faulted, in reset or not
loaded (R131, R133, R137, Table 20-1). -/
def tenantDeaf (c : Chip) (x : TenantCtx) : Bool :=
  (wipeCode c).isSome || (stoppingFault c).isSome || decide (x.fault ≠ 0) || decide (x.resetPhase ≠ .none) || !x.loaded

/-- Take a chip-to-chip frame of a type: one from a host is answered BADTYPE (check 3); one that breaks section 9.9 is dropped and
counted; then `serve`. -/
def chipCommand (type : Nat) (serve : Nat → Chip → RxFrame → Chip) (pos : Pos) (f : RxFrame) (s : State) : State :=
  let k := getChip s pos
  let q := rxHead f
  if linksOn k && decide (q.type = type) && !waitsBehind k f then
    let k := consume k f
    match f.route with
    | none =>
      (match arrivalGate k f with
       | .stop k => setChip s pos k
       | .pass k => setChip s pos k)
    | some r =>
      if r.targetChip.toNat ≠ chipNo k then setChip s pos (passOn k f r)
      else if !chipFrameOk f then setChip s pos (countDev k 130 1)
      else if !tenantExists k q.tenant then setChip s pos (countDev k 129 1)
      else setChip s pos (serve s.tray.now k f)
  else s

/-! ## Commands -/

/-- A frame of a type that is neither a host request nor a chip-to-chip frame: from a host it meets checks 1 to 3 and is answered
BADTYPE; from a chip it is dropped and counted (R166, Table 9-2). -/
def execUnknownFrameType (c : Pos) (f : RxFrame) (s : State) : Host.Outcome State Fault Refusal :=
  let k := getChip s c
  if linksOn k && !isHostRequest (rxHead f).type && !isChipFrame f && !waitsBehind k f then
    let k := consume k f
    match f.route with
    | none =>
      (match arrivalGate k f with
       | .stop k => .next (setChip s c k)
       | .pass k => .next (setChip s c k))
    | some r =>
      .next (setChip s c (if r.targetChip.toNat ≠ chipNo k then passOn k f r else countDev k 130 1))
  else .next s

/-- TENANT_DOWN at a chip: the tenant faults with 0x85, loaded or not, unless the chip itself resets it; a tenant already faulted counts
it; after a reset it is dropped until the first INIT (R136, R137). R136 does not say whether a frame that finds steps 2 to 7 under way is
counted: the model drops it uncounted (DESIGN CHOICE, log entry 67). -/
def takeTenantDown (c : Chip) (f : RxFrame) : Chip :=
  let t := (rxHead f).tenant
  let x := ten c t
  if (wipeCode c).isSome || (stoppingFault c).isSome then countTen c t 32 1
  else if x.resetPhase ≠ .none then c
  else if x.wasReset then countTen c t 32 1
  else if x.fault ≠ 0 then countTen c t 35 1
  else tenantFault c t 0x85

/-- A TENANT_DOWN arrives (R136). -/
def execTenantDown (c : Pos) (f : RxFrame) (s : State) : Host.Outcome State Fault Refusal :=
  .next (chipCommand tyTenantDown (fun _ k f => takeTenantDown k f) c f s)

end Sys2Proof.Machine
end

