-- ==== Sys2Proof/Machine/Reads.lean ====
section
/-!
DEFINITION. The read requests: PULL, SCALE_GET, MASK_GET and STAT_GET (sections 9.5, 9.6 and 9.8).
-/
namespace Sys2Proof.Machine

/-! ## PULL (R17, R18, R178, R179) -/

/-- A PARAM tensor of a tenant with its group; none for an unknown tensor or a MASK tensor (R116). -/
def paramTensor (c : Chip) (t id : Nat) : Option (TensorRec × GroupRec) :=
  match tensorOf c t id, groupOfTensor c t id with
  | some r, some g => some (r, g)
  | _, _ => none

/-- Whether PULL takes a format for a selector (Table 9-3). -/
def pullFormat (g : GroupRec) (m8 : Bool) (aux fmt : Nat) : Bool :=
  decide (fmt = 0) ||
  (decide (aux = 1) && (decide (fmt ≤ 4) || (decide (0x10 ≤ fmt) && decide (fmt ≤ 0x12)))) ||
  (decide (aux = 2) && decide (fmt = 0x12) && decide (reportedFmt g m8 2 = 0x12)) ||
  (decide (aux = 3) && decide (fmt = 0x20) && decide (reportedFmt g m8 3 = 0x20))

/-- Whether a selector names a moment that the rule does not keep. -/
def absentMoment (g : GroupRec) (aux : Nat) : Bool :=
  (decide (aux = 2) && !keepsM1 g.rule) || (decide (aux = 3) && !keepsM2 g.rule)

/-- Whether a range lies in a shard of n elements, on whole blocks where the format is in blocks (R179, R254). -/
def pullRange (n : Nat) (q : Hdr) : Bool :=
  decide (q.offset < n) && decide (q.offset + pullCount n q ≤ n) && (!isBlockFormat q.format || decide (q.offset % 32 = 0))

/-- The PULL task: the lines it reads stand in their slices (R303), and the reply. -/
def runPull (c : Chip) (f : RxFrame) : Chip :=
  let q := rxHead f
  match arrayInfoOf c q.tenant q.tensor q.shard with
  | none => servePull c f
  | some a =>
    let n := pullCount a.n q
    let c := forEach c (pullSelectors a q.aux) (fun c sel =>
      let k := pullArray a sel q.format (decide (q.aux = 4))
      loadTensor q.tenant q.tensor q.shard k 0 c (storedLines (arrayFmt a k) q.offset n))
    servePull c f

/-- The task that answers a PULL. -/
def launchPull (now : Nat) (c : Chip) (f : RxFrame) : Chip :=
  let q := rxHead f
  let t := frameTask c 4 f q.offset (pullCount (elemsOf c q.tenant q.tensor q.shard) q) now
  launch c t (fun c => runPull c f)

/-- Checks 9 to 12 of a PULL; then it is held for its step or answered (R17, R18, R131). -/
def takePull (now : Nat) (c : Chip) (f : RxFrame) : Chip :=
  let q := rxHead f
  let x := ten c q.tenant
  match paramTensor c q.tenant q.tensor with
  | none => sendDone c f (doneInfo stBadTensor 0)
  | some (r, g) =>
    if !pullFormat g x.m8 q.aux q.format then sendDone c f (doneInfo stFormat 0)
    else if r.shards ≤ q.shard then sendDone c f (doneInfo stRange 0)
    else
      match homeOf c q.tenant q.tensor q.shard with
      | none => sendDone c f (doneInfo stRange 0)
      | some home =>
        if home ≠ chipNo c then sendDone c f (doneInfo stRange home)
        else if absentMoment g q.aux || !pullRange (elemsOf c q.tenant q.tensor q.shard) q || beyondResolved x q.step 2 then
          sendDone c f (doneInfo stRange 0)
        else if (shardOf x q.tensor q.shard).fill ≠ .filled then sendDone c f (doneInfo stEmpty 0)
        else
          let c := noteOrigin c f
          if x.fault ≠ 0 || (stoppingFault c).isSome then servePull c f
          else if resolvedBy x q.step then launchPull now c f
          else modTen c q.tenant (fun x => { x with heldPulls := x.heldPulls ++ [f] })

/-- A PULL arrives (R178). -/
def execPull (c : Pos) (f : RxFrame) (s : State) : Host.Outcome State Fault Refusal :=
  .next (hostCommand tyPull takePull c f s)

/-! ## SCALE_GET (R180) -/

/-- The latest committed step for a shard: the tenant's, or before any commit the one its INIT named (R177, R180). -/
def latestCommitted (x : TenantCtx) (h : Shard) : Nat := max h.stateStep (x.committed.getD 0)

/-- The 80 bytes of SCALE_DATA for a step. -/
def scalePayload (g : GroupRec) (h : Shard) (step : Nat) : List Byte :=
  leBytes 1 g.computeFmt ++ leBytes 1 g.margin ++ leBytes 2 (fieldOfInt 16 h.scaleExp) ++ leBytes 4 step ++
  List.replicate 8 0#8 ++ (h.history.take 16).flatMap (fun w => bytesOf w 4)

/-- Checks 9 to 12 of a SCALE_GET, and its answer, whose header copies the request's STEP (R164) while the payload states the latest
committed one; FORMAT is ignored (R167). -/
def takeScaleGet (c : Chip) (f : RxFrame) : Chip :=
  let q := rxHead f
  let h := shardOf (ten c q.tenant) q.tensor q.shard
  match paramTensor c q.tenant q.tensor, homeOf c q.tenant q.tensor q.shard with
  | none, _ => sendDone c f (doneInfo stBadTensor 0)
  | some _, none => sendDone c f (doneInfo stRange 0)
  | some (_, g), some home =>
    if home ≠ chipNo c then sendDone c f (doneInfo stRange home)
    else if h.fill ≠ .filled then sendDone c f (doneInfo stEmpty 0)
    else if h.histPoison then sendAborted c f 0x21
    else sendReply (noteOrigin c f) f (replyHdr c q tyScaleData flLast 0) (scalePayload g h (latestCommitted (ten c q.tenant) h))

/-- A SCALE_GET arrives. -/
def execScaleGet (c : Pos) (f : RxFrame) (s : State) : Host.Outcome State Fault Refusal :=
  .next (hostCommand tyScaleGet (fun _ k f => takeScaleGet k f) c f s)

/-! ## MASK_GET (R183, R285, R286) -/

/-- The first element a MASK_GET names. -/
def maskFirst (q : Hdr) : Nat := q.shard % 256 * 4294967296 + q.offset

/-- Keep bits of n elements from element i. -/
def maskBits (seed : BitVec 64) (step tensor keep i n : Nat) : List Bool :=
  (upFrom i n).map (maskKeeps seed step tensor keep)

/-- Send the MASK_DATA frames of a range, each with the OFFSET of its own first element; SHARD is the request's (R164, R183). -/
def sendMasks (c : Chip) (f : RxFrame) (seed : BitVec 64) (keep j : Nat) : List (Nat × Nat) → Chip
  | [] => c
  | (i, n) :: rest =>
    let q := rxHead f
    let fl := if rest.isEmpty then flLast else 0
    let h := { replyHdr c q tyMaskData fl 0 with
      seq := j % 65536, offset := i % 4294967296, count := n }
    sendMasks (sendReply c f h (packBits n (maskBits seed q.step q.tensor keep i n))) f seed keep (j + 1) rest

/-- Answer a MASK_GET. -/
def serveMask (c : Chip) (f : RxFrame) : Chip :=
  let q := rxHead f
  match tensorOf c q.tenant q.tensor with
  | none => sendDone c f (doneInfo stBadTensor 0)
  | some r => sendMasks c f (ten c q.tenant).seed r.keepP16 0 (cutRange q.count 131072 (maskFirst q) q.count)

/-- Checks 9 to 11 of a MASK_GET; then its task (R116, R183). -/
def takeMaskGet (now : Nat) (c : Chip) (f : RxFrame) : Chip :=
  let q := rxHead f
  match tensorOf c q.tenant q.tensor with
  | none => sendDone c f (doneInfo stBadTensor 0)
  | some r =>
    if !r.mask then sendDone c f (doneInfo stBadTensor 0)
    else if q.count = 0 || tensorElems r < maskFirst q + q.count then sendDone c f (doneInfo stRange 0)
    else
      let t := frameTask c 11 f (maskFirst q) q.count now
      launch (noteOrigin c f) t (fun c => serveMask c f)

/-- A MASK_GET arrives (R183). -/
def execMaskGet (c : Pos) (f : RxFrame) (s : State) : Host.Outcome State Fault Refusal :=
  .next (hostCommand tyMaskGet takeMaskGet c f s)

/-! ## STAT_GET (R188, R423) -/

/-- The codes of the six ladders of a strap set, one byte each (Table 9-13). -/
def strapBytes (w : StrapSet) : List Byte :=
  [w.trayidH, w.trayidL, w.tenlayout, w.bwsplit, w.portmodeH, w.portmodeT].flatMap (fun x => leBytes 1 (codeOf x))

/-- BANK_SEL, HEAT_EN and DEBUG_EN as bits 0 to 2. -/
def levelBits (w : StrapSet) : Nat :=
  bitSum [(w.bankSel.getD false, 1), (w.heatEn.getD false, 2), (w.debugEn.getD false, 4)]

/-- One page-0 fault entry. -/
def faultEntry (f : FaultRec) : List Byte :=
  leBytes 1 f.code ++ leBytes 1 f.level ++
  leBytes 1 (match f.port with | some p => p.val | none => 0x3F) ++ leBytes 1 (if f.reportedOnly then 1 else 0)

/-- A byte list brought to a length with 0x00. -/
def padTo (n : Nat) (bs : List Byte) : List Byte := bs ++ List.replicate (n - bs.length) 0#8

/-- The observed set: the latched one until the first re-sense (R54). -/
def observedSet (w : Wake) : StrapSet := if w.sensed then w.observed else w.latched

/-- A temperature as a signed 16-bit field. -/
def tempBytes (t : Int) : List Byte := leBytes 2 (fieldOfInt 16 t)

/-- Page 0 (Table 9-13). -/
def devicePage (y : Tray) (c : Chip) : List Byte :=
  let w := c.wake
  padTo 256
    (padTo 64
      (leBytes 2 (chipNo c) ++ leBytes 1 (seasonCode w.season) ++ leBytes 1 (lifeCode c.vault.lifeCycle) ++
       leBytes 2 (statFlags y c) ++ leBytes 1 w.issueRate ++ [0#8] ++ strapBytes w.latched ++ strapBytes (observedSet w) ++
       leBytes 1 (levelBits w.latched + 8 * posOf c) ++ leBytes 1 (levelBits (observedSet w)) ++
       leBytes 1 (match y.fancurve with | some x => x.val | none => 0xFF) ++ [0#8] ++ leBytes 4 w.generation.toNat ++
       leBytes 1 (if w.bank then 1 else 0) ++
       leBytes 1 (match w.failedBank with | some b => (if b then 1 else 0) | none => 0xFF) ++
       leBytes 1 c.unusedRecords ++ [0#8] ++ tempBytes (max w.temps.tj0 (max w.temps.tj1 w.temps.tj2)) ++
       tempBytes w.temps.hbm0 ++ tempBytes w.temps.hbm1 ++ tempBytes w.temps.hbm2 ++ tempBytes w.temps.hbm3) ++
     (c.faults.take 16).flatMap faultEntry)

/-- A tenant state's code (Table 9-14). -/
def stateNo (x : TenantState) : Nat :=
  match x with
  | .absent => 0
  | .loading => 1
  | .running => 2
  | .faulted => 3
  | .resetting => 4

/-- Page 1 (Table 9-14). -/
def tenantPage (c : Chip) (t : Nat) : List Byte :=
  let x := if (ten c t).loaded then ten c t else withLayout c t (ten c t)
  padTo 128
    (leBytes 1 (stateNo x.state) ++ leBytes 1 x.fault ++ [0#8, 0#8] ++ leBytes 4 x.hash.toNat ++ leBytes 4 (committedField c t) ++
     leBytes 2 (fieldOfInt 16 x.lsExp) ++ leBytes 1 (if x.m8 then 1 else 0) ++ leBytes 1 x.shadowShift ++ leBytes 4 x.footprint ++
     leBytes 4 (x.regionSize / 2097152))

/-- A port's entry of page 2 (Table 9-15). -/
def portEntry (x : Port) : List Byte :=
  leBytes 1 (match x.mode with | .native => 0 | .ethernet => 1 | .off => 2) ++ leBytes 1 (if x.step = .up then 1 else 0) ++
  leBytes 1 x.lastFault ++ [0#8] ++ leBytes 2 (x.epoch % 65536) ++ leBytes 2 (sat16 x.rttUs)

/-- Page 3: counters 0 to 63 of the tenant, 128 to 255 of the device (R373). -/
def counterPage (c : Chip) (t : Nat) : List Byte :=
  (List.range 256).flatMap (fun i =>
    leBytes 8 (if i < 64 then tabGet 0 (ten c t).counters i else if i < 128 then 0 else tabGet 0 c.counters i))

/-- The page that AUX selects (Table 9-9). -/
def statPage (y : Tray) (c : Chip) (t page : Nat) : List Byte :=
  match page with
  | 0 => devicePage y c
  | 1 => tenantPage c t
  | 2 => (List.finRange 64).flatMap (fun p => portEntry (portOf c p))
  | _ => counterPage c t

/-- Answer a STAT_GET. -/
def takeStatGet (y : Tray) (c : Chip) (f : RxFrame) : Chip :=
  let q := rxHead f
  sendReply (noteOrigin c f) f (replyHdr c q tyStatData flLast q.aux) (statPage y c q.tenant q.aux)

/-- A STAT_GET arrives (R188). -/
def execStatGet (c : Pos) (f : RxFrame) (s : State) : Host.Outcome State Fault Refusal :=
  .next (hostCommand tyStatGet (fun _ k f => takeStatGet s.tray k f) c f s)

end Sys2Proof.Machine
end

