-- ==== Sys2Proof/Machine/Reduction.lean ====
section
/-!
DEFINITION. Reduction at the home (chapter 10): GRAD and REDUCE, the split of a whole tensor, INDEX, arrival, lateness and folds,
accumulator lines, and the verdict of a closing shard.
-/
namespace Sys2Proof.Machine

/-! ## Slots and arrival (R171, R192, R193, R197, R230) -/

/-- C: elements in a full GRAD frame of a format (section 9.4). -/
def slotElems (fmt : Nat) : Nat := if fmt = 0 then 4096 else 8192

/-- Formats that GRAD and REDUCE carry (Table 9-3). -/
def gradFormat (fmt : Nat) : Bool := decide (fmt ≤ 2)

/-- What a home knows of a shard: its tensor and group, its elements, the stride S of the tensor's shards. -/
structure ShardInfo where
  tensor : TensorRec
  group : GroupRec
  n : Nat
  stride : Nat
deriving DecidableEq, Repr

/-- A shard of a PARAM tensor. -/
def shardInfo (c : Chip) (t tensor shard : Nat) : Option ShardInfo :=
  match paramTensor c t tensor with
  | some (r, g) =>
    if shard < r.shards then some { tensor := r, group := g, n := elemsOf c t tensor shard, stride := shardStride g.rule r } else none
  | none => none

/-- D: elements in a row of a RULE 7 tensor (section 11.6). -/
def rowElems (r : TensorRec) : Nat := (r.dims.drop 1).headD 0

/-- The slot of a frame: by its first element in the shard, or in the tensor for a piece (R192, R197). -/
def slotNo (i : ShardInfo) (q : Hdr) (whole : Bool) : Nat :=
  (if whole then q.shard * i.stride + q.offset else q.offset) / slotElems q.format

/-- The slots that a contributor's whole contribution fills: the first and one past the last. -/
def slotSpan (i : ShardInfo) (shard : Nat) (src : Source) : Nat × Nat :=
  let k := slotElems src.format
  if i.group.rule = 7 then (0, ceilDiv (src.rows.length * rowElems i.tensor) k)
  else if src.whole then (shard * i.stride / k, (shard * i.stride + i.n - 1) / k + 1)
  else (0, ceilDiv i.n k)

/-- Whether a contributor has arrived at a shard (R193). -/
def hasArrived (i : ShardInfo) (shard : Nat) (src : Source) : Bool :=
  let s := slotSpan i shard src
  (if i.group.rule = 7 then src.indexDone else src.started) && decide (s.2 - s.1 ≤ src.slots.length)

/-- The contributors that have arrived, ascending. -/
def arrivedSources (i : ShardInfo) (shard : Nat) (r : ShardStep) : List Nat :=
  (List.range i.group.expected).filter (fun s =>
    match tabFind r.sources s with
    | some src => hasArrived i shard src
    | none => false)

/-! ## When a shard closes (R205) -/

/-- The closing instant of a shard has come: all N have arrived, or its deadline has expired with Q of them, or in Autumn
whatever the count, and what had arrived by then has been taken (R82, R203, R205). SHARD_CLOSE does the work of closing. -/
def closeDue (i : ShardInfo) (shard : Nat) (r : ShardStep) : Bool :=
  let k := (arrivedSources i shard r).length
  decide (i.group.expected ≤ k) ||
  (decide (r.deadline = .expired) && r.timely.isEmpty && (decide (quorumOf i.group ≤ k) || r.autumnDue))

/-- Whether a shard of a step has closed, or the step is resolved: a frame for it is late (R172, R208). -/
def shardLate (i : ShardInfo) (x : TenantCtx) (tensor shard step : Nat) : Bool :=
  let r := stepOf (shardOf x tensor shard) step
  resolvedBy x step || r.closed || r.closing || closeDue i shard r

/-- Whether the links had accepted a frame by the time its shard's deadline expired: it is on time however long it waits (R203). -/
def isTimely (x : TenantCtx) (f : RxFrame) : Bool :=
  let q := rxHead f
  let r := stepOf (shardOf x q.tensor q.shard) q.step
  !resolvedBy x q.step && !r.closed && !r.closing && r.timely.contains f

/-- The queued frames of a chip, accepted by its links and still to be taken, that bring gradients to a shard in a step. -/
def waitingGrads (c : Chip) (t tensor shard step : Nat) : List RxFrame :=
  queuedFrames c (fun f =>
    let q := rxHead f
    (decide (q.type = tyGrad) || decide (q.type = tyReduce)) && decide (q.tenant = t) && decide (q.tensor = tensor) &&
    decide (q.shard = shard) && decide (q.step = step) && decide (rxTarget f = chipNo c))

/-- A pool that admits no frame of the largest size (R204). -/
def poolFullAt (c : Chip) (p : PortNo) (pool : Pool) : Bool :=
  decide (poolSize c p pool - tabGet 0 (portOf c p).heldFlits pool < (if isHostPort p then 514 else 515)) &&
  decide (0 < poolSize c p pool)

/-- The VC1 and VC2 pools of a tenant on a port. -/
def tenantPools (t : Nat) : List Pool := [.ten false false t, .ten true false t, .ten false true t, .ten true true t]

/-- The VC1 and VC2 pools of a tenant that are full, on the ports that are up (R204, R333). -/
def fullPools (c : Chip) (t : Nat) : List (PortNo × Pool) :=
  (List.finRange 64).flatMap (fun p => if portUp c p then ((tenantPools t).filter (poolFullAt c p)).map (fun q => (p, q)) else [])

/-- Whether a VC1 or VC2 pool of a tenant is full on any port that is up (R204). -/
def tenantPoolFull (c : Chip) (t : Nat) : Bool := !(fullPools c t).isEmpty

/-! ## Accumulator lines (R199, R304, R335; log entry 31) -/

/-- The shards and steps of a tenant that hold spill frames of unresolved steps. -/
def spillHolders (c : Chip) (t : Nat) : List (Nat × Nat × Nat) :=
  let x := ten c t
  x.shards.flatMap (fun h =>
    let pages := shardPhysPages c t h.1.1 h.1.2
    (h.2.steps.filter (fun r => !r.2.applied && decide (r.2.update ≠ .none) &&
      pages.any (fun p => (spillOf (pageRec x p) r.1).isSome))).map (fun r => (r.1, h.1.1, h.1.2)))

/-- The greatest of (step, tensor, shard) triples in that order. -/
def topHolder : List (Nat × Nat × Nat) → Option (Nat × Nat × Nat)
  | [] => none
  | x :: rest =>
    match topHolder rest with
    | none => some x
    | some y =>
      if y.1 < x.1 || (y.1 = x.1 && (decide (y.2.1 < x.2.1) || (decide (y.2.1 = x.2.1) && decide (y.2.2 < x.2.2)))) then some x
      else some y

/-- The update tasks of a shard and step. -/
def isUpdateOf (t tensor shard step : Nat) (k : Task) : Bool :=
  decide (k.kind = 12) && decide (k.tenant = t) && decide (k.tensor = tensor) && decide (k.shard = shard) && decide (k.step = step)

/-- Queue a shard's update tasks, one for each tile, in cluster queues, ready since the shard's close (R12, R329, R357). -/
def queueUpdate (c : Chip) (t tensor shard step : Nat) : Chip :=
  match shardInfo c t tensor shard with
  | none => c
  | some i =>
    let tile := tileOf c i.group.recipe
    let ready := (stepOf (shardOf (ten c t) tensor shard) step).closedAt
    let c := modTen c t (fun x => modShardStep x tensor shard step (fun r =>
      { r with update := .running, tilesDone := [], direct := false }))
    forEach c (List.range (ceilDiv i.n tile)) (fun c j =>
      queueTask c (placeOf (tensor + 16 * shard + j))
        { recipe := i.group.recipe, tenant := t, kind := 12, l1 := l1Of c i.group.recipe, tensor := tensor, shard := shard,
          step := step, first := j * tile, count := min tile (i.n - j * tile), tag := 0#32, cause := none, readyAt := ready,
          workFirst := j * tile, workCount := min tile (i.n - j * tile), part := 0, array := 0, order := 0 })

/-- Whether a shard holds pending state of a step, or a task of its stage has begun. -/
def hasPending (c : Chip) (t tensor shard step : Nat) : Bool :=
  let r := stepOf (shardOf (ten c t) tensor shard) step
  r.pendAmax.isSome || !r.pend.isEmpty || !r.tilesDone.isEmpty && decide (r.update = .running) ||
  c.clusters.any (fun k =>
    (match k.2.run with | some j => isUpdateOf t tensor shard step j.task | none => false) ||
    (match k.2.next with | some j => isUpdateOf t tensor shard step j.task | none => false))

/-- Discard a shard's pending state of a step and run its update stage again, counted (R335, counter 30). -/
def restartUpdate (c : Chip) (t tensor shard step : Nat) : Chip :=
  queueUpdate (discardPending (endTasks (countTen c t 30 1) (isUpdateOf t tensor shard step)) t tensor shard step) t tensor shard step

/-- The same for the steps of the shard from a chosen one on, youngest first: each that holds pending state (R335). -/
def restartFrom (c : Chip) (t tensor shard step : Nat) : Chip :=
  let c := if hasPending c t tensor shard (step + 1) then restartUpdate c t tensor shard (step + 1) else c
  restartUpdate c t tensor shard step

/-- R335: take frames back from the youngest unresolved step, highest tensor and shard first, until the pool has one. -/
def reclaim : Nat → Nat → Chip → Chip
  | 0, _, c => c
  | fuel + 1, t, c =>
    if !(ten c t).frames.isEmpty then c
    else
      match topHolder (spillHolders c t) with
      | none => c
      | some (step, tensor, shard) => reclaim fuel t (restartFrom c t tensor shard step)

/-- The lines of a shard's accumulator that take some adds, held by their slices; false where one is refused, with no spill frame of
pending state left to take back (R304, R335). -/
def holdAll (t tensor shard step : Nat) : List Nat → Chip → Chip × Bool
  | [], c => (c, true)
  | n :: rest, c =>
    let r := holdAcc t tensor shard step c n
    if r.2 then holdAll t tensor shard step rest r.1
    else
      let r := holdAcc t tensor shard step (reclaim (spillHolders r.1 t).length t r.1) n
      if r.2 then holdAll t tensor shard step rest r.1 else r

/-- Start a step's verdict timer at the first of the events of R366. -/
def startVerdictTimer (c : Chip) (t step : Nat) : Chip :=
  modTen c t (fun x => modStepRec x step (fun r => if r.timer = .idle then { r with timer := .running } else r))

/-! ## Adding (R199, R231) -/

/-- The shard element that element j of a frame is added to. -/
def target (i : ShardInfo) (rows : List Nat) (j : Nat) : Nat :=
  if i.group.rule = 7 then
    let d := rowElems i.tensor
    rows.getD (j / d) 0 * d + j % d
  else j

/-- Add values from element j on, each with one binary32 addition. -/
def addValues (i : ShardInfo) (rows : List Nat) : Nat → List Word → Mem Word → Mem Word
  | _, [], m => m
  | j, v :: rest, m =>
    let a := target i rows j
    addValues i rows (j + 1) rest (memSet 0#32 m a (f32Add (memGet 0#32 m a) v))

/-- The accumulator lines that a frame's values go to. -/
def accLines (i : ShardInfo) (rows : List Nat) (q : Hdr) : List Nat :=
  (((upFrom q.offset q.count).map (fun j => target i rows j / 32))).eraseDups

/-- Room for a frame's values in the accumulator of a shard in a step (R304). -/
def accRoom (c : Chip) (i : ShardInfo) (f : RxFrame) (step : Nat) : Chip × Bool :=
  let q := rxHead f
  let rows := (tabGet Source.reset (stepOf (shardOf (ten c q.tenant) q.tensor q.shard) q.step).sources q.source).rows
  holdAll q.tenant q.tensor q.shard step (accLines i rows q) c

/-- The elements of a GRAD or REDUCE frame, widened exactly. -/
def gradValues (f : RxFrame) : List Word := decodeElems (rxHead f).format 0 (rxHead f).count f.frame.payload

/-- Whether a frame holds a non-finite value. -/
def holdsNonfinite (f : RxFrame) : Bool := (gradValues f).any (fun v => !f32IsFinite v)

/-- The ACCUMULATE task: a frame's values go into the accumulator of a step, its own or the one it is folded into. -/
def runAccumulate (c : Chip) (t : Task) (f : RxFrame) : Chip :=
  let q := rxHead f
  match shardInfo c t.tenant t.tensor t.shard with
  | none => c
  | some i =>
    modTen c t.tenant (fun x =>
      let rows := (tabGet Source.reset (stepOf (shardOf x t.tensor t.shard) q.step).sources q.source).rows
      modShardStep x t.tensor t.shard t.step (fun r => { r with acc := addValues i rows q.offset (gradValues f) r.acc }))

/-- Start the ACCUMULATE task of an accepted frame for a step (Table 19-5). -/
def launchAccumulate (c : Chip) (now : Nat) (f : RxFrame) (step : Nat) : Chip :=
  let q := rxHead f
  let t := { frameTask c 0 f q.offset q.count now with step := step }
  launch c t (fun c => runAccumulate c t f)

/-! ## Replies (R174, R184, R197) -/

/-- Only the home of the FINAL piece of a whole-tensor GRAD replies (R197). -/
def isSilent (f : RxFrame) (whole : Bool) : Bool := whole && !rxFlag f flFinal

/-- Accepted slots of a bucket from its start to a slot, those of this shard, and how many it has. -/
def bucketCount (i : ShardInfo) (shard : Nat) (src : Source) (lo hi : Nat) : Nat × Nat :=
  let s := slotSpan i shard src
  let lo' := if src.whole then max lo s.1 else lo
  let hi' := if src.whole then min hi (s.2 - 1) else hi
  ((src.slots.filter (fun k => decide (lo' ≤ k) && decide (k ≤ hi'))).length, hi' + 1 - lo')

/-- Whether a frame contributes by whole tensor: a REDUCE with PIECE set (R198); hosts' PIECE is ignored (R165). -/
def isPiece (f : RxFrame) : Bool := decide ((rxHead f).type = tyReduce) && rxFlag f flPiece

/-- The outcome of a GRAD or REDUCE, with NONFINITE where the frame held a non-finite value (R165): sent, or for a piece that never
replies only counted (R197). -/
def gradDone (c : Chip) (f : RxFrame) (d : DoneInfo) : Chip :=
  if isSilent f (isPiece f) then (if d.status = 0 then c else countTen c (rxHead f).tenant (d.status - 1) 1)
  else sendDone c f { d with flags := d.flags + (if holdsNonfinite f then flNonfinite else 0) }

/-- Answer a frame of a bucket: a LAST frame's DONE counts the bucket's frames (Table 9-5). -/
def sendBucket (c : Chip) (f : RxFrame) (i : ShardInfo) (src : Source) (slot status detail flags : Nat) : Chip :=
  let q := rxHead f
  let lo := slot - q.seq
  gradDone c f { status := status, detail := detail, flags := flags,
                 frames := if hasFlag q.flags flLast then (bucketCount i q.shard src lo slot).1 else 0,
                 duplicates := tabGet 0 src.dups lo }

/-- A source's record in a shard's step. -/
def sourceOf (r : ShardStep) (source : Nat) : Source := tabGet .reset r.sources source

/-- The shard's step with one source's record changed. -/
def modSource (r : ShardStep) (source : Nat) (g : Source → Source) : ShardStep :=
  { r with sources := tabSet r.sources source (g (sourceOf r source)) }

/-- Whether an owed frame's bucket is complete from its start to that frame. -/
def bucketDone (i : ShardInfo) (shard : Nat) (src : Source) (f : RxFrame) : Bool :=
  let slot := slotNo i (rxHead f) (isPiece f)
  let k := bucketCount i shard src (slot - (rxHead f).seq) slot
  decide (k.1 = k.2)

/-- Send the DONE of the LAST frames owed to a source: those whose bucket is complete, or all of them at a close (R174, R207). -/
def settle (c : Chip) (i : ShardInfo) (t tensor shard step source : Nat) (all : Bool) : Chip :=
  let src := sourceOf (stepOf (shardOf (ten c t) tensor shard) step) source
  let ready (f : RxFrame) : Bool := all || bucketDone i shard src f
  let c := modTen c t (fun x => modShardStep x tensor shard step (fun r =>
    modSource r source (fun s => { s with owed := s.owed.filter (fun f => !ready f) })))
  forEach c (src.owed.filter ready) (fun c f =>
    sendBucket c f i src (slotNo i (rxHead f) (isPiece f)) stOk 0 0)

/-! ## The home's decision (R195, R198, R201, R208) -/

/-- What the home does with a GRAD or REDUCE frame. -/
inductive GradOutcome where
  | refused (status : Nat)
  | dup
  | dropped
  | fold
  | accept
deriving DecidableEq, Repr

/-- Whether a frame of a source has fixed its format in a step. -/
def hasFormat (s : Source) : Bool := s.started || !s.slots.isEmpty

/-- Whether a shard has accepted a contribution in a step (R81). -/
def anyAccepted (r : ShardStep) : Bool := r.sources.any (fun s => s.2.started || !s.2.indexSeqs.isEmpty)

/-- The checks that only the home can make, and check 13 with Table 10-1. -/
def homeOutcome (c : Chip) (i : ShardInfo) (f : RxFrame) : GradOutcome :=
  let q := rxHead f
  let x := ten c q.tenant
  let h := shardOf x q.tensor q.shard
  let r := stepOf h q.step
  let src := sourceOf r q.source
  if decide (q.type = tyReduce) && decide (c.wake.season = .autumn) && !anyAccepted r then .refused stAutumn
  else if hasFormat src && decide (src.format ≠ q.format) then .refused stFormat
  else if beyondResolved x q.step 2 then .refused stRange
  else if hasFormat src && decide (src.whole ≠ isPiece f) then .refused stRange
  else if i.group.rule = 7 && decide (src.rows.length * rowElems i.tensor < q.offset + q.count) then .refused stRange
  else if h.fill ≠ .filled then .refused stEmpty
  else if src.slots.contains (slotNo i q (isPiece f)) then .dup
  else if !isTimely x f && shardLate i x q.tensor q.shard q.step then
    if i.group.drop || shardLate i x q.tensor q.shard (q.step + 1) then .dropped else .fold
  else .accept

/-- Remember that a host contributed to a step, and when its first frame was accepted (R20, R131, R333). -/
def noteHost (x : TenantCtx) (step source : Nat) (first : Option Nat) : TenantCtx :=
  if resolvedBy x step then x
  else modStepRec x step (fun r =>
    { r with hosts := if r.hosts.contains source then r.hosts else r.hosts ++ [source],
             firstAccept := match r.firstAccept with | some n => some n | none => first })

/-- An accepted slot of a source: its bit is set, its format and kind are fixed, a LAST frame's DONE is owed. -/
def acceptSlot (f : RxFrame) (slot : Nat) (onTime : Bool) (s : Source) : Source :=
  let q := rxHead f
  let owes := onTime && hasFlag q.flags flLast && !isSilent f (isPiece f)
  { s with whole := if hasFormat s then s.whole else isPiece f, format := if hasFormat s then s.format else q.format,
           started := s.started || onTime, slots := s.slots ++ [slot], owed := if owes then s.owed ++ [f] else s.owed }

/-- Accept a frame on time. -/
def acceptFrame (c : Chip) (now : Nat) (i : ShardInfo) (f : RxFrame) : Chip :=
  let q := rxHead f
  let slot := slotNo i q (isPiece f)
  let c := modTen (noteOrigin c f) q.tenant (fun x =>
    noteHost (modShardStep x q.tensor q.shard q.step (fun r =>
      modSource { r with deadline := if r.deadline = .idle then .running else r.deadline } q.source (acceptSlot f slot true)))
      q.step q.source (some now))
  let c := launchAccumulate (countTen c q.tenant 15 1) now f q.step
  let src := sourceOf (stepOf (shardOf (ten c q.tenant) q.tensor q.shard) q.step) q.source
  let c :=
    if holdsNonfinite f && !hasFlag q.flags flLast then sendBucket c f i src slot stOk 0 0 else c
  settle c i q.tenant q.tensor q.shard q.step q.source false

/-- A shard's record of a step that is over without one: closed and applied. -/
def pastStep (h : Shard) (step : Nat) : ShardStep :=
  match tabFind h.steps step with
  | some r => r
  | none => { ShardStep.reset with closed := true, applied := true }

/-- Fold a late frame into the next step's accumulator (R208, R209): its bit stands in the bitmap of its own step. -/
def foldFrame (c : Chip) (now : Nat) (i : ShardInfo) (f : RxFrame) : Chip :=
  let q := rxHead f
  let slot := slotNo i q (isPiece f)
  let h := shardOf (ten c q.tenant) q.tensor q.shard
  let r := modSource (pastStep h q.step) q.source (acceptSlot f slot false)
  let rows := (sourceOf r q.source).rows
  let c := modTen (noteOrigin c f) q.tenant (fun x =>
    let x := modShard x q.tensor q.shard (fun h => modStep (setStep h q.step r) (q.step + 1) (fun n =>
      { n with folds := n.folds ++ [(q.source, slot)],
               foldRows := if i.group.rule = 7 then (n.foldRows ++ rows).eraseDups else n.foldRows }))
    noteHost (noteHost x q.step q.source none) (q.step + 1) q.source none)
  let c := launchAccumulate c now f (q.step + 1)
  sendBucket c f i (sourceOf r q.source) slot stLateFolded (q.step + 1) flLate

/-- Count a duplicate of a bucket and answer it (R201). -/
def repeatFrame (c : Chip) (i : ShardInfo) (f : RxFrame) : Chip :=
  let q := rxHead f
  let slot := slotNo i q (isPiece f)
  let lo := slot - q.seq
  let c := modTen c q.tenant (fun x => noteHost (modShardStep x q.tensor q.shard q.step (fun r =>
    modSource r q.source (fun s => { s with dups := tabSet s.dups lo (tabGet 0 s.dups lo + 1) }))) q.step q.source none)
  sendBucket c f i (sourceOf (stepOf (shardOf (ten c q.tenant) q.tensor q.shard) q.step) q.source) slot stDup 0 0

/-- Whether the ACCUMULATE recipe's reserves fit (R324). -/
def accumulates (c : Chip) : Bool := recipeFits c (boundIndex c 0)

/-- A task-level fault of a frame's acceptance: nothing of it is kept, and the host is answered ABORTED (R301, R361). -/
def abortFrame (c : Chip) (f : RxFrame) (code : Nat) : Chip :=
  let c := countTen (countCode c code) (rxHead f).tenant 28 1
  hitFault (gradDone c f (doneInfo stAborted code)) code none

/-- A shard that its deadline leaves below quorum waits with no deadline, and its step's verdict timer starts (R205, R366). In Autumn it
closes instead. Decided when the last frame that had arrived by then has been taken. -/
def waitQuorum (c : Chip) (i : ShardInfo) (t tensor shard step : Nat) : Chip :=
  let r := stepOf (shardOf (ten c t) tensor shard) step
  if decide (r.deadline = .expired) && r.timely.isEmpty && !r.waited && !r.closed && !closeDue i shard r then
    startVerdictTimer (modTen c t (fun x => modShardStep x tensor shard step (fun r => { r with waited := true }))) t step
  else c

/-- A frame that had arrived by its shard's deadline has been taken (R203). -/
def dropTimely (c : Chip) (i : ShardInfo) (f : RxFrame) : Chip :=
  let q := rxHead f
  if (stepOf (shardOf (ten c q.tenant) q.tensor q.shard) q.step).timely.contains f then
    waitQuorum (modTen c q.tenant (fun x => modShardStep x q.tensor q.shard q.step (fun r => { r with timely := r.timely.erase f })))
      i q.tenant q.tensor q.shard q.step
  else c

/-- A GRAD or REDUCE frame at its home. -/
def decideGrad (c : Chip) (now : Nat) (i : ShardInfo) (f : RxFrame) : Chip :=
  let q := rxHead f
  let c := { c with collisions := tabErase c.collisions f }
  let src := sourceOf (stepOf (shardOf (ten c q.tenant) q.tensor q.shard) q.step) q.source
  let enter (step : Nat) (go : Chip → Chip) : Chip :=
    if !accumulates c then abortFrame c f 0x42
    else
      let r := accRoom c i f step
      if r.2 then go r.1 else putBack (startVerdictTimer r.1 q.tenant step) f
  match homeOutcome c i f with
  | .refused st => sendBucket c f i src (slotNo i q (isPiece f)) st 0 0
  | .dup => repeatFrame c i f
  | .dropped =>
    sendBucket (modTen c q.tenant (fun x => noteHost x q.step q.source none)) f i src (slotNo i q (isPiece f)) stLateDropped 0 0
  | .fold => enter (q.step + 1) (fun c => foldFrame c now i f)
  | .accept => enter q.step (fun c => acceptFrame c now i f)

/-- A GRAD or REDUCE frame at its home, and the shard's wait for frames that came in time; one that must wait for room stays among them. -/
def homeGrad (c : Chip) (now : Nat) (i : ShardInfo) (f : RxFrame) : Chip :=
  let c := decideGrad c now i f
  if c.inbox.contains f then c else dropTimely c i f

/-! ## GRAD at the chip that DEST names (R171, R173, R195, R197) -/

/-- The first three conditions of R171 over n elements, with SEQ a frame of at most 256 (R192). -/
def gradRange (n : Nat) (q : Hdr) : Bool :=
  let k := slotElems q.format
  decide (q.seq ≤ 255) && decide (q.offset % k = 0) && decide (q.seq * k ≤ q.offset) && decide (1 ≤ q.count) &&
  decide (q.count ≤ k) && (decide (q.count = k) || hasFlag q.flags flLast) && decide (q.offset + q.count ≤ n)

/-- The flags that a REDUCE keeps of its GRAD: RETRY, and LAST where the frame's last element is in it (R189). -/
def reduceFlags (q : Hdr) (piece final : Bool) : Nat :=
  (if hasFlag q.flags flRetry then flRetry else 0) + (if piece then flPiece else 0) + (if piece && final then flFinal else 0) +
  (if hasFlag q.flags flLast && (!piece || final) then flLast else 0)

/-- Send a GRAD, or a piece of one, to a shard's home as REDUCE with the origin kept; AUX has no meaning in it and is 0 (R4, R166, R173,
R189). -/
def sendReduce (c : Chip) (f : RxFrame) (h : Hdr) (payload : List Byte) (home : Nat) : Chip :=
  let o := originOf c f
  emit c { frame := mkFrame { h with type := tyReduce, vc := 2, aux := 0, dest := home } payload, vc := 2#2,
           route := newPrefix o.1.toNat o.2.toNat home 0x3F }

/-- The SPLIT task: one REDUCE for each shard that the frame touches (R197). -/
def runSplit (c : Chip) (f : RxFrame) : Chip :=
  let q := rxHead f
  match paramTensor c q.tenant q.tensor with
  | none => c
  | some (r, g) =>
    let size := if q.format = 0 then 4 else 2
    forEach c (pieces (shardStride g.rule r) q.count q.offset 0 q.count) (fun c p =>
      let final := decide (p.2.2.2 + p.2.2.1 = q.count)
      let h := { q with shard := p.1, offset := p.2.1, count := p.2.2.1, flags := reduceFlags q true final }
      sendReduce c f h (sliceBytes f.frame.payload (p.2.2.2 * size) (p.2.2.1 * size))
        (homeChip (torusOf c).1 (torusOf c).2 r p.1))

/-- Checks 9 to 12 of a GRAD; then split, forwarded or taken at the home. -/
def takeGrad (now : Nat) (c : Chip) (f : RxFrame) : Chip :=
  let q := rxHead f
  match paramTensor c q.tenant q.tensor with
  | none => gradDone c f (doneInfo stBadTensor 0)
  | some (r, g) =>
    if !gradFormat q.format then gradDone c f (doneInfo stFormat 0)
    else if g.expected ≤ q.source then gradDone c f (doneInfo stRange 0)
    else if q.shard = 0xFFFF then
      if g.rule = 7 || decide (4294967296 < tensorElems r) || !gradRange (tensorElems r) q then gradDone c f (doneInfo stRange 0)
      else
        let t := frameTask c 1 f q.offset q.count now
        launch c t (fun c => runSplit c f)
    else
      match shardInfo c q.tenant q.tensor q.shard, homeOf c q.tenant q.tensor q.shard with
      | some i, some home =>
        if !gradRange i.n q then gradDone c f (doneInfo stRange 0)
        else if home ≠ chipNo c then sendReduce c f { q with flags := reduceFlags q false false } f.frame.payload home
        else homeGrad c now i f
      | _, _ => gradDone c f (doneInfo stRange 0)

/-- A GRAD arrives (R171). -/
def execGrad (c : Pos) (f : RxFrame) (s : State) : Host.Outcome State Fault Refusal :=
  .next (keepInPool c f s (hostCommand tyGrad takeGrad c f s))

/-! ## REDUCE (R189, R195) -/

/-- A REDUCE at the home; one for a tensor with no shard there is answered or dropped (R111, R116, section 9.9). -/
def takeReduce (now : Nat) (c : Chip) (f : RxFrame) : Chip :=
  let q := rxHead f
  let x := ten c q.tenant
  let answer (st : Nat) : Chip := gradDone c f (doneInfo st 0)
  if tenantDeaf c x || x.wasReset then countTen c q.tenant 32 1
  else
    let c := if rxFlag f flRetry then countTen c q.tenant 14 1 else c
    match paramTensor c q.tenant q.tensor, shardInfo c q.tenant q.tensor q.shard with
    | none, _ => answer stBadTensor
    | some _, none => countDev c 130 1
    | some (_, g), some i =>
      if g.expected ≤ q.source then answer stRange
      else if homeOf c q.tenant q.tensor q.shard ≠ some (chipNo c) || !gradFormat q.format || q.count = 0 ||
          decide (i.n < q.offset + q.count) || (!isPiece f && !gradRange i.n q) then countDev c 130 1
      else homeGrad c now i f

/-- A REDUCE arrives (R195). -/
def execReduce (c : Pos) (f : RxFrame) (s : State) : Host.Outcome State Fault Refusal :=
  .next (keepInPool c f s (chipCommand tyReduce takeReduce c f s))

/-! ## Ledger collisions (R300, R301) -/

/-- Whether a frame stands before its arrival bit's write at this chip. -/
def writesBit (c : Chip) (f : RxFrame) : Bool :=
  let q := rxHead f
  (decide (q.type = tyGrad) || decide (q.type = tyReduce)) && !tenantDeaf c (ten c q.tenant) &&
  decide (homeOf c q.tenant q.tensor q.shard = some (chipNo c)) &&
  (match shardInfo c q.tenant q.tensor q.shard with
   | some i => (match homeOutcome c i f with | .accept => true | .fold => true | _ => false)
   | none => false)

/-- A port B write for a frame collides, or its retry succeeds and the frame is taken as its own command takes it. At the ninth
collision in succession the acceptance ends with 0x44. -/
def execLedgerCollisionRetry (c : Pos) (f : RxFrame) (collides : Bool) (s : State) : Host.Outcome State Fault Refusal :=
  let k := getChip s c
  if !collides then (if (rxHead f).type = tyReduce then execReduce c f s else execGrad c f s)
  else if linksOn k && writesBit k f then
    let n := tabGet 0 k.collisions f + 1
    let k := countDev k 145 1
    if n < 9 then .next (setChip s c { k with collisions := tabSet k.collisions f n })
    else .next (setChip s c (abortFrame (consume { k with collisions := tabErase k.collisions f } f) f 0x44))
  else .next s

/-! ## INDEX (R230) -/

/-- The rows of an INDEX frame. -/
def indexRows (f : RxFrame) : List Nat := ((words f.frame.payload).take (rxHead f).count).map (·.toNat)

/-- Whether rows ascend strictly above `lo` and lie below `n`. -/
def rowsOk (n : Nat) : Option Nat → List Nat → Bool
  | _, [] => true
  | lo, r :: rest =>
    (match lo with
     | some b => decide (b < r)
     | none => true) && decide (r < n) && rowsOk n (some r) rest

/-- An INDEX frame at its home after check 11's fixed part: refused, repeated, late, or added to the row list. -/
def homeIndex (c : Chip) (now : Nat) (i : ShardInfo) (f : RxFrame) : Chip :=
  let q := rxHead f
  let x := ten c q.tenant
  let h := shardOf x q.tensor q.shard
  let src := sourceOf (stepOf h q.step) q.source
  let rows := indexRows f
  let last := hasFlag q.flags flLast
  let fits := decide (q.seq = src.indexSeqs.length) && !src.indexDone && rowsOk (i.n / rowElems i.tensor) src.rows.getLast? rows
  let again := src.indexSeqs.contains q.seq
  if beyondResolved x q.step 2 || !(again || fits) then sendDone c f (doneInfo stRange 0)
  else if h.fill ≠ .filled then sendDone c f (doneInfo stEmpty 0)
  else if again then
    let c := modTen c q.tenant (fun x => noteHost (modShardStep x q.tensor q.shard q.step (fun r =>
      modSource r q.source (fun s => { s with indexDups := s.indexDups + 1 }))) q.step q.source none)
    sendDone c f { doneInfo stDup 0 with frames := if last then src.indexSeqs.length else 0, duplicates := src.indexDups + 1 }
  else
    let add (s : Source) : Source :=
      { s with rows := s.rows ++ rows, indexSeqs := s.indexSeqs ++ [q.seq], indexDone := last }
    let n := src.indexSeqs.length + 1
    let info (st detail flags : Nat) : DoneInfo :=
      { status := st, detail := detail, flags := flags, frames := if last then n else 0, duplicates := src.indexDups }
    if shardLate i x q.tensor q.shard q.step then
      let fold := !i.group.drop && !shardLate i x q.tensor q.shard (q.step + 1)
      let r := modSource (pastStep h q.step) q.source add
      let c := modTen (noteOrigin c f) q.tenant (fun x =>
        let x := modShard x q.tensor q.shard (fun h =>
          let h := setStep h q.step r
          if fold then modStep h (q.step + 1) (fun m =>
            { m with folds := m.folds ++ [(q.source, 65536 + q.seq)], foldRows := (m.foldRows ++ rows).eraseDups })
          else h)
        noteHost (if fold then noteHost x (q.step + 1) q.source none else x) q.step q.source none)
      sendDone c f (if fold then info stLateFolded (q.step + 1) flLate else info stLateDropped 0 0)
    else
      let c := modTen (noteOrigin c f) q.tenant (fun x =>
        noteHost (modShardStep x q.tensor q.shard q.step (fun r =>
          modSource { r with deadline := if r.deadline = .idle then .running else r.deadline } q.source add))
          q.step q.source (some now))
      if last then sendDone c f (info stOk 0 0) else c

/-- Checks 9 to 11 of an INDEX frame (R116, R172, R230). -/
def takeIndex (now : Nat) (c : Chip) (f : RxFrame) : Chip :=
  let q := rxHead f
  match paramTensor c q.tenant q.tensor with
  | none => sendDone c f (doneInfo stBadTensor 0)
  | some (_, g) =>
    if g.rule ≠ 7 then sendDone c f (doneInfo stBadTensor 0)
    else if g.expected ≤ q.source || decide (4096 < q.count) then sendDone c f (doneInfo stRange 0)
    else
      match shardInfo c q.tenant q.tensor q.shard, homeOf c q.tenant q.tensor q.shard with
      | some i, some home =>
        if home ≠ chipNo c then sendDone c f (doneInfo stRange home) else homeIndex c now i f
      | _, _ => sendDone c f (doneInfo stRange 0)

/-- An INDEX arrives (R230). -/
def execIndex (c : Pos) (f : RxFrame) (s : State) : Host.Outcome State Fault Refusal :=
  .next (hostCommand tyIndex takeIndex c f s)

/-! ## The deadline and the close (R204 to R211) -/

/-- A shard's deadline timer expires (R205): with quorum, or in Autumn, the closing instant has come; otherwise the shard waits with
no deadline, and the verdict timer of its step starts (R366). A timer that stands still does not expire (R204). -/
def execShardDeadline (c : Pos) (r : ShardStepRef) (s : State) : Host.Outcome State Fault Refusal :=
  let k := getChip s c
  let t := r.tenant.val
  match shardInfo k t r.tensor r.shard with
  | none => .next s
  | some i =>
    let p := stepOf (shardOf (ten k t) r.tensor r.shard) r.step
    if coreRuns k && decide (p.deadline = .running) && !p.closed && !closeDue i r.shard p && !tenantPoolFull k t then
      let k := modTen k t (fun x => modShardStep x r.tensor r.shard r.step (fun p =>
        { p with deadline := .expired, timely := waitingGrads k t r.tensor r.shard r.step,
                 autumnDue := decide (k.wake.season = .autumn) }))
      .next (setChip s c (waitQuorum k i t r.tensor r.shard r.step))
    else .next s

/-- The 528 bytes of a SHARD_VERDICT (R189). -/
def verdictPayload (nonfinite below : Bool) (included : List Nat) (norm2 amax : Word) : List Byte :=
  leBytes 1 (bitSum [(nonfinite, 1), (below, 2)]) ++ [0#8] ++ leBytes 2 included.length ++ bytesOf norm2 4 ++ bytesOf amax 4 ++
  leBytes 4 0 ++ packBits 512 ((List.range 4096).map included.contains)

/-- INCLUSION of each source at the close (R206, R209). -/
def inclusionOf (i : ShardInfo) (r : ShardStep) (included : List Nat) : Tab Nat Nat :=
  r.sources.map (fun s =>
    (s.1, if included.contains s.1 then (if r.folds.any (fun f => decide (f.1 = s.1)) then 4 else 0)
          else if s.2.started then (if i.group.drop then 2 else 1) else 3))

/-- Whether a frame's accepted values still wait to be added to a shard's step: its task waits, runs, or is next to run (R205). -/
def addsWait (c : Chip) (t tensor shard step : Nat) : Bool :=
  anyTask c (fun u => decide (u.kind = 0) && decide (u.tenant = t) && decide (u.tensor = tensor) && decide (u.shard = shard) &&
    decide (u.step = step))

/-- Release the arrival bits of a step, and with them its counts of duplicates (R202, log entry 41). -/
def releaseBits (h : Shard) (step : Nat) : Shard :=
  match tabFind h.steps step with
  | some r => setStep h step { r with sources := tabMap (fun _ s => { s with slots := [], dups := [] }) r.sources }
  | none => h

/-- The arrival bits that the close of a step frees: those of the step before once it has closed too, and the step's own where the step
after it has closed already (R202). Bits of a step that is still open stay, so that no repeat is added twice. -/
def freeBits (h : Shard) (step : Nat) : Shard :=
  let closed (s : Nat) : Bool := (stepOf h s).closed
  let h := if 0 < step && closed (step - 1) then releaseBits h (step - 1) else h
  if closed (step + 1) then releaseBits h step else h

/-- The shard verdict of a closing shard (R210, R211): a consumed poison, or a fault of a CLOSE task, makes it NONFINITE (R361). -/
def judge (i : ShardInfo) (now : Nat) (r : ShardStep) (faulted : Bool) (included : List Nat) : ShardStep :=
  let g := memRead 0#32 r.acc 0 i.n
  let n2 := norm2Of g
  let bad := r.accPoison || r.closeFault || faulted || g.any (fun v => !f32IsFinite v) || !f32IsFinite n2
  { r with closed := true, closedAt := now, included := included, inclusion := inclusionOf i r included, nonfinite := bad,
           below := decide (included.length < quorumOf i.group), norm2 := if bad then f32Inf else n2,
           amax := if bad then f32Inf else amaxOf g }

/-- A task-level fault of a close: counted, and the breakpoints on its code hit (R361, R402). -/
def closeCode (c : Chip) (t code : Nat) : Chip := hitFault (countTen (countCode c code) t 28 1) code none

/-- The work of closing a shard whose CLOSE tasks have run, with the fault of one of them if any: owed DONEs, SHARD_VERDICT, the released
bits, the update tasks (R12, R205 to R211). -/
def closeShard (c : Chip) (now : Nat) (i : ShardInfo) (t tensor shard step : Nat) (fault : Option Nat) : Chip :=
  let p := stepOf (shardOf (ten c t) tensor shard) step
  let included := arrivedSources i shard p
  let p := judge i now p fault.isSome included
  let atDeadline := decide (p.deadline = .expired) && (!p.waited || p.below)
  let c := modTen c t (fun x => modShard x tensor shard (fun h => freeBits (setStep h step p) step))
  let c := countTen (countTen (countTen c t 16 1) t 17 (if atDeadline then 1 else 0)) t 18 (if p.below then 1 else 0)
  let c := countTen c t 20 (if p.nonfinite then 1 else 0)
  let c := if p.accPoison then closeCode c t 0x21 else c
  let c := match fault with | some code => closeCode c t code | none => c
  let c := forEach c (p.sources.map (·.1)) (fun c s => settle c i t tensor shard step s true)
  let root := stepRootOf c t
  let h := { chipHdr tyShardVerdict t 0 root with tensor := tensor, shard := shard, step := step,
                                                  flags := if p.nonfinite then flNonfinite else 0 }
  let c := sendChip c root h (verdictPayload p.nonfinite p.below included p.norm2 p.amax)
  queueUpdate (startVerdictTimer c t step) t tensor shard step

/-- The CLOSE task of tile j of a shard (R357, Table 19-5). -/
def closeTask (c : Chip) (now : Nat) (i : ShardInfo) (t tensor shard step j : Nat) : Task :=
  let recipe := boundIndex c 2
  let tile := tileOf c recipe
  { recipe := recipe, tenant := t, kind := 2, l1 := l1Of c recipe, tensor := tensor, shard := shard, step := step, first := j * tile,
    count := min tile (i.n - j * tile), tag := 0#32, cause := none, readyAt := now, workFirst := j * tile,
    workCount := min tile (i.n - j * tile), part := 0, array := 0, order := 0 }

/-- A shard's CLOSE tasks, one for each tile. -/
def closeTasks (c : Chip) (now : Nat) (i : ShardInfo) (t tensor shard step : Nat) : List Task :=
  (List.range (ceilDiv i.n (tileOf c (boundIndex c 2)))).map (closeTask c now i t tensor shard step)

/-- The tasks that are a shard's CLOSE tasks. -/
def isCloseOf (t tensor shard step : Nat) (k : Task) : Bool :=
  decide (k.kind = 2) && decide (k.tenant = t) && decide (k.tensor = tensor) && decide (k.shard = shard) && decide (k.step = step)

/-- Whether a CLOSE task of a shard still waits or runs. -/
def closeRuns (c : Chip) (t tensor shard step : Nat) : Bool := anyTask c (isCloseOf t tensor shard step)

/-- Queue a shard's CLOSE tasks; from now on its frames are late. -/
def queueClose (c : Chip) (now : Nat) (i : ShardInfo) (t tensor shard step : Nat) : Chip :=
  let c := modTen c t (fun x => modShardStep x tensor shard step (fun r => { r with closing := true }))
  forEach c (closeTasks c now i t tensor shard step) (fun c u => queueTask c (taskPlace c u) u)

/-- A cluster whose running task is an update of tenant t that stands still for want of pending space: a close waits for no update (R241,
section 12.5). -/
def stallsHere (c : Chip) (t : Nat) (x : Cluster) : Bool :=
  (ten c t).stalled && !x.halted &&
  (match x.run with | some r => decide (r.task.kind = 12) && decide (r.task.tenant = t) | none => false)

/-- Whether each bucket of a cluster holds what a task takes of it, or all that it can hold. -/
def paysFull (c : Chip) (x : Cluster) (u : Task) : Bool :=
  decide (min (wholeCost c u 0) 327680 ≤ x.readTokens) && decide (min (wholeCost c u 1) 327680 ≤ x.writeTokens) &&
  decide (min (wholeCost c u 3) 327680 ≤ x.egressTokens)

/-- Whether a CLOSE task can run whole on its cluster now: on an idle one whose buckets hold what it takes, or beside a stalled update of its
tenant (section 12.5, log entry 10). -/
def canClose (c : Chip) (u : Task) : Bool :=
  let x := clusterOf c (taskPlace c u)
  runsWhole c u.recipe && ((isIdle x && canPay c x u) || (stallsHere c u.tenant x && paysFull c x u))

/-- A CLOSE task runs whole: on an idle cluster as any task, beside a stalled update of its tenant without entering the cluster. -/
def runClose (c : Chip) (u : Task) : Chip :=
  let k := taskPlace c u
  if isIdle (clusterOf c k) then enterWhole c u else countTen (modCluster c k (payWhole c u)) u.tenant 27 1

/-- Some CLOSE tasks run whole one after the other; none where one of them cannot. -/
def closeAll : List Task → Chip → Option Chip
  | [], c => some c
  | u :: rest, c => if canClose c u then closeAll rest (runClose c u) else none

/-- The queued CLOSE tasks of a shard that stand behind a stalled update of their tenant and can pay run whole. -/
def closeBehind (c : Chip) (t tensor shard step : Nat) : Chip :=
  forEach c allClusters (fun c k =>
    forEach c ((clusterOf c k).queue.filter (isCloseOf t tensor shard step)) (fun c u =>
      let x := clusterOf c k
      if runsWhole c u.recipe && stallsHere c t x && paysFull c x u then
        let c := runClose (modCluster c k (fun x => dropDeficits { x with queue := x.queue.erase u })) u
        match wholeFault c u with
        | some code =>
          modTen (closeCode c t code) t (fun y => modShardStep y tensor shard step (fun r => { r with closeFault := true }))
        | none => c
      else c))

/-- A shard closes once its closing instant has come, every frame accepted before it has been added and its CLOSE tasks have run:
whole and at once where their clusters are idle, their buckets holding what they take, or stand still for want of pending space (section
12.5, log entry 10), else from their clusters' queues (R205, R327, R329, R407). -/
def execShardClose (c : Pos) (r : ShardStepRef) (s : State) : Host.Outcome State Fault Refusal :=
  let k := getChip s c
  let t := r.tenant.val
  let now := s.tray.now
  match shardInfo k t r.tensor r.shard with
  | none => .next s
  | some i =>
    let p := stepOf (shardOf (ten k t) r.tensor r.shard) r.step
    if !coreRuns k || p.closed || resolvedBy (ten k t) r.step || !anyAccepted p || addsWait k t r.tensor r.shard r.step then .next s
    else if p.closing then
      let k := closeBehind k t r.tensor r.shard r.step
      .next (setChip s c (if closeRuns k t r.tensor r.shard r.step then k else closeShard k now i t r.tensor r.shard r.step none))
    else if !closeDue i r.shard p then .next s
    else
      let us := closeTasks k now i t r.tensor r.shard r.step
      let hits := slotsWhere k (fun b => us.any (taskSlot b))
      if !hits.isEmpty then
        .next (setChip s c (queueClose (hitSlots k (placeOf (r.tensor + 16 * r.shard)) hits) now i t r.tensor r.shard r.step))
      else
        match closeAll us k with
        | none => .next (setChip s c (queueClose k now i t r.tensor r.shard r.step))
        | some k' => .next (setChip s c (closeShard k' now i t r.tensor r.shard r.step (us.findSome? (wholeFault k))))

end Sys2Proof.Machine
end

