-- ==== Sys2Proof/Machine/Init.lean ====
section
/-!
DEFINITION. INIT: filling the arrays of a shard at its home (R175 to R177, R263, R265).
-/
namespace Sys2Proof.Machine

/-- Whether INIT takes a format for a selector (R175). -/
def initFormat (g : GroupRec) (m8 : Bool) (aux fmt : Nat) : Bool :=
  decide (fmt = 0) || (decide (aux = 2 ∨ aux = 3) && decide (fmt = reportedFmt g m8 aux))

/-- Where a source's fill of an array is counted. -/
def fillKey (q : Hdr) : Nat := 4 * q.source + q.aux

/-! ## What a frame writes -/

/-- The draws of R263 for a run of elements of a moment: the index is the element's in the tensor. -/
def initDraws (seed : BitVec 64) (step tensor array i n : Nat) : List (BitVec 32) :=
  (upFrom i n).map (fun j => rngValue seed step tensor 1 (if array = 3 then j + 2 ^ 40 else j))

/-- Write a run of bytes, cleared lines of poison with it: the array's memory and the poison left. -/
def putBytes (h : Shard) (array at' : Nat) (bs : List Byte) : Shard :=
  { h with arrays := tabSet h.arrays array (memWrite 0#8 (arrayMem h array) at' bs),
           poison := h.poison.filter (fun p =>
             !(decide (p.1 = array) && decide (at' ≤ 128 * p.2.1) && decide (128 * p.2.1 + 128 ≤ at' + bs.length))) }

/-- The bytes of one stored block of an 8-bit moment in a shard of n elements. -/
def blockBytes (n b : Nat) : Nat := 1 + min 32 (n - 32 * b)

/-- A block whose bytes no rule gives (log entry 13). -/
def freeBlock (f : RxFrame) (n b : Nat) : List Byte :=
  (List.range (blockBytes n b)).map (fun j => Config.partialBlock f.frame.hdr (33 * b + j))

/-- Whether a frame covers all elements of block b. -/
def coversBlock (q : Hdr) (n b : Nat) : Bool :=
  decide (q.offset ≤ 32 * b) && decide (32 * b + (blockBytes n b - 1) ≤ q.offset + q.count)

/-- The values that an FP32 frame gives block b, +0 for elements that it does not reach (R176). -/
def initValues (f : RxFrame) (n b : Nat) : List Word :=
  let q := rxHead f
  let ws := words f.frame.payload
  (upFrom (32 * b) (blockBytes n b - 1)).map (fun e =>
    if q.offset ≤ e && decide (e < q.offset + q.count) then ws.getD (e - q.offset) 0#32 else 0#32)

/-- Block b of an 8-bit moment sent in FP32: each sent element with its index-keyed draw, elements never written at +0 (R176, R263). A
block that another frame has written and that this one covers in part would have to take a new scale for both, which no rule gives: it
holds a free value (log entry 13). -/
def initBlock (seed : BitVec 64) (f : RxFrame) (fmt n base b : Nat) (before : Bool) : List Byte :=
  let q := rxHead f
  if before && !coversBlock q n b then freeBlock f n b
  else encodeBlockDraws fmt (initValues f n b) (initDraws seed q.step q.tensor q.aux (base + 32 * b) (blockBytes n b - 1))

/-- Block b of an 8-bit moment sent in its stored format: stored as sent, elements that it does not reach at 0x00 (R263). On a frame
that does not begin at a block's first element, or over a part of a block written before, a free value. -/
def sentBlock (f : RxFrame) (n b : Nat) (before : Bool) : List Byte :=
  let q := rxHead f
  let size := blockBytes n b
  if q.offset % 32 ≠ 0 || (before && !coversBlock q n b) then freeBlock f n b
  else
    let bs := (sliceBytes f.frame.payload (33 * (b - q.offset / 32)) size).take (1 + (q.offset + q.count - 32 * b))
    bs ++ List.replicate (size - bs.length) 0#8

/-- The blocks that elements o to o + c − 1 touch. -/
def blocksIn (o c : Nat) : List Nat := if c = 0 then [] else upFrom (o / 32) ((o + c - 1) / 32 + 1 - o / 32)

/-- A shard with an INIT frame's elements written into its array. `base` is the shard's first element in the tensor. -/
def fillArray (seed : BitVec 64) (i : ShardInfo) (m8 : Bool) (f : RxFrame) (h : Shard) : Shard :=
  let q := rxHead f
  let fmt := storedFmt i.group m8 q.aux
  if fmt = 0 then putBytes h q.aux (4 * q.offset) (f.frame.payload.take (4 * q.count))
  else
    (blocksIn q.offset q.count).foldl (fun h b =>
      let before := h.filledBlocks.contains (q.aux, b)
      let h := putBytes h q.aux (33 * b)
        (if q.format = 0 then initBlock seed f fmt i.n (q.shard * i.stride) b before else sentBlock f i.n b before)
      { h with filledBlocks := if before then h.filledBlocks else h.filledBlocks ++ [(q.aux, b)] }) h

/-! ## Becoming FILLED (R176, R265, R266) -/

/-- A shard that becomes FILLED at a step: its history, its scale exponent, and its compute copy derived from the master. -/
def fillShard (i : ShardInfo) (step : Nat) (h : Shard) : Shard :=
  let ws := elemsFrom 0 0 (arrayMem h 0) 0 i.n
  let history := amaxFinite ws :: List.replicate 15 0#32
  let e := scaleExponent i.group.computeFmt i.group.margin history
  let h := { h with fill := .filled, history := history, histPoison := false, scaleExp := e, stateStep := step }
  if keepsArray i.group 1 then
    { h with arrays := tabSet h.arrays 1 (memFrom 0#8 0 (encodeElems i.group.computeFmt e false ws)) }
  else h

/-! ## Serving -/

/-- The first accepted INIT sets the tenant's latest committed and resolved step and ends the wait of R137 (R172, R177). -/
def noteInit (x : TenantCtx) (step : Nat) : TenantCtx :=
  match x.initStep with
  | some _ => x
  | none => { x with initStep := some step, committed := some step, resolved := some step, initSeen := true, wasReset := false }

/-- The fill's counts of a shard with one more frame accepted: a frame after the LAST one begins the next fill. -/
def countFill (q : Hdr) (h : Shard) : Shard :=
  let key := fillKey q
  let fresh := h.initDone.contains key
  let seen := if fresh then [] else tabGet [] h.initFrames key
  let mark := (q.offset, q.count)
  let last := hasFlag q.flags flLast
  { h with
    initFrames := tabSet h.initFrames key (if seen.contains mark then seen else seen ++ [mark]),
    initDups := tabSet h.initDups key (if fresh then 0 else tabGet 0 h.initDups key),
    initDone := (h.initDone.filter (fun k => decide (k ≠ key))) ++ (if last then [key] else []) }

/-- The lines of an INIT's array, and of the compute copy once the master is whole, are dirty in their slices (R307). -/
def storeFilled (c : Chip) (q : Hdr) (whole : Bool) : Chip :=
  match arrayInfoOf c q.tenant q.tensor q.shard with
  | none => c
  | some a =>
    let lo := storedAt (arrayFmt a q.aux) q.offset
    let c := storeTensor true q.tenant q.tensor q.shard q.aux 0 c (upFrom lo (storedEnd (arrayFmt a q.aux) q.offset q.count - lo))
    if whole && arrayKept a 1 then storeTensor true q.tenant q.tensor q.shard 1 0 c (List.range (arraySize a 1)) else c

/-- The INIT task: the STEP of R177, a FILLED shard, then the write. -/
def serveInit (c : Chip) (f : RxFrame) : Chip :=
  let q := rxHead f
  let x := ten c q.tenant
  let h := shardOf x q.tensor q.shard
  let last := hasFlag q.flags flLast
  let answer (h : Shard) (st : Nat) : DoneInfo :=
    { doneInfo st 0 with frames := if last then (tabGet [] h.initFrames (fillKey q)).length else 0,
                         duplicates := tabGet 0 h.initDups (fillKey q) }
  match shardInfo c q.tenant q.tensor q.shard with
  | none => sendDone c f (doneInfo stRange 0)
  | some i =>
    if x.initStep.isSome && decide (x.initStep ≠ some q.step) then sendDone c f (doneInfo stRange 0)
    else if h.fill = .filled then
      if rxFlag f flRetry then
        let h := { h with initDups := tabSet h.initDups (fillKey q) (tabGet 0 h.initDups (fillKey q) + 1) }
        sendDone (setTen c q.tenant (setShard x q.tensor q.shard h)) f (answer h stDup)
      else sendDone c f (doneInfo stNotEmpty 0)
    else
      let h := fillArray x.seed i x.m8 f { countFill q h with fill := .filling }
      let h := if last && decide (q.aux = 0) then fillShard i q.step h else h
      let c := noteOrigin (setTen c q.tenant (setShard (noteInit x q.step) q.tensor q.shard h)) f
      let c := storeFilled c q (last && decide (q.aux = 0))
      if last then sendDone c f (answer h stOk) else c

/-- Checks 9 to 11 of an INIT; then its task. -/
def takeInit (now : Nat) (c : Chip) (f : RxFrame) : Chip :=
  let q := rxHead f
  match paramTensor c q.tenant q.tensor with
  | none => sendDone c f (doneInfo stBadTensor 0)
  | some (_, g) =>
    if !initFormat g (ten c q.tenant).m8 q.aux q.format then sendDone c f (doneInfo stFormat 0)
    else
      match shardInfo c q.tenant q.tensor q.shard, homeOf c q.tenant q.tensor q.shard with
      | some i, some home =>
        if home ≠ chipNo c then sendDone c f (doneInfo stRange home)
        else if absentMoment g q.aux || i.n < q.offset + q.count then sendDone c f (doneInfo stRange 0)
        else
          let t := frameTask c 3 f q.offset q.count now
          launch c t (fun c => serveInit c f)
      | _, _ => sendDone c f (doneInfo stRange 0)

/-- An INIT arrives (R175). -/
def execInit (c : Pos) (f : RxFrame) (s : State) : Host.Outcome State Fault Refusal :=
  .next (hostCommand tyInit takeInit c f s)

end Sys2Proof.Machine
end

