-- ==== Sys2Proof/Machine/Rules.lean ====
section
/-!
DEFINITION. The arithmetic of chapter 11: the cosine table, schedules, the corrections from accumulator to gradient, the
tenant-wide factor, and rules 0 to 7 element by element.
-/
namespace Sys2Proof.Machine

/-! ## The cosine table (R224) -/

/-- floor(π × 2^256). -/
def piFix : Nat := 0x3243f6a8885a308d313198a2e03707344a4093822299f31d0082efa98ec4e6c89

/-- The sine series in units of 2^-256 from term k: the terms still to add and to take away, each after the first smaller. -/
def sinFrom : Nat → Nat → Nat → Nat → Nat → Nat → Nat
  | 0, _, _, _, plus, minus => plus - minus
  | fuel + 1, x2, k, term, plus, minus =>
    let next := term * x2 / 2 ^ 256 / ((2 * k + 2) * (2 * k + 3))
    if k % 2 = 0 then sinFrom fuel x2 (k + 1) next (plus + term) minus else sinFrom fuel x2 (k + 1) next plus (minus + term)

/-- sin(x) for 0 ≤ x ≤ π/2, both in units of 2^-256, to far more places than any rounding of R224 needs. -/
def sinFix (x : Nat) : Nat := sinFrom 48 (x * x / 2 ^ 256) 0 x 0 0

/-- CT[i] of R224: 0.5 × (1 + cos(π i / 1,024)) is the square of sin(π (1,024 − i) / 2,048). -/
def cosTable (i : Nat) : Word :=
  let y := sinFix (piFix * (1024 - i) / 2048)
  f32Round ⟨false, y * y, -512⟩

/-! ## Schedules (R222, R223) -/

/-- floor of a finite value that is at least 0. -/
def f32Floor (x : Word) : Nat :=
  let v := f32Value x
  if 0 ≤ v.e then v.m * 2 ^ v.e.toNat else v.m / 2 ^ (-v.e).toNat

/-- float(a) / float(b). -/
def ratio (a b : Nat) : Word := f32Div (f32OfNat a) (f32OfNat b)

/-- 1,024 as binary32. -/
def f32K : Word := 0x44800000#32

/-- sched of R223 at step t. -/
def schedAt (r : SchedRec) (t : Nat) : Word :=
  let w := r.warmup
  if r.kind = 0 then r.base
  else if r.kind = 2 then f32Mul r.base (f32Powf r.gamma (t / r.period))
  else if t < w then f32Mul r.base (ratio t w)
  else if r.kind = 3 then f32Mul r.base (f32Sqrt (ratio (max w 1) (max t 1)))
  else if r.total ≤ t then r.final
  else
    let h := ratio (t - w) (r.total - w)
    if r.kind = 1 then f32Fma (f32Sub r.final r.base) h r.base
    else
      let x := f32Mul h f32K
      let i := f32Floor x
      let c :=
        if 1024 ≤ i then cosTable 1024
        else f32Fma (f32Sub x (f32OfNat i)) (f32Sub (cosTable (i + 1)) (cosTable i)) (cosTable i)
      f32Fma (f32Sub r.base r.final) c r.final

/-- Schedule record i of a catalogue at step t; +0 where there is none. -/
def schedOf (scheds : List SchedRec) (i t : Nat) : Word :=
  match scheds[i]? with
  | some r => schedAt r t
  | none => 0#32

/-- The values that a shard's stage of a step uses (R222). -/
structure Hyper where
  lr : Word
  wd : Word
  nlr : Word
  b1 : Word
  b2 : Word
  c1 : Word
  c2 : Word
  bc1 : Word
  bc2 : Word
  eps : Word
deriving DecidableEq, Repr

/-- R222. -/
def hyperOf (scheds : List SchedRec) (g : GroupRec) (s : Nat) : Hyper :=
  let lr := schedOf scheds g.lrSched s
  { lr := lr, wd := if g.wdSched = 0xFF then 0#32 else schedOf scheds g.wdSched s, nlr := f32Negate lr,
    b1 := g.beta1, b2 := g.beta2, c1 := f32Sub f32One g.beta1, c2 := f32Sub f32One g.beta2,
    bc1 := f32Sub f32One (f32Powf g.beta1 s), bc2 := f32Sub f32One (f32Powf g.beta2 s), eps := g.epsilon }

/-! ## From accumulator to gradient (R218 to R220) -/

/-- us of R218 for a loss-scale exponent and an INCLUDED count. -/
def unscaleBy (e : Int) (included : Nat) : Word := f32Div (f32Pow2 (-e)) (f32OfNat (max 1 included))

/-- The per-tensor clip factor of R219. -/
def clipFactor (us norm2 clip : Word) : Word :=
  let nn := f32Mul (f32Sqrt norm2) us
  if clip = 0#32 || f32Le nn clip then f32One else f32Div clip nn

/-- The gradient that a rule consumes (R218). -/
def gradOf (us fc f acc : Word) : Word := f32Mul (f32Mul (f32Mul acc us) fc) f

/-- One shard's term of G in R220. -/
def clipTerm (us norm2 clip : Word) : Word := f32Mul (f32Mul (f32Sqrt norm2) us) (clipFactor us norm2 clip)

/-- f of R220 from the terms in their order. -/
def globalFactor (clip : Word) (terms : List Word) : Word :=
  let gn := f32Sqrt (blockSquares 0#32 terms)
  if clip = 0#32 || f32Le gn clip then f32One else f32Div clip gn

/-! ## The rules (R225 to R229) -/

/-- One element: master, first and second moment. -/
structure Elem where
  w : Word
  m : Word
  v : Word
deriving DecidableEq, Repr

/-- Rule 0 (R226). -/
def ruleSgd (h : Hyper) (g : Word) (x : Elem) : Elem := { x with w := f32Fma h.nlr (f32Fma h.wd x.w g) x.w }

/-- Rule 1 (R226). -/
def ruleMomentum (h : Hyper) (g : Word) (x : Elem) : Elem :=
  let m := f32Fma h.b1 x.m (f32Fma h.wd x.w g)
  { x with w := f32Fma h.nlr m x.w, m := m }

/-- Rule 2 (R226). -/
def ruleNesterov (h : Hyper) (g : Word) (x : Elem) : Elem :=
  let gw := f32Fma h.wd x.w g
  let m := f32Fma h.b1 x.m gw
  { x with w := f32Fma h.nlr (f32Fma h.b1 m gw) x.w, m := m }

/-- New moments and direction of rules 3 to 5 and 7 from a gradient (R227). -/
def adamStep (h : Hyper) (gw : Word) (x : Elem) : Elem × Word :=
  let m := f32Fma h.b1 x.m (f32Mul h.c1 gw)
  let v := f32Fma h.b2 x.v (f32Mul h.c2 (f32Mul gw gw))
  let d := f32Div (f32Div m h.bc1) (f32Add (f32Sqrt (f32Div v h.bc2)) h.eps)
  ({ x with m := m, v := v }, d)

/-- Rule 3, and rule 7 on a touched element (R227, R232). -/
def ruleAdam (h : Hyper) (g : Word) (x : Elem) : Elem :=
  let r := adamStep h (f32Fma h.wd x.w g) x
  { r.1 with w := f32Fma h.nlr r.2 x.w }

/-- Rule 4 (R227). -/
def ruleAdamW (h : Hyper) (g : Word) (x : Elem) : Elem :=
  let r := adamStep h g x
  { r.1 with w := f32Fma h.nlr (f32Fma h.wd x.w r.2) x.w }

/-- Pass 1 of rule 5: new moments, and d with its decay term; w unchanged (R228). -/
def lambPass1 (h : Hyper) (g : Word) (x : Elem) : Elem × Word :=
  let r := adamStep h g x
  (r.1, f32Fma h.wd x.w r.2)

/-- −(lr × tr) of rule 5 from the shard's masters and directions (R228). -/
def lambStep (h : Hyper) (ws ds : List Word) : Word :=
  let nw := norm2Of ws
  let nd := norm2Of ds
  let fine (x : Word) : Bool := f32Lt 0#32 x && f32Lt x f32Inf
  let tr := if fine nw && fine nd then f32Div (f32Sqrt nw) (f32Sqrt nd) else f32One
  f32Negate (f32Mul h.lr tr)

/-- sign of R229. -/
def f32Sign (x : Word) : Word :=
  if f32IsNaN x then qnan else if f32IsZero x then 0#32 else if f32Neg x then 0xBF800000#32 else f32One

/-- Rule 6 (R229). -/
def ruleLion (h : Hyper) (g : Word) (x : Elem) : Elem :=
  let c := f32Fma h.b1 x.m (f32Mul h.c1 g)
  let d := f32Fma h.wd x.w (f32Sign c)
  { x with w := f32Fma h.nlr d x.w, m := f32Fma h.b2 x.m (f32Mul h.c2 g) }

/-- One element of a rule's pass over the elements; rule 5 leaves its master to pass 2. -/
def ruleElem (rule : Nat) (h : Hyper) (g : Word) (x : Elem) : Elem :=
  match rule with
  | 0 => ruleSgd h g x
  | 1 => ruleMomentum h g x
  | 2 => ruleNesterov h g x
  | 4 => ruleAdamW h g x
  | 5 => (lambPass1 h g x).1
  | 6 => ruleLion h g x
  | _ => ruleAdam h g x

end Sys2Proof.Machine
end

