-- ==== Sys2Proof/Machine/StepRoot.lean ====
section
/-!
DEFINITION. The step root: SHARD_VERDICTs gathered, a step decided by Table 10-2, the loss scale, and the VERDICT broadcast
(R189, R190, R212 to R214, R220, R349, R367).
-/
namespace Sys2Proof.Machine

/-! ## Loss-scale exponents (R213, R214) -/

/-- LS_INIT of a tenant's record. -/
def lsInit (c : Chip) (t : Nat) : Int :=
  match tenantRec c t with
  | some r => r.lsInit
  | none => 0

/-- The latest exponent carried by a VERDICT of a step at or below `s`. -/
def latestExponent (s : Nat) : Tab Nat Int → Option (Nat × Int)
  | [] => none
  | (k, e) :: rest =>
    match latestExponent s rest with
    | some b => if k ≤ s && decide (b.1 < k) then some (k, e) else some b
    | none => if k ≤ s then some (k, e) else none

/-- The exponent of step s: that of the VERDICT of step s − 2, 2^LS_INIT for the first two steps after INIT (R214). -/
def stepExponent (c : Chip) (t s : Nat) : Int :=
  if s < 2 then lsInit c t
  else
    match latestExponent (s - 2) (ten c t).exponents with
    | some p => p.2
    | none => lsInit c t

/-- Remember the exponent that a step's VERDICT carries; steps long past are forgotten. -/
def noteExponent (x : TenantCtx) (s : Nat) (e : Int) : TenantCtx :=
  { x with exponents := tabSet (x.exponents.filter (fun p => decide (s ≤ p.1 + 4))) s e }

/-! ## The decision (R212, R220) -/

/-- A shard's verdict with its place. -/
structure Gathered where
  tensor : Nat
  shard : Nat
  verdict : ShardVerdict
deriving DecidableEq, Repr

/-- The gathered verdicts of a catalogue's shards, in ascending tensor id and shard index. -/
def gatheredOf (cat : Catalogue) (g : Gather) : List Gathered :=
  (allShards cat).filterMap (fun p =>
    match tabFind g.verdicts (p.1.id, p.2) with
    | some v => some { tensor := p.1.id, shard := p.2, verdict := v }
    | none => none)

/-- The tensors with a NONFINITE shard, ascending. -/
def badTensors (l : List Gathered) : List Nat :=
  ((l.filter (fun g => g.verdict.nonfinite)).map (·.tensor)).eraseDups

/-- The group of a tensor id in a catalogue. -/
def groupIn (cat : Catalogue) (id : Nat) : Option GroupRec :=
  match findTensor cat id with
  | some r => groupOf cat r
  | none => none

/-- f of R220 over the finite tensors of GLOBAL groups. -/
def factorOf (cat : Catalogue) (clip : Word) (e : Int) (l : List Gathered) : Word :=
  let bad := badTensors l
  globalFactor clip (l.filterMap (fun g =>
    match groupIn cat g.tensor with
    | some r =>
      if r.global && !bad.contains g.tensor then some (clipTerm (unscaleBy e g.verdict.included) g.verdict.norm2 r.clip)
      else none
    | none => none))

/-- A step's decision: the row of Table 10-2, the VERDICT's AUX, its clip factor and its tensor list. -/
structure Decision where
  row : Nat
  aux : Nat
  factor : Word
  tensors : List Nat
deriving DecidableEq, Repr

/-- Table 10-2, first row that matches. -/
def decideStep (cat : Catalogue) (clip : Word) (e : Int) (l : List Gathered) : Decision :=
  let bad := badTensors l
  let f := factorOf cat clip e l
  let clipped := f32Lt f f32One
  let plain (row aux : Nat) : Decision := { row := row, aux := aux, factor := f32One, tensors := [] }
  let skipStep (id : Nat) : Bool := match groupIn cat id with | some g => g.skipStep | none => false
  if l.any (fun g => g.verdict.below) then plain 1 1
  else if bad.any skipStep then plain 2 1
  else if !bad.isEmpty && clipped then plain 3 1
  else if !bad.isEmpty && decide (bad.length ≤ 8184) then { plain 4 3 with tensors := bad }
  else if !bad.isEmpty then plain 5 1
  else if clipped then { plain 6 2 with factor := f }
  else plain 7 0

/-- e and c after a step of a row (R213). -/
def nextScale (cleanSteps : Nat) (row : Nat) (e : Int) (n : Nat) : Int × Nat :=
  if 2 ≤ row && decide (row ≤ 5) then (max (e - 1) (-24), 0)
  else if 6 ≤ row then (if cleanSteps ≤ n + 1 then (min (e + 1) 24, 0) else (e, n + 1))
  else (e, n)

/-! ## VERDICT (R190) -/

/-- The payload of a VERDICT. -/
def verdictBytes (d : Decision) (e : Int) : List Byte :=
  bytesOf d.factor 4 ++ leBytes 2 (fieldOfInt 16 e) ++ leBytes 2 d.tensors.length ++ List.replicate 8 0#8 ++
  d.tensors.flatMap (fun t => leBytes 2 t)

/-- The chips that home a shard of a tenant, each once. -/
def homesOf (c : Chip) (t : Nat) : List Nat :=
  match catOf c t with
  | some cat => ((allShards cat).map (fun p => homeChip (torusOf c).1 (torusOf c).2 p.1 p.2)).eraseDups
  | none => []

/-- The number of shards of a tenant across the fabric, the T of its gather object (Table 18-1). -/
def shardCount (c : Chip) (t : Nat) : Nat :=
  match catOf c t with
  | some cat => (allShards cat).length
  | none => 0

/-- The gather object of a tenant and step (Table 18-1). -/
def gatherObject (t step : Nat) : Nat := 16 + 2 * t + step % 2

/-- The gather of a step is complete: the decision, the loss scale, the broadcast; the object goes back to 0 (R212, R213, R349). -/
def decideGather (c : Chip) (t step : Nat) (cat : Catalogue) (g : Gather) : Chip :=
  let clip := match tenantRec c t with | some r => r.globalClip | none => 0#32
  let clean := match tenantRec c t with | some r => r.cleanSteps | none => 2000
  let d := decideStep cat clip (stepExponent c t step) (gatheredOf cat g)
  let x := ten c t
  let n := nextScale clean d.row x.rootExp x.rootClean
  let c := setSync c (gatherObject t step) { syncObj c (gatherObject t step) with c := 0#32, device := false }
  let c := modTen c t (fun x => noteExponent
    { x with rootExp := n.1, rootClean := n.2,
             gathers := tabSet (x.gathers.filter (fun p => decide (step ≤ p.1 + 2))) step { g with timer := .idle, decided := true } }
    step n.1)
  forEach c (homesOf c t) (fun c h =>
    sendChip c h { chipHdr tyVerdict t 0 h with step := step, aux := d.aux } (verdictBytes d n.1))

/-! ## SHARD_VERDICT at the step root (R349, R367) -/

/-- The shard verdict that a payload carries (R189). -/
def shardVerdictOf (bs : List Byte) : ShardVerdict :=
  let flags := BitVec.ofNat 8 (fieldAt bs 0 1)
  { nonfinite := flags.getLsbD 0, below := flags.getLsbD 1, included := fieldAt bs 2 2, norm2 := BitVec.ofNat 32 (fieldAt bs 4 4),
    amax := BitVec.ofNat 32 (fieldAt bs 8 4) }

/-- A step whose gather is over: decided, or so far back that its record is gone. -/
def gatherOver (x : TenantCtx) (step : Nat) : Bool :=
  x.gathers.any (fun g => g.2.decided && (decide (g.1 = step) || decide (step + 2 ≤ g.1)))

/-- A SHARD_VERDICT at the chip it names: the tenant deaf or not begun, a chip that is not the step root, a shard already counted;
else it adds 1 to the gather object, on which the device waits, and the step is decided when C equals T (R338, R349). -/
def takeShardVerdict (c : Chip) (f : RxFrame) : Chip :=
  let q := rxHead f
  let t := q.tenant
  let x := ten c t
  if tenantDeaf c x || x.wasReset then countTen c t 32 1
  else
    match catOf c t with
    | none => countDev c 130 1
    | some cat =>
      if stepRootOf c t ≠ chipNo c || (homeOf c t q.tensor q.shard).isNone then countDev c 130 1
      else
        let g := tabGet .reset x.gathers q.step
        if gatherOver x q.step || (tabFind g.verdicts (q.tensor, q.shard)).isSome then countTen c t 33 1
        else
          let g := { g with verdicts := tabSet g.verdicts (q.tensor, q.shard) (shardVerdictOf f.frame.payload), timer := .running }
          let o := syncObj c (gatherObject t q.step)
          let o := { o with c := o.c + 1#32, t := BitVec.ofNat 32 (shardCount c t), device := true }
          let c := setSync c (gatherObject t q.step) o
          let c := modTen c t (fun x => { x with gathers := tabSet x.gathers q.step g })
          if o.c = o.t then decideGather c t q.step cat g else c

/-- A SHARD_VERDICT arrives. -/
def execShardVerdict (c : Pos) (f : RxFrame) (s : State) : Host.Outcome State Fault Refusal :=
  .next (chipCommand tyShardVerdict (fun _ k f => takeShardVerdict k f) c f s)

/-- The gather timer of a step reaches VERDICT_TIMEOUT: 0x84, and no VERDICT (R367). It runs through halts and backpressure. -/
def execGatherTimeout (c : Pos) (t : Tenant) (step : Nat) (s : State) : Host.Outcome State Fault Refusal :=
  let k := getChip s c
  let g := tabGet Gather.reset (ten k t.val).gathers step
  if coreRuns k && decide (g.timer = .running) then .next (setChip s c (tenantFault k t.val 0x84)) else .next s

end Sys2Proof.Machine
end

