-- ==== Sys2Proof/Machine/Update.lean ====
section
/-!
DEFINITION. The update stage over a shard's arrays: what it reads (R215, R236), the new values of a run of elements (R232, R233),
the lane draws of 8-bit moments (R261, R262), the compute copy and the amax entry (R265 to R267).
-/
namespace Sys2Proof.Machine

/-! ## What an update stage reads (R236) -/

/-- The step before, while its pending state still stands. -/
def prevPending (h : Shard) (step : Nat) : Option ShardStep :=
  match step with
  | 0 => none
  | s + 1 =>
    match tabFind h.steps s with
    | some r => if r.applied then none else some r
    | none => none

/-- A byte as a stage of a step finds it before it has written: pending state of the step before, else committed state. -/
def inputByte (h : Shard) (step array a : Nat) : Byte :=
  match (match prevPending h step with | some r => memFind (pendMem r array) a | none => none) with
  | some b => b
  | none => memGet 0#8 (arrayMem h array) a

/-- A byte with the step's own pending writes on top. -/
def viewByte (h : Shard) (step array a : Nat) : Byte :=
  match memFind (pendMem (stepOf h step) array) a with
  | some b => b
  | none => inputByte h step array a

/-- The scale exponent of a step: from the committed entries as the step's stage first begins (R265, R266); a run again of that stage
takes the same one (R267). -/
def scaleOf (g : GroupRec) (h : Shard) (step : Nat) : Int :=
  match (stepOf h step).scale with
  | some e => e
  | none => scaleExponent g.computeFmt g.margin h.history

/-- Bytes that an array of n elements stored in a format takes, by offset in it. -/
def inputBytes (h : Shard) (step array a n : Nat) : List Byte := (upFrom a n).map (inputByte h step array)

/-! ## Lane draws (R262, R287, R358) -/

/-- The state of a tenant's lane on a chip. -/
def laneState (x : TenantCtx) (lane : Nat) : BitVec 64 := tabGet (laneSeed x.laneSeed lane) x.lanes lane

/-- n draws of a lane, and the tenant with the lane moved on. -/
def drawLane (x : TenantCtx) (lane n : Nat) : List (BitVec 32) × TenantCtx :=
  let r := laneDraws n (laneState x lane)
  (r.1, { x with lanes := tabSet x.lanes lane r.2 })

/-- The lane of block b of a task on a cluster (R288, R358). -/
def laneOf (k : ClusterNo) (b : Nat) : Nat := 128 * k.val + b % 128

/-- One moment of one block in its stored format, with its draws where the format is 8 bits wide. -/
def storeMoment (x : TenantCtx) (lane fmt : Nat) (ws : List Word) : List Byte × TenantCtx :=
  if fmt = 0 then (encodeElems 0 0 false ws, x)
  else
    let d := drawLane x lane ws.length
    (encodeBlockDraws fmt ws d.1, d.2)

/-! ## One block -/

/-- What a stage fixes for a whole task: the rule, its values, the three corrections, the stored formats, the scale exponent of
the step, and whether a row is touched. -/
structure UpdateCtx where
  rule : Nat
  hyper : Hyper
  us : Word
  fc : Word
  f : Word
  m1Fmt : Nat
  m2Fmt : Nat
  copyFmt : Nat
  scale : Int
  rowLen : Nat
  rows : List Nat
deriving DecidableEq, Repr

/-- Whether element e of the shard is updated (R232). -/
def isTouched (u : UpdateCtx) (e : Nat) : Bool := u.rule ≠ 7 || u.rows.contains (e / u.rowLen)

/-- A stage's results so far: new bytes of each array, the amax of new masters, and the tenant's lanes. -/
structure UpdateOut where
  w : List Byte
  m : List Byte
  v : List Byte
  copy : List Byte
  amax : Word
  tenant : TenantCtx

/-- Elements of a block of a moment as binary32; none where the rule keeps no such moment. -/
def momentWords (fmt n : Nat) (bs : List Byte) : List Word :=
  if bs.isEmpty then List.replicate n 0#32 else decodeElems fmt 0 n bs

/-- The inputs of one block: bytes of its masters, moments and reduced gradients. -/
structure BlockIn where
  w : List Byte
  m : List Byte
  v : List Byte
  acc : List Byte
deriving DecidableEq, Repr

/-- Update one block whose first element is `e` of the shard and `b` of the task's blocks. -/
def updateBlock (u : UpdateCtx) (k : ClusterNo) (b e : Nat) (i : BlockIn) (o : UpdateOut) : UpdateOut :=
  let ws := words i.w
  let n := ws.length
  if isTouched u e then
    let ms := momentWords u.m1Fmt n i.m
    let vs := momentWords u.m2Fmt n i.v
    let gs := words i.acc
    let new := (List.range n).map (fun j =>
      ruleElem u.rule u.hyper (gradOf u.us u.fc u.f (gs.getD j 0#32)) ⟨ws.getD j 0#32, ms.getD j 0#32, vs.getD j 0#32⟩)
    let nw := new.map (·.w)
    let m := if i.m.isEmpty then ([], o.tenant) else storeMoment o.tenant (laneOf k b) u.m1Fmt (new.map (·.m))
    let v := if i.v.isEmpty then ([], m.2) else storeMoment m.2 (laneOf k b) u.m2Fmt (new.map (·.v))
    let a := amaxFinite nw
    { w := o.w ++ encodeElems 0 0 false nw, m := o.m ++ m.1, v := o.v ++ v.1,
      copy := o.copy ++ encodeElems u.copyFmt u.scale false nw, amax := if o.amax.toNat < a.toNat then a else o.amax,
      tenant := v.2 }
  else
    { o with w := o.w ++ i.w, m := o.m ++ i.m, v := o.v ++ i.v, copy := o.copy ++ encodeElems u.copyFmt u.scale false ws }

/-- Bytes of `n` elements of a block in a stored format. -/
def blockSize (fmt n : Nat) : Nat := if isBlockFormat fmt then 1 + n else storedBytes fmt n

/-- Update a run of elements block by block in ascending order; `b` and `e` are the first block's place in the task and its first
element in the shard. -/
def updateBlocks (u : UpdateCtx) (k : ClusterNo) : Nat → Nat → Nat → BlockIn → UpdateOut → UpdateOut
  | 0, _, _, _, o => o
  | fuel + 1, b, e, i, o =>
    if i.w.isEmpty then o
    else
      let n := min 32 (i.w.length / 4)
      let sm := blockSize u.m1Fmt n
      let sv := blockSize u.m2Fmt n
      let one : BlockIn := { w := i.w.take (4 * n), m := i.m.take sm, v := i.v.take sv, acc := i.acc.take (4 * n) }
      let rest : BlockIn := { w := i.w.drop (4 * n), m := i.m.drop sm, v := i.v.drop sv, acc := i.acc.drop (4 * n) }
      if n = 0 then o else updateBlocks u k fuel (b + 1) (e + n) rest (updateBlock u k b e one o)

/-! ## A shard's stage -/

/-- The rows touched in a step: those of included contributors and of folded contributions (R232). -/
def touchedRows (r : ShardStep) : List Nat :=
  (r.foldRows ++ (r.sources.filter (fun s => r.included.contains s.1)).flatMap (fun s => s.2.rows)).eraseDups

/-- What a stage of a shard and step fixes. -/
def updateCtx (c : Chip) (t tensor shard step : Nat) (i : ShardInfo) : UpdateCtx :=
  let x := ten c t
  let h := shardOf x tensor shard
  let r := stepOf h step
  let scheds := match catOf c t with | some cat => cat.scheds | none => []
  let us := unscaleBy (stepExponent c t step) r.included.length
  { rule := i.group.rule, hyper := hyperOf scheds i.group step, us := us, fc := clipFactor us r.norm2 i.group.clip,
    f := r.factor, m1Fmt := storedFmt i.group x.m8 2, m2Fmt := storedFmt i.group x.m8 3, copyFmt := i.group.computeFmt,
    scale := scaleOf i.group h step, rowLen := rowElems i.tensor, rows := touchedRows r }

/-- The larger of a new amax and the one a step has so far. -/
def joinAmax (old : Option Word) (a : Word) : Word :=
  match old with
  | some b => if b.toNat < a.toNat then a else b
  | none => a

/-- The UPDATE stage over a run of elements from `e` of the shard, `e0` of the task: new bytes for the outputs; the lanes have moved
on, and the step's amax and exponent stand with the shard (R265, R266). -/
def runUpdate (c : Chip) (k : ClusterNo) (t tensor shard step e0 e : Nat) (i : ShardInfo) (inp : BlockIn) : Chip × UpdateOut :=
  let u := updateCtx c t tensor shard step i
  let o := updateBlocks u k (inp.w.length / 4 + 1) (e0 / 32) e inp
    { w := [], m := [], v := [], copy := [], amax := 0#32, tenant := ten c t }
  let x := modShardStep o.tenant tensor shard step (fun r =>
    { r with pendAmax := some (joinAmax r.pendAmax o.amax), scale := some u.scale })
  (setTen c t x, o)

/-! ## Pass 2 of rule 5 (R228) -/

/-- The words of an array of n elements as a stage of a step finds them. -/
def inputWords (h : Shard) (step array fmt n : Nat) : List Word :=
  if isBlockFormat fmt then
    (List.range (ceilDiv n 32)).flatMap (fun b =>
      let k := min 32 (n - 32 * b)
      decodeElems fmt 0 k (inputBytes h step array (33 * b) (1 + k)))
  else decodeElems fmt 0 n (inputBytes h step array 0 (storedBytes fmt n))

/-- The directions d of pass 1 for the whole shard, in ascending element order. -/
def lambDirections (u : UpdateCtx) (h : Shard) (step n : Nat) : List Word :=
  let ws := inputWords h step 0 0 n
  let ms := inputWords h step 2 u.m1Fmt n
  let vs := inputWords h step 3 u.m2Fmt n
  let acc := (stepOf h step).acc
  (List.range n).map (fun j =>
    (lambPass1 u.hyper (gradOf u.us u.fc u.f (memGet 0#32 acc j)) ⟨ws.getD j 0#32, ms.getD j 0#32, vs.getD j 0#32⟩).2)

/-- The new masters of pass 2. -/
def lambMasters (u : UpdateCtx) (h : Shard) (step n : Nat) : List Word :=
  let ws := inputWords h step 0 0 n
  let ds := lambDirections u h step n
  let ns := lambStep u.hyper ws ds
  List.zipWith (fun w d => f32Fma ns d w) ws ds

/-- A memory with a run of bytes listed from an address. -/
def listBytes (m : Mem Byte) (a : Nat) : List Byte → Mem Byte
  | [] => m
  | b :: rest => listBytes (memPut m a b) (a + 1) rest

/-- Write bytes into a step's pending array; poison of lines they cover goes with them. -/
def putPend (r : ShardStep) (array a : Nat) (bs : List Byte) : ShardStep :=
  { r with pend := tabSet r.pend array (listBytes (pendMem r array) a bs),
           pendPoison := r.pendPoison.filter (fun p =>
             !(decide (p.1 = array) && decide (a ≤ 128 * p.2) && decide (128 * p.2 + 128 ≤ a + bs.length))) }

/-- The end of a shard's stage: pass 2 of rule 5 with its copy and amax; for rule 7 the entry is the larger of the touched rows' amax
and the newest committed entry (R228, R265). -/
def finishUpdate (c : Chip) (t tensor shard step : Nat) (i : ShardInfo) : Chip :=
  let h := shardOf (ten c t) tensor shard
  let u := updateCtx c t tensor shard step i
  modTen c t (fun x => modShardStep x tensor shard step (fun r =>
    if i.group.rule = 5 then
      let ws := lambMasters u h step i.n
      let r := putPend r 0 0 (encodeElems 0 0 false ws)
      let r := if keepsArray i.group 1 then putPend r 1 0 (encodeElems u.copyFmt u.scale false ws) else r
      { r with pendAmax := some (amaxFinite ws), scale := some u.scale }
    else if i.group.rule = 7 then
      { r with pendAmax := some (joinAmax r.pendAmax (h.history.headD 0#32)), scale := some u.scale }
    else { r with pendAmax := some (joinAmax r.pendAmax 0#32), scale := some u.scale }))

end Sys2Proof.Machine
end

