-- ==== Sys2Proof/Machine/Commit.lean ====
section
/-!
DEFINITION. A step from its VERDICT to its commit barrier on a home chip (chapter 12, R13, R190, R348): recording, applying by
Table 12-1, re-runs and cascades, the arrivals, and what the barrier sets free: STEP_REPORT and held PULLs.
-/
namespace Sys2Proof.Machine

/-! ## What a VERDICT does to a shard (Table 12-1) -/

/-- A shard whose run-ahead results a VERDICT drops for good. -/
def rollsBack (v : VerdictRec) (tensor : Nat) : Bool := decide (v.aux = 1) || (decide (v.aux = 3) && v.tensors.contains tensor)

/-- A shard whose stage a VERDICT has run again with f (R221). -/
def recomputes (v : VerdictRec) (g : GroupRec) : Bool := decide (v.aux = 2) && g.global

/-- The step before is over here: resolved, or never begun (log entry 15). -/
def prevOver (x : TenantCtx) (step : Nat) : Bool :=
  match step with
  | 0 => true
  | s + 1 => resolvedBy x s || (tabFind x.steps s).isNone

/-- A shard with the amax entry and the exponent of a step whose bytes are committed (R243, R265, R267). -/
def commitShard (step : Nat) (h : Shard) : Shard :=
  let r := stepOf h step
  { h with
    history := (match r.pendAmax with | some w => (w :: h.history).take 16 | none => h.history),
    scaleExp := r.scale.getD h.scaleExp, stateStep := step }

/-- A shard's step over: its pending state and its accumulator are gone (R215). -/
def closeStep (r : ShardStep) (rolledBack : Bool) : ShardStep :=
  { r with applied := true, rolledBack := r.rolledBack || rolledBack, acc := [], pend := [], pendAmax := none, pendPoison := [] }

/-- A shard's step is over, with what becomes of the shard: its accumulator's lines and frames go with it (R215, R304). -/
def finishStep (c : Chip) (t tensor shard step : Nat) (rolledBack : Bool) (g : Shard → Shard) : Chip :=
  dropAcc (modTen c t (fun x => modShard x tensor shard (fun h => modStep (g h) step (fun r => closeStep r rolledBack)))) t tensor shard step

/-! ## Cascade and re-run (R245, R246) -/

/-- A step's pending state on a shard goes with that of the step before it, and its stage is owed again (R246). A stage that aborted has
none, and is over (Table 12-1). -/
def cascade (c : Chip) (t tensor shard step : Nat) : Chip :=
  if hasPending c t tensor shard step && decide ((stepOf (shardOf (ten c t) tensor shard) step).update ≠ .aborted) then
    let c := discardPending (endTasks c (isUpdateOf t tensor shard step)) t tensor shard step
    let c := modTen c t (fun x => modShardStep x tensor shard step (fun r =>
      { r with update := .none, rerunDue := true, tilesDone := [], direct := false }))
    let c := if (stepRec (ten c t) step).cascade then c else countTen c t 23 1
    modTen c t (fun x => modStepRec x step (fun r => { r with cascade := true }))
  else c

/-- A shard's pending state of a step goes, with the tasks that wrote it and the pending state of the step after it (R246). -/
def dropPending (c : Chip) (t tensor shard step : Nat) : Chip :=
  cascade (discardPending (endTasks c (isUpdateOf t tensor shard step)) t tensor shard step) t tensor shard (step + 1)

/-- Run a shard's stage again with its VERDICT known: it writes dirty lines directly (R221, R245). -/
def rerunWith (c : Chip) (t tensor shard step : Nat) (f : Word) : Chip :=
  let c := queueUpdate c t tensor shard step
  modTen c t (fun x => modShardStep x tensor shard step (fun r => { r with direct := true, rerunDue := false, factor := f }))

/-- The clip factor of a shard's re-run under a VERDICT. -/
def rerunFactor (v : VerdictRec) (g : GroupRec) : Word := if recomputes v g then v.factor else f32One

/-- A stage owed again runs once the step before is over on the shard and its own VERDICT is recorded (R246); under a VERDICT that
rolls the shard back there is nothing to run. -/
def rerunShard (c : Chip) (t tensor shard step : Nat) : Chip :=
  let x := ten c t
  let h := shardOf x tensor shard
  let prev := match step with
    | 0 => true
    | s + 1 => resolvedBy x s || (match tabFind h.steps s with | some r => r.applied | none => true)
  match (stepRec x step).verdict, groupOfTensor c t tensor with
  | some v, some g =>
    if (stepOf h step).rerunDue && prev then
      if rollsBack v tensor then
        modTen c t (fun x => modShardStep x tensor shard step (fun r => { r with update := .ended, rerunDue := false }))
      else rerunWith c t tensor shard step (rerunFactor v g)
    else c
  | _, _ => c

/-! ## Applying a VERDICT to a shard (R13, R242) -/

/-- Whether a shard's stage has ended or aborted with no task of it left: an abort lets the tasks on other clusters run on (R10, R237). -/
def stageStill (c : Chip) (t tensor shard step : Nat) : Bool :=
  let r := stepOf (shardOf (ten c t) tensor shard) step
  !r.rerunDue && (decide (r.update = .ended) || decide (r.update = .aborted)) && !anyTask c (isUpdateOf t tensor shard step)

/-- Apply a recorded VERDICT to one shard whose stage has ended and whose step before is over (Table 12-1). Where the stage aborted, a VERDICT
that does not list the tensor keeps the committed values under the number of the committed step; a tensor that AUX 3 lists keeps its older
number: R17 says neither (DESIGN CHOICE, log entry 68). -/
def applyShard (c : Chip) (t tensor shard step : Nat) : Chip :=
  let x := ten c t
  let r := stepOf (shardOf x tensor shard) step
  match (stepRec x step).verdict, arrayInfoOf c t tensor shard with
  | some v, some a =>
    if r.applied || !prevOver x step || !stageStill c t tensor shard step then c
    else if rollsBack v tensor then finishStep (dropPending c t tensor shard step) t tensor shard step true id
    else if r.update = .aborted then
      finishStep c t tensor shard step true (fun h => if h.fill ≠ .filled then h else { h with stateStep := step })
    else if recomputes v a.group && !r.direct then rerunWith (dropPending c t tensor shard step) t tensor shard step v.factor
    else finishStep (turnOver a t tensor shard step c) t tensor shard step false (commitShard step)
  | _, _ => c

/-- The effect that a VERDICT has on a stage that still runs: a roll back ends it; a commit turns its lines over at once, and the rest is
written as dirty lines (R245), where pass 2 of rule 5 reads what the stage found, only at its end (R228); a stage that has not begun runs
with f from the start (R221), and one that stands still for want of pending space runs again with f, so that the stall ends (R249, log
entry 70). -/
def earlyEffect (c : Chip) (t tensor shard step : Nat) : Chip :=
  let x := ten c t
  let r := stepOf (shardOf x tensor shard) step
  let setDirect (c : Chip) (f : Word) : Chip :=
    modTen c t (fun x => modShardStep x tensor shard step (fun r => { r with direct := true, factor := f }))
  match (stepRec x step).verdict, arrayInfoOf c t tensor shard with
  | some v, some a =>
    if rollsBack v tensor then
      if r.applied || r.update = .none || stageStill c t tensor shard step then c
      else
        let c := discardPending (endTasks c (isUpdateOf t tensor shard step)) t tensor shard step
        modTen c t (fun x => modShardStep x tensor shard step (fun r => { r with update := if r.update = .running then .ended else r.update }))
    else if r.update ≠ .running || r.direct || !prevOver x step then c
    else if recomputes v a.group then
      (if !hasPending c t tensor shard step then setDirect c v.factor
       else if x.stalled then rerunWith (dropPending c t tensor shard step) t tensor shard step v.factor
       else c)
    else if a.group.rule = 5 then modTen (setDirect c r.factor) t (fun x => { x with stalled := false })
    else setDirect (turnOver a t tensor shard step c) r.factor
  | _, _ => c

/-! ## Arrivals (R348) -/

/-- The ARRIVEs that complete a commit barrier: one of each cluster and one of the device (Table 18-1). -/
def barrierTarget : BitVec 32 := 257#32

/-- The commit barrier's object of a tenant and step (Table 18-1). -/
def barrierObject (t step : Nat) : Nat := 2 * t + step % 2

/-- The clusters of a shard's update tasks (Table 19-5). -/
def updateClusters (c : Chip) (i : ShardInfo) (tensor shard : Nat) : List ClusterNo :=
  (List.range (ceilDiv i.n (tileOf c i.group.recipe))).map (fun j => placeOf (tensor + 16 * shard + j))

/-- Whether a shard's stage of a step is over, with every re-run that the VERDICT causes. -/
def stageOver (v : VerdictRec) (g : GroupRec) (r : ShardStep) : Bool :=
  r.applied ||
  (!r.rerunDue && (decide (r.update = .aborted) || decide (r.update = .ended)) &&
   !(recomputes v g && decide (r.update = .ended) && !r.direct))

/-- A task of a tenant's update in a step. -/
def isStepUpdate (t step : Nat) (k : Task) : Bool := decide (k.kind = 12) && decide (k.tenant = t) && decide (k.step = step)

/-- Whether a cluster still has an update task of a step. -/
def holdsUpdate (x : Cluster) (t step : Nat) : Bool :=
  x.queue.any (isStepUpdate t step) ||
  (match x.run with | some r => isStepUpdate t step r.task | none => false) ||
  (match x.next with | some r => isStepUpdate t step r.task | none => false)

/-- Clusters with a stage of the step that is not over. -/
def lateClusters (c : Chip) (t step : Nat) (v : VerdictRec) : List ClusterNo :=
  let x := ten c t
  (homedShards c t).flatMap (fun p =>
    match shardInfo c t p.1 p.2 with
    | some i => if stageOver v i.group (stepOf (shardOf x p.1 p.2) step) then [] else updateClusters c i p.1 p.2
    | none => [])

/-- Whether the VERDICT of a step has been applied to every shard of t here. -/
def allApplied (c : Chip) (t step : Nat) : Bool :=
  (homedShards c t).all (fun p => (stepOf (shardOf (ten c t) p.1 p.2) step).applied)

/-- The barrier of step s − 2, which uses the same object, is over. -/
def objectFree (x : TenantCtx) (step : Nat) : Bool :=
  match step with
  | s + 2 => resolvedBy x s || (tabFind x.steps s).isNone
  | _ => true

/-- Apply the ARRIVEs of a step that are due: of each cluster without a stage of it left, and of the device, which waits for T (R337, R338,
R348). A halted cluster arrives when it resumes (Table 22-6). -/
def arrive (c : Chip) (t step : Nat) : Chip :=
  let x := ten c t
  let r := stepRec x step
  match r.verdict with
  | none => c
  | some v =>
    if r.resolved || !objectFree x step then c
    else
      let late := lateClusters c t step v
      let new := (allClusters.filter (fun k => !r.arrived.contains k.val && !late.contains k &&
        (let y := clusterOf c k; !y.halted && !holdsUpdate y t step))).map (·.val)
      let device := allApplied c t step
      let n := new.length + (if device && !r.deviceArrived then 1 else 0)
      let o := syncObj c (barrierObject t step)
      let c := setSync c (barrierObject t step) { o with c := o.c + BitVec.ofNat 32 n, t := barrierTarget, device := true }
      modTen c t (fun x => modStepRec x step (fun r => { r with arrived := r.arrived ++ new, deviceArrived := r.deviceArrived || device }))

/-! ## Settling a step -/

/-- A step of a tenant brought as far as it goes: re-runs, the VERDICT on each shard, the arrivals. -/
def settleStep (t step : Nat) (c : Chip) : Chip :=
  let ps := homedShards c t
  let c := forEach c ps (fun c p => rerunShard c t p.1 p.2 step)
  let c := forEach c ps (fun c p => earlyEffect c t p.1 p.2 step)
  let c := forEach c ps (fun c p => applyShard c t p.1 p.2 step)
  arrive c t step

/-- A step and the one after it, which may wait for it. -/
def settle2 (t step : Nat) (c : Chip) : Chip := settleStep t (step + 1) (settleStep t step c)

/-! ## VERDICT (R190, R213, R248) -/

/-- The tensor ids of a VERDICT's payload. -/
def verdictTensors (bs : List Byte) : List Nat := (List.range (fieldAt bs 6 2)).map (fun j => fieldAt bs (16 + 2 * j) 2)

/-- CLEAN after a VERDICT, as a home can tell it from the codes and exponents it has seen (log entry 16). -/
def cleanAfter (cleanSteps : Nat) (old : Nat) (oldExp exp : Int) (aux : Nat) : Nat :=
  if aux = 0 || aux = 2 then (if oldExp < exp || cleanSteps ≤ old + 1 then 0 else old + 1)
  else if aux = 3 then 0
  else if exp < oldExp || exp = -24 then 0
  else old

/-- A VERDICT at a home: recorded whatever else the tenant waits for, its timer ended, and acted on (R248, R368). -/
def takeVerdict (c : Chip) (f : RxFrame) : Chip :=
  let q := rxHead f
  let t := q.tenant
  let x := ten c t
  let bs := f.frame.payload
  let e := signedOf 16 (fieldAt bs 4 2)
  let cleanSteps := match tenantRec c t with | some r => r.cleanSteps | none => 2000
  if tenantDeaf c x || x.wasReset then countTen c t 32 1
  else if 3 < q.aux then countDev c 131 1
  else if resolvedBy x q.step || (stepRec x q.step).verdict.isSome then c
  else
    let clean := cleanAfter cleanSteps x.clean x.lsExp e q.aux
    let v : VerdictRec :=
      { aux := q.aux, factor := BitVec.ofNat 32 (fieldAt bs 0 4), lsExp := e, clean := clean,
        tensors := if q.aux = 3 then verdictTensors bs else [] }
    let c := modTen c t (fun x => noteExponent
      (modStepRec { x with lsExp := e, clean := clean } q.step (fun r => { r with verdict := some v, timer := .idle })) q.step e)
    settle2 t q.step (if q.aux = 2 then countTen c t 24 1 else c)

/-- A VERDICT arrives. -/
def execVerdict (c : Pos) (f : RxFrame) (s : State) : Host.Outcome State Fault Refusal :=
  .next (chipCommand tyVerdict (fun _ k f => takeVerdict k f) c f s)

/-- The verdict timer of a step expires with no VERDICT recorded: 0x83 (R366). -/
def execVerdictTimeout (c : Pos) (t : Tenant) (step : Nat) (s : State) : Host.Outcome State Fault Refusal :=
  let k := getChip s c
  let r := stepRec (ten k t.val) step
  if coreRuns k && decide (r.timer = .running) && r.verdict.isNone then .next (setChip s c (tenantFault k t.val 0x83)) else .next s

/-! ## The end of a stage (R13, R237) -/

/-- A shard's stage has run all its tasks. -/
def stageDone (c : Chip) (t tensor shard step : Nat) (i : ShardInfo) : Bool :=
  let r := stepOf (shardOf (ten c t) tensor shard) step
  decide (r.update = .running) && (List.range (ceilDiv i.n (tileOf c i.group.recipe))).all r.tilesDone.contains

/-- A shard's update stage of a step ends: the recorded VERDICT is applied to it. -/
def execUpdateStageEnd (c : Pos) (r : ShardStepRef) (s : State) : Host.Outcome State Fault Refusal :=
  let k := getChip s c
  let t := r.tenant.val
  match shardInfo k t r.tensor r.shard with
  | none => .next s
  | some i =>
    if coreRuns k && stageDone k t r.tensor r.shard r.step i then
      let k := finishUpdate k t r.tensor r.shard r.step i
      let k := modTen k t (fun x => modShardStep x r.tensor r.shard r.step (fun p => { p with update := .ended }))
      .next (setChip s c (settle2 t r.step k))
    else .next s

/-! ## STEP_REPORT (R20, R187, R206) -/

/-- The outcome of a step (Table 9-8): under a commit, shards whose stage aborted make it 3. -/
def outcomeOf (c : Chip) (t step : Nat) (v : VerdictRec) : Nat :=
  if v.aux = 0 && (homedShards c t).any (fun p => (stepOf (shardOf (ten c t) p.1 p.2) step).rolledBack) then 3 else v.aux

/-- CLIPPED of a shard in a step: its clip factor is below 1.0, whatever becomes of its results (R219). -/
def isClipped (c : Chip) (t tensor step : Nat) (r : ShardStep) : Bool :=
  match groupOfTensor c t tensor with
  | some g => f32Lt (clipFactor (unscaleBy (stepExponent c t step) r.included.length) r.norm2 g.clip) f32One
  | none => false

/-- One entry of a report to a source (Table 9-7). -/
def reportEntry (c : Chip) (t source step : Nat) (p : Nat × Nat) : List Byte :=
  let r := stepOf (shardOf (ten c t) p.1 p.2) step
  leBytes 2 p.1 ++ leBytes 2 p.2 ++ leBytes 1 (tabGet 3 r.inclusion source) ++
  leBytes 1 (bitSum [(r.nonfinite, 1), (r.below, 2), (r.rolledBack, 4), (isClipped c t p.1 step r, 8)]) ++ leBytes 2 r.included.length ++
  bytesOf r.norm2 4 ++ bytesOf r.amax 4

/-- The shards that a report to a source covers: those homed here in groups whose EXPECTED exceeds it. -/
def reportShards (c : Chip) (t source : Nat) : List (Nat × Nat) :=
  (homedShards c t).filter (fun p => match groupOfTensor c t p.1 with | some g => decide (source < g.expected) | none => false)

/-- The 64-byte summary of a report; NONFINITE where a shard that the report covers is (log entry 40). -/
def reportSummary (c : Chip) (t step source entries : Nat) (v : VerdictRec) (saturated : Bool) : List Byte :=
  let x := ten c t
  let bad := (reportShards c t source).any (fun p => (stepOf (shardOf x p.1 p.2) step).nonfinite)
  leBytes 4 (reportFlags c saturated bad (stepRec x step).cascade (decide (v.aux = 2))) ++ leBytes 2 (fieldOfInt 16 v.lsExp) ++
  leBytes 2 (sat16 v.clean) ++ bytesOf (if v.aux = 2 then v.factor else f32One) 4 ++ leBytes 2 entries ++ List.replicate 50 0#8

/-- Send a report's frames from number i on: at most 1,020 entries each, LAST on the final one. -/
def sendReport (t step source : Nat) (v : VerdictRec) (saturated : Bool) (dst : BitVec 10 × BitVec 8) :
    Nat → Nat → List (Nat × Nat) → Chip → Chip
  | 0, _, _, c => c
  | fuel + 1, i, ps, c =>
    let now := ps.take 1020
    let rest := ps.drop 1020
    let h : Hdr :=
      { version := 1, type := tyStepReport, tenant := t, vc := 0, flags := if rest.isEmpty then flLast else 0, tensor := 0,
        shard := 0, step := step, source := source, seq := i % 65536, offset := 0, count := 0, format := 0,
        aux := outcomeOf c t step v, dest := chipNo c, tag := 0#32 }
    let body := reportSummary c t step source now.length v saturated ++ now.flatMap (reportEntry c t source step)
    let c := sendTo c dst h body
    if rest.isEmpty then c else sendReport t step source v saturated dst fuel (i + 1) rest c

/-- Send a step's report to one contributing host. -/
def reportTo (t step : Nat) (v : VerdictRec) (saturated : Bool) (c : Chip) (source : Nat) : Chip :=
  match tabFind (ten c t).origins source with
  | none => c
  | some dst =>
    let ps := reportShards c t source
    sendReport t step source v saturated dst (ps.length / 1020 + 1) 0 ps c

/-! ## The barrier (R331, R333, R348) -/

/-- Core cycles in 1 ms (section 4.3: 1.2 GHz). -/
def millisecond : Nat := 1200000

/-- Cycles of a task's wait that fall into a step's window. -/
def waitInWindow (r : StepRec) (now : Nat) (k : Task) : Nat :=
  match r.firstAccept with
  | some n => now - max n k.readyAt
  | none => 0

/-- SATURATED of a step at its barrier (R333). -/
def isSaturated (c : Chip) (now t step : Nat) : Bool :=
  let r := stepRec (ten c t) step
  r.saturated || r.fullCycles.any (fun p => decide (millisecond ≤ p.2)) ||
  c.clusters.any (fun k => k.2.queue.any (fun u => decide (u.tenant = t) && decide (millisecond ≤ waitInWindow r now u)))

/-- The barrier's object stands at its target: C = T. -/
def barrierDone (c : Chip) (t step : Nat) : Bool :=
  let r := stepRec (ten c t) step
  r.verdict.isSome && !r.resolved && prevOver (ten c t) step && decide ((syncObj c (barrierObject t step)).c = (syncObj c (barrierObject t step)).t)

/-- The step is committed or rolled back here: the object goes back to 0, the reports leave, held PULLs are answered, and the next
step's VERDICT takes effect. -/
def passBarrier (c : Chip) (now t step : Nat) : Chip :=
  let x := ten c t
  let r := stepRec x step
  match r.verdict with
  | none => c
  | some v =>
    let saturated := isSaturated c now t step
    let c := setSync c (barrierObject t step) { syncObj c (barrierObject t step) with c := 0#32, device := false }
    let later (o : Option Nat) : Option Nat := match o with | some n => some (max n step) | none => some step
    let c := modTen c t (fun x => modStepRec
      { x with resolved := later x.resolved, committed := if v.aux = 1 then x.committed else later x.committed } step
      (fun r => { r with resolved := true, timer := .idle }))
    let c := countTen c t (if v.aux = 1 then 22 else 21) 1
    let c := countTen (countTen c t 25 (if saturated then 1 else 0)) t 26 (if throttled c then 1 else 0)
    let c := forEach c r.hosts (reportTo t step v saturated)
    let c := releasePulls c t (fun f => decide ((rxHead f).step ≤ step)) (launchPull now)
    let c := modTen c t (fun x =>
      { x with steps := x.steps.filter (fun p => decide (step ≤ p.1 + 1)),
               shards := tabMap (fun _ h => { h with steps := h.steps.filter (fun p => decide (step ≤ p.1 + 1)) }) x.shards })
    settle2 t (step + 1) c

/-- The commit barrier of a step completes: every cluster and the device have arrived (R348). -/
def execCommitBarrier (c : Pos) (t : Tenant) (step : Nat) (s : State) : Host.Outcome State Fault Refusal :=
  let k := arrive (getChip s c) t.val step
  if coreRuns k && barrierDone k t.val step then .next (setChip s c (passBarrier k s.tray.now t.val step)) else .next s

end Sys2Proof.Machine
end

