-- ==== Sys2Proof/Machine/Links.lean ====
section
/-!
DEFINITION. The commands of the links (chapter 8): training and peer check, wire units and retry, credits, loss of ports, peers
and directions, Ethernet framing, and moving frames in, on and out.
-/
namespace Sys2Proof.Machine

/-! ## Service between tenants (R129, R151) -/

/-- Rounds of quanta until a head (tenant, charge) is covered. -/
def roundsFor (quantum deficit : Nat → Nat) (h : Nat × Nat) : Nat := ceilDiv (h.2 - deficit h.1) (quantum h.1)

/-- The fewest rounds until some head is covered. -/
def drrRounds (quantum deficit : Nat → Nat) : List (Nat × Nat) → Nat
  | [] => 0
  | [h] => roundsFor quantum deficit h
  | h :: rest => min (roundsFor quantum deficit h) (drrRounds quantum deficit rest)

/-- Deficit round-robin over heads (tenant, charge), tenants ascending: the tenant served and every head's new deficit. -/
def drrServe (quantum deficit : Nat → Nat) (heads : List (Nat × Nat)) : Option (Nat × Tab Nat Nat) :=
  let r := drrRounds quantum deficit heads
  match heads.find? (fun h => decide (h.2 ≤ deficit h.1 + r * quantum h.1)) with
  | none => none
  | some (t, charge) =>
    some (t, heads.map (fun h =>
      let d := deficit h.1 + r * quantum h.1
      (h.1, if h.1 = t then d - charge else d)))

/-- The quantum of R129 in bytes. -/
def byteQuantum (c : Chip) (t : Nat) : Nat := shareOf c t * 4096

/-- Write new deficits for one VC; a tenant whose queue is empty holds none. -/
def putDeficits (vc : BitVec 2) (old : Tab (BitVec 2 × Nat) Nat) (new : Tab Nat Nat) (left : Nat → Bool) :
    Tab (BitVec 2 × Nat) Nat :=
  new.foldl (fun d p => tabSet d (vc, p.1) (if left p.1 then p.2 else 0)) old

/-! ## Training -/

/-- The HELLO or HELLO_ACK of a port (Table 8-8). -/
def helloOf (c : Chip) (p : PortNo) (ctype : Nat) (nonce : BitVec 32) : BitVec 256 :=
  let x := portOf c p
  let wrap := match c.image with | some i => bitSum [(i.wrapX, 1), (i.wrapY, 2)] | none => 0
  packHello { ctype := ctype, role := 0, chip := chipNo c, port := p.val, mode := if x.mode = .ethernet then 1 else 0,
              xSize := (torusOf c).1, ySize := (torusOf c).2, wrap := wrap, epoch := BitVec.ofNat 32 x.epoch, nonce := nonce }

/-- Send this attempt's HELLO. -/
def sendHello (c : Chip) (p : PortNo) : Chip :=
  modPort c p (fun x => sendUnit x (controlUnit (helloOf c p 0x03 x.nonce)))

/-- Enter step 4 of Table 8-7: a fresh NONCE, and the first HELLO. -/
def enterHello (c : Chip) (p : PortNo) : Chip :=
  let n := Config.nonce (posOf c) c.nonces
  sendHello { modPort c p (fun x => { x with step := .hello, nonce := n }) with nonces := c.nonces + 1 } p

/-- The port is up: counted, and its fault leaves the list; its peer or direction is no longer lost (R153). -/
def portCameUp (c : Chip) (p : PortNo) : Chip :=
  let c := clearPortFaults (countDev (modPort c p (fun x => { x with step := .up })) 141 1) p
  let c := { c with lostPeers := c.lostPeers.filter (fun g => decide (g.val ≠ p.val / 8)),
                    lostDirs := c.lostDirs.filter (fun d => decide (directionGroup d ≠ p.val / 8)) }
  if c.lostDirs.isEmpty then clearFault c 0x15 else c

/-- Steps 6 and 7: with the check passed and a HELLO echoed, SEQ is reset and the initial CREDIT flits go out; with credits held
in both directions the port is up (Table 8-7, R150). -/
def advancePort (c : Chip) (p : PortNo) : Chip :=
  let x := portOf c p
  let c :=
    if decide (x.step = .hello) && x.checked && x.echoed then
      modPort c p (fun x =>
        let x := { x with step := .credits, txSeq := 0, rxSeq := 0,
                          granted := allPools.map (fun q => (q, poolSize c p q)) }
        { ([1, 2, 5, 6].foldl sendCredit x) with creditsOut := true })
    else c
  let x := portOf c p
  if decide (x.step = .credits) && x.creditsIn && x.creditsOut then portCameUp c p else c

/-- The peer chip of Table 8-9 (R154): a neighbour tray's chip at the same position, or another position of the same tray. -/
def neighbourChip (c : Chip) (p : PortNo) : Nat :=
  let me := coordsOf (chipNo c)
  let pos := chipNo c % 4
  let n := torusOf c
  match p.val / 8 with
  | 4 => (me.2 * 16 + (me.1 + 1) % n.1) * 4 + pos
  | 5 => (me.2 * 16 + (me.1 + n.1 - 1) % n.1) * 4 + pos
  | 6 => ((me.2 + 1) % n.2 * 16 + me.1) * 4 + pos
  | 7 => ((me.2 + n.2 - 1) % n.2 * 16 + me.1) * 4 + pos
  | j => chipNo c / 4 * 4 + (pos + j + 1) % 4

/-- The port of the peer that Table 8-9 expects (R154); none where any will do. -/
def neighbourPort (p : PortNo) : Option Nat :=
  let k := p.val % 8
  match p.val / 8 with
  | 3 => none
  | 4 => some (40 + k)
  | 5 => some (32 + k)
  | 6 => some (56 + k)
  | 7 => some (48 + k)
  | j => some (8 * (2 - j) + k)

/-- The peer check of Table 8-9: a host's HELLO has ROLE 1 and CHIP 0x03FF, and every HELLO the MODE, size and WRAP of the port's own
(R153, R154). -/
def peerOk (c : Chip) (p : PortNo) (h : HelloContent) : Bool :=
  let own := parseHello (helloOf c p 0x03 0#32)
  (if isHostPort p then decide (h.role = 1) && decide (h.chip = 0x3FF)
   else decide (h.role = 0) && decide (h.chip = neighbourChip c p)) &&
  (match neighbourPort p with | some n => decide (h.port = n) | none => true) &&
  decide (h.mode = own.mode) && decide (h.xSize = own.xSize) && decide (h.ySize = own.ySize) && decide (h.wrap = own.wrap)

/-- The peer check fails: 0x11, no data flit, and step 4 again after 1 s (R153). -/
def failPeer (c : Chip) (p : PortNo) : Chip :=
  linkFault (modPort (returnFrames c p) p (fun x => clearLink x .failed4)) p 0x11

/-- Whether a port's receiver is locked and its control flits are heard. -/
def hears (x : Port) : Bool :=
  decide (x.step = .hello) || decide (x.step = .credits) || decide (x.step = .up) || decide (x.step = .failed4)

/-- A HELLO arrives: answered, and the peer checked (R153, R154). -/
def rxHello (c : Chip) (p : PortNo) (content : BitVec 256) : Chip :=
  let h := parseHello content
  let x := portOf c p
  if !hears x then c
  else
    let c := modPort c p (fun x => sendUnit { x with peerEpoch := h.epoch } (controlUnit (helloOf c p 0x04 h.nonce)))
    if x.step = .failed4 then c
    else if peerOk c p h then advancePort (modPort c p (fun x => { x with checked := true })) p
    else failPeer c p

/-- A HELLO_ACK arrives: the first echo of this attempt's HELLO sets RTT (Table 8-7). -/
def rxHelloAck (c : Chip) (p : PortNo) (content : BitVec 256) (rttUs : Nat) : Chip :=
  let h := parseHello content
  let x := portOf c p
  if decide (x.step = .hello) && !x.echoed && decide (h.nonce = x.nonce) then
    advancePort (modPort c p (fun x => { x with echoed := true, rttUs := sat16 rttUs })) p
  else c

/-- A good unit has come: the run of CRC failures is over (R140). -/
def goodUnit (c : Chip) (p : PortNo) : Chip := modPort c p (fun x => { x with crcFails := 0 })

/-- The lanes of a training port lock. -/
def execLanesLocked (c : Pos) (p : PortNo) (s : State) : Host.Outcome State Fault Refusal :=
  if (portOf (getChip s c) p).step = .lanes then .next (modChip s c (fun k => modPort k p (fun x => { x with step := .pcs })))
  else .next s

/-- PCS and FEC lock. -/
def execPcsLocked (c : Pos) (p : PortNo) (s : State) : Host.Outcome State Fault Refusal :=
  if (portOf (getChip s c) p).step = .pcs then .next (modChip s c (fun k => modPort k p (fun x => { x with step := .delineate })))
  else .next s

/-- Unit boundaries are locked, or the MAC is up: the port starts sending HELLO (Table 8-7 steps 3 and 4). -/
def execUnitsDelineated (c : Pos) (p : PortNo) (s : State) : Host.Outcome State Fault Refusal :=
  if (portOf (getChip s c) p).step = .delineate then .next (modChip s c (fun k => enterHello k p)) else .next s

/-- 10 µs have passed in step 4 with no echo: another HELLO (Table 8-7). -/
def execHelloTimer (c : Pos) (p : PortNo) (s : State) : Host.Outcome State Fault Refusal :=
  let x := portOf (getChip s c) p
  if decide (x.step = .hello) && !x.echoed then .next (modChip s c (fun k => sendHello k p)) else .next s

/-- A HELLO is received. -/
def execHello (c : Pos) (p : PortNo) (content : BitVec 256) (s : State) : Host.Outcome State Fault Refusal :=
  .next (modChip s c (fun k => rxHello (goodUnit k p) p content))

/-- A HELLO_ACK is received. -/
def execHelloAck (c : Pos) (p : PortNo) (content : BitVec 256) (rttUs : Nat) (s : State) :
    Host.Outcome State Fault Refusal :=
  .next (modChip s c (fun k => rxHelloAck (goodUnit k p) p content rttUs))

/-- Whether a port is in one of the steps that Table 8-7 bounds. -/
def inTraining (x : Port) : Bool :=
  decide (x.step = .lanes) || decide (x.step = .pcs) || decide (x.step = .delineate) || decide (x.step = .hello) ||
  decide (x.step = .credits)

/-- A bound of Table 8-7 is missed: 0x10, and step 1 again after 1 s (R153). -/
def execTrainingTimeout (c : Pos) (p : PortNo) (s : State) : Host.Outcome State Fault Refusal :=
  if inTraining (portOf (getChip s c) p) then
    .next (modChip s c (fun k => linkFault (modPort (returnFrames k p) p (fun x => clearLink x .failed1)) p 0x10))
  else .next s

/-- 1 s has passed since a failed attempt: step 1 again, or step 4 after a failed peer check (R153). -/
def execRetrainTimer (c : Pos) (p : PortNo) (s : State) : Host.Outcome State Fault Refusal :=
  if portEnabled s c p then
    match (portOf (getChip s c) p).step with
    | .failed1 => .next (modChip s c (fun k => modPort k p (fun x => beginTraining x .lanes)))
    | .failed4 => .next (modChip s c (fun k => enterHello (modPort k p (fun x => beginTraining x .hello)) p))
    | _ => .next s
  else .next s

/-! ## Wire units and retry -/

/-- Whether data flits pass on a port. -/
def carriesData (x : Port) : Bool := decide (x.step = .credits) || decide (x.step = .up)

/-- The first discard after an accepted flit sends one NAK (R146). -/
def nakOnce (c : Chip) (p : PortNo) : Chip :=
  let x := portOf c p
  if x.nakSent then c
  else
    countDev (modPort c p (fun x => sendUnit { x with nakSent := true } (controlUnit (nakContent x.rxSeq)))) 135 1

/-- The header and the rest of a frame's contents: a prefix first on a chip link. -/
def splitContents (chipLink : Bool) (cs : List (BitVec 256)) : Option Prefix × BitVec 256 × List (BitVec 256) :=
  match chipLink, cs with
  | true, r :: h :: rest => (some (parsePrefix r), h, rest)
  | true, [r] => (some (parsePrefix r), 0#256, [])
  | true, [] => (none, 0#256, [])
  | false, h :: rest => (none, h, rest)
  | false, [] => (none, 0#256, [])

/-- Payload and trailer of a frame's body: by the expected length when the flits agree, else the trailer is the last 4 bytes. -/
def splitBody (flits : Nat) (hdr : BitVec 256) (body : List Byte) : List Byte × BitVec 32 :=
  let n :=
    match payloadLen (parseHdr hdr) body with
    | some l => if flitsOf l = flits then l else body.length - 4
    | none => body.length - 4
  (body.take n, packBytes 32 ((body.drop n).take 4))

/-- The frame that an assembly's units spell. -/
def assembled (p : PortNo) (units : List (BitVec 320)) : RxFrame :=
  let us := units.map parseUnit
  let first := us.headD { kind := 1, vc := 0, sof := true, eof := true, dl := false, tenant := 0, seq := 0, content := 0#256 }
  let parts := splitContents (isChipLink p) (us.map (·.content))
  let flits := units.length - (if isChipLink p then 1 else 0)
  let body := splitBody flits parts.2.1 (parts.2.2.flatMap (fun x => bytesOf x 32))
  { frame := { hdr := parts.2.1, payload := body.1, trailer := body.2 }, port := p, vc := BitVec.ofNat 2 first.vc,
    tagTenant := BitVec.ofNat 3 first.tenant, flits := flits,
    route := parts.1.map (fun r => { r with dl := first.dl }) }

/-- A frame whose tenant does not exist: dropped and counted, and a host request is answered BADTENSOR (R126). -/
def dropNoTenant (c : Chip) (f : RxFrame) : Chip :=
  let c := countDev c 129 1
  if isHostRequest (rxHead f).type then sendDone c f (doneInfo stBadTensor 0) else c

/-- A whole frame has arrived: dropped for overrun, prefix VERSION or 40 hops, or put in its ingress queue. -/
def finishFrame (c : Chip) (p : PortNo) (a : Assembly) : Chip :=
  let f := assembled p a.units
  let drop (c : Chip) : Chip := modPort c p (fun x => freeFlits x a.pool a.units.length)
  if a.overrun then
    let c := drop (countDev c 139 1)
    if tenantExists c (rxHead f).tenant then c else dropNoTenant c f
  else
    match f.route with
    | some r =>
      if r.version ≠ 0x01#8 then drop (countDev c 130 1)
      else if 40 ≤ r.hops.toNat then drop (countDev c 132 1)
      else modPort c p (fun x =>
        let key := (f.vc, if f.vc = 0#2 then 0 else f.tagTenant.toNat)
        { x with ingress := tabSet x.ingress key (tabGet [] x.ingress key ++ [f]) })
    | none =>
      modPort c p (fun x =>
        let key := (f.vc, if f.vc = 0#2 then 0 else f.tagTenant.toNat)
        { x with ingress := tabSet x.ingress key (tabGet [] x.ingress key ++ [f]) })

/-- Drop the partial frame of a VC and free its flits. -/
def dropPartial (x : Port) (vc : BitVec 2) : Port :=
  match tabFind x.assembly vc with
  | some a => { freeFlits x a.pool a.units.length with assembly := tabErase x.assembly vc }
  | none => x

/-- A whole frame has come on VC3, where Table 8-5 puts nothing: it is dropped, and a host request among such frames is answered as
check 3 of Table 9-4 has it, DONE BADTYPE unless an earlier check stops it (R148, R168). -/
def refuseVc3 (c : Chip) (p : PortNo) (units : List (BitVec 320)) : Chip :=
  let f := assembled p units
  match f.route with
  | none => (match arrivalGate c f with | .stop c => c | .pass c => c)
  | some _ => if isHostRequest (rxHead f).type then sendDone c f (doneInfo stBadType (rxHead f).type) else c

/-- A data flit accepted on VC3: it takes no pool, is counted, and is kept until its frame is whole (Table 8-6 gives VC3 no credit). -/
def vc3Flit (c : Chip) (p : PortNo) (u : Unit40) (raw : BitVec 320) : Chip :=
  let c := countDev c 138 1
  let old : Option Assembly :=
    if u.sof then some { pool := .vc0 false, overrun := false, units := [] } else tabFind (portOf c p).assembly 3#2
  match old with
  | none => c
  | some a =>
    let units := a.units ++ [raw]
    if u.eof then refuseVc3 (modPort c p (fun x => { x with assembly := tabErase x.assembly 3#2 })) p units
    else modPort c p (fun x => { x with assembly := tabSet x.assembly 3#2 { a with units := units } })

/-- A data flit accepted in sequence joins its frame (R143, R149, R150). -/
def joinFlit (c : Chip) (p : PortNo) (u : Unit40) (raw : BitVec 320) : Chip :=
  let vc := BitVec.ofNat 2 u.vc
  let pool := flitPool u.vc u.dl u.tenant
  let c := modPort c p (fun x =>
    let x := if u.sof then dropPartial x vc else x
    { x with heldFlits := tabSet x.heldFlits pool (tabGet 0 x.heldFlits pool + 1) })
  let x := portOf c p
  let beyond : Bool := decide (poolSize c p pool < tabGet 0 x.heldFlits pool)
  let old : Option Assembly := if u.sof then some { pool := pool, overrun := false, units := [] } else tabFind x.assembly vc
  match old with
  | none => modPort c p (fun x => freeFlits x pool 1)
  | some a =>
    let a := { a with overrun := a.overrun || beyond, units := a.units ++ [raw] }
    if u.eof then finishFrame (modPort c p (fun x => { x with assembly := tabErase x.assembly vc })) p a
    else modPort c p (fun x => { x with assembly := tabSet x.assembly vc a })

/-- A data flit whose CRC passed: accepted with the expected SEQ, else discarded (R146). -/
def rxData (c : Chip) (p : PortNo) (raw : BitVec 320) : Chip :=
  let u := parseUnit raw
  let x := portOf c p
  if !carriesData x then c
  else if u.seq ≠ x.rxSeq then nakOnce c p
  else
    let c := modPort c p (fun x => { x with rxSeq := (x.rxSeq + 1) % 65536, nakSent := false })
    if u.vc = 3 then vc3Flit c p u raw else joinFlit c p u raw

/-- The frames still unacknowledged when k data flits are (R145, R162). -/
def trimUnacked (chipLink : Bool) : Nat → List TxFrame → List TxFrame
  | _, [] => []
  | k, f :: newerFirst =>
    if k = 0 then []
    else f :: trimUnacked chipLink (k - (frameContents chipLink f).length) newerFirst

/-- ACK_SEQ acknowledges flits in order; an advance ends a run of resends (R145, R147). -/
def acknowledge (p : PortNo) (x : Port) (ack : Nat) : Port :=
  let oldest := (x.txSeq + 65536 - x.replay.length % 65536) % 65536
  let n := (ack + 1 + 65536 - oldest) % 65536
  if n = 0 || decide (x.replay.length < n) then x
  else
    let left := x.replay.drop n
    { x with replay := left, resends := 0,
             unacked := (trimUnacked (isChipLink p) left.length x.unacked.reverse).reverse }

/-- A CREDIT flit: ACK_SEQ and the cumulative counts of VC0 and of its CLASS (Table 8-4). -/
def rxCredit (c : Chip) (p : PortNo) (content : BitVec 256) : Chip :=
  let cls := (byteOf content 1).toNat
  let x := portOf c p
  if !creditClassOk cls then countDev c 137 1
  else if !(carriesData x || decide (x.step = .hello)) then c
  else
    let f (i : Nat) : Nat := (u16Of content i).toNat
    let adv := tabSet (tabSet x.advertised (.vc0 false) (f 4)) (.vc0 true) (f 6)
    let adv := ((List.range 8).zip (classPools cls)).foldl (fun a q => tabSet a q.2 (f (8 + 2 * q.1))) adv
    advancePort (modPort c p (fun x => { acknowledge p x (f 2) with advertised := adv, creditsIn := true })) p

/-- Resend the unacknowledged flits from the i-th on; after 16 resends without progress the port goes down with 0x12 (R147). -/
def resendFrom (s : State) (pos : Pos) (p : PortNo) (i : Nat) : State :=
  let c := getChip s pos
  let x := portOf c p
  if 16 ≤ x.resends then losePort (modChip s pos (fun c => linkFault c p 0x12)) pos p
  else
    let us := x.replay.drop i
    setChip s pos (countDev (modPort c p (fun x => { sendUnits x us with resends := x.resends + 1 })) 136 us.length)

/-- A NAK: resend from EXPECTED_SEQ in order (R147). -/
def rxNak (s : State) (pos : Pos) (p : PortNo) (content : BitVec 256) : State :=
  let x := portOf (getChip s pos) p
  let expected := (u16Of content 2).toNat
  let oldest := (x.txSeq + 65536 - x.replay.length % 65536) % 65536
  let i := (expected + 65536 - oldest) % 65536
  if carriesData x && decide (i < x.replay.length) then resendFrom s pos p i else s

/-- A unit that fails its CRC: counted, discarded with one NAK; eight in a row lose the unit lock (R140, R146). -/
def rxBadUnit (s : State) (pos : Pos) (p : PortNo) : State :=
  let x := portOf (getChip s pos) p
  if !hears x then s
  else
    let s := modChip s pos (fun c => countDev (modPort c p (fun x => { x with crcFails := x.crcFails + 1 })) 134 1)
    if decide (8 ≤ x.crcFails + 1) && decide (x.mode ≠ .ethernet) then losePort s pos p
    else if carriesData x then modChip s pos (fun c => nakOnce c p)
    else s

/-- Whether a control flit is one that Tables 8-3 and 8-4 do not list. -/
def unknownControl (content : BitVec 256) : Bool :=
  let t := (byteOf content 0).toNat
  !(decide (1 ≤ t) && decide (t ≤ 4)) || (decide (t = 1) && !creditClassOk (byteOf content 1).toNat)

/-- A received wire unit of any kind, with the round-trip time should it be the first echo. -/
def rxUnit (s : State) (pos : Pos) (p : PortNo) (raw : BitVec 320) (rttUs : Nat) : State :=
  if !unitOk raw then rxBadUnit s pos p
  else
    let u := parseUnit raw
    let s := modChip s pos (fun c => goodUnit c p)
    match u.kind with
    | 0 => s
    | 1 => modChip s pos (fun c => rxData c p raw)
    | _ =>
      match (byteOf u.content 0).toNat with
      | 1 => modChip s pos (fun c => rxCredit c p u.content)
      | 2 => rxNak s pos p u.content
      | 3 => modChip s pos (fun c => rxHello c p u.content)
      | 4 => modChip s pos (fun c => rxHelloAck c p u.content rttUs)
      | _ => modChip s pos (fun c => if hears (portOf c p) then countDev c 137 1 else c)

/-- A data flit is received. -/
def execDataFlit (c : Pos) (p : PortNo) (unit : BitVec 320) (s : State) : Host.Outcome State Fault Refusal :=
  if decide ((parseUnit unit).kind = 1) || !unitOk unit then .next (rxUnit s c p unit 0) else .next s

/-- A CREDIT flit is received. -/
def execCredit (c : Pos) (p : PortNo) (content : BitVec 256) (s : State) : Host.Outcome State Fault Refusal :=
  .next (modChip s c (fun k => if hears (portOf k p) then rxCredit (goodUnit k p) p content else k))

/-- A NAK is received. -/
def execNak (c : Pos) (p : PortNo) (content : BitVec 256) (s : State) : Host.Outcome State Fault Refusal :=
  .next (rxNak (modChip s c (fun k => goodUnit k p)) c p content)

/-- A control flit of an unlisted CTYPE or CLASS is discarded and counted (R144). -/
def execUnknownControlFlit (c : Pos) (p : PortNo) (content : BitVec 256) (s : State) :
    Host.Outcome State Fault Refusal :=
  if hears (portOf (getChip s c) p) && unknownControl content then .next (modChip s c (fun k => countDev (goodUnit k p) 137 1))
  else .next s

/-- A wire unit fails its CRC. -/
def execWireUnitCrcFail (c : Pos) (p : PortNo) (s : State) : Host.Outcome State Fault Refusal := .next (rxBadUnit s c p)

/-- The replay timer expires with flits unacknowledged: resent from the oldest (R147). -/
def execReplayTimeout (c : Pos) (p : PortNo) (s : State) : Host.Outcome State Fault Refusal :=
  let x := portOf (getChip s c) p
  if carriesData x && !x.replay.isEmpty then .next (resendFrom s c p 0) else .next s

/-- The port sends a CREDIT flit of a class (R146). -/
def execCreditSend (c : Pos) (p : PortNo) (cls : BitVec 8) (s : State) : Host.Outcome State Fault Refusal :=
  if carriesData (portOf (getChip s c) p) && creditClassOk cls.toNat then
    .next (modChip s c (fun k => modPort k p (fun x => sendCredit x cls.toNat)))
  else .next s

/-! ## Loss of ports, peers and directions -/

/-- Flits a frame takes on a port's link. -/
def linkFlits (p : PortNo) (f : TxFrame) : Nat := (frameContents (isChipLink p) f).length

/-- The pool that a frame's flits go into at the far end of a port. -/
def txPool (c : Chip) (p : PortNo) (f : TxFrame) : Pool :=
  flitPool f.vc.toNat (if isChipLink p then (linkRoute c p f.route).dl else false) (tagOf f)

/-- Whether credit covers every flit of a frame (R150) and the replay buffer has room for them (R145). -/
def mayBegin (c : Chip) (p : PortNo) (f : TxFrame) : Bool :=
  let x := portOf c p
  decide (linkFlits p f ≤ creditOf x (txPool c p f)) && decide (x.replay.length + linkFlits p f ≤ 16384)

/-- A VC0 frame has waited 100 ms for credits: the port goes down with 0x13 and trains again at once (R152). -/
def execVc0CreditTimeout (c : Pos) (p : PortNo) (s : State) : Host.Outcome State Fault Refusal :=
  let k := getChip s c
  let x := portOf k p
  match tabGet [] x.egress ((0#2 : BitVec 2), 0) with
  | f :: _ =>
    if decide (x.step = .up) && decide (creditOf x (txPool k p f) < linkFlits p f) then
      .next (losePort (modChip s c (fun k => linkFault k p 0x13)) c p)
    else .next s
  | [] => .next s

/-- A port goes down: its frames go over another port of the group, or are discarded on a host port (R162); it trains again. -/
def execPortDown (c : Pos) (p : PortNo) (s : State) : Host.Outcome State Fault Refusal :=
  if (portOf (getChip s c) p).step = .down then .next s else .next (losePort s c p)

/-- All 8 ports to a mesh peer have been down for 1 s: 0x14 at chip level, which fails a Spring that has not loaded its tenants (R163,
R55). -/
def execMeshPeerLost (c : Pos) (group : Fin 3) (s : State) : Host.Outcome State Fault Refusal :=
  let k := getChip s c
  if linksOn k && (upPorts k group.val).isEmpty && !k.lostPeers.contains group then
    let s := modChip s c (fun k => { k with lostPeers := k.lostPeers ++ [group] })
    .next (if springRuns k then failAt s c 0x14 else modChip s c (fun k => chipFault k 0x14))
  else .next s

/-- All 8 ports of a torus direction have been down for 1 s: 0x15; frames detour or are dropped by the route (R163). A direction that
R105 or R155 keeps down has no such loss. -/
def execTorusDirectionLost (c : Pos) (d : Direction) (s : State) : Host.Outcome State Fault Refusal :=
  let k := getChip s c
  if linksOn k && (groupPorts (directionGroup d)).any (axisEnabled k) && (upPorts k (directionGroup d)).isEmpty && !k.lostDirs.contains d then
    .next (modChip s c (fun k => opFault { k with lostDirs := k.lostDirs ++ [d] } 0x15 none))
  else .next s

/-! ## Ethernet framing (R156, R157) -/

/-- The port's own MAC address (Table 8-10). -/
def macOf (c : Chip) (p : PortNo) : BitVec 48 :=
  BitVec.ofNat 48 (0x020BAE * 2 ^ 24 + chipNo c * 2 ^ 8 + p.val)

/-- The image's EtherType, none before an image is accepted. -/
def etherOf (c : Chip) : Option (BitVec 16) := c.image.map (·.etherType)

/-- Whether a unit is a HELLO or a HELLO_ACK. -/
def isHelloUnit (raw : BitVec 320) : Bool :=
  let u := parseUnit raw
  decide (u.kind = 2) && (decide (byteOf u.content 0 = 0x03#8) || decide (byteOf u.content 0 = 0x04#8))

/-- Whether a received MAC frame is passed on (R157, R141). -/
def macAccepted (c : Chip) (p : PortNo) (m : MacFrame) : Bool :=
  m.fcsOk && !m.control && (decide (m.dest = macOf c p) || decide (m.dest = BitVec.allOnes 48)) &&
  decide (etherOf c = some m.etherType) && decide (m.encap.toNat / 16 = 1) && decide (m.units.length ≤ 37) &&
  decide (m.unitsField.toNat = m.units.length) && decide (m.clientBytes = max 46 (8 + 40 * m.units.length)) &&
  (decide (m.epoch = (portOf c p).peerEpoch) || (!m.units.isEmpty && m.units.all isHelloUnit))

/-- The peer's address is learned from the source of its first HELLO (Table 8-10). -/
def learnMac (x : Port) (m : MacFrame) : Port :=
  if decide (x.peerMac = BitVec.allOnes 48) &&
      m.units.any (fun u => isHelloUnit u && decide (byteOf (parseUnit u).content 0 = 0x03#8)) then
    { x with peerMac := m.source }
  else x

/-- An Ethernet-mode port receives a MAC frame. -/
def execMacFrameReceive (c : Pos) (p : PortNo) (m : MacFrame) (s : State) : Host.Outcome State Fault Refusal :=
  let k := getChip s c
  let x := portOf k p
  if decide (x.mode = .ethernet) && (hears x) then
    if macAccepted k p m then
      .next (m.units.foldl (fun s u => rxUnit s c p u m.rttUs) (modChip s c (fun k => modPort k p (fun x => learnMac x m))))
    else .next (modChip s c (fun k => countDev k 140 1))
  else .next s

/-- Send up to 37 queued units in one MAC frame (R156). -/
def execEthernetFrameSend (c : Pos) (p : PortNo) (s : State) : Host.Outcome State Fault Refusal :=
  let k := getChip s c
  let x := portOf k p
  match etherOf k, x.ethQueue with
  | some ety, _ :: _ =>
    let us := x.ethQueue.take 37
    let m : MacFrame :=
      { fcsOk := true, control := false, dest := x.peerMac, source := macOf k p, etherType := ety, encap := 0x10#8,
        unitsField := BitVec.ofNat 8 us.length, epoch := BitVec.ofNat 32 x.epoch, units := us,
        clientBytes := 8 + 40 * us.length, rttUs := 0 }
    .next (modChip s c (fun k => modPort k p (fun x => { x with ethQueue := x.ethQueue.drop 37, macWire := x.macWire ++ [m] })))
  | _, _ => .next s

/-! ## Frames out, on and in -/

/-- Put the flits of a frame on a port's link: numbered, kept for replay, charged to their pool (R145, R150). -/
def transmit (c : Chip) (p : PortNo) (f : TxFrame) : Chip :=
  let pool := txPool c p f
  let g : TxFrame := { f with route := if isChipLink p then linkRoute c p f.route else { f.route with dl := false } }
  let cs := frameContents (isChipLink p) g
  modPort c p (fun x =>
    let us := frameUnits x.txSeq g cs
    sendUnits { x with txSeq := (x.txSeq + us.length) % 65536, replay := x.replay ++ us, unacked := x.unacked ++ [f],
                       sent := tabSet x.sent pool ((tabGet 0 x.sent pool + us.length) % 65536) } us)

/-- Take the head of an egress queue. -/
def popEgress (c : Chip) (p : PortNo) (key : BitVec 2 × Nat) : Chip :=
  modPort c p (fun x => { x with egress := tabSet x.egress key ((tabGet [] x.egress key).drop 1) })

/-- The tenants whose head frame of a VC may begin, with its charge. -/
def egressHeads (c : Chip) (p : PortNo) (vc : BitVec 2) : List (Nat × Nat) :=
  (List.range 8).filterMap (fun t =>
    match tabGet [] (portOf c p).egress (vc, t) with
    | f :: _ => if mayBegin c p f then some (t, chargeBytes f.frame) else none
    | [] => none)

/-- Send one frame of VC1 or VC2 by deficit round-robin between tenants (R151). -/
def sendVc (c : Chip) (p : PortNo) (vc : BitVec 2) : Option Chip :=
  let x := portOf c p
  match drrServe (byteQuantum c) (fun t => tabGet 0 x.outDeficit (vc, t)) (egressHeads c p vc) with
  | none => none
  | some (t, new) =>
    match tabGet [] x.egress (vc, t) with
    | [] => none
    | f :: _ =>
      let c := transmit (popEgress c p (vc, t)) p f
      some (modPort c p (fun x =>
        { x with outDeficit := putDeficits vc x.outDeficit new (fun t => !(tabGet [] x.egress (vc, t)).isEmpty),
                 vc2Next := vc = 1#2 }))

/-- A queued frame begins and is sent whole: VC0 first, then VC1 and VC2 in turn (R150, R151). -/
def execFrameSend (c : Pos) (p : PortNo) (s : State) : Host.Outcome State Fault Refusal :=
  let k := getChip s c
  let x := portOf k p
  if x.step ≠ .up then .next s
  else
    let first : BitVec 2 := if x.vc2Next then 2#2 else 1#2
    let second : BitVec 2 := if x.vc2Next then 1#2 else 2#2
    let low : State :=
      match sendVc k p first with
      | some k => setChip s c k
      | none => (match sendVc k p second with | some k => setChip s c k | none => s)
    match tabGet [] x.egress ((0#2 : BitVec 2), 0) with
    | f :: _ => if mayBegin k p f then .next (setChip s c (transmit (popEgress k p ((0#2 : BitVec 2), 0)) p f)) else .next low
    | [] => .next low

/-- The oldest frame waiting to be routed goes along its next link (R158). -/
def execFrameForward (c : Pos) (s : State) : Host.Outcome State Fault Refusal :=
  let k := getChip s c
  match k.outbox with
  | f :: rest => if framesMove k (linksOn k) then .next (setChip s c (routeFrame { k with outbox := rest } f)) else .next s
  | [] => .next s

/-- The depth of the ingress bucket (Table 17-2). -/
def ingressDepth : Nat := 5242880

/-- The ingress cost of a VC1 or VC2 frame that this chip consumes; transit is not charged (Table 17-2). -/
def ingressCost (c : Chip) (f : RxFrame) : Nat :=
  if f.vc ≠ 0#2 && decide (rxTarget f = chipNo c) then 160 * (32 + f.frame.payload.length) else 0

/-- The tenants whose head frame of a VC may leave its ingress queue, with its charge (R129, R327). -/
def ingressHeads (c : Chip) (p : PortNo) (vc : BitVec 2) : List (Nat × Nat) :=
  (List.range 8).filterMap (fun t =>
    match ingressQueue (portOf c p) vc t with
    | f :: _ =>
      if ingressCost c f ≤ tabGet ingressDepth c.ingressTokens t || !tenantExists c t then
        some (t, if tenantExists c t then chargeBytes f.frame else 0)
      else none
    | [] => none)

/-- A received frame that is for the chip itself and not for one of its host ports. -/
def staysHere (c : Chip) (f : RxFrame) : Bool :=
  match f.route with
  | none => true
  | some r => decide (r.targetChip.toNat = chipNo c) && decide (r.targetPort = 0x3F#8)

/-- A frame leaves its ingress queue: its cost is charged, and it goes to processing here, where its flits are freed as its command takes it,
or on, its flits freed at once (R150, R304). -/
def dispatchFrame (c : Chip) (p : PortNo) (key : BitVec 2 × Nat) (f : RxFrame) : Chip :=
  let c := modPort c p (fun x =>
    let old := tabGet 0 x.stale key
    let y := { x with ingress := tabSet x.ingress key ((tabGet [] x.ingress key).drop 1), stale := tabSet x.stale key (old - 1) }
    if 0 < old then y
    else if staysHere c f then { y with dispatched := y.dispatched ++ [f] }
    else freeFlits y (rxPool f) (rxFlits f))
  let c :=
    if f.vc = 0#2 then c
    else { c with ingressTokens := tabSet c.ingressTokens key.2 (tabGet ingressDepth c.ingressTokens key.2 - ingressCost c f) }
  match f.route with
  | none => { c with inbox := c.inbox ++ [f] }
  | some r =>
    if staysHere c f then { c with inbox := c.inbox ++ [f] } else emit c { frame := f.frame, vc := f.vc, route := arriveRoute c p r }

/-- A port moves one frame of a VC out of its ingress queues (R129, Table 17-2). -/
def execIngressDispatch (c : Pos) (p : PortNo) (vc : BitVec 2) (s : State) : Host.Outcome State Fault Refusal :=
  let k := getChip s c
  if !framesMove k (linksOn k) then .next s
  else if vc = 0#2 then
    match ingressQueue (portOf k p) 0#2 0 with
    | f :: _ => .next (setChip s c (dispatchFrame k p (0#2, 0) f))
    | [] => .next s
  else
    let x := portOf k p
    match drrServe (byteQuantum k) (fun t => tabGet 0 x.inDeficit (vc, t)) (ingressHeads k p vc) with
    | none => .next s
    | some (t, new) =>
      (match ingressQueue x vc t with
       | f :: _ =>
         let k := dispatchFrame k p (vc, t) f
         .next (setChip s c (modPort k p (fun x =>
           { x with inDeficit := putDeficits vc x.inDeficit new (fun t => !(ingressQueue x vc t).isEmpty) })))
       | [] => .next s)


/-! ## Cages (R38) -/

/-- The four ports of a cage as its module has been read: with a module of more than 5 W they go down, and else those that are down
and may train begin to (R38, Table 8-7 step 1). -/
def settleCage (s : State) (cage : Fin 40) : State :=
  [0, 1, 2, 3].foldl (fun s pos =>
    ((List.finRange 64).filter (fun p => decide (cageOfPort pos p = some cage))).foldl (fun s p =>
      if portEnabled s pos p then modChip s pos (fun c => openPort c p)
      else if (portOf (getChip s pos) p).step = .down then s
      else losePort s pos p) s) s

/-- A module is inserted: its power class is read at once when the cages have power, else at the next Spring (R38). -/
def execCageModuleInsert (cage : Fin 40) (milliwatts : Nat) (s : State) : Host.Outcome State Fault Refusal :=
  let g : Cage := { present := true, milliwatts := milliwatts, highPower := false }
  let put (s : State) (g : Cage) : State := modTray s (fun y => { y with cages := tabSet y.cages cage g })
  if railOf s.tray .vcage = .up then .next (settleCage (put s (readCage s cage g)) cage) else .next (put s g)

end Sys2Proof.Machine
end

