-- ==== Sys2Proof/Machine/Stash.lean ====
section
/-!
DEFINITION. The activation stash: STASH_PUT and STASH_GET (section 9.6, chapter 14).
-/
namespace Sys2Proof.Machine

/-! ## Sites and ranges (R181, R268) -/

/-- The blocks of a stash range as (token, block), in token-major order (section 9.6). -/
def stashBlocks (s : SiteRec) (q : Hdr) : List (Nat × Nat) :=
  (upFrom (stashStart s q) (q.count / 32)).map (fun b => (b / (s.channels / 32), b % (s.channels / 32)))

/-- The conditions of R181. -/
def stashRangeOk (s : SiteRec) (q : Hdr) : Bool :=
  decide (q.shard ≤ 63) && decide (q.seq < s.channels / 32) && decide (0 < q.count) && decide (q.count % 32 = 0) &&
  decide ((stashStart s q + q.count / 32 - 1) / (s.channels / 32) ≤ 16777215)

/-- A slot of a site. -/
def slotOf (x : TenantCtx) (site slot : Nat) : Slot := tabGet .reset x.slots (site, slot)

/-- Whether a block of a slot is written (R269). -/
def blockWritten (s : Slot) (b : Nat × Nat) : Bool := (tabFind s.blocks b).isSome

/-- How many blocks of a token are written. -/
def blocksOfToken (s : Slot) (token : Nat) : List (Nat × List Byte) :=
  (s.blocks.filter (fun b => decide (b.1.1 = token))).map (fun b => (b.1.2, b.2))

/-! ## Space (R278) -/

/-- Units of a SIGN1 or MXFP8 chunk. -/
def denseUnits (s : SiteRec) : Nat :=
  let perToken := if s.codec = 0x31 then s.channels / 8 else 33 * s.channels / 32
  ceilDiv (256 * perToken + s.channels) 4096

/-- The chunk table that covers a token, charged on the first write within its range. -/
def chargeTable (s : Slot) (token : Nat) : Slot :=
  let j := token / 262144
  if s.tables.contains j then s else { s with tables := s.tables ++ [j] }

/-- The chunk of a token, 256 tokens each. -/
def chunkOf (s : Slot) (token : Nat) : Chunk := tabGet .reset s.chunks (token / 256)

/-- Units of a ZRL chunk: its index unit and its extents of 64 KiB. -/
def zrlUnits (dataBytes : Nat) : Nat := 1 + 16 * ceilDiv dataBytes 65536

/-- Store one block of a SIGN1 or MXFP8 site. -/
def storeDense (s : SiteRec) (l : Slot) (b : Nat × Nat) (bytes : List Byte) : Slot :=
  let l := chargeTable l b.1
  { l with blocks := tabSet l.blocks b bytes,
           chunks := tabSet l.chunks (b.1 / 256) { chunkOf l b.1 with units := denseUnits s, lastToken := b.1 } }

/-- Store one block of a ZRL site: appended to its chunk's data, with the token's entry of the index unit (R278). A token begun at block 0
starts a fresh encoding (R276); one that does not end its chunk's data is appended anew, since an entry gives one offset (log entry 36). -/
def storeZrl (l : Slot) (b : Nat × Nat) (bytes : List Byte) : Slot :=
  let l := chargeTable l b.1
  let l := if b.2 = 0 then { l with blocks := l.blocks.filter (fun x => decide (x.1.1 ≠ b.1)) } else l
  let k := chunkOf l b.1
  let again :=
    if b.2 = 0 || decide (k.lastToken = b.1) then 0 else ((blocksOfToken l b.1).map (fun x => x.2.length)).sum
  let data := k.dataBytes + again + bytes.length
  let moved := b.2 = 0 || decide (k.lastToken ≠ b.1)
  let old := tabGet (0#32, 0#12) k.entries b.1
  let l := { l with blocks := tabSet l.blocks b bytes }
  let entry := (if moved then BitVec.ofNat 32 k.dataBytes else old.1, BitVec.ofNat 12 (blocksOfToken l b.1).length)
  { l with chunks := tabSet l.chunks (b.1 / 256)
             { units := zrlUnits data, dataBytes := data, lastToken := b.1, entries := tabSet k.entries b.1 entry,
               extents := List.range (ceilDiv data 65536) } }

/-- Store the blocks of a frame in order; a block written whole is poisoned no more (R317). -/
def storeBlocks (s : SiteRec) : List (Nat × Nat) → List (List (BitVec 16)) → Slot → Slot
  | b :: bs, v :: vs, l =>
    let bytes := stashEncode s.codec v
    let l := { l with poison := l.poison.filter (fun p => !(decide (p.1 = b.1) && decide (p.2.1 = b.2))) }
    storeBlocks s bs vs (if s.codec = 0x30 then storeZrl l b bytes else storeDense s l b bytes)
  | _, _, l => l

/-- Units a slot takes: its chunk tables and its chunks. -/
def slotUnits (l : Slot) : Nat := l.tables.length + (l.chunks.map (fun k => k.2.units)).sum

/-- Units in use of a site's reservation: 4 for its roots, and what its slots take. -/
def siteUsed (x : TenantCtx) (site : Nat) : Nat := 4 + tabGet 0 x.stashUsed site

/-- Whether a stored slot fits: the reservation, and 512 extents a chunk. -/
def slotFits (x : TenantCtx) (s : SiteRec) (old new : Slot) : Bool :=
  decide (siteUsed x s.id + slotUnits new ≤ s.reserve * 512 + slotUnits old) &&
  (s.codec ≠ 0x30 || new.chunks.all (fun k => decide (k.2.dataBytes ≤ 512 * 65536)))

/-! ## STASH_PUT (R270 to R272, R276) -/

/-- The BF16 elements of a frame in runs of 32. -/
def putValues (f : RxFrame) : List (List (BitVec 16)) :=
  let xs := halves f.frame.payload
  chunks32 xs.length xs

/-- Whether a ZRL frame begins at block 0 of its first token or at that token's first unwritten block (R276). -/
def zrlOrder (l : Slot) (token block : Nat) : Bool := decide (block = 0) || decide (block = (blocksOfToken l token).length)

/-- The FRAMES and DUPLICATES of a run's DONE (R184). -/
def runInfo (l : Slot) (last : Bool) : Nat × Nat := (if last then l.run.length else 0, l.runDups)

/-- The slot as a frame that starts at token 0, block 0 finds it: everything released (R270); a run ends only with LAST (R165,
log entry 42). -/
def freshSlot (l : Slot) (q : Hdr) : Slot := if stashToken q = 0 && q.seq = 0 then { Slot.reset with run := l.run, runDups := l.runDups } else l

/-- The tests of R272 in order. -/
def servePut (c : Chip) (f : RxFrame) : Chip :=
  let q := rxHead f
  let x := ten c q.tenant
  match siteOf c q.tenant q.tensor with
  | none => sendDone c f (doneInfo stBadTensor 0)
  | some s =>
    let old := slotOf x q.tensor q.shard
    let key := (q.tensor, q.shard)
    let last := hasFlag q.flags flLast
    if hasFlag q.flags flRetry && (stashBlocks s q).any (blockWritten old) then
      let l := { old with runDups := old.runDups + 1 }
      let after := if last then { l with run := [], runDups := 0 } else l
      let c := setTen c q.tenant { x with slots := tabSet x.slots key after }
      sendDone c f { doneInfo stDup 0 with frames := (runInfo l last).1, duplicates := (runInfo l last).2 }
    else
      let base := freshSlot old q
      let refused := { doneInfo stRange 0 with frames := (runInfo old last).1, duplicates := (runInfo old last).2 }
      if s.codec = 0x30 && !zrlOrder base (stashToken q) q.seq then sendDone c f refused
      else
        let new := storeBlocks s (stashBlocks s q) (putValues f) base
        if !slotFits x s old new then countTen (sendDone c f refused) q.tenant 31 1
        else
          let mark := (stashToken q, q.seq, q.count)
          let new := { new with run := if new.run.contains mark then new.run else new.run ++ [mark] }
          let used := tabGet 0 x.stashUsed q.tensor + slotUnits new - slotUnits old
          let after := if last then { new with run := [], runDups := 0 } else new
          let c := setTen c q.tenant { x with slots := tabSet x.slots key after, stashUsed := tabSet x.stashUsed q.tensor used }
          if last then sendDone c f { doneInfo stOk 0 with frames := new.run.length, duplicates := new.runDups } else c

/-- The kind of Table 19-1 for a site's codec. -/
def stashKind (codec base : Nat) : Nat := if codec = 0x30 then base else if codec = 0x31 then base + 1 else base + 2

/-- Start a stash frame's task on its cluster (Table 19-5). -/
def launchStash (now : Nat) (c : Chip) (f : RxFrame) (kind : Nat) (run : Chip → Chip) : Chip :=
  let q := rxHead f
  let t := frameTask c kind f (stashToken q) q.count now
  launch (noteOrigin c f) t run

/-- Checks 9 to 11 of a STASH_PUT: the site, BF16, the ranges of R181 and 8,192 elements. -/
def takePut (now : Nat) (c : Chip) (f : RxFrame) : Chip :=
  let q := rxHead f
  match siteOf c q.tenant q.tensor with
  | none => sendDone c f (doneInfo stBadTensor 0)
  | some s =>
    if q.format ≠ 0x01 then sendDone c f (doneInfo stFormat 0)
    else if !stashRangeOk s q || decide (8192 < q.count) then sendDone c f (doneInfo stRange 0)
    else launchStash now c f (stashKind s.codec 5) (fun c => servePut c f)

/-- A STASH_PUT arrives (R272). -/
def execStashPut (c : Pos) (f : RxFrame) (s : State) : Host.Outcome State Fault Refusal :=
  .next (hostCommand tyStashPut takePut c f s)

/-! ## STASH_GET (R182, R277) -/

/-- Blocks in one STASH_DATA frame of a format. -/
def blocksPerFrame (fmt : Nat) : Nat :=
  match fmt with
  | 0x31 => 4096
  | 0x32 => 496
  | _ => 256

/-- The payload of some blocks: decoded BF16, or codec bytes. -/
def stashPayload (s : SiteRec) (l : Slot) (fmt : Nat) (bs : List (Nat × Nat)) : List Byte :=
  bs.flatMap (fun b =>
    let bytes := tabGet [] l.blocks b
    if fmt = 0x01 then (stashDecode s.codec bytes).flatMap (fun v => bytesOf v 2) else bytes)

/-- The code of the poison that some blocks of a slot would carry (Table 16-6). -/
def slotPoison (l : Slot) (bs : List (Nat × Nat)) : Option Nat :=
  (l.poison.find? (fun p => bs.contains (p.1, p.2.1))).map (fun p => if p.2.2 then 0x22 else 0x21)

/-- Send the STASH_DATA frames of a range given as block runs (first block, number); one that would carry poison is replaced by DONE
ABORTED, which ends the reply (Table 16-6). -/
def sendStash (c : Chip) (f : RxFrame) (s : SiteRec) (l : Slot) : List (Nat × Nat) → Chip
  | [] => c
  | (b, n) :: rest =>
    let q := rxHead f
    let per := s.channels / 32
    let fl := (if rest.isEmpty then flLast else 0) + (if q.format = 0x01 then 0 else flCompressed)
    let h := { replyHdr c q tyStashData fl s.codec with seq := b % per, offset := b / per, count := 32 * n, format := q.format }
    let bs := (upFrom b n).map (fun b => (b / per, b % per))
    match slotPoison l bs with
    | some code => sendAborted c f code
    | none => sendStash (sendReply c f h (stashPayload s l q.format bs)) f s l rest

/-- The range check over every token, then the data in ascending order. -/
def serveGet (c : Chip) (f : RxFrame) : Chip :=
  let q := rxHead f
  match siteOf c q.tenant q.tensor with
  | none => sendDone c f (doneInfo stBadTensor 0)
  | some s =>
    let l := slotOf (ten c q.tenant) q.tensor q.shard
    match (stashBlocks s q).find? (fun b => !blockWritten l b) with
    | some b => sendDone c f (doneInfo stRange b.1)
    | none => sendStash c f s l (cutRange q.count (blocksPerFrame q.format) (stashStart s q) (q.count / 32))

/-- Whether STASH_GET takes a format from a codec (R182). -/
def stashFormat (codec fmt : Nat) : Bool :=
  decide (fmt = 0x01) || (decide (fmt = 0x31) && decide (codec = 0x31)) || (decide (fmt = 0x32) && decide (codec = 0x32))

/-- Checks 9 to 11 of a STASH_GET. -/
def takeGet (now : Nat) (c : Chip) (f : RxFrame) : Chip :=
  let q := rxHead f
  match siteOf c q.tenant q.tensor with
  | none => sendDone c f (doneInfo stBadTensor 0)
  | some s =>
    if !stashFormat s.codec q.format then sendDone c f (doneInfo stFormat 0)
    else if !stashRangeOk s q then sendDone c f (doneInfo stRange 0)
    else launchStash now c f (stashKind s.codec 8) (fun c => serveGet c f)

/-- A STASH_GET arrives (R182). -/
def execStashGet (c : Pos) (f : RxFrame) (s : State) : Host.Outcome State Fault Refusal :=
  .next (hostCommand tyStashGet takeGet c f s)

end Sys2Proof.Machine
end

