-- ==== Sys2Proof/Machine/SyncOps.lean ====
section
/-!
DEFINITION. Sync objects (chapter 18): the operations of Table 18-2, waiters and their release, and remote operations from the
issuer's side.
-/
namespace Sys2Proof.Machine

/-- C ≥ v as a serial comparison (section 18.2). -/
def serialGe (c v : BitVec 32) : Bool := decide ((c - v).toNat < 2147483648)

/-- A cluster's running task with what it waits for replaced. -/
def setWait (x : Cluster) (w : WaitFor) : Cluster :=
  match x.run with
  | some r => { x with run := some { r with waitFor := w } }
  | none => x

/-- Release the waiters of an object whose condition holds (R341). -/
def releaseWaiters (c : Chip) (n : Nat) : Chip :=
  let o := syncObj c n
  let out := o.waiters.filter (fun w => serialGe o.c w.2)
  let c := setSync c n { o with waiters := o.waiters.filter (fun w => !serialGe o.c w.2) }
  forEach c out (fun c w => modCluster c w.1 (fun x => setWait x .released))

/-- An object after an operation that does not wait (Table 18-2). -/
def syncEffect (o : SyncObj) (code : Nat) (v : BitVec 32) : SyncObj :=
  match code with
  | 0 => { o with c := o.c + v }
  | 1 => { o with c := v }
  | 2 => { o with t := v }
  | _ => { o with c := o.c + 1#32 }

/-- Apply an operation to a chip-wide object, and release waiters (R339 to R341). -/
def applySync (c : Chip) (n code : Nat) (v : BitVec 32) : Chip :=
  releaseWaiters (setSync c n (syncEffect (syncObj c n) code v)) n

/-- p of a BARRIER's ARRIVE, from C after the increment and T (Table 18-2). -/
def barrierGoal (c t : BitVec 32) : BitVec 32 :=
  if t = 0#32 then c else c + BitVec.ofNat 32 ((t.toNat - c.toNat % t.toNat) % t.toNat)

/-- The chip-wide number of a tenant's index (R337). -/
def syncNumber (c : Chip) (t j : Nat) : Nat := 256 + 240 * shareBase c t + j

/-- Whether a tenant has an index (R337). -/
def syncIndexOk (c : Chip) (t j : Nat) : Bool := decide (j < 240 * shareOf c t)

/-- A cluster waits for C ≥ v: released at once where it holds (R341). -/
def waitSync (c : Chip) (k : ClusterNo) (n : Nat) (v : BitVec 32) : Chip :=
  let o := syncObj c n
  if serialGe o.c v then modCluster c k (fun x => setWait x .released)
  else modCluster (setSync c n { o with waiters := o.waiters ++ [(k, v)] }) k (fun x => setWait x (.reach n v))

/-- A BARRIER stage: ARRIVE, then the wait for p. -/
def barrierSync (c : Chip) (k : ClusterNo) (n : Nat) : Chip :=
  let c := applySync c n 3 0#32
  waitSync c k n (barrierGoal (syncObj c n).c (syncObj c n).t)

/-! ## Remote operations (R343, R344) -/

/-- What a chip has sent to one target for a tenant. -/
def syncTxOf (x : TenantCtx) (target : Nat) : SyncTx := tabGet .reset x.syncTx target

/-- A SYNC_OP frame (R343). -/
def syncFrame (c : Chip) (t target seq code index : Nat) (v : BitVec 32) : TxFrame :=
  let h := { chipHdr tySyncOp t 2 target with seq := seq, aux := code }
  { frame := mkFrame h (leBytes 2 index ++ leBytes 2 0 ++ bytesOf v 4 ++ List.replicate 8 0#8), vc := 2#2,
    route := newPrefix (chipNo c) 0x3F target 0x3F }

/-- Send a tenant's next waiting SYNC_OP to a target when none is unacknowledged. -/
def pushSync (c : Chip) (t target : Nat) : Chip :=
  let x := ten c t
  let s := syncTxOf x target
  match s.outstanding, s.waiting with
  | none, (k, f) :: rest =>
    let s := { s with outstanding := some ((parseHdr f.frame.hdr).seq, k), waiting := rest }
    emit (setTen c t { x with syncTx := tabSet x.syncTx target s }) f
  | _, _ => c

/-- A stage issues a remote operation: numbered, sent once no earlier one is unacknowledged; the stage waits for its SYNC_ACK. -/
def remoteSync (c : Chip) (k : ClusterNo) (t target code index : Nat) (v : BitVec 32) : Chip :=
  let s := syncTxOf (ten c t) target
  let f := syncFrame c t target s.next code index v
  let s := { s with next := (s.next + 1) % 65536, waiting := s.waiting ++ [(k, f)] }
  let c := modTen c t (fun x => { x with syncTx := tabSet x.syncTx target s })
  pushSync (modCluster c k (fun x => setWait x (.ack target))) t target

/-! ## SYNC_OP at its target (R343 to R345) -/

/-- The SYNC_ACK of a SYNC_OP: its header, with C as it stands. -/
def sendAck (c : Chip) (f : RxFrame) (origin : Nat) (value : BitVec 32) : Chip :=
  let q := rxHead f
  sendChip c origin { q with version := 1, type := tySyncAck, vc := 0 }
    (sliceBytes f.frame.payload 0 2 ++ leBytes 2 0 ++ sliceBytes f.frame.payload 4 4 ++ bytesOf value 4 ++ leBytes 4 0)

/-- A SYNC_OP: dropped and counted, repeated and only answered, or applied once and answered. -/
def takeSyncOp (c : Chip) (f : RxFrame) : Chip :=
  let q := rxHead f
  let t := q.tenant
  let x := ten c t
  let index := fieldAt f.frame.payload 0 2
  let origin := (originOf c f).1.toNat
  if tenantDeaf c x || x.wasReset || !syncIndexOk c t index || 4 ≤ q.aux then countTen c t 34 1
  else
    let n := syncNumber c t index
    if tabFind x.syncRx origin = some q.seq then sendAck c f origin (syncObj c n).c
    else
      let c := setTen c t { x with syncRx := tabSet x.syncRx origin q.seq }
      let c := applySync c n q.aux (BitVec.ofNat 32 (fieldAt f.frame.payload 4 4))
      sendAck c f origin (syncObj c n).c

/-- A SYNC_OP arrives. -/
def execSyncOp (c : Pos) (f : RxFrame) (s : State) : Host.Outcome State Fault Refusal :=
  .next (chipCommand tySyncOp (fun _ k f => takeSyncOp k f) c f s)

end Sys2Proof.Machine
end

