-- ==== Sys2Proof/Machine/Stages.lean ====
section
/-!
DEFINITION. The arithmetic of stages (Table 19-4) on the bytes of their handles, but for UPDATE, which Update.lean holds.
-/
namespace Sys2Proof.Machine

/-! ## Formats (R424, log entry 17) -/

/-- The target format of a CAST (Table 19-8). -/
def castTarget (c : Chip) (t : Task) (s : StageRec) : Nat :=
  match t.cause with
  | some f =>
    let q := rxHead f
    if t.kind = 3 then (match arrayInfoOf c t.tenant t.tensor t.shard with | some a => arrayFmt a q.aux | none => s.arg)
    else if t.kind = 4 then q.format
    else s.arg
  | none => s.arg

/-! ## Inputs -/

/-- What a stage takes from one IN: the element format where one is known, where it begins in its stream, its bytes, and the fault
code of any poison in it. -/
structure StageIn where
  fmt : Option Nat
  start : Nat
  bytes : List Byte
  poison : Nat
deriving DecidableEq, Repr

/-- Elements in a run of stored bytes of a format. -/
def elemCount (fmt : Nat) (bs : List Byte) : Nat :=
  match fmt with
  | 0x00 => bs.length / 4
  | 0x01 => bs.length / 2
  | 0x02 => bs.length / 2
  | 0x03 => bs.length
  | 0x04 => bs.length
  | _ => bs.length - ceilDiv bs.length 33

/-- The first element of an input within its task. -/
def firstElem (fmt start : Nat) : Nat :=
  match fmt with
  | 0x00 => start / 4
  | 0x01 => start / 2
  | 0x02 => start / 2
  | 0x03 => start
  | 0x04 => start
  | _ => 32 * (start / 33)

/-- The scale exponent under which a task reads and writes OFP8: an update task's is its step's (R256, R266), any other's that of its
shard's committed state (R267). -/
def taskScale (c : Chip) (t : Task) : Int :=
  let h := shardOf (ten c t.tenant) t.tensor t.shard
  if t.kind = 12 then
    match groupOfTensor c t.tenant t.tensor with
    | some g => scaleOf g h t.step
    | none => h.scaleExp
  else h.scaleExp

/-- An input as binary32. -/
def inWords (c : Chip) (t : Task) (fmt : Nat) (i : StageIn) : List Word :=
  decodeElems fmt (taskScale c t) (elemCount fmt i.bytes) i.bytes

/-- Bytes that no rule gives: n of them, from a stage and its input. -/
def freeBytes (s : StageRec) (bs : List Byte) (n : Nat) : List Byte :=
  (List.range n).map (Config.stageByte s.code s.arg s.operand bs)

/-! ## Stages -/

/-- The logical index of a task's first element: in the tensor for a shard's tasks, as the header has it otherwise. -/
def logicalFirst (c : Chip) (t : Task) : Nat :=
  if t.kind = 12 || t.kind = 0 || (2 ≤ t.kind && decide (t.kind ≤ 4)) then
    match shardInfo c t.tenant t.tensor t.shard with
    | some i => t.shard * i.stride + t.first
    | none => t.first
  else t.first

/-- Blocks encoded with lane draws, block b of the task first (R261, R262, R358). -/
def laneBlocks (k : ClusterNo) (fmt : Nat) : Nat → List (List Word) → TenantCtx → List Byte × TenantCtx
  | _, [], x => ([], x)
  | b, ws :: rest, x =>
    let d := drawLane x (laneOf k b) ws.length
    let r := laneBlocks k fmt (b + 1) rest d.2
    (encodeBlockDraws fmt ws d.1 ++ r.1, r.2)

/-- Blocks encoded with the index-keyed draws of R263, element i of the tensor first. -/
def keyedBlocks (seed : BitVec 64) (step tensor array fmt : Nat) : Nat → List (List Word) → List Byte
  | _, [] => []
  | i, ws :: rest =>
    encodeBlockDraws fmt ws (initDraws seed step tensor array i ws.length) ++
    keyedBlocks seed step tensor array fmt (i + ws.length) rest

/-- CAST: equal formats are copied; 0x20 rounds stochastically, and so does an 8-bit moment under USE 3 (Table 19-4). -/
def runCast (c : Chip) (k : ClusterNo) (t : Task) (s : StageRec) (i : StageIn) : Chip × List Byte :=
  let target := castTarget c t s
  match i.fmt with
  | none => (c, freeBytes s i.bytes (storedBytes target i.bytes.length))
  | some fmt =>
    if fmt = target then (c, i.bytes)
    else
      let ws := inWords c t fmt i
      let blocks := chunks32 ws.length ws
      let x := ten c t.tenant
      if t.kind = 3 && isBlockFormat target then
        (c, keyedBlocks x.seed t.step t.tensor (match t.cause with | some f => (rxHead f).aux | none => 0) target
              (logicalFirst c t + firstElem fmt i.start) blocks)
      else if target = 0x20 then
        let r := laneBlocks k target (firstElem fmt i.start / 32) blocks x
        (setTen c t.tenant r.2, r.1)
      else (c, encodeElems target (taskScale c t) false ws)

/-- One codec block at the head of a run of codec bytes: its length. -/
def codecBlock (codec : Nat) (bs : List Byte) : Nat :=
  match codec with
  | 0x30 => 4 + 2 * ((unpackBits (bs.take 4)).filter id).length
  | 0x31 => 4
  | _ => 33

/-- Codec bytes cut into blocks and decoded to BF16. -/
def decodeStash (codec : Nat) : Nat → List Byte → List Byte
  | 0, _ => []
  | fuel + 1, bs =>
    if bs.isEmpty then []
    else
      let n := codecBlock codec bs
      (stashDecode codec (bs.take n)).flatMap (fun v => bytesOf v 2) ++ decodeStash codec fuel (bs.drop n)

/-- MASKGEN: keep bits packed, or value(i) words when RAW is set, for the task's elements (R285). -/
def runMaskgen (c : Chip) (t : Task) (s : StageRec) : List Byte :=
  let id := if t.kind = 11 then t.tensor else s.operand % 65536
  let seed := (ten c t.tenant).seed
  let is := upFrom (logicalFirst c t) t.count
  if s.raw then is.flatMap (fun i => bytesOf (rngValue seed t.step id s.arg i) 4)
  else
    let keep := match tensorOf c t.tenant id with | some r => r.keepP16 | none => 0
    packBits t.count (is.map (fun i => decide ((rngValue seed t.step id s.arg i).toNat < keep * 65536)))

/-- SCALE's factor: OPERAND, or 2^e of the task's shard. -/
def scaleFactor (c : Chip) (t : Task) (s : StageRec) : Word :=
  if s.shardScale then f32Pow2 (taskScale c t) else BitVec.ofNat 32 s.operand

/-- What a compute stage other than UPDATE puts into its OUT0, from its inputs in order; the lanes may have moved on. -/
def runStage (c : Chip) (k : ClusterNo) (t : Task) (s : StageRec) (ins : List StageIn) : Chip × List Byte :=
  let i := ins.headD { fmt := none, start := 0, bytes := [], poison := 0 }
  match s.code with
  | 0x06 => (c, let xs := halves i.bytes; (chunks32 xs.length xs).flatMap (stashEncode s.arg))
  | 0x07 =>
    -- under USE 8 to 10 with the codec's own format the input passes unchanged (Table 19-8)
    let through := match t.cause with | some f => decide (8 ≤ t.kind) && decide (t.kind ≤ 10) && decide ((rxHead f).format ≠ 1) | none => false
    (c, if through then i.bytes else decodeStash s.arg i.bytes.length i.bytes)
  | 0x08 =>
    (match i.fmt with
     | some fmt => (c, encodeElems 0 0 false (inWords c t fmt i))
     | none => (c, freeBytes s i.bytes (4 * i.bytes.length)))
  | 0x09 =>
    (match i.fmt with
     | some fmt =>
       let ws := inWords c t fmt i
       (c, ((chunks32 ws.length ws).map (blockSquares 0#32)).flatMap (fun w => bytesOf w 4))
     | none => (c, freeBytes s i.bytes (4 * ceilDiv i.bytes.length 32)))
  | 0x0A =>
    (match i.fmt with
     | some fmt => (c, bytesOf (amaxOf (inWords c t fmt i)) 4)
     | none => (c, freeBytes s i.bytes 4))
  | 0x0B => (c, runMaskgen c t s)
  | 0x0C => runCast c k t s i
  | 0x0D =>
    (match i.fmt with
     | some 0 => (c, encodeElems 0 0 false ((inWords c t 0 i).map (fun w => f32Mul w (scaleFactor c t s))))
     | _ => (c, freeBytes s i.bytes i.bytes.length))
  | _ => (c, [])

end Sys2Proof.Machine
end

