-- ==== Sys2Proof/Machine/Streams.lean ====
section
/-!
DEFINITION. Streams (chapter 17): where a stream's bytes lie, buffers and handles, transfers and their requests under the token buckets,
the order in which requests take effect, misses, and what a returned read or an accepted write does at the memory (chapter 16).
-/
namespace Sys2Proof.Machine

/-! ## A task on a cluster -/

/-- The cluster with its running task, or its next one, replaced. -/
def putTask (x : Cluster) (next : Bool) (r : RunTask) : Cluster := if next then { x with next := some r } else { x with run := some r }

/-- A task's stream of a descriptor, when it has been issued. -/
def streamAt (r : RunTask) (i : Nat) : Option Stream := tabFind r.streams i

/-- The task with a stream replaced. -/
def setStream (r : RunTask) (i : Nat) (x : Stream) : RunTask := { r with streams := tabSet r.streams i x }

/-- A task's handle queue. -/
def queueAt (r : RunTask) (q : Nat) : List Handle := tabGet [] r.queues q

/-- The task with a handle at the end of a queue. -/
def pushHandle (r : RunTask) (q : Nat) (h : Handle) : RunTask := { r with queues := tabSet r.queues q (queueAt r q ++ [h]) }

/-- The code of the stage that a running task is in, when one is under way. -/
def activeCode (c : Chip) (r : RunTask) : Option Nat :=
  if r.active then
    match recipeAt c r.task.recipe with
    | some p => (p.stages[r.stage]?).map (·.code)
    | none => none
  else none

/-- Entries in a handle queue of a cluster, of the running task and of the next one. -/
def queueLength (x : Cluster) (q : Nat) : Nat :=
  (match x.run with | some r => (queueAt r q).length | none => 0) + (match x.next with | some r => (queueAt r q).length | none => 0)

/-! ## Where a stream's bytes lie (R321, R355) -/

/-- The address of byte p of a stream; none where its index has not been delivered yet. -/
def byteAt (c : Chip) (r : RunTask) (d : DescRec) (p : Nat) : Option Nat :=
  if d.role = 2 then
    match streamAt r d.warp with
    | some w => (w.indices[p / d.row]?).map (fun x => descBase c r.task d + x * d.pitch + p % d.row)
    | none => none
  else some (denseAt c r.task d p)

/-- The addresses of n bytes of a stream from byte p on. -/
def bytesAt (c : Chip) (r : RunTask) (d : DescRec) (p n : Nat) : List Nat := (upFrom p n).filterMap (byteAt c r d)

/-! ## Transfers (R319) -/

/-- A list with an item in its place by key, before the items of the same key. -/
def insertKey {α : Type} (p : Nat × α) : List (Nat × α) → List (Nat × α)
  | [] => [p]
  | q :: rest => if p.1 ≤ q.1 then p :: q :: rest else q :: insertKey p rest

/-- A list in ascending order of keys, items of one key as they stood. -/
def sortKeys {α : Type} (l : List (Nat × α)) : List (Nat × α) := l.foldr insertKey []

/-- The transfer that byte q of a stream's order of issue belongs to: where in the stream it begins, and its bytes. -/
def transferAt (d : DescRec) (s : Stream) (q : Nat) : Nat × Nat :=
  if d.op = 0 then
    let a := q / d.buffer * d.buffer
    (a, min d.buffer (s.total - a))
  else (s.start, s.length)

/-- The rows, or parts of rows, of n bytes of a driven weft from byte p on: address, place in the stream, bytes; none while an index is
missing. -/
def rowParts (c : Chip) (r : RunTask) (d : DescRec) : Nat → Nat → Nat → Option (List (Nat × Nat × Nat))
  | 0, _, _ => some []
  | fuel + 1, p, n =>
    if n = 0 then some []
    else
      let k := min n (d.row - p % d.row)
      match byteAt c r d p, rowParts c r d fuel (p + k) (n - k) with
      | some a, some l => some ((a, p, k) :: l)
      | _, _ => none

/-- The parts of a transfer in the order in which its requests are issued: ascending in address (R319). -/
def issueOrder (c : Chip) (r : RunTask) (d : DescRec) (t : Nat × Nat) : Option (List (Nat × Nat × Nat)) :=
  if d.role = 2 then (rowParts c r d (t.2 / d.row + 2) t.1 t.2).map sortKeys
  else some [(denseAt c r.task d t.1, t.1, t.2)]

/-- The place in the stream of byte k of some parts in their order, and the bytes that follow in its part. -/
def partAt : List (Nat × Nat × Nat) → Nat → Option (Nat × Nat)
  | [], _ => none
  | (_, p, n) :: rest, k => if k < n then some (p + k, n - k) else partAt rest (k - n)

/-- The place in the stream of byte q of its order of issue, and the bytes that follow in its part. -/
def placeAt (c : Chip) (r : RunTask) (d : DescRec) (s : Stream) (q : Nat) : Option (Nat × Nat) :=
  let t := transferAt d s q
  (issueOrder c r d t).bind (fun l => partAt l (q - t.1))

/-- Data in the order of issue cut into its parts, each with its place in the stream. -/
def cutParts : List (Nat × Nat × Nat) → List Byte → List (Nat × List Byte)
  | [], _ => []
  | (_, p, n) :: rest, bs => (p, bs.take n) :: cutParts rest (bs.drop n)

/-- A transfer's data, come in the order of issue, in the order of the stream. -/
def inStreamOrder (l : List (Nat × Nat × Nat)) (bs : List Byte) : List Byte := (sortKeys (cutParts l bs)).flatMap (·.2)

/-- A buffer's data, in the order of the stream, in the order in which its requests are issued. -/
def inIssueOrder (l : List (Nat × Nat × Nat)) (start : Nat) (bs : List Byte) : List Byte :=
  l.flatMap (fun p => sliceBytes bs (p.2.1 - start) p.2.2)

/-- How many bytes from p on fit one request that begins at address `first`: ascending, within eight lines. -/
def runFrom (addr : Nat → Option Nat) (first : Nat) : Nat → Nat → Nat
  | 0, _ => 0
  | fuel + 1, p =>
    match addr p with
    | some a => if first ≤ a && decide (a / 128 < first / 128 + 8) then 1 + runFrom addr first fuel (p + 1) else 0
    | none => 0

/-- The next request of a stream: its place in the stream and its bytes; no bytes where nothing can be issued. -/
def nextRequest (c : Chip) (r : RunTask) (d : DescRec) (s : Stream) : Nat × Nat :=
  match placeAt c r d s s.issued with
  | some (p, left) =>
    (match byteAt c r d p with
     | some a => (p, runFrom (byteAt c r d) a (min left 1024) p)
     | none => (p, 0))
  | none => (0, 0)

/-- A stream's requests in flight, each with the byte of the order of issue where it begins. -/
def placed : Nat → List Request → List (Nat × Request)
  | _, [] => []
  | q, x :: rest => (q, x) :: placed (q + x.bytes) rest

/-- The addresses of a request of n bytes that begins at byte q of a stream's order of issue. -/
def requestAddresses (c : Chip) (r : RunTask) (d : DescRec) (s : Stream) (q n : Nat) : List Nat :=
  match placeAt c r d s q with
  | some (p, _) => bytesAt c r d p n
  | none => []

/-! ## Ends by fault (R316, R330, R361) -/

/-- What a task's end on a fault makes of its shard's step: a VERDICT is applied to an update, a close is NONFINITE. -/
def afterFault (t : Task) (c : Chip) : Chip :=
  if t.kind = 12 then settle2 t.tenant t.step c
  else if t.kind = 2 then
    modTen c t.tenant (fun x => modShardStep x t.tensor t.shard t.step (fun r => { r with closeFault := true }))
  else c

/-- The running task of a cluster, or the next one, ends on a fault: its outcome, and what its shard's step makes of it. -/
def faultAt (c : Chip) (k : ClusterNo) (next : Bool) (code : Nat) : Chip :=
  match taskAt (clusterOf c k) next with
  | none => c
  | some r => afterFault r.task (taskFault c k next code)

/-! ## Buffers (R324) -/

/-- Buffers a stream has borrowed. -/
def borrowedOf (x : Stream) : Nat := x.inUse - 2

/-- The stream with a number of buffers in use. -/
def withBuffers (x : Stream) (n : Nat) : Stream := { x with inUse := n, borrowed := n - 2 }

/-- Scratchpad bytes that a task holds: reserves, WORK and borrowed buffers. -/
def heldBytes (c : Chip) (r : RunTask) : Nat :=
  (match recipeAt c r.task.recipe with | some p => reserveBytes p | none => 0) +
  (r.streams.map (fun s => borrowedOf s.2 * (match descAt c r.task s.1 with | some d => d.buffer | none => 0))).sum

/-- Bytes of the surplus pool that are free on a cluster. -/
def poolBytes (c : Chip) (x : Cluster) (t : Task) : Nat :=
  scratchBytes t - (match x.run with | some r => heldBytes c r | none => 0) - (match x.next with | some r => heldBytes c r | none => 0)

/-- The output streams of the stage that a task is to start next. -/
def waitingOuts (c : Chip) (r : RunTask) : List Nat :=
  if r.active then []
  else
    match recipeAt c r.task.recipe with
    | some p => (match p.stages[r.stage]? with | some s => s.outs | none => [])
    | none => []

/-- Whether a stream stands waiting for a buffer to borrow: a load with more to fetch, a store that the next stage names. -/
def wantsBuffer (c : Chip) (r : RunTask) (i : Nat) (d : DescRec) (x : Stream) : Bool :=
  decide (2 ≤ x.inUse) && decide (borrowedOf x < d.surplus) &&
  (if d.op = 0 then decide (x.issued < x.total) && decide (x.issued % d.buffer = 0) else (waitingOuts c r).contains i)

/-- Whether no stream of a lower queue of a task waits for a buffer to borrow. -/
def noneBefore (c : Chip) (q : Nat) (o : Option RunTask) : Bool :=
  match o with
  | none => true
  | some r => r.streams.all (fun s =>
      match descAt c r.task s.1 with
      | some e => !(decide (e.queue < q) && wantsBuffer c r s.1 e s.2)
      | none => true)

/-- Whether a stream may take one more buffer: of its reserve, or of the surplus when no stream of a lower queue waits for one. -/
def freeBuffer (c : Chip) (x : Cluster) (r : RunTask) (d : DescRec) (s : Stream) : Bool :=
  decide (s.inUse < 2) ||
  (decide (borrowedOf s < d.surplus) && decide (d.buffer ≤ poolBytes c x r.task) && noneBefore c d.queue x.run && noneBefore c d.queue x.next)

/-! ## Transfer slots (R319, R320) -/

/-- Transfers that a stream has outstanding. -/
def transfersOf (d : DescRec) (s : Stream) : Nat :=
  if d.op = 0 then
    ceilDiv s.issued d.buffer - (if s.completed = s.total then ceilDiv s.total d.buffer else s.completed / d.buffer)
  else if s.data.isEmpty then 0 else 1

/-- Transfers outstanding in a task, those on the short path among them. -/
def taskTransfers (c : Chip) (r : RunTask) : Nat :=
  (r.streams.map (fun s => match descAt c r.task s.1 with | some d => transfersOf d s.2 | none => 0)).sum +
  (r.shorts.filter (·.issued)).length

/-- Whether the stream engine has one of its six slots free. -/
def freeSlot (c : Chip) (x : Cluster) : Bool :=
  decide ((match x.run with | some r => taskTransfers c r | none => 0) + (match x.next with | some r => taskTransfers c r | none => 0) < 6)

/-! ## Stores of an update stage (R235, R241, R245) -/

/-- Whether a stream's stores are results of an update stage that is still under way. -/
def writesUpdate (c : Chip) (t : Task) (d : DescRec) : Bool :=
  decide (t.kind = 12) && decide (d.space = 2) && (decide (d.op = 1) || decide (d.op = 2)) && decide (d.array ≠ 4) &&
  decide ((stepOf (shardOf (ten c t.tenant) t.tensor t.shard) t.step).update = .running)

/-- Whether the VERDICT of a task's step is known to its update stage (R245). -/
def isDirect (c : Chip) (t : Task) : Bool := (stepOf (shardOf (ten c t.tenant) t.tensor t.shard) t.step).direct

/-- Whether a shard's rule reads in a second pass what its stage found, so that results wait for the stage's end (R228). -/
def twoPasses (c : Chip) (t : Task) : Bool :=
  match groupOfTensor c t.tenant t.tensor with
  | some g => decide (g.rule = 5)
  | none => false

/-- Whether a task belongs to an update stage that stands still for want of pending space (R241). -/
def isStalled (c : Chip) (t : Task) : Bool := decide (t.kind = 12) && (ten c t.tenant).stalled && !isDirect c t

/-- Room for a store's pending lines: the chip with them taken in, none where the tenant stalls. A stage whose VERDICT is known needs
none (R245). -/
def roomForStore (c : Chip) (t : Task) (d : DescRec) (l : List Nat) : Option Chip :=
  if writesUpdate c t d && !isDirect c t then noteAll t.tenant (pendingOf c t.tenant t.tensor t.shard t.step d.array l) c else some c

/-! ## Lines that a load needs (R307, R312, R313) -/

/-- A line that a load needs: its name, the ATTR that decides whether L1 may hold it, what it belongs to, and the bytes needed. -/
structure LineNeed where
  line : Nat
  attr : Nat
  kind : LineKind
  mask : BitVec 128
deriving DecidableEq, Repr

/-- The region lines of some tenant addresses as (line, ATTR), by physical address. -/
def regionLines (c : Chip) (t : Task) (l : List Nat) : List (Nat × Nat) :=
  (linesOf l).filterMap (fun n => (mapAddress c t.tenant (128 * n)).map (fun p => (p.2 / 128, p.1)))

/-- The physical address of a tenant address. -/
def regionPa (c : Chip) (t a : Nat) : Nat := match mapAddress c t a with | some p => p.2 | none => 0

/-- Whether an update task finds a byte in pending state, its own step's or that of the step before (R236). -/
def isPendingByte (h : Shard) (step array a : Nat) : Bool :=
  (memFind (pendMem (stepOf h step) array) a).isSome ||
  (match prevPending h step with | some r => (memFind (pendMem r array) a).isSome | none => false)

/-- The bytes of some offsets in an array that a task reads from committed state (R236). -/
def committedBytes (c : Chip) (t : Task) (array : Nat) (l : List Nat) : List Nat :=
  let h := shardOf (ten c t.tenant) t.tensor t.shard
  if t.kind = 12 then l.filter (fun a => !isPendingByte h t.step array a) else l

/-- The lines that a load of some addresses needs from the slices. -/
def needsOf (c : Chip) (t : Task) (d : DescRec) (l : List Nat) : List LineNeed :=
  if d.space = 1 && !isStash t then
    (linesOf l).filterMap (fun n => (mapAddress c t.tenant (128 * n)).map (fun p =>
      { line := p.2 / 128, attr := p.1, kind := .region, mask := maskOf n l }))
  else if d.space = 2 && decide (taskArray t d ≠ 4) then
    let l := committedBytes c t (taskArray t d) l
    (linesOf l).map (fun n =>
      { line := tensorKey c t.tenant t.tensor t.shard (taskArray t d) n, attr := 0, kind := .tensor t.tensor t.shard (taskArray t d),
        mask := maskOf n l })
  else []

/-- Whether a cluster's L1 serves a load. -/
def l1Hit (x : Cluster) (n : LineNeed) : Bool :=
  decide (n.attr ≠ 0) && (match tabFind x.l1 n.line with | some o => covers o.valid n.mask | none => false)

/-- Whether a load has to join a miss register of its cluster's L1; lines that no L1 holds need none (Table 16-2). -/
def l1Miss (x : Cluster) (n : LineNeed) : Bool := decide (n.attr ≠ 0) && decide (l1Capacity x ≠ 0) && !l1Hit x n

/-- Whether a load waits for its slice's HBM read (R313). -/
def waitsForFill (c : Chip) (x : Cluster) (n : LineNeed) : Bool :=
  !l1Hit x n && !sliceHit c n.line n.mask && (tabFind c.lineMisses n.line).isSome

/-- The lines in a cluster's miss registers, once for each waiter. -/
def missedLines (x : Cluster) : List Nat :=
  [x.run, x.next].flatMap (fun o =>
    match o with
    | some r => r.streams.flatMap (fun s => s.2.inFlight.flatMap (·.missed))
    | none => [])

/-- Whether an L1 with its 16 registers of 8 waiters can take a load's misses (R312). -/
def registersFree (x : Cluster) (ls : List Nat) : Bool :=
  ls.all (fun n => decide ((missedLines x).count n < 8)) && decide ((missedLines x ++ ls).eraseDups.length ≤ 16)

/-- Record a load's misses in the slices, each of which makes one HBM read for all of them (R313). -/
def noteMisses (c : Chip) (k : ClusterNo) (t desc : Nat) (ns : List LineNeed) : Chip :=
  forEach c ns (fun c n =>
    if l1Hit (clusterOf c k) n || sliceHit c n.line n.mask then c
    else
      let m := tabGet { tenant := t, kind := n.kind, waiters := [] } c.lineMisses n.line
      { c with lineMisses := tabSet c.lineMisses n.line { m with waiters := m.waiters ++ [(k, desc)] } })

/-! ## Order (R318, log entry 18) -/

/-- A region access of a task: its stream, whether a load, the plain and coherent lines it reaches, its place in the order of the task's
stages. Read-only regions follow R305. -/
structure Access where
  desc : Nat
  load : Bool
  lines : List Nat
  stamp : Nat
deriving DecidableEq, Repr

/-- Whether a task's stream of a descriptor reaches regions. -/
def onRegions (t : Task) (d : DescRec) : Bool := decide (d.space = 1) && !isStash t

/-- The plain and coherent lines of some addresses. -/
def orderedLines (c : Chip) (t : Task) (d : DescRec) (l : List Nat) : List Nat :=
  if onRegions t d then ((regionLines c t l).filter (fun p => decide (p.2 ≠ 1))).map (·.1) else []

/-- A task's region accesses in flight. -/
def flightsOf (c : Chip) (r : RunTask) : List Access :=
  r.streams.flatMap (fun s =>
    match descAt c r.task s.1 with
    | some d =>
      if onRegions r.task d then
        (placed s.2.completed s.2.inFlight).map (fun p =>
          { desc := s.1, load := decide (d.op = 0),
            lines := orderedLines c r.task d (requestAddresses c r d s.2 p.1 p.2.bytes), stamp := p.2.stamp })
      else []
    | none => [])

/-- A task's region stores that wait to be issued: handles in its queues, and what is left of the buffers under way. -/
def waitingStores (c : Chip) (r : RunTask) : List Access :=
  r.queues.flatMap (fun q => q.2.filterMap (fun h =>
    match descAt c r.task h.desc with
    | some d =>
      if onRegions r.task d && decide (d.op ≠ 0) then
        some { desc := h.desc, load := false, lines := orderedLines c r.task d (bytesAt c r d h.start h.bytes.length), stamp := h.stamp }
      else none
    | none => none)) ++
  r.streams.filterMap (fun s =>
    match descAt c r.task s.1 with
    | some d =>
      if onRegions r.task d && decide (d.op ≠ 0) && decide (s.2.issued < s.2.start + s.2.length) then
        some { desc := s.1, load := false, lines := orderedLines c r.task d (bytesAt c r d s.2.start s.2.length), stamp := s.2.stamp }
      else none
    | none => none)

/-- Whether an access may take effect before another of its task: one of a later stage, one that reaches no ordered line, a load before a
store to other lines. -/
def mayPass (a b : Access) : Bool :=
  decide (a.desc = b.desc) || decide (a.stamp < b.stamp) || b.lines.isEmpty || (a.load && !b.load && !b.lines.any a.lines.contains)

/-- Whether an access may take effect: the others that are in flight, and stores that still wait, stand after it or let it pass. -/
def mayComplete (c : Chip) (r : RunTask) (a : Access) : Bool :=
  a.lines.isEmpty || (flightsOf c r ++ waitingStores c r).all (mayPass a)

/-- Whether a load stream's next request could be issued now, but for its tokens: it is in the middle of a buffer, or finds one and a slot. -/
def canFetch (c : Chip) (x : Cluster) (r : RunTask) (d : DescRec) (s : Stream) : Bool :=
  decide (s.issued < s.total) && decide ((nextRequest c r d s).2 ≠ 0) &&
  (decide (s.issued % d.buffer ≠ 0) || (freeSlot c x && freeBuffer c x r d s))

/-- Whether a region store pushed at a place in the order of stages stands before nothing older: no older push still waits, and no load
that an older stage issued could still go on (log entry 18). -/
def isOldest (c : Chip) (x : Cluster) (r : RunTask) (i stamp : Nat) : Bool :=
  (waitingStores c r).all (fun a => decide (a.desc = i) || decide (stamp ≤ a.stamp)) &&
  r.streams.all (fun s =>
    match descAt c r.task s.1 with
    | some d => !(onRegions r.task d && decide (d.op = 0) && decide (s.2.stamp < stamp) && canFetch c x r d s.2)
    | none => true)

/-- Whether a task has accesses to regions still to come, or a stage to run that orders accesses: while it has, the next task's loads from
plain and coherent regions wait. -/
def regionsLeft (c : Chip) (r : RunTask) : Bool :=
  match recipeAt c r.task.recipe with
  | none => false
  | some p =>
    (p.stages.drop r.stage).any (fun s => decide (0x11 ≤ s.code)) ||
    (issuedStreams p).any (fun i =>
      match descOf p i, streamAt r i with
      | some d, some s => onRegions r.task d && decide (s.completed < s.total)
      | some d, none => onRegions r.task d
      | none, _ => false)

/-- Whether a request of the next task waits for the running one. -/
def waitsForRun (c : Chip) (x : Cluster) (next : Bool) (lines : List Nat) : Bool :=
  next && !lines.isEmpty && (match x.run with | some r => regionsLeft c r | none => false)

/-- Whether a running task's stage keeps later accesses back: SIGNAL, WAIT and BARRIER (R342). -/
def keepsBack (c : Chip) (r : RunTask) : Bool :=
  match activeCode c r with
  | some code => decide (0x12 ≤ code)
  | none => false

/-! ## STREAM_REQUEST_ISSUE (R319, R320, R326, R327) -/

/-- A bucket of a cluster: read, write or egress, by the descriptor's OP. -/
def tokensOf (x : Cluster) (op : Nat) : Nat := if op = 0 then x.readTokens else if op = 3 then x.egressTokens else x.writeTokens

/-- The cluster with tokens of a bucket spent. -/
def spend (x : Cluster) (op n : Nat) : Cluster :=
  if op = 0 then { x with readTokens := x.readTokens - n }
  else if op = 3 then { x with egressTokens := x.egressTokens - n }
  else { x with writeTokens := x.writeTokens - n }

/-- The tokens of a request (Table 17-2). -/
def requestCost (c : Chip) (t : Task) (d : DescRec) (s : Stream) (p n : Nat) (l : List Nat) : Nat :=
  if d.op = 0 then readCost l else if d.op = 3 then sendCost c t s.total p n else writeCost l

/-- A store stream with nothing left to empty takes the buffer at the head of its queue, with a slot; a weft's buffer once its indices are
there. -/
def takeBuffer (c : Chip) (x : Cluster) (r : RunTask) (i : Nat) (d : DescRec) : RunTask :=
  match streamAt r i, queueAt r d.queue with
  | some s, h :: rest =>
    if s.data.isEmpty && decide (h.desc = i) && freeSlot c x && (!onRegions r.task d || isOldest c x r i h.stamp) then
      match issueOrder c r d (h.start, h.bytes.length) with
      | some l =>
        setStream { r with queues := tabSet r.queues d.queue rest } i
          { s with data := inIssueOrder l h.start h.bytes, poison := h.poison, start := h.start, length := h.bytes.length, stamp := h.stamp }
      | none => r
    else r
  | _, _ => r

/-- A request of n bytes from byte p of a stream, at its addresses, issued: its tokens spent, its misses and pending lines noted; none
where it has to wait. -/
def issueAt (c : Chip) (k : ClusterNo) (next : Bool) (r : RunTask) (i : Nat) (d : DescRec) (s : Stream) (p n : Nat) (l : List Nat) :
    Option Chip :=
  let x := clusterOf c k
  let t := r.task
  let cost := requestCost c t d s p n l
  let fresh := decide (d.op = 0) && decide (s.issued % d.buffer = 0)
  let ns := if d.op = 0 then needsOf c t d l else []
  let missed := (ns.filter (l1Miss x)).map (·.line)
  if tokensOf x d.op < cost || !registersFree x missed || waitsForRun c x next (orderedLines c t d l) then none
  else
    match (if d.op = 0 then some c else roomForStore c t d l) with
    | none => some (modTen c t.tenant (fun y => { y with stalled := true }))
    | some c =>
      let c := touch c
      let q : Request := { address := l.headD 0, bytes := n, stamp := s.stamp, serial := c.lineClock, missed := missed }
      let s := { s with issued := s.issued + n, inFlight := s.inFlight ++ [q] }
      let r := setStream r i (if fresh then withBuffers s (s.inUse + 1) else s)
      let c := modCluster c k (fun x => putTask (spend x d.op cost) next r)
      some (noteMisses c k t.tenant i ns)

/-- The next request of a task's stream, issued, or its address's fault taken; none where there is nothing to issue or it has to wait. -/
def issueStream (c : Chip) (k : ClusterNo) (next : Bool) (r : RunTask) (i : Nat) (d : DescRec) : Option Chip :=
  let x := clusterOf c k
  let r := if d.op = 0 then r else takeBuffer c x r i d
  match streamAt r i with
  | none => none
  | some s =>
    let (p, n) := nextRequest c r d s
    let fresh := decide (d.op = 0) && decide (s.issued % d.buffer = 0)
    if n = 0 || keepsBack c r || isStalled c r.task || (fresh && !(freeSlot c x && freeBuffer c x r d s)) then none
    else
      let l := bytesAt c r d p n
      match addressFault c r.task d l with
      | some code => some (faultAt c k next code)
      | none => issueAt c k next r i d s p n l

/-- The oldest short transfer of a stage that is not outstanding yet takes a slot and its write tokens (R320). -/
def issueShort (c : Chip) (k : ClusterNo) : Option Chip :=
  let x := clusterOf c k
  match x.run with
  | none => none
  | some r =>
    match r.shorts.span (·.issued) with
    | (out, m :: rest) =>
      let cost := writeCost (List.range m.bytes)
      if freeSlot c x && decide (cost ≤ x.writeTokens) then
        some (setCluster c k { x with run := some { r with shorts := out ++ { m with issued := true } :: rest },
                                      writeTokens := x.writeTokens - cost })
      else none
    | (_, []) => none

/-- A command's effect on the stream that a cluster's running task, or its next one, has for a descriptor. -/
def onStream (c : Chip) (k : ClusterNo) (i : Nat) (next : Bool) (f : RunTask → DescRec → Option Chip) : Option Chip :=
  match taskAt (clusterOf c k) next with
  | some r => (descAt c r.task i).bind (f r)
  | none => none

/-- What a cluster's stream engine issues for a descriptor: of the running task, else of the next, else a transfer on the short path. -/
def issueRequest (c : Chip) (k : ClusterNo) (i : Nat) : Option Chip :=
  match onStream c k i false (fun r d => issueStream c k false r i d) with
  | some c => some c
  | none =>
    match onStream c k i true (fun r d => issueStream c k true r i d) with
    | some c => some c
    | none => issueShort c k

/-- A stream of a cluster issues its next request once its bucket covers the cost. A halted cluster issues none (R327, R400). -/
def execStreamRequestIssue (c : Pos) (k : ClusterNo) (desc : Fin 32) (s : State) : Host.Outcome State Fault Refusal :=
  let p := getChip s c
  if !coreRuns p || (clusterOf p k).halted then .next s
  else
    match issueRequest p k desc.val with
    | some p => .next (setChip s c p)
    | none => .next s

/-! ## READ_DATA_RETURN -/

/-- A load's line as the cluster sees it, and the chip after it: from L1 where its attribute allows one, else the slice (Table 16-2,
R307); the last value is the fault code of its poison. -/
def loadLine (c : Chip) (k : ClusterNo) (t hint : Nat) (n : LineNeed) : Chip × BitVec 1024 × Nat :=
  let bad := if c.hbmPoison.contains n.line then 0x22 else 0x21
  match (if l1Hit (clusterOf c k) n then tabFind (clusterOf c k).l1 n.line else none) with
  | some o => (c, o.data, if o.poison then bad else 0)
  | none =>
    let c := if n.attr = 1 then dropL1 c n.line k else c
    let c := if sliceHit c n.line n.mask then useLine c n.line hint else fillSlice (recallPart c n) t n.line hint
    let c := fillL1 c k n.line n.attr
    (c, observeLine c n.line, if linePoison c n.line then bad else 0)
where
  /-- Dirty bytes that owners hold reach the slice before its fill. -/
  recallPart (c : Chip) (n : LineNeed) : Chip := (holdersOf c n.line).foldl (fun c o => pullDirty c n.line o) c

/-- Load several lines: the chip after them, each line's data, and the first poison met. -/
def loadLines (k : ClusterNo) (t hint : Nat) : List LineNeed → Chip → Chip × List (Nat × BitVec 1024) × Nat
  | [], c => (c, [], 0)
  | n :: rest, c =>
    let a := loadLine c k t hint n
    let b := loadLines k t hint rest a.1
    (b.1, (n.line, a.2.1) :: b.2.1, if a.2.2 = 0 then b.2.2 else a.2.2)

/-- A byte of a loaded line. -/
def byteOfLines (l : List (Nat × BitVec 1024)) (pa : Nat) : Byte := byteOf (tabGet 0#1024 l (pa / 128)) (pa % 128)

/-- What a load of tensor state reads: pending state under an update task, committed state otherwise, the step's accumulator (R236). -/
def tensorByte (c : Chip) (t : Task) (array a : Nat) : Byte :=
  let h := shardOf (ten c t.tenant) t.tensor t.shard
  if array = 4 then byteOf (memGet 0#32 (stepOf h t.step).acc (a / 4)) (a % 4)
  else if t.kind = 12 then viewByte h t.step array a
  else memGet 0#8 (arrayMem h array) a

/-- The poison of tensor state in some addresses of an array (Table 16-6). -/
def tensorPoison (c : Chip) (t : Task) (array : Nat) (l : List Nat) : Nat :=
  let h := shardOf (ten c t.tenant) t.tensor t.shard
  let ls := linesOf (committedBytes c t array l)
  if array = 4 then (if (stepOf h t.step).accPoison then 0x21 else 0)
  else
    let pend := (match prevPending h t.step with | some r => r.pendPoison | none => []) ++ (stepOf h t.step).pendPoison
    match h.poison.find? (fun p => decide (p.1 = array) && ls.contains p.2.1) with
    | some p => if p.2.2 then 0x22 else 0x21
    | none => if t.kind = 12 && pend.any (fun p => decide (p.1 = array) && (linesOf l).contains p.2) then 0x21 else 0

/-- The slices' lines of tensor state after a load of some offsets: committed lines are used or filled (R303), accumulator lines used. -/
def useTensor (c : Chip) (t : Task) (d : DescRec) (l : List Nat) : Chip :=
  if taskArray t d = 4 then
    (linesOf l).foldl (fun c n => useLine c (accKey c t.tenant t.tensor t.shard t.step n) 0) c
  else
    let l := committedBytes c t (taskArray t d) l
    (linesOf l).foldl (fun c n =>
      let key := tensorKey c t.tenant t.tensor t.shard (taskArray t d) n
      if sliceHit c key (maskOf n l) then useLine c key (stateHint d.hint)
      else loadTensor t.tenant t.tensor t.shard (taskArray t d) d.hint c [n]) c

/-- What a read of some addresses returns: the chip after it, the bytes, and the fault code of any poison. -/
def readBytes (c : Chip) (k : ClusterNo) (t : Task) (d : DescRec) (l : List Nat) : Chip × List Byte × Nat :=
  if d.space = 0 then
    let x := clusterOf c k
    (c, l.map (memGet 0#8 x.scratch), if l.any (fun a => x.scratchPoison.contains (a / 8)) then 0x21 else 0)
  else if d.space = 2 then (useTensor c t d l, l.map (tensorByte c t (taskArray t d)), tensorPoison c t (taskArray t d) l)
  else if isStash t then (c, l.map (Config.storageByte (posOf c) t.tenant), 0)
  else
    let r := loadLines k t.tenant d.hint (needsOf c t d l) c
    (r.1, l.map (fun a => byteOfLines r.2.1 (regionPa c t.tenant a)), r.2.2)

/-- The serial numbers of the requests in flight to a region line, from any cluster of a chip. -/
def serialsOn (c : Chip) (line : Nat) : List Nat :=
  c.clusters.flatMap (fun k => [k.2.run, k.2.next].flatMap (fun o =>
    match o with
    | none => []
    | some r => r.streams.flatMap (fun s =>
        match descAt c r.task s.1 with
        | some d =>
          if onRegions r.task d then
            ((placed s.2.completed s.2.inFlight).filter (fun p =>
              (regionLines c r.task (requestAddresses c r d s.2 p.1 p.2.bytes)).any (fun l => decide (l.1 = line)))).map (·.2.serial)
          else []
        | none => [])))

/-- The dead hint of an access to region lines: each is due to be invalidated once the accesses issued before it have completed (R310). -/
def noteDead (c : Chip) (t : Task) (d : DescRec) (serial : Nat) (l : List Nat) : Chip :=
  if onRegions t d && d.hint = 3 then
    forEach c (regionLines c t l) (fun c p =>
      { c with deadDue := tabSet c.deadDue p.1 ((serialsOn c p.1).filter (fun n => decide (n < serial))) })
  else c

/-- Whether a read touches a dead line (R311). -/
def rereadsDead (c : Chip) (t : Task) (d : DescRec) (l : List Nat) : Bool :=
  onRegions t d && (regionLines c t l).any (fun p => c.deadLines.contains p.1)

/-- STRICT_DEAD of a tenant's record. -/
def strictDead (c : Chip) (t : Nat) : Bool := match tenantRec c t with | some r => r.strictDead | none => false

/-- Whether n more bytes complete a stream's transfer. -/
def endsTransfer (d : DescRec) (s : Stream) (n : Nat) : Bool :=
  decide ((s.completed + n) % d.buffer = 0) || decide (s.completed + n = s.total)

/-- Bytes of a request have come: they fill the buffer, which becomes a handle when it is full or the stream ends; a warp's indices go to
its weft (R322). -/
def fillBuffer (c : Chip) (r : RunTask) (i : Nat) (d : DescRec) (s : Stream) (bs : List Byte) (poison : Nat) : RunTask :=
  let t := transferAt d s s.completed
  let data := s.data ++ bs
  let s' := { s with completed := s.completed + bs.length, inFlight := s.inFlight.tail, poison := if s.poison = 0 then poison else s.poison }
  if endsTransfer d s bs.length then
    if d.role = 1 then setStream r i (withBuffers { s' with data := [], indices := s.indices ++ (words data).map (·.toNat) } (s.inUse - 1))
    else
      let h : Handle :=
        { desc := i, stamp := r.stamps, start := t.1, bytes := inStreamOrder ((issueOrder c r d t).getD []) data, poison := s'.poison,
          last := decide (s'.completed = s.total) }
      setStream { pushHandle r d.queue h with stamps := r.stamps + 1 } i { s' with data := [], poison := 0 }
  else setStream r i { s' with data := data }

/-- Whether the handle that a request's bytes would complete finds its queue full (R322). -/
def queueFull (x : Cluster) (d : DescRec) (s : Stream) (n : Nat) : Bool :=
  decide (d.role ≠ 1) && endsTransfer d s n && decide (16 ≤ queueLength x d.queue)

/-- A read's data reach the cluster: the lines read, the dead hint noted, the buffer filled. -/
def deliverData (c : Chip) (k : ClusterNo) (next : Bool) (r : RunTask) (i : Nat) (d : DescRec) (s : Stream) (serial : Nat) (l : List Nat) :
    Chip :=
  let dead := rereadsDead c r.task d l
  let c := if dead then countTen c r.task.tenant 29 1 else c
  let v := readBytes c k r.task d l
  let c := noteDead v.1 r.task d serial l
  let r := { fillBuffer c r i d s v.2.1 v.2.2 with deadReuse := r.deadReuse || dead }
  modCluster c k (fun x => putTask x next r)

/-- The oldest read of a stream returns its data; none where there is none or it has to wait. -/
def returnData (c : Chip) (k : ClusterNo) (next : Bool) (r : RunTask) (i : Nat) (d : DescRec) : Option Chip :=
  let x := clusterOf c k
  match streamAt r i with
  | none => none
  | some s =>
    match s.inFlight with
    | [] => none
    | q :: _ =>
      let l := requestAddresses c r d s s.completed q.bytes
      let a : Access := { desc := i, load := true, lines := orderedLines c r.task d l, stamp := q.stamp }
      if d.op ≠ 0 || (needsOf c r.task d l).any (waitsForFill c x) || queueFull x d s q.bytes || !mayComplete c r a then none
      else if rereadsDead c r.task d l && strictDead c r.task.tenant then some (faultAt (countTen c r.task.tenant 29 1) k next 0x45)
      else some (deliverData c k next r i d s q.serial l)

/-- Read data returns to a stream of a cluster, halted or not: of the running task, else of the next (R328, R400). -/
def execReadDataReturn (c : Pos) (k : ClusterNo) (desc : Fin 32) (s : State) : Host.Outcome State Fault Refusal :=
  let p := getChip s c
  if !coreRuns p then .next s
  else
    match onStream p k desc.val false (fun r d => returnData p k false r desc.val d) with
    | some p => .next (setChip s c p)
    | none =>
      match onStream p k desc.val true (fun r d => returnData p k true r desc.val d) with
      | some p => .next (setChip s c p)
      | none => .next s

/-! ## WRITE_ACCEPT -/

/-- Bytes with their physical addresses, gathered into the lines they fall in: line, mask, data. -/
def gatherLines (l : List (Nat × Byte)) : List (Nat × BitVec 128 × BitVec 1024) :=
  ((l.map (fun p => p.1 / 128)).eraseDups).map (fun n =>
    let mine := l.filter (fun p => decide (p.1 / 128 = n))
    (n, mine.foldl (fun m p => m ||| byteMask (p.1 % 128) 1) 0#128,
     mine.foldl (fun d p => mergeLine (byteMask (p.1 % 128) 1) (placeBytes (p.1 % 128) [p.2]) d) 0#1024))

/-- Fours of old and new bytes added as binary32 elements (R309). -/
def addWords : List Byte → List Byte → List Byte
  | a :: b :: c :: d :: olds, e :: f :: g :: h :: news =>
    bytesOf (f32Add ((words [a, b, c, d]).headD 0#32) ((words [e, f, g, h]).headD 0#32)) 4 ++ addWords olds news
  | _, news => news

/-- Add to a line at its slice (R309): a coherent line is recalled first, the bytes added to are fetched where the slice does not hold them, and
poison that they carry stays (R317). -/
def addRegion (c : Chip) (t : Task) (d : DescRec) (attrs : List (Nat × Nat)) (g : Nat × BitVec 128 × BitVec 1024) : Chip :=
  let c := if tabGet 0 attrs g.1 = 2 then recallLine c g.1 else c
  let c := if sliceHit c g.1 g.2.1 then c else fillSlice c t.tenant g.1 d.hint
  let bad := linePoison c g.1
  let old := observeLine c g.1
  let places := (List.range 128).filter (fun i => g.2.1.getLsbD i)
  let sums := addWords (places.map (byteOf old)) (places.map (byteOf g.2.2))
  let new := (List.zip places sums).foldl (fun x p => mergeLine (byteMask p.1 1) (placeBytes p.1 [p.2]) x) 0#1024
  modLine (storeSlice c t.tenant g.1 d.hint g.2.1 new) g.1 (fun l => { l with poison := bad })

/-- Store bytes to region lines by the region's attribute (Table 16-2, R305, R306). -/
def storeRegion (c : Chip) (k : ClusterNo) (t : Task) (d : DescRec) (l : List Nat) (bs : List Byte) : Chip :=
  let attrs := regionLines c t l
  forEach c (gatherLines (List.zip (l.map (regionPa c t.tenant)) bs)) (fun c g =>
    if d.op = 2 then addRegion c t d attrs g
    else if tabGet 0 attrs g.1 = 2 then storeCoherent c k t.tenant g.1 d.hint g.2.1 g.2.2
    else storeSlice c t.tenant g.1 d.hint g.2.1 g.2.2)

/-- Write bytes at scratchpad offsets; words wholly written are clean again, words added to keep their poison (R317). -/
def storeScratch (x : Cluster) (d : DescRec) (l : List Nat) (bs : List Byte) : Cluster :=
  let new := if d.op = 2 then addWords (l.map (memGet 0#8 x.scratch)) bs else bs
  { x with scratch := (List.zip l new).foldl (fun m p => memSet 0#8 m p.1 p.2) x.scratch,
           scratchPoison := if d.op = 2 then x.scratchPoison else x.scratchPoison.filter (fun w => !(upFrom (8 * w) 8).all l.contains) }

/-- The bytes that a store of an update stage leaves at some offsets: its own, or their sum with what it finds there (R309). -/
def updateBytes (h : Shard) (step array : Nat) (d : DescRec) (l : List Nat) (bs : List Byte) : List Byte :=
  if d.op = 2 then addWords (l.map (viewByte h step array)) bs else bs

/-- Bytes are written to a step's pending array; poison of lines they cover goes with them, unless they were added to it. -/
def putPending (r : ShardStep) (array : Nat) (d : DescRec) (l : List Nat) (bs : List Byte) : ShardStep :=
  { r with pend := tabSet r.pend array ((List.zip l bs).foldl (fun m p => memPut m p.1 p.2) (pendMem r array)),
           pendPoison := if d.op = 2 then r.pendPoison else r.pendPoison.filter (fun p =>
             !(decide (p.1 = array) && (upFrom (128 * p.2) 128).all l.contains)) }

/-- Bytes are written to a shard's committed array; poison of lines they cover goes with them, unless they were added to it. -/
def putCommitted (h : Shard) (array : Nat) (d : DescRec) (l : List Nat) (bs : List Byte) : Shard :=
  { h with arrays := tabSet h.arrays array ((List.zip l bs).foldl (fun m p => memSet 0#8 m p.1 p.2) (arrayMem h array)),
           poison := if d.op = 2 then h.poison else h.poison.filter (fun p =>
             !(decide (p.1 = array) && (upFrom (128 * p.2.1) 128).all l.contains)) }

/-- A store of an update stage: pending state of the step, or, with its VERDICT known, dirty lines at once (R235, R245); where a second pass
reads what the stage found, results wait for the stage's end (R228). -/
def storeUpdate (c : Chip) (t : Task) (d : DescRec) (l : List Nat) (bs : List Byte) : Chip :=
  let h := shardOf (ten c t.tenant) t.tensor t.shard
  let bs := updateBytes h t.step d.array d l bs
  if isDirect c t && !twoPasses c t then
    storeTensor false t.tenant t.tensor t.shard d.array d.hint
      (modTen c t.tenant (fun x => modShard x t.tensor t.shard (fun h => putCommitted h d.array d l bs))) l
  else modTen c t.tenant (fun x => modShardStep x t.tensor t.shard t.step (fun r => putPending r d.array d l bs))

/-- What an accepted write does: an update's results, a region, the scratchpad; sends and other tensor state are the work of the task's
kind (log entry 10). -/
def writeBytes (c : Chip) (k : ClusterNo) (t : Task) (d : DescRec) (serial : Nat) (l : List Nat) (bs : List Byte) : Chip :=
  if d.op = 3 then c
  else if d.space = 0 then modCluster c k (fun x => storeScratch x d l bs)
  else if d.space = 1 then (if isStash t then c else noteDead (storeRegion c k t d l bs) t d serial l)
  else if writesUpdate c t d then storeUpdate c t d l bs
  else c

/-- Whether a write reaches a read-only region (R315). -/
def writesReadOnly (c : Chip) (t : Task) (d : DescRec) (l : List Nat) : Bool :=
  onRegions t d && decide (d.op ≠ 3) && (regionLines c t l).any (fun p => decide (p.2 = 1))

/-- A stream after its oldest write: the bytes have left its buffer, which is free once it is empty. -/
def afterWrite (s : Stream) (n : Nat) : Stream :=
  let s' := { s with completed := s.completed + n, inFlight := s.inFlight.tail, data := s.data.drop n }
  if s'.data.isEmpty then withBuffers s' (s.inUse - 1) else s'

/-- The oldest write of a running task's stream is accepted; none where there is none or it has to wait. -/
def acceptWrite (c : Chip) (k : ClusterNo) (r : RunTask) (i : Nat) (d : DescRec) : Option Chip :=
  match streamAt r i with
  | none => none
  | some s =>
    match s.inFlight with
    | [] => none
    | q :: _ =>
      let l := requestAddresses c r d s s.completed q.bytes
      let a : Access := { desc := i, load := false, lines := orderedLines c r.task d l, stamp := q.stamp }
      if d.op = 0 || !mayComplete c r a then none
      else
        let ro := writesReadOnly c r.task d l
        let c := modCluster c k (fun x => putTask x false (setStream r i (afterWrite s q.bytes)))
        let c := writeBytes c k r.task d q.serial l (s.data.take q.bytes)
        some (if ro then faultAt c k false 0x31 else c)

/-- The oldest outstanding transfer on the short path is accepted (R320). -/
def acceptShort (c : Chip) (k : ClusterNo) : Option Chip :=
  match (clusterOf c k).run with
  | none => none
  | some r =>
    match r.shorts with
    | m :: rest => if m.issued then some (modCluster c k (fun x => { x with run := some { r with shorts := rest } })) else none
    | [] => none

/-! ## Slice events -/

/-- A region line's fill reaches a cluster whose L1 waits for it, and its miss register is free (R312, R313). -/
def fillCluster (line attr : Nat) (c : Chip) (k : ClusterNo) : Chip :=
  let free (o : Option RunTask) : Option RunTask :=
    o.map (fun r => { r with streams := tabMap (fun _ s =>
      { s with inFlight := s.inFlight.map (fun q => { q with missed := q.missed.filter (fun n => decide (n ≠ line)) }) }) r.streams })
  if (missedLines (clusterOf c k)).contains line then
    modCluster (fillL1 (if attr = 1 then dropL1 c line k else c) k line attr) k (fun x => { x with run := free x.run, next := free x.next })
  else c

/-- A line's fill leaves its slice: one HBM read, sent to every cluster recorded (R313). -/
def execLineFill (c : Pos) (line : Nat) (s : State) : Host.Outcome State Fault Refusal :=
  let p := getChip s c
  match tabFind p.lineMisses line with
  | none => .next s
  | some m =>
    if !coreRuns p then .next s
    else
      let p := { p with lineMisses := tabErase p.lineMisses line }
      match m.kind with
      | .region =>
        let attr := match extentAt p m.tenant (line / 16384) with | some e => (extentAttr p m.tenant e.kind).getD 0 | none => 0
        let p := fillSlice ((holdersOf p line).foldl (fun p o => pullDirty p line o) p) m.tenant line 0
        .next (setChip s c (forEach p ((m.waiters.map (·.1)).eraseDups) (fillCluster line attr)))
      | .tensor tensor shard array =>
        .next (setChip s c (loadTensor m.tenant tensor shard array 0 p [line - arrayLine p m.tenant tensor shard array]))
      | .acc _ _ _ => .next (setChip s c p)

/-- A line under a dead hint is invalidated in the slice and in every L1, without write-back, once every access to it issued before the dead
one has completed (R310). -/
def execDeadLineInvalidate (c : Pos) (line : Nat) (s : State) : Host.Outcome State Fault Refusal :=
  let p := getChip s c
  if coreRuns p && deadDone p line then .next (setChip s c (dropDead p line)) else .next s

end Sys2Proof.Machine
end

