-- ==== Sys2Proof/Machine/Tasks.lean ====
section
/-!
DEFINITION. Tasks and stages on a cluster (R128, R329, R330, chapter 19): what starts, what a stage does as it starts and as it
ends, stage bounds, SYNC_ACK, and uncorrectable errors (R317).
-/
namespace Sys2Proof.Machine

/-! ## Recipes of tasks -/

/-- Stage n of recipe i. -/
def stageAt (c : Chip) (i n : Nat) : Option StageRec :=
  match recipeAt c i with
  | some r => r.stages[n]?
  | none => none

/-- How many stages recipe i has. -/
def stageCount (c : Chip) (i : Nat) : Nat :=
  match recipeAt c i with
  | some r => r.stages.length
  | none => 0

/-- PROLOGUE of recipe i. -/
def prologueOf (c : Chip) (i : Nat) : Nat :=
  match recipeAt c i with
  | some r => r.prologue
  | none => 0

/-- BOUND of stage n of recipe i. -/
def boundOf (c : Chip) (i n : Nat) : Nat :=
  match stageAt c i n with
  | some s => s.bound
  | none => 0

/-- Whether no stage of recipe i from n on issues a load stream: the task is in its epilogue (R330). -/
def noLoadsFrom (c : Chip) (i n : Nat) : Bool :=
  match recipeAt c i with
  | some r => (r.stages.drop n).all (fun s => s.code ≠ 0x01 && s.code ≠ 0x03 && s.code ≠ 0x04)
  | none => true

/-- A task about to run its first stage. -/
def freshRun (c : Chip) (t : Task) (prologueOnly : Bool) : RunTask :=
  { task := t, stage := 0, active := false, count := 0, waitFor := .nothing, streams := [], queues := [], consumed := [], outs := [],
    shorts := [], stamps := 0, deadReuse := false, loadsIssued := noLoadsFrom c t.recipe 0, prologueOnly := prologueOnly }

/-! ## Service between tenants (R128) -/

/-- The quantum of a tenant in cycles. -/
def cycleQuantum (c : Chip) (t : Nat) : Nat := shareOf c t * 16384

/-- The charge of a stage at the issue rate in force. -/
def chargeOf (c : Chip) (bound : Nat) : Nat := ceilDiv (16 * bound) c.wake.issueRate

/-- n rounds of quanta for the tenants with work on a cluster; the others hold none. -/
def addRounds (c : Chip) (n : Nat) (x : Cluster) : Cluster :=
  { x with deficit := ((List.range 8).filter (hasWork x)).map (fun t => (t, tabGet 0 x.deficit t + n * cycleQuantum c t)) }

/-- Charge a stage to its tenant, after the rounds that its counter still needs. -/
def chargeStage (c : Chip) (k : ClusterNo) (t bound : Nat) : Chip :=
  modCluster c k (fun x =>
    let n := chargeOf c bound
    let x := addRounds c (roundsFor (cycleQuantum c) (fun t => tabGet 0 x.deficit t) (t, n)) x
    { x with deficit := tabSet x.deficit t (tabGet 0 x.deficit t - n) })

/-! ## Which task starts (R237, R241, R246, R247, R271, R329) -/

/-- A shard's stage of a step has ended, with no task of it left, and is not owed again (R237). -/
def stageEnded (c : Chip) (t tensor shard step : Nat) : Bool :=
  (stepOf (shardOf (ten c t) tensor shard) step).applied || stageStill c t tensor shard step

/-- Whether an update task may start: after its shard's stage of the step before, after a cascaded step before it has committed or rolled
back, and not while its tenant stands still for want of pending space. -/
def mayUpdate (c : Chip) (t : Task) : Bool :=
  let x := ten c t.tenant
  !isStalled c t &&
  (match t.step with
   | 0 => true
   | s + 1 => resolvedBy x s || (stageEnded c t.tenant t.tensor t.shard s && !(stepRec x s).cascade))

/-- Whether a queued task may start: a stash task after the earlier ones of its slot (R271). -/
def mayStart (c : Chip) (t : Task) : Bool :=
  if t.kind = 12 then mayUpdate c t else !(isStash t && anyTask c (stashBefore t))

/-- The task of a tenant that starts next on a cluster: the first in its queue that may. -/
def nextTask (c : Chip) (x : Cluster) (t : Nat) : Option Task := x.queue.find? (fun u => decide (u.tenant = t) && mayStart c u)

/-- The tenants with a task to start and the charge of its first stage, tenants ascending. -/
def taskHeads (c : Chip) (x : Cluster) : List (Nat × Nat) :=
  (List.range 8).filterMap (fun t => (nextTask c x t).map (fun u => (t, chargeOf c (boundOf c u.recipe 0))))

/-! ## TASK_START -/

/-- A wait of 1 ms or more in a cluster's queue within a step's window (R333). -/
def noteWait (now : Nat) (c : Chip) (u : Task) : Chip :=
  modTen c u.tenant (fun x =>
    let long (r : StepRec) : Bool := !r.resolved && decide (millisecond ≤ waitInWindow r now u)
    { x with steps := tabMap (fun _ r => if long r then { r with saturated := true } else r) x.steps })

/-- What a task does for the frame that causes it, as its kind defines it (Table 19-1). -/
def coreWork (c : Chip) (t : Task) : Chip :=
  match t.cause with
  | none => c
  | some f =>
    match t.kind with
    | 0 => runAccumulate c t f
    | 1 => runSplit c f
    | 3 => serveInit c f
    | 4 => runPull c f
    | 5 => servePut c f
    | 6 => servePut c f
    | 7 => servePut c f
    | 8 => serveGet c f
    | 9 => serveGet c f
    | 10 => serveGet c f
    | 11 => serveMask c f
    | _ => c

/-- The end of a task that a frame causes: the next task of the frame's work is queued, and with the last one the work is done (R357). -/
def endWork (c : Chip) (t : Task) : Chip :=
  match (workTasks c t)[t.part + 1]? with
  | some n => queueTask c (taskPlace c n) n
  | none => coreWork c t

/-- Whether a task may run whole on a cluster as it starts: its recipe does, and the cluster's buckets hold all that it takes (log entry 10). -/
def startsWhole (c : Chip) (x : Cluster) (t : Task) : Bool := decide (t.kind ≠ 12) && runsWhole c t.recipe && canPay c x t

/-- Charge every stage of a task that runs whole. -/
def chargeAll (c : Chip) (k : ClusterNo) (t : Task) : Chip :=
  forEach c (List.range (stageCount c t.recipe)) (fun c n => chargeStage c k t.tenant (boundOf c t.recipe n))

/-- A task leaves its cluster's queue and runs there, its first stage to come. -/
def placeTask (c : Chip) (now : Nat) (k : ClusterNo) (t : Task) : Chip :=
  let c := noteWait now (modCluster c k (fun x => { x with queue := x.queue.erase t })) t
  modCluster (countTen (enterCluster c k t) t.tenant 27 1) k (fun x => { x with run := some (freshRun c t false), prologueDue := false })

/-- A task that runs whole ends: the cluster is free, and the work it is part of goes on. -/
def endWhole (c : Chip) (k : ClusterNo) (t : Task) : Chip :=
  endWork (modCluster c k (fun x => dropDeficits
    { payWhole c t x with run := none, passed := false, completion := some { task := t, deadReuse := false } })) t

/-- A task starts on an idle cluster: whole, or with its first stage to come; one whose reserves do not fit ends with 0x42 (R324). -/
def beginTask (c : Chip) (now : Nat) (k : ClusterNo) (t : Task) : Chip :=
  let whole := startsWhole c (clusterOf c k) t
  let hits := if whole && !(clusterOf c k).passed then slotsWhere c (fun b => taskSlot b t) else []
  if !hits.isEmpty then hitSlots c k hits
  else if !whole then
    let c := placeTask c now k t
    if recipeFits c t.recipe then c else faultAt c k false 0x42
  else
    let c := placeTask (chargeAll c k t) now k t
    match wholeFault c t with
    | some code => faultAt c k false code
    | none => endWhole c k t

/-- Whether a tenant's next queued task may start its prologue beside the running task (R330). -/
def mayPrologue (c : Chip) (x : Cluster) (r : RunTask) (t : Task) : Bool :=
  r.loadsIssued && x.next.isNone && decide (t.l1 = r.task.l1) && decide (0 < prologueOf c t.recipe) && !startsWhole c x t &&
  (match recipeAt c t.recipe with | some p => decide (reserveBytes p ≤ poolBytes c x r.task) | none => false)

/-- The next task of the running task's tenant takes its reserves, its prologue to come. -/
def beginNext (c : Chip) (now : Nat) (k : ClusterNo) (t : Task) : Chip :=
  let c := noteWait now (modCluster c k (fun x => { x with queue := x.queue.erase t, next := some (freshRun c t true) })) t
  countTen c t.tenant 27 1

/-- A task starts on a cluster: deficit round-robin chooses the tenant, the queue's order the task (R128, R329). -/
def startTask (c : Chip) (now : Nat) (k : ClusterNo) : Chip :=
  let x := clusterOf c k
  match x.run with
  | some r =>
    (match nextTask c x r.task.tenant with
     | some t => if mayPrologue c x r t then beginNext c now k t else c
     | none => c)
  | none =>
    let heads := taskHeads c x
    let deficit (t : Nat) : Nat := tabGet 0 x.deficit t
    match drrServe (cycleQuantum c) deficit heads with
    | none => c
    | some (t, _) =>
      (match nextTask c x t with
       | some u => beginTask (setCluster c k (addRounds c (drrRounds (cycleQuantum c) deficit heads) x)) now k u
       | none => c)

/-- A task starts; a halted cluster starts none (R400). -/
def execTaskStart (c : Pos) (k : ClusterNo) (s : State) : Host.Outcome State Fault Refusal :=
  let p := getChip s c
  if coreRuns p && !(clusterOf p k).halted then .next (setChip s c (startTask p s.tray.now k)) else .next s

/-! ## What a stage finds as it starts (R322, R323) -/

/-- Whether a stage is one of those that compute on handles. -/
def isCompute (code : Nat) : Bool := decide (0x05 ≤ code) && decide (code ≤ 0x0D)

/-- Whether a stage names a range by IN0 (R353). -/
def isRange (code : Nat) : Bool := decide (0x0E ≤ code) && decide (code ≤ 0x10)

/-- Whether a stage orders the accesses around it (R318, R342). -/
def isOrder (code : Nat) : Bool := decide (0x11 ≤ code)

/-- Whether a stream named by index moves nothing in this task. -/
def movesNothing (r : RunTask) (i : Nat) : Bool :=
  match streamAt r i with
  | some s => decide (s.total = 0)
  | none => false

/-- The payload that 0xFE names: GRAD and INIT payloads in the frame's format, STASH_PUT payloads in BF16. -/
def payloadIn (t : Task) : Option StageIn :=
  match t.cause with
  | some f =>
    some { fmt := some (if 5 ≤ t.kind then 1 else (rxHead f).format), start := 0, bytes := f.frame.payload, poison := 0 }
  | none => none

/-- What one IN byte takes: nothing, the payload, or the handle at the head of its stream's queue, and the task without it. -/
def takeIn (c : Chip) (r : RunTask) (i : Nat) : Option (StageIn × RunTask) :=
  let nothing : StageIn := { fmt := none, start := 0, bytes := [], poison := 0 }
  if i = 0xFF || movesNothing r i then some (nothing, r)
  else if i = 0xFE then (payloadIn r.task).map (fun p => (p, r))
  else
    match descAt c r.task i with
    | none => none
    | some d =>
      match queueAt r d.queue with
      | h :: rest =>
        if h.desc = i then
          some ({ fmt := descFmt c r.task d, start := h.start, bytes := h.bytes, poison := h.poison },
                { r with queues := tabSet r.queues d.queue rest, consumed := r.consumed ++ [i] })
        else none
      | [] => none

/-- Every input of a stage, in IN order; none while a handle is not in its queue. -/
def takeIns (c : Chip) : List Nat → RunTask → Option (List StageIn × RunTask)
  | [], r => some ([], r)
  | i :: rest, r =>
    match takeIn c r i with
    | none => none
    | some (a, r) =>
      match takeIns c rest r with
      | none => none
      | some (l, r) => some (a :: l, r)

/-- Whether every output stream that a stage names and another has issued holds a free buffer. -/
def outsFree (c : Chip) (x : Cluster) (r : RunTask) (outs : List Nat) : Bool :=
  outs.all (fun i =>
    i = 0xFF ||
    (match streamAt r i, descAt c r.task i with
     | some s, some d => decide (s.total = 0) || freeBuffer c x r d s
     | _, _ => false))

/-- Whether no store of the task is left: none in flight, in a buffer or in a queue. -/
def isDrained (c : Chip) (r : RunTask) : Bool :=
  let stores (i : Nat) : Bool := match descAt c r.task i with | some d => decide (d.op ≠ 0) | none => false
  r.streams.all (fun s => !stores s.1 || (s.2.inFlight.isEmpty && s.2.data.isEmpty)) &&
  r.queues.all (fun q => q.2.all (fun h => !stores h.desc))

/-- Every access of a task before an ordering stage has taken effect: its load streams have fetched all that they move, and no store is left
in flight, in a buffer or in a queue (R318, R342). The scratchpad is the cluster's own, and a send is no access. -/
def accessesDone (c : Chip) (r : RunTask) : Bool :=
  let reaches (i : Nat) : Bool := match descAt c r.task i with | some d => decide (d.space ≠ 0) | none => false
  let loads (i : Nat) : Bool := match descAt c r.task i with | some d => decide (d.op = 0) | none => false
  r.streams.all (fun s =>
    !reaches s.1 || (if loads s.1 then decide (s.2.completed = s.2.total) else s.2.inFlight.isEmpty && s.2.data.isEmpty)) &&
  r.queues.all (fun q => q.2.all (fun h => loads h.desc || !reaches h.desc))

/-- Whether a SIGNAL reaches an object of another chip (Table 19-3). -/
def isRemote (c : Chip) (s : StageRec) : Bool := decide (s.code = 0x12) && decide (s.target ≠ 0xFFFF) && decide (s.target ≠ chipNo c)

/-- Egress tokens of one SYNC_OP: a 32-byte header and 16 bytes (Table 17-2). -/
def syncCost : Nat := 320 * 48

/-- Whether a stage of a task could start now, but for its input handles: its output buffers are free (R323), what precedes a SIGNAL, WAIT or
BARRIER has taken effect (R342), a SYNC_OP finds its tokens (R327), and the task does not stand still for want of pending space (R241). -/
def stageReady (c : Chip) (x : Cluster) (r : RunTask) (s : StageRec) : Bool :=
  outsFree c x r (handleOuts s) && (!isOrder s.code || s.code = 0x11 || accessesDone c r) &&
  (!isRemote c s || decide (syncCost ≤ x.egressTokens)) && !isStalled c r.task

/-! ## What a stage does -/

/-- A stream just issued. -/
def freshStream (c : Chip) (t : Task) (d : DescRec) : Stream :=
  { total := descTotal c t d, issued := 0, completed := 0, inFlight := [], inUse := 0, borrowed := 0, data := [], poison := 0,
    indices := [], start := 0, length := 0, stamp := 0 }

/-- Issue the streams that a LOAD, STORE, GATHER or SCATTER stage names. -/
def issueStreams (c : Chip) (r : RunTask) (outs : List Nat) : RunTask :=
  outs.foldl (fun r i =>
    match descAt c r.task i with
    | some d => { setStream r i { freshStream c r.task d with stamp := r.stamps } with stamps := r.stamps + 1 }
    | none => r) r

/-- Bytes of a store stream that have been pushed so far. -/
def pushedBytes (c : Chip) (r : RunTask) (i : Nat) : Nat :=
  match streamAt r i, descAt c r.task i with
  | some s, some d => s.completed + s.data.length + ((queueAt r d.queue).filter (fun h => decide (h.desc = i))).foldl (fun n h => n + h.bytes.length) 0
  | _, _ => 0

/-- A stage fills a buffer of an output stream; its handle is pushed as the stage ends. -/
def fillOut (c : Chip) (r : RunTask) (o : Nat × List Byte) : RunTask :=
  match streamAt r o.1 with
  | some s =>
    if s.total = 0 then r
    else
      let start := pushedBytes c r o.1
      let h : Handle := { desc := o.1, stamp := 0, start := start, bytes := o.2, poison := 0, last := decide (s.total ≤ start + o.2.length) }
      setStream { r with outs := r.outs ++ [h] } o.1 (withBuffers s (s.inUse + 1))
  | none => r

/-- Push the handles of the buffers that a stage has filled; an empty one is freed (R322). -/
def pushOuts (c : Chip) (r : RunTask) : RunTask :=
  r.outs.foldl (fun r h =>
    match streamAt r h.desc, descAt c r.task h.desc with
    | some s, some d =>
      if h.bytes.isEmpty then setStream r h.desc (withBuffers s (s.inUse - 1))
      else { pushHandle r d.queue { h with stamp := r.stamps } with stamps := r.stamps + 1 }
    | _, _ => r) { r with outs := [] }

/-- Release the buffers of the handles that a stage has consumed (R322). -/
def releaseIns (r : RunTask) : RunTask :=
  r.consumed.foldl (fun r i =>
    match streamAt r i with
    | some s => setStream r i (withBuffers s (s.inUse - 1))
    | none => r) { r with consumed := [] }

/-- What a compute stage puts into its outputs, and the chip after it. -/
def computeStage (c : Chip) (k : ClusterNo) (t : Task) (s : StageRec) (ins : List StageIn) : Chip × List (List Byte) :=
  if s.code = 0x05 then
    match shardInfo c t.tenant t.tensor t.shard with
    | none => (c, [])
    | some i =>
      let at' (n : Nat) : StageIn := ins.getD n { fmt := none, start := 0, bytes := [], poison := 0 }
      let e0 := firstElem 0 (at' 0).start
      let running := decide ((stepOf (shardOf (ten c t.tenant) t.tensor t.shard) t.step).update = .running)
      let v := runUpdate c k t.tenant t.tensor t.shard t.step e0 (t.first + e0) i
        { w := (at' 0).bytes, m := (at' 1).bytes, v := (at' 2).bytes, acc := (at' 3).bytes }
      let c := if running then v.1 else modTen c t.tenant (fun x => { x with lanes := v.2.tenant.lanes })
      (c, [v.2.w, v.2.m, v.2.v, v.2.copy])
  else
    let v := runStage c k t s ins
    (v.1, [v.2])

/-- The addresses of a range stage's descriptor, and the fault of one outside the map or the array (R315, R321). -/
def rangeOf (c : Chip) (r : RunTask) (d : DescRec) : Option Nat × List Nat :=
  let l := bytesAt c r d 0 (descTotal c r.task d)
  (addressFault c r.task d l, l)

/-- PREFETCH, FLUSH or INVALIDATE of one region line (Table 16-5); an L1 that holds a read-only line keeps its copy (R305). -/
def rangeLine (code : Nat) (k : ClusterNo) (t : Nat) (c : Chip) (p : Nat × Nat) : Chip :=
  let pulled (c : Chip) : Chip := (holdersOf c p.1).foldl (fun c o => pullDirty c p.1 o) c
  let clean (c : Chip) : Chip := writeBackLine ((holdersOf c p.1).foldl (fun c o => cleanL1 (pullDirty c p.1 o) p.1 o) c) p.1
  if code = 0x0E then fillL1 (fillSlice (pulled c) t p.1 0) k p.1 p.2
  else if p.2 = 1 then (if code = 0x10 then dropL1 c p.1 k else c)
  else if code = 0x0F then clean c
  else evictLine c p.1
where
  cleanL1 (c : Chip) (line : Nat) (k : ClusterNo) : Chip :=
    modCluster c k (fun x =>
      match tabFind x.l1 line with
      | some l => { x with l1 := tabSet x.l1 line { l with dirty := 0#128 } }
      | none => x)

/-- PREFETCH, FLUSH or INVALIDATE of the lines of a range (Table 16-5): a region's lines by attribute; committed lines of tensor state are
filled or written back; pending and accumulator lines stand as they are. -/
def runRange (code : Nat) (k : ClusterNo) (t : Task) (d : DescRec) (l : List Nat) (c : Chip) : Chip :=
  if onRegions t d then (regionLines c t l).foldl (rangeLine code k t.tenant) c
  else
    let ns := committedLines t d l
    if code = 0x0E then loadTensor t.tenant t.tensor t.shard (taskArray t d) 0 c ns
    else ns.foldl (fun c n => writeBackLine c (tensorKey c t.tenant t.tensor t.shard (taskArray t d) n)) c

/-- A range stage's effect, or the fault of its range. -/
def rangeStage (c : Chip) (k : ClusterNo) (r : RunTask) (s : StageRec) : Chip :=
  match descAt c r.task (s.ins.headD 0xFF) with
  | none => c
  | some d =>
    match rangeOf c r d with
    | (some code, _) => faultAt c k false code
    | (none, l) => runRange s.code k r.task d l c

/-- A SIGNAL, WAIT or BARRIER stage applies its operation (Table 18-2, R343, R346). -/
def syncStage (c : Chip) (k : ClusterNo) (t : Task) (s : StageRec) : Chip :=
  let n := syncNumber c t.tenant s.sync
  let v := BitVec.ofNat 32 s.operand
  if !syncIndexOk c t.tenant s.sync then faultAt c k false 0x82
  else if s.code = 0x12 then
    (if isRemote c s then
       remoteSync (modCluster c k (fun x => { x with egressTokens := x.egressTokens - syncCost })) k t.tenant s.target s.arg s.sync v
     else applySync c n s.arg v)
  else if s.code = 0x13 then waitSync c k n v
  else barrierSync c k n

/-- Whether a stage reads a poisoned amax history (Table 16-6). -/
def readsBadHistory (c : Chip) (t : Task) (code : Nat) : Bool :=
  decide (code = 0x05) && (shardOf (ten c t.tenant) t.tensor t.shard).histPoison

/-- The code of the poison a compute stage uses; 0 for none (R317). -/
def usedPoison (c : Chip) (t : Task) (code : Nat) (ins : List StageIn) : Nat :=
  if readsBadHistory c t code then 0x21
  else match (ins.find? (fun i => decide (i.poison ≠ 0))) with
    | some i => i.poison
    | none => 0

/-- n bytes that a stage writes directly, in transfers of 256 bytes or less (R320). -/
def shortMoves (n : Nat) : List ShortMove :=
  (List.range (ceilDiv n 256)).map (fun i => { bytes := min 256 (n - 256 * i), issued := false })

/-- The transfers that a stage issues directly: a NORM2 stage's block sums go to a device area (R320, R356). -/
def shortsOf (s : StageRec) (outs : List (List Byte)) : List ShortMove :=
  if s.code = 0x09 then shortMoves (outs.headD []).length else []

/-- A compute stage starts: poison it would use ends its task (R317); what it puts out stands in its buffers. -/
def startCompute (c : Chip) (k : ClusterNo) (next : Bool) (r : RunTask) (s : StageRec) (ins : List StageIn) : Chip :=
  let place (c : Chip) (r : RunTask) : Chip := modCluster c k (fun x => putTask x next r)
  let poison := usedPoison c r.task s.code ins
  if poison ≠ 0 then faultAt (place c r) k next poison
  else
    let v := computeStage c k r.task s ins
    place v.1 { (List.zip s.outs v.2).foldl (fillOut v.1) r with shorts := shortsOf s v.2 }

/-- The stage of the running task, or of the next one's prologue, starts with its inputs. -/
def runStart (c : Chip) (k : ClusterNo) (next : Bool) (r : RunTask) (s : StageRec) (ins : List StageIn) : Chip :=
  let t := r.task
  let c := modCluster (chargeStage c k t.tenant s.bound) k (fun x =>
    { x with passed := false, prologueDue := if next then false else x.prologueDue })
  let r := { r with active := true, count := 0, waitFor := .nothing }
  let place (r : RunTask) : Chip := modCluster c k (fun x => putTask x next r)
  if isCompute s.code then startCompute c k next r s ins
  else if s.code ≤ 0x04 then
    place { issueStreams c r (issuedBy s) with loadsIssued := noLoadsFrom c t.recipe (r.stage + 1) }
  else if isRange s.code then rangeStage (place r) k r s
  else if s.code = 0x11 then place r
  else syncStage (place r) k t s

/-! ## STAGE_START -/

/-- Breakpoint slots that a stage about to start hits (R402). -/
def stageHits (c : Chip) (x : Cluster) (r : RunTask) : List Nat :=
  if x.passed then []
  else slotsWhere c (fun b => stageSlot b r.task.recipe r.stage || (decide (r.stage = 0) && taskSlot b r.task))

/-- A task's next stage starts, when its inputs and buffers are there. -/
def startStage (c : Chip) (k : ClusterNo) (next : Bool) (r : RunTask) : Chip :=
  let x := clusterOf c k
  match stageAt c r.task.recipe r.stage with
  | none => c
  | some s =>
    match takeIns c (if isRange s.code then [] else s.ins) r with
    | none => c
    | some (ins, r') =>
      if !stageReady c x r' s then c
      else
        let hits := stageHits c x r
        if hits.isEmpty then runStart c k next r' s ins else hitSlots c k hits

/-- Whether the next task's prologue has a stage to run now (R330). -/
def prologueTurn (c : Chip) (x : Cluster) : Option RunTask :=
  match x.next with
  | some n => if x.prologueDue && decide (n.stage < prologueOf c n.task.recipe) then some n else none
  | none => none

/-- A cluster starts its next stage: a prologue stage of the next task where one is due, else of the running task. -/
def nextStage (c : Chip) (k : ClusterNo) : Chip :=
  let x := clusterOf c k
  match prologueTurn c x, x.run with
  | some n, _ => startStage c k true n
  | none, some r => startStage c k false r
  | none, none => c

/-- A stage of the cluster's running task, or of the next one, is under way. -/
def stageActive (x : Cluster) : Bool :=
  (match x.run with | some r => r.active | none => false) || (match x.next with | some r => r.active | none => false)

/-- A stage starts on a cluster; a halted one starts none (R323, R400). -/
def execStageStart (c : Pos) (k : ClusterNo) (s : State) : Host.Outcome State Fault Refusal :=
  let p := getChip s c
  let x := clusterOf p k
  if coreRuns p && !x.halted && !stageActive x then .next (setChip s c (nextStage p k)) else .next s

/-! ## STAGE_END -/

/-- Whether a running task's stages have all ended and its stores are accepted. -/
def taskOver (c : Chip) (r : RunTask) : Bool := !r.active && decide (stageCount c r.task.recipe ≤ r.stage) && isDrained c r

/-- An update task's tile is done. -/
def noteTile (c : Chip) (t : Task) : Chip :=
  modTen c t.tenant (fun x => modShardStep x t.tensor t.shard t.step (fun r =>
    if r.update = .running then { r with tilesDone := r.tilesDone ++ [t.first / tileOf c t.recipe] } else r))

/-- The running task ends where nothing of it is left: its kind's work is done, and the next task goes on (R330). -/
def finishTask (c : Chip) (k : ClusterNo) : Chip :=
  let x := clusterOf c k
  match x.run with
  | none => c
  | some r =>
    if !taskOver c r then c
    else
      let t := r.task
      let c := setCluster c k (dropDeficits
        { x with run := x.next.map (fun n => { n with prologueOnly := false }), next := none, prologueDue := false,
                 completion := some { task := t, deadReuse := r.deadReuse } })
      if t.kind = 12 then settle2 t.tenant t.step (noteTile c t) else endWork c t

/-- Whether the handles that a stage pushes as it ends find room in their queues (R322). -/
def outsFit (c : Chip) (x : Cluster) (r : RunTask) : Bool :=
  let queueOf (h : Handle) : Nat := match descAt c r.task h.desc with | some d => d.queue | none => 0
  let out := r.outs.filter (fun h => !h.bytes.isEmpty)
  out.all (fun h => decide (queueLength x (queueOf h) + (out.filter (fun o => decide (queueOf o = queueOf h))).length ≤ 16))

/-- Whether the stage that a task is in may end now: it waits for nothing, its short transfers are done (R320), what precedes a FENCE has taken
effect (R318), and its handles find room. -/
def stageOverNow (c : Chip) (x : Cluster) (r : RunTask) : Bool :=
  match r.waitFor with
  | .released => true
  | .reach _ _ => false
  | .ack _ => false
  | .nothing =>
    decide (r.count < 16 * boundOf c r.task.recipe r.stage) && r.shorts.isEmpty && outsFit c x r &&
    (match stageAt c r.task.recipe r.stage with | some s => s.code ≠ 0x11 || accessesDone c r | none => true)

/-- The stage of a task ends: its handles are pushed, its inputs released; a step of one stage halts the cluster (R401). -/
def endStage (c : Chip) (k : ClusterNo) (next : Bool) (r : RunTask) : Chip :=
  let r := { releaseIns (pushOuts c r) with active := false, stage := r.stage + 1, waitFor := .nothing, count := 0 }
  modCluster c k (fun x =>
    let halt := decide (x.stepMode = .stage)
    { putTask x next r with
      prologueDue := if next then false else r.loadsIssued,
      halted := x.halted || halt,
      stepMode := if halt then .none else x.stepMode })

/-- A stage ends on a cluster; with the last one its task ends once its stores are accepted (R329, R361). -/
def execStageEnd (c : Pos) (k : ClusterNo) (s : State) : Host.Outcome State Fault Refusal :=
  let p := getChip s c
  let x := clusterOf p k
  let go (next : Bool) (r : RunTask) : Host.Outcome State Fault Refusal :=
    if stageOverNow p x r then .next (setChip s c (finishTask (endStage p k next r) k)) else .next s
  if !coreRuns p || x.halted then .next s
  else
    match x.run, x.next with
    | some r, n =>
      if r.active then go false r
      else (match n with | some n => if n.active then go true n else .next s | none => .next s)
    | none, _ => .next s

/-! ## STAGE_BOUND_EXCEEDED (R346, R360) -/

/-- The code of a stage that has reached its bound. -/
def boundFault (r : RunTask) : Nat :=
  match r.waitFor with
  | .reach _ _ => 0x80
  | .ack _ => 0x81
  | _ => 0x43

/-- Whether the stage that a task is in has reached its bound without ending. -/
def overBound (c : Chip) (r : RunTask) : Bool :=
  r.active && decide (r.waitFor ≠ .released) && decide (16 * boundOf c r.task.recipe r.stage ≤ r.count)

/-- A stage's count has reached 16 × BOUND: its task ends (R360). A frozen stage's count stands (R400). -/
def execStageBoundExceeded (c : Pos) (k : ClusterNo) (s : State) : Host.Outcome State Fault Refusal :=
  let p := getChip s c
  let x := clusterOf p k
  let beyond (o : Option RunTask) : Bool := match o with | some r => overBound p r | none => false
  if !coreRuns p || x.halted then .next s
  else
    match x.run with
    | some r =>
      if beyond x.run then .next (setChip s c (faultAt p k false (boundFault r)))
      else if beyond x.next then .next (setChip s c (faultAt p k true 0x43))
      else .next s
    | none => .next s

/-! ## WRITE_ACCEPT -/

/-- A slice accepts the oldest write of a stream, else of the short path, halted or not (R320, R328, R400); with the last one of a task
whose stages have all ended the task ends. -/
def execWriteAccept (c : Pos) (k : ClusterNo) (desc : Fin 32) (s : State) : Host.Outcome State Fault Refusal :=
  let p := getChip s c
  if !coreRuns p then .next s
  else
    match onStream p k desc.val false (fun r d => acceptWrite p k r desc.val d) with
    | some p => .next (setChip s c (finishTask p k))
    | none =>
      match acceptShort p k with
      | some p => .next (setChip s c p)
      | none => .next s

/-! ## SYNC_ACK (R343, R344) -/

/-- A SYNC_ACK: the one operation outstanding to that chip is done, its stage may end, and the next one leaves. -/
def takeSyncAck (c : Chip) (f : RxFrame) : Chip :=
  let q := rxHead f
  let x := ten c q.tenant
  let from' := (originOf c f).1.toNat
  let s := syncTxOf x from'
  if tenantDeaf c x then countTen c q.tenant 32 1
  else
    match s.outstanding with
    | some (seq, k) =>
      if seq = q.seq then
        let c := setTen c q.tenant { x with syncTx := tabSet x.syncTx from' { s with outstanding := none } }
        let mine := (match (clusterOf c k).run with | some r => decide (r.task.tenant = q.tenant) && decide (r.waitFor = .ack from') | none => false) &&
          !s.waiting.any (fun w => decide (w.1 = k))
        pushSync (if mine then modCluster c k (fun y => setWait y .released) else c) q.tenant from'
      else c
    | none => c

/-- A SYNC_ACK arrives. -/
def execSyncAck (c : Pos) (f : RxFrame) (s : State) : Host.Outcome State Fault Refusal :=
  .next (chipCommand tySyncAck (fun _ k f => takeSyncAck k f) c f s)

/-! ## ECC_UNCORRECTABLE (R317, Table 16-6) -/

/-- A list with an item once. -/
def withItem {α : Type} [DecidableEq α] (l : List α) (a : α) : List α := if l.contains a then l else l ++ [a]

/-- What an HBM line holds: a line of an array in its LIVE frame, a spilled pending line of a parity, a line of an accumulator in a frame of the
shadow pool, or a line of its own place. -/
inductive HbmHolder where
  | array (tensor shard array line : Nat)
  | pending (tensor shard array parity line : Nat)
  | acc (tensor shard step : Nat)
  | place
deriving DecidableEq, Repr

/-- What an array's page says of a line in a frame. -/
def holderIn (x : TenantCtx) (e : Extent) (page frame line : Nat) : Option HbmHolder :=
  match e.kind with
  | .array tensor shard array =>
    let n := (page - e.phys) * 16384 + line
    let spilled (s : Option (Nat × List Nat)) : Bool := match s with | some s => decide (s.1 = frame) && s.2.contains line | none => false
    if liveFrame x page = frame then some (.array tensor shard array n)
    else if spilled (pageRec x page).spill0 then some (.pending tensor shard array 0 n)
    else if spilled (pageRec x page).spill1 then some (.pending tensor shard array 1 n)
    else
      (x.accFrames.find? (fun f => decide (f.frame = frame) && decide (f.page = page) && f.lines.contains line)).map
        (fun f => .acc tensor shard f.step)
  | _ => none

/-- What a line of HBM holds for its tenant (sections 12.2 and 16.3). -/
def holderOf (c : Chip) (t line : Nat) : HbmHolder :=
  let x := ten c t
  ((layoutOf c t).flatMap (fun e => (upFrom e.phys e.pages).map (fun p => (e, p)))).findSome?
    (fun p => holderIn x p.1 p.2 (line / 16384) (line % 16384)) |>.getD .place

/-- Poison of a shard's arrays in some line. -/
def poisonArray (c : Chip) (t tensor shard array line : Nat) (hbm : Bool) : Chip :=
  modTen c t (fun x => modShard x tensor shard (fun h => { h with poison := withItem h.poison (array, line, hbm) }))

/-- Poison of a step's pending state in some line. -/
def poisonPending (c : Chip) (t tensor shard step array line : Nat) : Chip :=
  modTen c t (fun x => modShardStep x tensor shard step (fun r => { r with pendPoison := withItem r.pendPoison (array, line) }))

/-- Poison of a step's accumulator. -/
def poisonAcc (c : Chip) (t tensor shard step : Nat) : Chip :=
  modTen c t (fun x => modShardStep x tensor shard step (fun r => { r with accPoison := true }))

/-- An uncorrectable error in a line of the slices: the line is poisoned where its bytes stand. -/
def eccSlice (c : Chip) (line : Nat) (l : SliceLine) : Chip :=
  match l.kind with
  | .region => setLine c line { l with poison := true }
  | .tensor tensor shard array => poisonArray c l.tenant tensor shard array (line - arrayLine c l.tenant tensor shard array) false
  | .acc tensor shard step => poisonAcc c l.tenant tensor shard step

/-- An uncorrectable error in a line of HBM. -/
def eccHbm (c : Chip) (line : Nat) : Chip :=
  let t := ownerOf c (128 * line)
  match holderOf c t line with
  | .array tensor shard array n => poisonArray c t tensor shard array n true
  | .pending tensor shard array parity n =>
    (match (shardOf (ten c t) tensor shard).steps.find? (fun s => decide (s.1 % 2 = parity) && !s.2.applied) with
     | some s => poisonPending c t tensor shard s.1 array n
     | none => c)
  | .acc tensor shard step => poisonAcc c t tensor shard step
  | .place => { c with hbmPoison := withItem c.hbmPoison line }

/-- An uncorrectable error at a place of Table 16-6. -/
def eccAt (c : Chip) (site : EccSite) : Chip :=
  match site with
  | .l1Line k line =>
    (match tabFind (clusterOf c k).l1 line with
     | some o => countDev (modCluster c k (fun x => { x with l1 := tabSet x.l1 line { o with poison := true } })) 144 1
     | none => c)
  | .sliceLine line =>
    (match sliceLine c line with
     | some l => countDev (eccSlice c line l) 144 1
     | none => c)
  | .hbmLine line => if line < 0x30000000 && c.wake.hbm = .running then countDev (eccHbm c line) 144 1 else c
  | .scratchpad k offset =>
    if offset < (8 - (clusterOf c k).lastL1) * 524288 then
      modCluster c k (fun x => { x with scratchPoison := withItem x.scratchPoison (offset / 8) })
    else c
  | .ledgerBitmap t => if (ten c t.val).loaded then tenantFault c t.val 0x23 else c
  | .ledgerAmax t tensor shard =>
    if homedShards c t.val |>.contains (tensor, shard) then
      modTen c t.val (fun x => modShard x tensor shard (fun h => { h with histPoison := true }))
    else c
  | .savedLane t lane =>
    if (ten c t.val).savedSeed.isSome && lane < 32768 then
      modTen c t.val (fun x => { x with badLanes := withItem x.badLanes lane })
    else c
  | .pendingLine t tensor shard step array line =>
    let h := shardOf (ten c t.val) tensor shard
    (match tabFind h.steps step with
     | some r =>
       if (tabGet [] r.pend array.val).any (fun p => decide (p.1 / 128 = line)) then
         countDev (poisonPending c t.val tensor shard step array.val line) 144 1
       else c
     | none => c)
  | .accumulator t tensor shard step =>
    (match tabFind (shardOf (ten c t.val) tensor shard).steps step with
     | some _ => countDev (poisonAcc c t.val tensor shard step) 144 1
     | none => c)
  | .committedArray t tensor shard array line hbm =>
    (match arrayInfoOf c t.val tensor shard with
     | some a =>
       if arrayKept a array.val && decide (128 * line < arraySize a array.val) then
         countDev (poisonArray c t.val tensor shard array.val line hbm) 144 1
       else c
     | none => c)
  | .stashBlock t site slot token block hbm =>
    let l := slotOf (ten c t.val) site slot
    if (tabFind l.blocks (token, block)).isSome then
      countDev (modTen c t.val (fun x =>
        { x with slots := tabSet x.slots (site, slot) { l with poison := withItem l.poison (token, block, hbm) } })) 144 1
    else c

/-- An uncorrectable error (R317); the arrays need power. -/
def execEccUncorrectable (c : Pos) (site : EccSite) (s : State) : Host.Outcome State Fault Refusal :=
  let p := getChip s c
  let up := coreUp p || (match site with | .savedLane _ _ => decide (p.wake.season ≠ .off) | _ => false)
  if up then .next (setChip s c (eccAt p site)) else .next s

end Sys2Proof.Machine
end

