-- ==== Sys2Proof/Machine/Debug.lean ====
section
/-!
DEFINITION. The debug port (chapter 22): the JTAG chain, boundary scan, gating by life cycle and DEBUG_EN, halts and steps,
breakpoints, memory access, and the life-cycle transition.
-/
namespace Sys2Proof.Machine

/-! ## The chain (R393, R394) -/

/-- IDCODE of the tray keeper and of a chip (Table 22-1). -/
def keeperId : BitVec 32 := 0x14B0A3A5#32
def chipId : BitVec 32 := 0x15A213A5#32

/-- A TAP that has taken an instruction and captured its data register; every pin is back in functional use (R395). -/
def tapTakes (t : Tap) (op : BitVec 8) (dr : BitVec 320) : Tap := { t with ir := op, dr := dr, driving := false, outputsOff := false }

/-- The bypass register captures 0. -/
def tapBypass (t : Tap) (op : BitVec 8) : Tap := tapTakes t op 0#320

/-- The keeper's TAP runs from VKEEP, a chip's from VAON in every season except Off. -/
def keeperTapUp (s : State) : Bool := decide (railOf s.tray .vkeep = .up)

def chipTapUp (c : Chip) : Bool := decide (c.wake.season ≠ .off)

/-- A chip accepts an instruction: REFUSED clears (R397). -/
def tapAccept (c : Chip) (op : BitVec 8) (dr : BitVec 320) : Chip :=
  { c with dbg := { c.dbg with tap := tapTakes c.dbg.tap op dr, refused := false } }

/-- A chip refuses an instruction: the bypass register, and REFUSED (R397). -/
def tapRefuse (c : Chip) (op : BitVec 8) : Chip :=
  { c with dbg := { c.dbg with tap := tapBypass c.dbg.tap op, refused := true } }

/-- DEBUG_EN as latched (R396). -/
def debugOn (c : Chip) : Bool := c.wake.latched.debugEn.getD false

/-- Table 22-3's row of DBG_CTRL, DBG_TASK and DBG_BREAK. -/
def mayDebug (c : Chip) : Bool :=
  match c.vault.lifeCycle with
  | .blank => false
  | .manufacture => true
  | .field => debugOn c
  | .ret => true

/-- Table 22-3's row of DBG_MEM, as an instruction; what it may reach is R404 and R405. -/
def mayReach (c : Chip) : Bool := mayDebug c

/-- Table 22-3's row of EXTEST, CLAMP and HIGHZ. -/
def inWinter (c : Chip) : Bool := decide (c.wake.season = .winter)

/-- Table 22-3's row of LC_ADVANCE. -/
def mayAdvance (c : Chip) : Bool :=
  inWinter c &&
  (match c.vault.lifeCycle with
   | .blank => true
   | .manufacture => true
   | .field => debugOn c
   | .ret => false)

/-- An instruction at a chip: refused as Table 22-3 says, else what it does there. -/
def chipInstr (ok : Chip → Bool) (op : BitVec 8) (run : State → Pos → Chip → State) (s : State) (p : Pos) : State :=
  let c := getChip s p
  if !chipTapUp c then s
  else if ok c then run s p c
  else setChip s p (tapRefuse c op)

/-- An instruction that selects bypass at the tray keeper, or runs at a chip. -/
def tapInstr (ok : Chip → Bool) (op : BitVec 8) (run : State → Pos → Chip → State) (d : TapDevice) (s : State) : State :=
  match d with
  | .keeper => if keeperTapUp s then modTray s (fun y => { y with tap := tapBypass y.tap op }) else s
  | .chip p => chipInstr ok op run s p

/-- The devices of the chain in the order in which bits pass through them from TDI to TDO (R47). -/
def tapChain : List TapDevice := [.keeper, .chip 0, .chip 1, .chip 2, .chip 3]

/-- A device's TAP. -/
def tapOf (s : State) (d : TapDevice) : Tap :=
  match d with
  | .keeper => s.tray.tap
  | .chip p => (getChip s p).dbg.tap

/-- The chain's registers as TDO shifts them out: the device nearest TDO first, in each the lowest bit first (R47, R394). -/
def tdoOrder (s : State) : List (TapDevice × Tap) := tapChain.reverse.map (fun d => (d, tapOf s d))

/-- The opcodes that a 40-bit instruction scan leaves in the five devices, the bits shifted in first lowest: they pass on to the device nearest
TDO (R47, R394). -/
def scanOpcodes (scan : BitVec 40) : List (TapDevice × BitVec 8) :=
  List.zip tapChain.reverse ((List.range 5).map (fun i => scan.extractLsb' (8 * i) 8))

/-- Test-Logic-Reset: IDCODE is selected, every pin functional. -/
def tapIdle (t : Tap) : Tap := { t with ir := 0x02#8, driving := false, outputsOff := false }

/-- A device of the chain whose TAP runs goes to Test-Logic-Reset. -/
def resetTap (s : State) (d : TapDevice) : State :=
  match d with
  | .keeper => if keeperTapUp s then modTray s (fun y => { y with tap := tapIdle y.tap }) else s
  | .chip p =>
    let c := getChip s p
    if chipTapUp c then setChip s p { c with dbg := { c.dbg with tap := tapIdle c.dbg.tap } } else s

/-- TRST_n low, or five TCK cycles with TMS high: every TAP on the chain is reset; halts and breakpoints stay (R393). -/
def execTapReset (s : State) : Host.Outcome State Fault Refusal := .next (tapChain.foldl resetTap s)

/-- The opcodes that Table 22-1 lists for a device. -/
def listsOpcode (d : TapDevice) (op : BitVec 8) : Bool :=
  match d with
  | .keeper => [0x01, 0x02].contains op.toNat
  | .chip _ => [0x00, 0x01, 0x02, 0x03, 0x04, 0x10, 0x11, 0x12, 0x13, 0x14, 0x1F].contains op.toNat

/-- BYPASS: 0xFF, or an opcode that the device does not list. -/
def execBypass (d : TapDevice) (opcode : BitVec 8) (s : State) : Host.Outcome State Fault Refusal :=
  if listsOpcode d opcode then .next s
  else .next (tapInstr (fun _ => true) opcode (fun s p c => setChip s p (tapAccept c opcode 0#320)) d s)

/-- IDCODE: the device's identification code. -/
def execIdcode (d : TapDevice) (s : State) : Host.Outcome State Fault Refusal :=
  match d with
  | .keeper =>
    .next (if keeperTapUp s then modTray s (fun y => { y with tap := tapTakes y.tap 0x02#8 (keeperId.setWidth 320) }) else s)
  | .chip p => .next (chipInstr (fun _ => true) 0x02#8 (fun s p c => setChip s p (tapAccept c 0x02#8 (chipId.setWidth 320))) s p)

/-! ## Boundary scan (section 22.2) -/

/-- Bits as a register, bit 0 first. -/
def bitsReg (l : List Bool) : BitVec 320 := BitVec.ofNat 320 (l.foldr (fun b n => 2 * n + (if b then 1 else 0)) 0)

/-- The keeper's cells: the TMC signal pins in ascending order, without pins 1 and 21; ladder nodes, strap inputs and the
programmer's flash lines stand nowhere in State (log entry 19). -/
def keeperCells (s : State) : List Bool :=
  let y := s.tray
  let o := pinsOf s
  let free (n : Nat) : Bool := Config.pinLevel 0 n y.now
  [y.seasonPins.getLsbD 0, y.seasonPins.getLsbD 1, o.ready, !o.hot, !o.cold, !o.fault, !y.tamperLow, free 7, free 8, free 9] ++
  (List.range 8).map (fun t => !y.tenrstLow.getLsbD t) ++
  [!y.flashReq, !o.flashGnt, free 20, free 21, free 22, free 23] ++
  o.tenflt.map (fun b => !b) ++ (upFrom 32 6).map free

/-- A chip's cells (Table 22-2). Cell 4 is high while TAMPER_n is low; the flash lines of chips B to D are unconnected and held low;
what State does not hold is free (log entry 19). -/
def chipCells (s : State) (p : Pos) (c : Chip) : List Bool :=
  let y := s.tray
  let free (n : Nat) : Bool := Config.pinLevel (p.val + 1) n y.now
  let season (n : Nat) : Bool := match y.forwarded with | some x => x.getLsbD n | none => free (2 + n)
  [decide (p.val % 2 = 1), decide (2 ≤ p.val), season 0, season 1, y.tamperLow] ++
  (List.range 8).map (fun t => !y.tenrstLow.getLsbD t) ++
  (upFrom 13 12).map (fun n => chipLevel p.val y.now c n) ++
  (upFrom 25 11).map (fun n => if p = 0 then free n else false) ++ [free 36, free 37]

/-- SAMPLE/PRELOAD: the cells captured, and preloaded; the pins are not affected. -/
def execSamplePreload (d : TapDevice) (cells : BitVec 38) (s : State) : Host.Outcome State Fault Refusal :=
  match d with
  | .keeper =>
    .next (if keeperTapUp s then modTray s (fun y => { y with tap := { tapTakes y.tap 0x01#8 (bitsReg (keeperCells s)) with cells := cells } })
           else s)
  | .chip p =>
    .next (chipInstr (fun _ => true) 0x01#8 (fun s p c =>
      let c' := tapAccept c 0x01#8 (bitsReg (chipCells s p c))
      setChip s p { c' with dbg := { c'.dbg with tap := { c'.dbg.tap with cells := cells } } }) s p)

/-- EXTEST: the cells drive the pins, in Winter (R395). -/
def execExtest (d : TapDevice) (cells : BitVec 38) (s : State) : Host.Outcome State Fault Refusal :=
  .next (tapInstr inWinter 0x00#8 (fun s p c =>
    let c' := tapAccept c 0x00#8 (bitsReg (chipCells s p c))
    setChip s p { c' with dbg := { c'.dbg with tap := { c'.dbg.tap with cells := cells, driving := true } } }) d s)

/-- CLAMP: bypass, with the outputs held at the preloaded cells, in Winter. -/
def execClamp (d : TapDevice) (s : State) : Host.Outcome State Fault Refusal :=
  .next (tapInstr inWinter 0x03#8 (fun s p c =>
    let c' := tapAccept c 0x03#8 0#320
    setChip s p { c' with dbg := { c'.dbg with tap := { c'.dbg.tap with driving := true } } }) d s)

/-- HIGHZ: bypass, with the outputs off, in Winter. -/
def execHighz (d : TapDevice) (s : State) : Host.Outcome State Fault Refusal :=
  .next (tapInstr inWinter 0x04#8 (fun s p c =>
    let c' := tapAccept c 0x04#8 0#320
    setChip s p { c' with dbg := { c'.dbg with tap := { c'.dbg.tap with outputsOff := true } } }) d s)

/-! ## DBG_STATUS and DBG_TASK (Table 22-4) -/

/-- Fields of a register, each at its lowest bit. -/
def packFields (l : List (Nat × Nat)) : Nat := (l.map (fun p => p.1 * 2 ^ p.2)).sum

/-- A truth value as a bit. -/
def bit (b : Bool) : Nat := if b then 1 else 0

/-- How many clusters are halted. -/
def haltedCount (c : Chip) : Nat := (allClusters.filter (fun k => (clusterOf c k).halted)).length

/-- The 64 bits of DBG_STATUS. -/
def debugStatus (c : Chip) : Nat :=
  let d := c.dbg
  packFields [(bit d.refused, 0), (bit (debugOn c), 1), (lifeCode c.vault.lifeCycle, 2), (seasonCode c.wake.season, 4),
    (bit d.memDone, 6), (bit d.memError, 7), (haltedCount c, 8), (d.hits.toNat, 24), (d.lastHit.val, 32)]

/-- DBG_STATUS captures the status as it stands before REFUSED clears, and the hits start anew (R397, R399). -/
def execDbgStatus (d : TapDevice) (s : State) : Host.Outcome State Fault Refusal :=
  .next (tapInstr (fun _ => true) 0x10#8 (fun s p c =>
    let c' := tapAccept c 0x10#8 (BitVec.ofNat 320 (debugStatus c))
    setChip s p { c' with dbg := { c'.dbg with hits := 0#8 } }) d s)

/-- The 32 bytes of a launch header (R359). -/
def launchHeader (t : Task) : List Byte :=
  leBytes 1 t.recipe ++ leBytes 1 t.tenant ++ leBytes 1 t.kind ++ leBytes 1 t.l1 ++ leBytes 2 t.tensor ++ leBytes 2 t.shard ++
  leBytes 4 t.step ++ leBytes 4 t.first ++ leBytes 4 t.count ++ bytesOf t.tag 4 ++ List.replicate 8 0#8

/-- The 320 bits of DBG_TASK for a cluster. -/
def debugTask (x : Cluster) : Nat :=
  match x.run with
  | none => packFields [(bit x.halted, 261)]
  | some r =>
    leNat (launchHeader r.task) +
    packFields [(r.stage % 32, 256), (bit x.halted, 261), (1, 262), (r.count / 16 % 4294967296, 264)]

/-- DBG_TASK captures the selected cluster's task. -/
def execDbgTask (d : TapDevice) (s : State) : Host.Outcome State Fault Refusal :=
  .next (tapInstr mayDebug 0x12#8 (fun s p c =>
    setChip s p (tapAccept c 0x12#8 (BitVec.ofNat 320 (debugTask (clusterOf c c.dbg.selected))))) d s)

/-! ## DBG_CTRL (R400, R401) -/

/-- A field of a data register. -/
def regField {w : Nat} (r : BitVec w) (lo n : Nat) : Nat := r.toNat / 2 ^ lo % 2 ^ n

/-- The clusters a DBG_CTRL value applies to. -/
def ctrlClusters (ctrl : BitVec 32) : List ClusterNo :=
  if ctrl.getLsbD 4 then allClusters else [Fin.ofNat 256 (regField ctrl 5 8)]

/-- Arrivals that a resumed cluster owes (R348, Table 22-6). -/
def arriveAll (c : Chip) : Chip :=
  forEach c (tenantsOf c) (fun c t => forEach c ((ten c t).steps.map (·.1)) (fun c n => arrive c t n))

/-- A cluster that is let run, with the end of a debug step. -/
def letRun (m : StepMode) (x : Cluster) : Cluster := { x with halted := false, stepMode := m }

/-- What an OP of DBG_CTRL does to one cluster: 1 halt, 2 resume, 3 one stage, 4 N cycles; nothing else. -/
def ctrlOne (ctrl : BitVec 32) (x : Cluster) : Cluster :=
  let n := regField ctrl 16 16
  match regField ctrl 0 4 with
  | 1 => if x.halted then x else { x with halted := true, stepMode := .none }
  | 2 => if x.halted then letRun .none x else x
  | 3 => letRun .stage x
  | 4 => if n = 0 then x else letRun (.cycles n) x
  | _ => x

/-- A DBG_CTRL value at a chip: the selected cluster, and the operation where VCORE is up. -/
def writeCtrl (c : Chip) (ctrl : BitVec 32) : Chip :=
  let c := { c with dbg := { c.dbg with selected := Fin.ofNat 256 (regField ctrl 5 8) } }
  if coreUp c then arriveAll (forEach c (ctrlClusters ctrl) (fun c k => modCluster c k (ctrlOne ctrl))) else c

/-- A DBG_CTRL write with an OP; the row of another OP does not take it (log entry 2). -/
def debugCtrl (op : Nat) (d : TapDevice) (ctrl : BitVec 32) (s : State) : State :=
  if regField ctrl 0 4 = op then
    tapInstr mayDebug 0x11#8 (fun s p c => setChip s p (writeCtrl (tapAccept c 0x11#8 0#320) ctrl)) d s
  else s

/-- OP 1: clusters halt; running stages freeze (R400). -/
def execHalt (d : TapDevice) (ctrl : BitVec 32) (s : State) : Host.Outcome State Fault Refusal := .next (debugCtrl 1 d ctrl s)

/-- OP 2: halted clusters go on from where they stood (R400). -/
def execResume (d : TapDevice) (ctrl : BitVec 32) (s : State) : Host.Outcome State Fault Refusal := .next (debugCtrl 2 d ctrl s)

/-- OP 3: a cluster runs until the stage it is in, or else the next one, has ended (R401). -/
def execStepOneStage (d : TapDevice) (ctrl : BitVec 32) (s : State) : Host.Outcome State Fault Refusal := .next (debugCtrl 3 d ctrl s)

/-- OP 4: a cluster runs N core cycles (R401). -/
def execStepNCycles (d : TapDevice) (ctrl : BitVec 32) (s : State) : Host.Outcome State Fault Refusal := .next (debugCtrl 4 d ctrl s)

/-- The N cycles of OP 4 have elapsed: the cluster halts. -/
def execStepCyclesExpire (c : Pos) (k : ClusterNo) (s : State) : Host.Outcome State Fault Refusal :=
  let p := getChip s c
  if coreUp p && decide ((clusterOf p k).stepMode = .cycles 0) then .next (setChip s c (haltCluster p k)) else .next s

/-! ## DBG_BREAK (R402) -/

/-- The slot that a DBG_BREAK value describes. -/
def slotOfReg (reg : BitVec 96) : BreakSlot :=
  { enabled := true, kind := regField reg 4 2, everyCluster := reg.getLsbD 6, code := regField reg 8 8, stage := regField reg 16 5,
    tenant := regField reg 24 3, tensor := regField reg 32 16, step := regField reg 48 32 }

/-- A DBG_BREAK value that sets its slot: Enable with kind 0, 1 or 2. -/
def setsSlot (reg : BitVec 96) : Bool := reg.getLsbD 3 && decide (regField reg 4 2 ≠ 3)

/-- Write a breakpoint slot. -/
def writeSlot (d : TapDevice) (reg : BitVec 96) (b : BreakSlot) (s : State) : State :=
  tapInstr mayDebug 0x13#8 (fun s p c =>
    let c := tapAccept c 0x13#8 0#320
    setChip s p { c with dbg := { c.dbg with slots := tabSet c.dbg.slots (regField reg 0 3) b } }) d s

/-- A breakpoint slot is set. -/
def execDbgBreakSet (d : TapDevice) (reg : BitVec 96) (s : State) : Host.Outcome State Fault Refusal :=
  .next (if setsSlot reg then writeSlot d reg (slotOfReg reg) s else s)

/-- A breakpoint slot is cleared: Enable 0, or kind 3. -/
def execDbgBreakClear (d : TapDevice) (reg : BitVec 96) (s : State) : Host.Outcome State Fault Refusal :=
  .next (if setsSlot reg then s else writeSlot d reg .reset s)

/-! ## DBG_MEM (section 22.5) -/

/-- Whether state of tenant t may be read: outside FIELD always, in FIELD after step 5 of a reset whose pin is still low (R405). -/
def mayRead (s : State) (c : Chip) (t : Nat) : Bool :=
  decide (c.vault.lifeCycle ≠ .field) || (s.tray.tenrstLow.getLsbD t && decide ((ten c t).resetPhase = .loaded))

/-- The tenant of a cluster's current or most recent task. -/
def clusterOwner (x : Cluster) : Option Nat :=
  match x.run with
  | some r => some r.task.tenant
  | none => x.lastTenant

/-- The tenant that owns an offset of a ledger (Table 16-1); saved lane states lie as lanes × tenants × 8 bytes (log entry 20). -/
def ledgerOwner (c : Chip) (o : Nat) : Nat :=
  if o < 0x2000 then o / 8 % 8
  else ((List.range (tenantCount c)).find? (fun t => decide (o - 0x2000 < (shareBase c t + shareOf c t) * 3584))).getD 8

/-- The tenant of a sync object; none for a device object (R337). -/
def syncOwner (c : Chip) (n : Nat) : Option Nat :=
  (List.range (tenantCount c)).find? (fun t =>
    decide (256 + 240 * shareBase c t ≤ n) && decide (n < 256 + 240 * (shareBase c t + shareOf c t)))

/-- Where a page of physical memory stands: the page it holds committed state for, when its own is not moved away (section 12.2). -/
def livePage (x : TenantCtx) (page : Nat) : Option Nat :=
  match x.pages.find? (fun p => decide (p.2.live = some page)) with
  | some p => some p.1
  | none => if (pageRec x page).live.isSome then none else some page

/-- What an 8-byte access to HBM reaches: a region's lines by ATTR, a shard's array, a frame that holds no page's committed state, or stash
storage. -/
inductive HbmPlace where
  | region (attr : Nat)
  | array (tensor shard array offset : Nat)
  | frame
  | storage
deriving DecidableEq, Repr

/-- What stands at a physical address of tenant t's region. -/
def hbmPlace (c : Chip) (t pa : Nat) : HbmPlace :=
  match livePage (ten c t) (pa / 2097152) with
  | none => .frame
  | some page =>
    match extentAt c t page with
    | some e =>
      (match e.kind with
       | .region i => .region (regionAttr c t i)
       | .array a b k => .array a b k ((page - e.phys) * 2097152 + pa % 2097152)
       | .shadow => .frame
       | .site _ => .storage)
    | none => .region 0

/-- A byte of HBM as the slice has it: committed tensor state, a region's bytes, a frame's, or storage that no rule lays out (log entry 11). -/
def debugHbm (c : Chip) (t pa : Nat) : Byte :=
  match hbmPlace c t pa with
  | .region _ => byteOf (observeLine c (pa / 128)) (pa % 128)
  | .array a b k o =>
    let h := shardOf (ten c t) a b
    if h.fill = .empty then hbmRead c pa else memGet 0#8 (arrayMem h k) o
  | .frame => hbmRead c pa
  | .storage => Config.storageByte (posOf c) t pa

/-- A byte of a cluster's SRAM: the scratchpad from byte 0, then the L1 (log entry 20). Nothing that FIELD may read holds L1 data. -/
def debugSram (c : Chip) (now : Nat) (k : ClusterNo) (b : Nat) : Byte :=
  let x := clusterOf c k
  if b < (8 - x.lastL1) * 524288 then memGet 0#8 x.scratch b
  else if c.vault.lifeCycle = .field then 0#8
  else Config.l1Byte (posOf c) k.val b now

/-- A byte of a ledger: a saved lane state, or the pool; in FIELD a pool share that may be read is zero. -/
def debugLedger (c : Chip) (now : Nat) (k : ClusterNo) (o : Nat) : Byte :=
  if o < 0x2000 then
    let x := ten c (o / 8 % 8)
    let lane := 128 * k.val + o / 64
    (match x.savedSeed with
     | some seed => byteOf (tabGet (laneSeed seed lane) x.saved lane) (o % 8)
     | none => 0#8)
  else if c.vault.lifeCycle = .field then 0#8
  else Config.ledgerByte (posOf c) k.val o now

/-- The 64 bytes of a tamper log entry (R390). -/
def logBytes (e : TamperEntry) : List Byte :=
  leBytes 1 e.code ++ leBytes 1 e.season ++ leBytes 1 e.lifeCycle ++ leBytes 1 0 ++ leBytes 8 e.ticks ++ leBytes 4 e.wipes ++
  List.replicate 48 0#8

/-- A byte of the vault outside the key area and the key schedules (Table 21-1): the log's entries oldest first (log entry 20). -/
def debugVault (c : Chip) (o : Nat) : Byte :=
  if 0x400 ≤ o && o < 0x500 then Config.lifeByte (lifeCode c.vault.lifeCycle) (Config.serialNumber (posOf c)) (o - 0x400)
  else if 0x1000 ≤ o && o < 0x2000 then (c.vault.log.flatMap logBytes).getD (o - 0x1000) 0#8
  else 0#8

/-- Whether HBM can serve an access. -/
def hbmServes (c : Chip) : Bool := decide (c.wake.hbm = .running) && !c.vault.hbmRefused

/-- A sync object by its chip-wide number: object 32 is a view of the steps in flight (Table 18-1). -/
def syncView (c : Chip) (n : Nat) : SyncObj := if n = 32 then drainObject c else syncObj c n

/-- One read: 8 bytes, or none where the access is refused (Table 22-5, R405). -/
def debugRead (s : State) (c : Chip) (space addr : Nat) : Option (List Byte) :=
  let now := s.tray.now
  let aligned := decide (addr % 8 = 0)
  match space with
  | 0 =>
    let t := ownerOf c addr
    if coreUp c && hbmServes c && aligned && decide (addr < 0x1800000000) && mayRead s c t then
      some ((upFrom addr 8).map (debugHbm c t)) else none
  | 1 =>
    let k : ClusterNo := Fin.ofNat 256 (addr / 4194304)
    let ok := match clusterOwner (clusterOf c k) with | some t => mayRead s c t | none => true
    if coreUp c && aligned && decide (addr < 0x40000000) && ok then
      some ((upFrom (addr % 4194304) 8).map (debugSram c now k)) else none
  | 2 =>
    let k : ClusterNo := Fin.ofNat 256 (addr / 65536)
    if coreUp c && aligned && decide (addr < 0x1000000) && mayRead s c (ledgerOwner c (addr % 65536)) then
      some ((upFrom (addr % 65536) 8).map (debugLedger c now k)) else none
  | 3 =>
    let ok := match syncOwner c addr with | some t => mayRead s c t | none => true
    if coreUp c && decide (addr < 4096) && ok then
      let o := syncView c addr
      some (bytesOf o.c 4 ++ bytesOf o.t 4) else none
  | 4 =>
    if aligned && decide (addr < 0x40000) && decide (0x400 ≤ addr) && decide (addr < 0x2000) then
      some ((upFrom addr 8).map (debugVault c)) else none
  | 5 =>
    (match c.image with
     | some i => if aligned && decide (addr + 8 ≤ i.bytes.length) then some ((i.bytes.drop addr).take 8) else none
     | none => none)
  | _ => none

/-- One write of 8 bytes outside FIELD; none where the access is refused (Table 22-5). Bytes that no rule places leave State as it
is (log entry 20). -/
def debugWrite (c : Chip) (space addr : Nat) (bs : List Byte) : Option Chip :=
  let aligned := decide (addr % 8 = 0)
  if c.vault.lifeCycle = .field || !coreUp c then none
  else
    match space with
    | 0 =>
      let t := ownerOf c addr
      if !hbmServes c || !aligned || decide (0x1800000000 ≤ addr) then none
      else
        (match hbmPlace c t addr with
         | .region attr =>
           let line := addr / 128
           some (storeSlice (if attr = 1 then c else recallLine c line) t line 0 (byteMask (addr % 128) 8) (placeBytes (addr % 128) bs))
         | .array a b k o =>
           some (storeTensor true t a b k 0 (modTen c t (fun x => modShard x a b (fun h =>
             { h with arrays := tabSet h.arrays k (memWrite 0#8 (arrayMem h k) o bs) }))) (upFrom o 8))
         | .frame => some { c with hbm := hbmWriteLine c.hbm (addr / 128) (byteMask (addr % 128) 8) (placeBytes (addr % 128) bs) }
         | .storage => some c)
    | 1 =>
      let k : ClusterNo := Fin.ofNat 256 (addr / 4194304)
      if !aligned || decide (0x40000000 ≤ addr) then none
      else if addr % 4194304 < (8 - (clusterOf c k).lastL1) * 524288 then
        some (modCluster c k (fun x =>
          { x with scratch := memWrite 0#8 x.scratch (addr % 4194304) bs,
                   scratchPoison := x.scratchPoison.filter (fun w => decide (w ≠ addr % 4194304 / 8)) }))
      else some c
    | 2 =>
      let o := addr % 65536
      if !aligned || decide (0x1000000 ≤ addr) then none
      else if o < 0x2000 then
        let lane := 128 * (addr / 65536) + o / 64
        some (modTen c (o / 8 % 8) (fun x =>
          if x.savedSeed.isSome then { x with saved := tabSet x.saved lane (packBytes 64 bs) } else x))
      else some c
    | 3 =>
      if addr < 4096 then
        some (if 32 ≤ addr && addr < 256 then c
              else setSync c addr { syncObj c addr with c := packBytes 32 (bs.take 4), t := packBytes 32 (bs.drop 4) })
      else none
    | _ => none

/-- The chip after a DBG_MEM access: the data read and the flags; the register captured is the data of the access before. -/
def memDoneWith (c : Chip) (r : Option (BitVec 64)) : Chip :=
  { c with dbg := { c.dbg with memDone := true, memError := r.isNone, memData := r.getD c.dbg.memData } }

/-- DBG_MEM at a chip that accepts it. -/
def acceptMem (c : Chip) : Chip := tapAccept c 0x14#8 ((c.dbg.memData.setWidth 320) <<< 64)

/-- A DBG_MEM read moves 8 bytes, or sets MEM_ERROR (R404, R405). -/
def execDbgMemRead (d : TapDevice) (reg : BitVec 128) (s : State) : Host.Outcome State Fault Refusal :=
  if reg.getLsbD 4 then .next s
  else
    .next (tapInstr mayReach 0x14#8 (fun s p c =>
      let c := acceptMem c
      setChip s p (memDoneWith c ((debugRead s c (regField reg 0 4) (regField reg 8 40)).map (packBytes 64)))) d s)

/-- A DBG_MEM write stores 8 bytes, or sets MEM_ERROR (R404, R405). -/
def execDbgMemWrite (d : TapDevice) (reg : BitVec 128) (s : State) : Host.Outcome State Fault Refusal :=
  if !reg.getLsbD 4 then .next s
  else
    .next (tapInstr mayReach 0x14#8 (fun s p c =>
      let c := acceptMem c
      match debugWrite c (regField reg 0 4) (regField reg 8 40) (bytesOf (BitVec.ofNat 64 (regField reg 64 64)) 8) with
      | some c => setChip s p (memDoneWith c (some c.dbg.memData))
      | none => setChip s p (memDoneWith c none)) d s)

/-! ## LC_ADVANCE (R391, R406) -/

/-- Whether a value asks for the next state with the key 0x5A5A. -/
def advanceOk (c : Chip) (reg : BitVec 32) : Bool :=
  decide (regField reg 16 16 = 0x5A5A) && decide (c.vault.lifeCycle ≠ .ret) &&
  decide (regField reg 0 2 = lifeCode (nextLife c.vault.lifeCycle))

/-- LC_ADVANCE: the vault is wiped with 0x74, and the fuses are programmed after it; any other value sets REFUSED. -/
def execLcAdvance (d : TapDevice) (reg : BitVec 32) (s : State) : Host.Outcome State Fault Refusal :=
  .next (tapInstr mayAdvance 0x1F#8 (fun s p c =>
    if advanceOk c reg then wipeChip (setChip s p (tapAccept c 0x1F#8 0#320)) p 0x74
    else
      let c := tapAccept c 0x1F#8 0#320
      setChip s p { c with dbg := { c.dbg with refused := true } }) d s)

end Sys2Proof.Machine
end

