-- ==== Sys2Proof/Machine/Resets.lean ====
section
/-!
DEFINITION. Tenant reset (sections 7.4 and 7.5): TENRST_n in every season, and the spread of a reset to peers.
-/
namespace Sys2Proof.Machine

/-- The chips off this tray that home a shard of t or are its step root (Table 7-3 step 4), each once. -/
def peerChips (c : Chip) (t : Nat) : List Nat :=
  match catOf c t with
  | none => []
  | some cat =>
    (((allShards cat).map (fun p => homeChip (torusOf c).1 (torusOf c).2 p.1 p.2) ++ [stepRootOf c t]).filter
      (fun n => decide (n / 4 ≠ chipNo c / 4))).eraseDups

/-- The payload of TENANT_DOWN: the originating chip, and 0 for a tenant reset (section 9.9). -/
def downPayload (c : Chip) : List Byte := leBytes 2 (chipNo c) ++ List.replicate 14 0#8

/-- Send TENANT_DOWN for t to its peers. -/
def sendTenantDown (c : Chip) (t : Nat) : Chip :=
  forEach c (peerChips c t) (fun c n => sendChip c n (chipHdr tyTenantDown t 0 n) (downPayload c))

/-- A tenant-reset pin as a bit. -/
def pinBit (t : Tenant) : BitVec 8 := 1#8 <<< t.val

/-- Steps 2 to 4 of Table 7-3: queued host requests and held PULLs of t are answered TENANT_RESET, its chip frames dropped and
counted; its tasks, pending state and cache lines are gone; its peers are told. -/
def resetNow (c : Chip) (t : Nat) : Chip :=
  let hosts := (queuedFrames c (queuedHere c t)).filter (fun f => isHostRequest (rxHead f).type) ++ (ten c t).heldPulls
  let c := modTen (discardOn (dropTenantFrames (endTasks c (fun k => decide (k.tenant = t))) t) t) t (fun x =>
    { x with heldPulls := [], state := .resetting, resetPhase := .erasing })
  let c := forEach (dropTenantLines c t) hosts (fun c f => sendDone c f (doneInfo stTenantReset 0))
  sendTenantDown c t

/-- TENRST_n[t] reaches a chip (R133): at once where its tenants are loaded; in an unfinished Spring steps 2 to 7 run at the load,
with the TENANT_DOWN sent once ports have trained. -/
def resetChip (c : Chip) (t : Nat) : Chip :=
  if !tenantExists c t || !coreUp c || decide ((ten c t).resetPhase ≠ .none) || c.wake.stopped || (wipeCode c).isSome then c
  else if c.wake.phase = .done then resetNow c t
  else modTen c t (fun x => { x with resetPhase := .erasing, state := .resetting, downDue := true })

/-- What an assertion of TENRST_n[t] does at a chip, by the season it stands in (R71, R133). -/
def pinReset (c : Chip) (t : Nat) : Chip :=
  if c.wake.season = .winter then (if tenantExists c t && c.wipe.isNone then winterReset c t else c) else resetChip c t

/-- TENRST_n[t] goes low, which reaches all four chips (R34); a pin that is low already is no new assertion (R134). -/
def lowerTenrst (s : State) (t : Tenant) : State :=
  if s.tray.tenrstLow.getLsbD t.val then s
  else mapChips (modTray s (fun y => { y with tenrstLow := y.tenrstLow ||| pinBit t })) (fun _ c => pinReset c t.val)

/-- TENRST_n[t] has been low for 1 µs (R34, R133). -/
def execTenrstAssert (t : Tenant) (s : State) : Host.Outcome State Fault Refusal := .next (lowerTenrst s t)

/-- Steps 5 and 6: the key is replaced, SRAM zeroed, and t is loaded from the latched image as an empty tenant (Table 7-3). A fault
is held until step 7. -/
def execTenantResetEraseDone (c : Pos) (t : Tenant) (s : State) : Host.Outcome State Fault Refusal :=
  let k := getChip s c
  let old := ten k t.val
  if decide (old.resetPhase = .erasing) && decide (k.wake.phase = .done) then
    let k := loadEmpty (zeroTenantSram (drawKey k t.val) t.val) t.val true old.downDue
    .next (setChip s c (modTen k t.val (fun x =>
      { x with resetPhase := .loaded, state := .resetting, fault := if x.fault = 0 then old.fault else x.fault })))
  else .next s

/-- Step 7: with the pin high the tenant's faults are cleared and it accepts frames; a load fault stands until a Spring changes its
cause (Table 7-3, R132). -/
def execTenantResetComplete (c : Pos) (t : Tenant) (s : State) : Host.Outcome State Fault Refusal :=
  let x := ten (getChip s c) t.val
  if decide (x.resetPhase = .loaded) && !s.tray.tenrstLow.getLsbD t.val then
    .next (modChip s c (fun k => modTen k t.val (fun x =>
      let fault := if x.loaded then 0 else x.fault
      { x with resetPhase := .none, fault := fault, state := if fault = 0 then .running else .faulted })))
  else .next s

/-- TENRST_n[t] is released (R134). -/
def execTenrstRelease (t : Tenant) (s : State) : Host.Outcome State Fault Refusal :=
  .next (modTray s (fun y => { y with tenrstLow := y.tenrstLow &&& ~~~ pinBit t }))

/-- TENRST_n[t] is asserted in Winter (R71). -/
def execTenrstInWinter (t : Tenant) (s : State) : Host.Outcome State Fault Refusal := .next (lowerTenrst s t)

/-- Whether every peer of t can be reached from this chip. -/
def peersReached (c : Chip) (t : Nat) : Bool :=
  (peerChips c t).all (fun n =>
    let h := nextHop c (newPrefix (chipNo c) 0x3F n 0x3F)
    !(upPorts c (hopGroup h)).isEmpty)

/-- The TENANT_DOWN of a reset made in Winter goes out once the ports toward the peers have trained (R135). -/
def execDeferredTenantDown (c : Pos) (t : Tenant) (s : State) : Host.Outcome State Fault Refusal :=
  let k := getChip s c
  if decide (k.wake.phase = .done) && linksOn k && (ten k t.val).downDue && peersReached k t.val then
    .next (setChip s c (modTen (sendTenantDown k t.val) t.val (fun x => { x with downDue := false })))
  else .next s

end Sys2Proof.Machine
end

