-- ==== Sys2Proof/Machine/Dispatch.lean ====
section
/-!
DEFINITION. The dispatch: one arm per command, one meaning per arm.
-/
namespace Sys2Proof.Machine

/-- The effect of a command on everything but the queue. -/
def exec (i : Instr) (s : State) : Host.Outcome State Fault Refusal :=
  match i with
  | .feedPresent f => Sys2Proof.Machine.execFeedPresent f s
  | .feedAbsent f => Sys2Proof.Machine.execFeedAbsent f s
  | .trayStart fancurve lidOpen => Sys2Proof.Machine.execTrayStart fancurve lidOpen s
  | .railInRegulation r => Sys2Proof.Machine.execRailInRegulation r s
  | .trayPowerLoss => Sys2Proof.Machine.execTrayPowerLoss s
  | .seasonPinChange code => Sys2Proof.Machine.execSeasonPinChange code s
  | .seasonForward => Sys2Proof.Machine.execSeasonForward s
  | .strapSetDelivery r pos => Sys2Proof.Machine.execStrapSetDelivery r pos s
  | .springReceived c => Sys2Proof.Machine.execSpringReceived c s
  | .corePllLocked c t => Sys2Proof.Machine.execCorePllLocked c t s
  | .sramClearDone c => Sys2Proof.Machine.execSramClearDone c s
  | .keyDrawTimeout c => Sys2Proof.Machine.execKeyDrawTimeout c s
  | .coldStartEnd c t => Sys2Proof.Machine.execColdStartEnd c t s
  | .heatingTimeout c => Sys2Proof.Machine.execHeatingTimeout c s
  | .hbmTrainingDone c ok => Sys2Proof.Machine.execHbmTrainingDone c ok s
  | .flashGrantWaitTimeout => Sys2Proof.Machine.execFlashGrantWaitTimeout s
  | .imageHeaderRead => Sys2Proof.Machine.execImageHeaderRead s
  | .imageBankReadDone c => Sys2Proof.Machine.execImageBankReadDone c s
  | .bankCheckReport => Sys2Proof.Machine.execBankCheckReport s
  | .imageOutcomeTimeout c => Sys2Proof.Machine.execImageOutcomeTimeout c s
  | .autumnNoStepInFlight c => Sys2Proof.Machine.execAutumnNoStepInFlight c s
  | .autumnWritebackDone c => Sys2Proof.Machine.execAutumnWritebackDone c s
  | .winterReached c => Sys2Proof.Machine.execWinterReached c s
  | .winterReportTimeout => Sys2Proof.Machine.execWinterReportTimeout s
  | .railOutOfBand r => Sys2Proof.Machine.execRailOutOfBand r s
  | .railFaultRecovery => Sys2Proof.Machine.execRailFaultRecovery s
  | .strapResense r => Sys2Proof.Machine.execStrapResense r s
  | .tenrstAssert t => Sys2Proof.Machine.execTenrstAssert t s
  | .tenantResetEraseDone c t => Sys2Proof.Machine.execTenantResetEraseDone c t s
  | .tenantResetComplete c t => Sys2Proof.Machine.execTenantResetComplete c t s
  | .tenrstRelease t => Sys2Proof.Machine.execTenrstRelease t s
  | .tenrstInWinter t => Sys2Proof.Machine.execTenrstInWinter t s
  | .deferredTenantDown c t => Sys2Proof.Machine.execDeferredTenantDown c t s
  | .tamperAssert => Sys2Proof.Machine.execTamperAssert s
  | .lidOpen => Sys2Proof.Machine.execLidOpen s
  | .voltageGlitch c r => Sys2Proof.Machine.execVoltageGlitch c r s
  | .clockGlitch c k => Sys2Proof.Machine.execClockGlitch c k s
  | .vaultError c => Sys2Proof.Machine.execVaultError c s
  | .wipeClearDone c => Sys2Proof.Machine.execWipeClearDone c s
  | .retentionSwitchTimer c => Sys2Proof.Machine.execRetentionSwitchTimer c s
  | .flashRequest => Sys2Proof.Machine.execFlashRequest s
  | .flashGrantAfterRead => Sys2Proof.Machine.execFlashGrantAfterRead s
  | .flashRelease => Sys2Proof.Machine.execFlashRelease s
  | .thermistorReading n celsius => Sys2Proof.Machine.execThermistorReading n celsius s
  | .fanFailure m f => Sys2Proof.Machine.execFanFailure m f s
  | .cageModuleInsert cage milliwatts => Sys2Proof.Machine.execCageModuleInsert cage milliwatts s
  | .hotThreshold c t => Sys2Proof.Machine.execHotThreshold c t s
  | .governorStepDown c t => Sys2Proof.Machine.execGovernorStepDown c t s
  | .governorStepUp c t => Sys2Proof.Machine.execGovernorStepUp c t s
  | .thermalShutdown c t => Sys2Proof.Machine.execThermalShutdown c t s
  | .lanesLocked c p => Sys2Proof.Machine.execLanesLocked c p s
  | .pcsLocked c p => Sys2Proof.Machine.execPcsLocked c p s
  | .unitsDelineated c p => Sys2Proof.Machine.execUnitsDelineated c p s
  | .helloTimer c p => Sys2Proof.Machine.execHelloTimer c p s
  | .hello c p content => Sys2Proof.Machine.execHello c p content s
  | .helloAck c p content rttUs => Sys2Proof.Machine.execHelloAck c p content rttUs s
  | .trainingTimeout c p => Sys2Proof.Machine.execTrainingTimeout c p s
  | .retrainTimer c p => Sys2Proof.Machine.execRetrainTimer c p s
  | .dataFlit c p unit => Sys2Proof.Machine.execDataFlit c p unit s
  | .credit c p content => Sys2Proof.Machine.execCredit c p content s
  | .nak c p content => Sys2Proof.Machine.execNak c p content s
  | .unknownControlFlit c p content => Sys2Proof.Machine.execUnknownControlFlit c p content s
  | .wireUnitCrcFail c p => Sys2Proof.Machine.execWireUnitCrcFail c p s
  | .replayTimeout c p => Sys2Proof.Machine.execReplayTimeout c p s
  | .creditSend c p cls => Sys2Proof.Machine.execCreditSend c p cls s
  | .vc0CreditTimeout c p => Sys2Proof.Machine.execVc0CreditTimeout c p s
  | .portDown c p => Sys2Proof.Machine.execPortDown c p s
  | .meshPeerLost c group => Sys2Proof.Machine.execMeshPeerLost c group s
  | .torusDirectionLost c d => Sys2Proof.Machine.execTorusDirectionLost c d s
  | .macFrameReceive c p m => Sys2Proof.Machine.execMacFrameReceive c p m s
  | .ethernetFrameSend c p => Sys2Proof.Machine.execEthernetFrameSend c p s
  | .frameSend c p => Sys2Proof.Machine.execFrameSend c p s
  | .frameForward c => Sys2Proof.Machine.execFrameForward c s
  | .ingressDispatch c p vc => Sys2Proof.Machine.execIngressDispatch c p vc s
  | .grad c f => Sys2Proof.Machine.execGrad c f s
  | .init c f => Sys2Proof.Machine.execInit c f s
  | .pull c f => Sys2Proof.Machine.execPull c f s
  | .stashPut c f => Sys2Proof.Machine.execStashPut c f s
  | .stashGet c f => Sys2Proof.Machine.execStashGet c f s
  | .maskGet c f => Sys2Proof.Machine.execMaskGet c f s
  | .scaleGet c f => Sys2Proof.Machine.execScaleGet c f s
  | .statGet c f => Sys2Proof.Machine.execStatGet c f s
  | .index c f => Sys2Proof.Machine.execIndex c f s
  | .unknownFrameType c f => Sys2Proof.Machine.execUnknownFrameType c f s
  | .reduce c f => Sys2Proof.Machine.execReduce c f s
  | .ledgerCollisionRetry c f collides => Sys2Proof.Machine.execLedgerCollisionRetry c f collides s
  | .shardDeadline c r => Sys2Proof.Machine.execShardDeadline c r s
  | .shardClose c r => Sys2Proof.Machine.execShardClose c r s
  | .shardVerdict c f => Sys2Proof.Machine.execShardVerdict c f s
  | .verdict c f => Sys2Proof.Machine.execVerdict c f s
  | .updateStageEnd c r => Sys2Proof.Machine.execUpdateStageEnd c r s
  | .commitBarrier c t step => Sys2Proof.Machine.execCommitBarrier c t step s
  | .verdictTimeout c t step => Sys2Proof.Machine.execVerdictTimeout c t step s
  | .gatherTimeout c t step => Sys2Proof.Machine.execGatherTimeout c t step s
  | .tenantDown c f => Sys2Proof.Machine.execTenantDown c f s
  | .syncOp c f => Sys2Proof.Machine.execSyncOp c f s
  | .syncAck c f => Sys2Proof.Machine.execSyncAck c f s
  | .taskStart c k => Sys2Proof.Machine.execTaskStart c k s
  | .stageStart c k => Sys2Proof.Machine.execStageStart c k s
  | .stageEnd c k => Sys2Proof.Machine.execStageEnd c k s
  | .stageBoundExceeded c k => Sys2Proof.Machine.execStageBoundExceeded c k s
  | .streamRequestIssue c k desc => Sys2Proof.Machine.execStreamRequestIssue c k desc s
  | .readDataReturn c k desc => Sys2Proof.Machine.execReadDataReturn c k desc s
  | .writeAccept c k desc => Sys2Proof.Machine.execWriteAccept c k desc s
  | .lineFill c line => Sys2Proof.Machine.execLineFill c line s
  | .deadLineInvalidate c line => Sys2Proof.Machine.execDeadLineInvalidate c line s
  | .eccUncorrectable c site => Sys2Proof.Machine.execEccUncorrectable c site s
  | .tapReset => Sys2Proof.Machine.execTapReset s
  | .bypass d opcode => Sys2Proof.Machine.execBypass d opcode s
  | .idcode d => Sys2Proof.Machine.execIdcode d s
  | .samplePreload d cells => Sys2Proof.Machine.execSamplePreload d cells s
  | .extest d cells => Sys2Proof.Machine.execExtest d cells s
  | .clamp d => Sys2Proof.Machine.execClamp d s
  | .highz d => Sys2Proof.Machine.execHighz d s
  | .dbgStatus d => Sys2Proof.Machine.execDbgStatus d s
  | .dbgTask d => Sys2Proof.Machine.execDbgTask d s
  | .halt d ctrl => Sys2Proof.Machine.execHalt d ctrl s
  | .resume d ctrl => Sys2Proof.Machine.execResume d ctrl s
  | .stepOneStage d ctrl => Sys2Proof.Machine.execStepOneStage d ctrl s
  | .stepNCycles d ctrl => Sys2Proof.Machine.execStepNCycles d ctrl s
  | .stepCyclesExpire c k => Sys2Proof.Machine.execStepCyclesExpire c k s
  | .dbgBreakSet d reg => Sys2Proof.Machine.execDbgBreakSet d reg s
  | .dbgBreakClear d reg => Sys2Proof.Machine.execDbgBreakClear d reg s
  | .dbgMemRead d reg => Sys2Proof.Machine.execDbgMemRead d reg s
  | .dbgMemWrite d reg => Sys2Proof.Machine.execDbgMemWrite d reg s
  | .lcAdvance d reg => Sys2Proof.Machine.execLcAdvance d reg s
  | .tamperRelease => Sys2Proof.Machine.execTamperRelease s
  | .lidClose => Sys2Proof.Machine.execLidClose s
  | .flashProgramEraseSequence op => Sys2Proof.Machine.execFlashProgramEraseSequence op s
  | .keyDrawDone c t => Sys2Proof.Machine.execKeyDrawDone c t s

end Sys2Proof.Machine
end

