-- ==== Sys2Proof/Machine/Tick.lean ====
section
/-!
DEFINITION. One core cycle, which is what passes when no command waits (log entry 1): tokens, stage counts, debug steps, and the time
a tenant's pools stand full.
-/
namespace Sys2Proof.Machine

/-- A bucket after a gain, within its depth (Table 17-2). -/
def gain (depth n x : Nat) : Nat := min depth (x + n)

/-- Read, write and remote percentages latched from BWSPLIT; none for a code that failed Spring. -/
def classShares (c : Chip) : Nat × Nat × Nat := (bwsplitShares (codeOf c.wake.latched.bwsplit)).getD (0, 0, 0)

/-- A stage under way counts k (R360). -/
def countStage (k : Nat) (r : RunTask) : RunTask := if r.active then { r with count := r.count + k } else r

/-- A cluster's core cycle at issue rate k: its buckets gain; unless it is halted, its stages count and a step of N cycles runs down
(R326, R360, R400, R401). -/
def tickCluster (p : Nat × Nat × Nat) (k : Nat) (x : Cluster) : Cluster :=
  let x := { x with readTokens := gain 327680 (p.1 * k) x.readTokens, writeTokens := gain 327680 (p.2.1 * k) x.writeTokens,
                    egressTokens := gain 327680 (p.2.2 * k) x.egressTokens }
  if x.halted then x
  else
    { x with run := x.run.map (countStage k), next := x.next.map (countStage k),
             stepMode := (match x.stepMode with | .cycles (n + 1) => .cycles n | m => m) }

/-- Each full pool of a tenant adds a cycle to its own time in the windows of the open steps (R333). -/
def tickFull (c : Chip) (t : Nat) (x : TenantCtx) : TenantCtx :=
  if x.steps.any (fun p => stepOpen p.2) then
    let full := fullPools c t
    let count (r : StepRec) : StepRec := { r with fullCycles := full.foldl (fun l q => tabSet l q (tabGet 0 l q + 1)) r.fullCycles }
    { x with steps := tabMap (fun _ r => if stepOpen r then count r else r) x.steps }
  else x

/-- A chip's core cycle, while its clusters run. -/
def tickChip (c : Chip) : Chip :=
  if coreRuns c then
    let p := classShares c
    let k := c.wake.issueRate
    { c with clusters := tabMap (fun _ x => tickCluster p k x) c.clusters,
             ingressTokens := tabMap (fun t n => gain 5242880 (8 * shareOf c t * p.2.2 * k) n) c.ingressTokens,
             tenants := tabMap (fun t x => tickFull c t x) c.tenants }
  else c

/-- One core cycle of 1.2 GHz. -/
def tick (s : State) : State := mapChips (modTray s (fun y => { y with now := y.now + 1 })) (fun _ c => tickChip c)

end Sys2Proof.Machine
end

