-- ==== Sys2Proof/WellFormed.lean ====
section
/-!
DEFINITION. Well-formed commands: operands that the spec's own fields and counts allow. A command that is not well-formed names
something that no tray can meet; the machine still answers it, by log entry 2.
-/
namespace Sys2Proof

/-- Eight conversions, and either none or eight of the repeat (R52). -/
def LadderReading.ok (r : LadderReading) : Bool :=
  decide (r.first.length = 8) && (decide (r.again.length = 0) || decide (r.again.length = 8))

/-- The same of a two-level input (R52). -/
def LevelReading.ok (r : LevelReading) : Bool :=
  decide (r.first.length = 8) && (decide (r.again.length = 0) || decide (r.again.length = 8))

/-- Every ladder and input of a sensing has its conversions (R52, R54). -/
def StrapReadings.ok (r : StrapReadings) : Bool :=
  r.trayidH.ok && r.trayidL.ok && r.tenlayout.ok && r.bwsplit.ok && r.portmodeH.ok && r.portmodeT.ok && r.bankSel.ok &&
  r.heatEn.ok && r.debugEn.ok

/-- A payload of at most 16,384 bytes (section 9.1). -/
def Frame.ok (f : Frame) : Bool := decide (f.payload.length ≤ 16384)

/-- A received frame: its payload fits, and a host frame, which has no prefix, came in on a port outside the mesh (R160). -/
def RxFrame.ok (f : RxFrame) : Bool := f.frame.ok && (f.route.isSome || decide (24 ≤ f.port.val))

/-- A shard reference whose fields are those of a frame header (Table 9-1). -/
def ShardStepRef.ok (r : ShardStepRef) : Bool :=
  decide (r.tensor < 65536) && decide (r.shard < 65536) && decide (r.step < 4294967296)

/-- A MAC frame of at most 37 units (R156). -/
def MacFrame.ok (m : MacFrame) : Bool := decide (m.units.length ≤ 37)

/-- A place that exists: a 128-byte line of the 96 GiB of HBM, a byte of a cluster's 4 MiB, one of 32,768 lanes (R302, R287). -/
def EccSite.ok : EccSite → Bool
  | .l1Line _ line => decide (line < 805306368)
  | .sliceLine line => decide (line < 805306368)
  | .hbmLine line => decide (line < 805306368)
  | .scratchpad _ offset => decide (offset < 4194304)
  | .ledgerBitmap _ => true
  | .ledgerAmax _ tensor shard => decide (tensor < 65536) && decide (shard < 65536)
  | .savedLane _ lane => decide (lane < 32768)
  | .pendingLine _ tensor shard step _ _ => ShardStepRef.ok { tenant := 0, tensor := tensor, shard := shard, step := step }
  | .accumulator _ tensor shard step => ShardStepRef.ok { tenant := 0, tensor := tensor, shard := shard, step := step }
  | .committedArray _ tensor shard _ _ _ => decide (tensor < 65536) && decide (shard < 65536)
  | .stashBlock _ site slot token _ _ => decide (site < 65536) && decide (slot < 65536) && decide (token < 4294967296)

/-- A flash sequence that stays inside the 64 MiB of the device (R89). -/
def FlashOp.ok : FlashOp → Bool
  | .program address bytes => decide (address + bytes.length ≤ 67108864)
  | .erase address length => decide (address + length ≤ 67108864)
  | .configure _ => true

/-- Whether a command's operands are ones that the spec allows. -/
def Instr.wellFormed : Instr → Bool
  | .trayStart r _ => r.ok
  | .strapSetDelivery r _ => r.ok
  | .strapResense r => r.ok
  | .cageModuleInsert _ milliwatts => decide (milliwatts ≤ 65535)
  | .macFrameReceive _ _ m => m.ok
  | .grad _ f => f.ok
  | .init _ f => f.ok
  | .pull _ f => f.ok
  | .stashPut _ f => f.ok
  | .stashGet _ f => f.ok
  | .maskGet _ f => f.ok
  | .scaleGet _ f => f.ok
  | .statGet _ f => f.ok
  | .index _ f => f.ok
  | .unknownFrameType _ f => f.ok
  | .reduce _ f => f.ok
  | .ledgerCollisionRetry _ f _ => f.ok
  | .shardDeadline _ r => r.ok
  | .shardClose _ r => r.ok
  | .shardVerdict _ f => f.ok
  | .verdict _ f => f.ok
  | .updateStageEnd _ r => r.ok
  | .commitBarrier _ _ step => decide (step < 4294967296)
  | .verdictTimeout _ _ step => decide (step < 4294967296)
  | .gatherTimeout _ _ step => decide (step < 4294967296)
  | .tenantDown _ f => f.ok
  | .syncOp _ f => f.ok
  | .syncAck _ f => f.ok
  | .lineFill _ line => decide (line < 805306368)
  | .deadLineInvalidate _ line => decide (line < 805306368)
  | .eccUncorrectable _ site => site.ok
  | .flashProgramEraseSequence op => op.ok
  | _ => true

end Sys2Proof
end

