-- ==== Sys2Proof/Safety.lean ====
section
/-!
DEFINITION. The words in which claims are stated: what a command leaves alone, and the invariants of the block.
-/
namespace Sys2Proof

open Sys2Proof.Machine

/-- The queue and the four chips are as they were: only the tray keeper changed. -/
def OnlyTray (s t : State) : Prop := t.pending = s.pending ∧ t.chips = s.chips

/-- The queue, the tray keeper and the other three chips are as they were: only one chip changed. -/
def OnlyChip (c : Pos) (s t : State) : Prop :=
  t.pending = s.pending ∧ t.tray = s.tray ∧ ∀ p, p ≠ c → getChip t p = getChip s p

/-- The queue and the other three chips are as they were. -/
def OtherChips (c : Pos) (s t : State) : Prop := t.pending = s.pending ∧ ∀ p, p ≠ c → getChip t p = getChip s p

/-- What sets the fans after a command on the tray: COLD_n with every reading below 60 °C stops them, else an absent module or a slow rotor takes
them to 100 %, else FANCURVE's duty for the highest reading, and the duty they had where nothing was read yet (R36, R62; log entry 59). -/
def DutyRule (s t : State) : Prop :=
  (t.tray.fanDutyNum, t.tray.fanDutyDen) =
    if (∃ p, (getChip t p).wake.cold = true) ∧ ∀ x ∈ t.tray.thermistors, x.2 < 60 then (0, 1)
    else if ∃ f ∈ t.tray.fans, f.2.present = false ∨ f.2.slow0 = true ∨ f.2.slow1 = true then (100, 1)
    else match highestReading (t.tray.thermistors.map (·.2)) with
      | some c => curveDuty t.tray.fancurve c
      | none => (s.tray.fanDutyNum, s.tray.fanDutyDen)

/-- The tray keeper changed nothing but the fans' duty, which is as R36 has it. -/
def OnlyFans (s t : State) : Prop :=
  t.tray = { s.tray with fanDutyNum := t.tray.fanDutyNum, fanDutyDen := t.tray.fanDutyDen } ∧ DutyRule s t

/-- A command answers the state with one chip replaced. -/
def Answers (i : Instr) (s : State) (c : Pos) (k : Chip) : Prop := exec i s = .next (setChip s c k)

/-- What a link command leaves alone on its chip: memory, tenants, caches, sync objects, seasons, keys, and every other port. -/
def LinkFrame (p : PortNo) (k k' : Chip) : Prop :=
  k'.hbm = k.hbm ∧ k'.tenants = k.tenants ∧ k'.lines = k.lines ∧ k'.sync = k.sync ∧ k'.wake = k.wake ∧ k'.vault = k.vault ∧
  k'.inbox = k.inbox ∧ ∀ q, q ≠ p → portOf k' q = portOf k q

/-- What serving a frame of a tenant leaves alone on its chip: HBM, seasons, keys, ports, the image, and every other tenant. -/
def TenantFrame (t : Nat) (k k' : Chip) : Prop :=
  k'.hbm = k.hbm ∧ k'.wake = k.wake ∧ k'.vault = k.vault ∧ k'.ports = k.ports ∧ k'.image = k.image ∧
  ∀ u, u ≠ t → ten k' u = ten k u

/-- What a task that reads or fills a tensor's lines leaves alone: all that serving a frame does but HBM, which lines that make room are written back
to, and the arrays, fills and steps of the tenant's shards that `p` names. -/
def ShardFrame (t : Nat) (p : Nat → Nat → Prop) (k k' : Chip) : Prop :=
  k'.wake = k.wake ∧ k'.vault = k.vault ∧ k'.ports = k.ports ∧ k'.image = k.image ∧ k'.faults = k.faults ∧
  (∀ u, u ≠ t → ten k' u = ten k u) ∧
  ∀ m n, p m n → (shardOf (ten k' t) m n).arrays = (shardOf (ten k t) m n).arrays ∧
    (shardOf (ten k' t) m n).fill = (shardOf (ten k t) m n).fill ∧ (shardOf (ten k' t) m n).steps = (shardOf (ten k t) m n).steps

/-- A chip that has taken a frame: out of the inbox and its pool, and a frame with RETRY counted where its command counts it (R165). -/
def taken (c : Chip) (f : RxFrame) (counts : Bool) : Chip :=
  if counts && rxFlag f flRetry then countTen (consume c f) (rxHead f).tenant 14 1 else consume c f

/-- A wipe source has reached a chip that has power: it holds no key, no HBM byte, no task and no cache line from then on, and the source's
code waits for the end of the wipe; a source that comes during a wipe adds its code to those that wait (R384, R387). -/
def WipeReaches (code : Nat) (k k' : Chip) : Prop :=
  (k.wipe = none → k'.wipe.map (·.codes) = some [code] ∧ k'.vault.keys = [] ∧ k'.vault.hbmRefused = true ∧ k'.hbm = [] ∧ k'.lines = [] ∧
    (∀ q x, tabFind k'.clusters q = some x → x.queue = [] ∧ x.run = none ∧ x.next = none ∧ x.l1 = []) ∧
    k'.wake.season = k.wake.season ∧ k'.fuses = k.fuses ∧ k'.faults = k.faults) ∧
  ∀ w, k.wipe = some w → k' = { k with wipe := some { w with codes := w.codes ++ [code] } }

/-- A wipe has ended on a chip: its SRAM, its sync objects and every tenant's context hold nothing, its context is invalid, each code has its entry
in the tamper log and is held (R384, R387, R390). -/
def WipeEnded (w : Wipe) (k k' : Chip) : Prop :=
  k'.wipe = none ∧ k'.wake.ctxValid = false ∧ k'.vault.wipes = k.vault.wipes + 1 ∧ k'.sync = [] ∧ k'.lines = [] ∧
  (∀ q x, tabFind k'.clusters q = some x → x.scratch = [] ∧ x.l1 = [] ∧ x.queue = [] ∧ x.run = none) ∧
  (∀ n x, tabFind k'.tenants n = some x → x.shards = [] ∧ x.steps = [] ∧ x.slots = [] ∧ x.committed = none ∧ x.loaded = false) ∧
  (k.vault.log.length + w.codes.length ≤ 64 → k'.vault.log.map (·.code) = k.vault.log.map (·.code) ++ w.codes) ∧
  (k.faults.length + w.codes.length ≤ 16 → ∀ code ∈ w.codes, holdsFault k' code = true) ∧
  k'.fuses = (if w.codes.contains 0x74 then nextLife k.vault.lifeCycle else k.fuses)

/-- A host request of a type at its destination chip, by a host port or a chip link, that passes checks 1 to 8 of Table 9-4, for a tenant that
runs, with no earlier frame of its tenant and VC before it; `k` is the chip with the frame taken. -/
def ServedRequest (s : State) (c : Pos) (f : RxFrame) (type : Nat) (k : Chip) : Prop :=
  k = taken (getChip s c) f true ∧ linksOn (getChip s c) = true ∧ waitsBehind (getChip s c) f = false ∧ (rxHead f).type = type ∧
  trailerFails f = false ∧ badHeader f = none ∧ f.vc = 1#2 ∧ tenantExists k (rxHead f).tenant = true ∧
  (f.route = none → destInside k (rxHead f).dest = true ∧ (rxHead f).dest = chipNo k) ∧
  (∀ r, f.route = some r → r.targetChip.toNat = chipNo k) ∧ wipeCode k = none ∧ stoppingFault k = none ∧
  awaitsReset (ten k (rxHead f).tenant) = false ∧ (ten k (rxHead f).tenant).fault = 0 ∧ k.wake.season ≠ .autumn

/-- A chip-to-chip frame of a type at its target, laid out as section 9.9 says, for a tenant that the chip works for, with no earlier frame of
its tenant and VC before it; `k` is the chip with the frame taken, a REDUCE with RETRY counted. -/
def ServedFrame (s : State) (c : Pos) (f : RxFrame) (type : Nat) (k : Chip) : Prop :=
  k = taken (getChip s c) f (decide (type = tyReduce)) ∧ linksOn (getChip s c) = true ∧ waitsBehind (getChip s c) f = false ∧
  (rxHead f).type = type ∧ (∃ r, f.route = some r ∧ r.targetChip.toNat = chipNo k) ∧ chipFrameOk f = true ∧
  tenantExists k (rxHead f).tenant = true ∧ tenantDeaf k (ten k (rxHead f).tenant) = false ∧ (ten k (rxHead f).tenant).wasReset = false

/-- Nothing holds a frame's work: the clusters of its tasks are idle and their buckets hold what the tasks take, the recipe runs whole and meets
no fault, and no breakpoint names the first task (log entry 10). -/
def RunsAtOnce (k : Chip) (t : Task) : Prop :=
  canRunNow k (workTasks k t) = true ∧ slotsWhere k (fun b => taskSlot b ((workTasks k t).headD t)) = [] ∧
  (∀ u ∈ workTasks k t, wholeFault k u = none) ∧ (enterAll (workTasks k t) k).isSome = true

/-- The frame with which a chip answers a request: on VC0, to the chip and port it came from (R160, R164). -/
def answerTo (k : Chip) (f : RxFrame) (h : Hdr) (payload : List Byte) : TxFrame :=
  { frame := mkFrame h payload, vc := 0#2, route := newPrefix (chipNo k) 0x3F (originOf k f).1.toNat (originOf k f).2.toNat }

/-- A DONE to the sender of a request (R184). -/
def doneTo (k : Chip) (f : RxFrame) (d : DoneInfo) : TxFrame :=
  answerTo k f (replyHdr k (rxHead f) tyDone (flLast + d.flags) d.status) (donePayload d (committedField k (rxHead f).tenant))

/-- A frame from a chip to a chip (Table 8-11). -/
def chipTo (k : Chip) (target : Nat) (h : Hdr) (payload : List Byte) : TxFrame :=
  { frame := mkFrame h payload, vc := BitVec.ofNat 2 h.vc, route := newPrefix (chipNo k) 0x3F target 0x3F }

/-- Some pieces of a reply, numbered from 0. -/
def numbered {α : Type} (l : List α) : List (Nat × α) := List.zip (List.range l.length) l

/-- The PARAM frames that answer a PULL with some pieces (selector, first element, count), in order, LAST set on the last (R178, R179). -/
def paramReplies (k : Chip) (f : RxFrame) (a : ArrayInfo) (h : Shard) (l : List (Nat × Nat × Nat)) : List TxFrame :=
  (numbered l).map (fun p =>
    answerTo k f
      { replyHdr k (rxHead f) tyParam (if p.1 + 1 = l.length then flLast else 0) p.2.1 with
        seq := p.1 % 65536, step := h.stateStep, offset := p.2.2.1, count := p.2.2.2, format := (rxHead f).format }
      (arrayBytes a h (pullArray a p.2.1 (rxHead f).format (decide ((rxHead f).aux = 4))) (rxHead f).format p.2.2.1 p.2.2.2))

/-- The MASK_DATA frames that answer a MASK_GET with the keep bits of some runs of elements (R183). -/
def maskReplies (k : Chip) (f : RxFrame) (keep : Nat) (l : List (Nat × Nat)) : List TxFrame :=
  (numbered l).map (fun p =>
    answerTo k f
      { replyHdr k (rxHead f) tyMaskData (if p.1 + 1 = l.length then flLast else 0) 0 with
        seq := p.1 % 65536, offset := p.2.1 % 4294967296, count := p.2.2 }
      (packBits p.2.2 (maskBits (ten k (rxHead f).tenant).seed (rxHead f).step (rxHead f).tensor keep p.2.1 p.2.2)))

/-- The blocks of a run in a site's order. -/
def runBlocks (r : SiteRec) (p : Nat × Nat) : List (Nat × Nat) :=
  (upFrom p.1 p.2).map (fun b => (b / (r.channels / 32), b % (r.channels / 32)))

/-- The STASH_DATA frames that answer a STASH_GET with some runs of blocks of a slot (R182). -/
def stashReplies (k : Chip) (f : RxFrame) (r : SiteRec) (l : Slot) (runs : List (Nat × Nat)) : List TxFrame :=
  (numbered runs).map (fun p =>
    answerTo k f
      { replyHdr k (rxHead f) tyStashData
          ((if p.1 + 1 = runs.length then flLast else 0) + (if (rxHead f).format = 0x01 then 0 else flCompressed)) r.codec with
        seq := p.2.1 % (r.channels / 32), offset := p.2.1 / (r.channels / 32), count := 32 * p.2.2, format := (rxHead f).format }
      (stashPayload r l (rxHead f).format (runBlocks r p.2)))

/-- A GRAD or REDUCE at the home of its shard that is accepted on time: a PARAM tensor, its shard homed here, its ranges as R171 and R197 have them,
accepted by Table 10-1, its accumulator's lines held by their slices (in `k₁`, the chip after room is made for them, log entry 31), and its
ACCUMULATE task free to run. -/
def AcceptedOnTime (k k₁ : Chip) (now : Nat) (f : RxFrame) (i : ShardInfo) : Prop :=
  let q := rxHead f
  paramTensor k q.tenant q.tensor = some (i.tensor, i.group) ∧ shardInfo k q.tenant q.tensor q.shard = some i ∧
  homeOf k q.tenant q.tensor q.shard = some (chipNo k) ∧ gradFormat q.format = true ∧ q.source < i.group.expected ∧
  q.shard ≠ 0xFFFF ∧ 1 ≤ q.count ∧ q.offset + q.count ≤ i.n ∧ (isPiece f = false → gradRange i.n q = true) ∧
  tabErase k.collisions f = k.collisions ∧ homeOutcome k i f = .accept ∧ accumulates k = true ∧
  accRoom k i f q.step = (k₁, true) ∧ RunsAtOnce k₁ { frameTask k₁ 0 f q.offset q.count now with step := q.step }

/-- What accepting a frame's values does: the slot's arrival bit is set, the deadline runs, the values are added to the accumulator, each other
tenant and each other shard's arrays stay, the tenant counts it; a LAST frame whose bucket is complete is answered OK, as is one that holds a
non-finite value, with NONFINITE set, but for a piece that never replies. -/
def ValuesAdded (k k' : Chip) (f : RxFrame) (i : ShardInfo) : Prop :=
  let q := rxHead f
  let r := stepOf (shardOf (ten k q.tenant) q.tensor q.shard) q.step
  let r' := stepOf (shardOf (ten k' q.tenant) q.tensor q.shard) q.step
  (sourceOf r' q.source).slots = (sourceOf r q.source).slots ++ [slotNo i q (isPiece f)] ∧ (sourceOf r' q.source).started = true ∧
  r'.deadline ≠ .idle ∧ r'.closed = r.closed ∧
  r'.acc = addValues i (sourceOf r q.source).rows q.offset (gradValues f) r.acc ∧
  tabGet 0 (ten k' q.tenant).counters 15 = satAdd64 (tabGet 0 (ten k q.tenant).counters 15) 1 ∧
  (hasFlag q.flags flLast = false → (holdsNonfinite f = false ∨ isSilent f (isPiece f) = true) → (sourceOf r q.source).owed = [] →
    k'.outbox = k.outbox) ∧
  (hasFlag q.flags flLast = false → holdsNonfinite f = true → isSilent f (isPiece f) = false → (sourceOf r q.source).owed = [] →
    ∃ d, k'.outbox = k.outbox ++ [doneTo k f d] ∧ d.status = stOk ∧ d.flags = flNonfinite) ∧
  (hasFlag q.flags flLast = true → isSilent f (isPiece f) = false → (sourceOf r q.source).owed = [] →
    bucketDone i q.shard (sourceOf r' q.source) f = true →
    ∃ d, k'.outbox = k.outbox ++ [doneTo k f d] ∧ d.status = stOk ∧ d.flags = (if holdsNonfinite f then flNonfinite else 0)) ∧
  (∀ m n, (shardOf (ten k' q.tenant) m n).arrays = (shardOf (ten k q.tenant) m n).arrays) ∧ TenantFrame q.tenant k k'

/-- A host request as a command: its chip, its frame and the TYPE it is of. -/
def requestOf (i : Instr) : Option (Pos × RxFrame × Nat) :=
  match i with
  | .grad c f => some (c, f, tyGrad)
  | .init c f => some (c, f, tyInit)
  | .pull c f => some (c, f, tyPull)
  | .stashPut c f => some (c, f, tyStashPut)
  | .stashGet c f => some (c, f, tyStashGet)
  | .maskGet c f => some (c, f, tyMaskGet)
  | .scaleGet c f => some (c, f, tyScaleGet)
  | .statGet c f => some (c, f, tyStatGet)
  | .index c f => some (c, f, tyIndex)
  | _ => none

/-- The flash holds its canonical form, with every byte inside its 64 MiB (R89). -/
def FlashWf (s : State) : Prop := Memory.wf 0xFF#8 s.tray.flash = true ∧ ∀ p ∈ s.tray.flash, p.1 < 67108864

/-- An issue rate that the governor may set: 4/16 to 16/16 (R87). -/
def RatesLegal (s : State) : Prop := ∀ p, 4 ≤ (getChip s p).wake.issueRate ∧ (getChip s p).wake.issueRate ≤ 16

/-- Every run of the machine that meets no fault: a safe run. Only a flash sequence beyond the device can end one (R89). -/
def SafeStep (s : State) : Prop := ∃ t, Machine.step s = .next t

end Sys2Proof
end

