-- ==== Sys2Proof/Certificates/Slice0/Obligations.lean ====
section
/-!
DEFINITION. The statements for the provers. Each says for which states and operands a command completes, what it then leaves in
State, and what it leaves alone.
-/
section
open Sys2Proof Sys2Proof.Machine

/-! ## The block as a whole -/

/-- The queue is first in, first out: a step runs the front command on the state with the rest of the queue. The queue is the model's. -/
def Obligations.FrontCommandRuns : Prop :=
  ∀ (s : State) (c : Instr) (rest : List Instr), s.pending = c :: rest → step s = exec c { s with pending := rest }

/-- No command writes the queue: what waits still waits after it. The queue is the model's own (log entry 9). -/
def Obligations.CommandsLeaveTheQueue : Prop :=
  ∀ (i : Instr) (s t : State), exec i s = .next t → t.pending = s.pending

/-- With nothing waiting a step is one core cycle (the model's choice, log entry 1): the clock advances, and neither the keeper nor
any chip's season, faults, image, vault, frames or ports change. -/
def Obligations.IdleStepIsOneCoreCycle : Prop :=
  ∀ s : State, s.pending = [] → ∃ t, step s = .next t ∧ t.pending = [] ∧ t.tray = { s.tray with now := s.tray.now + 1 } ∧
    ∀ p, (getChip t p).wake = (getChip s p).wake ∧ (getChip t p).faults = (getChip s p).faults ∧
      (getChip t p).counters = (getChip s p).counters ∧ (getChip t p).image = (getChip s p).image ∧
      (getChip t p).ports = (getChip s p).ports ∧ (getChip t p).outbox = (getChip s p).outbox ∧
      (getChip t p).inbox = (getChip s p).inbox ∧ (getChip t p).vault = (getChip s p).vault ∧
      (getChip t p).hbm = (getChip s p).hbm ∧ (getChip t p).sync = (getChip s p).sync

/-- In a core cycle of a chip whose core runs, a cluster's three buckets gain their BWSPLIT share times the issue rate up to their
depth, and an executing stage of a cluster that is not halted counts the rate (R326, R360, R400; the cycle itself is log entry 1). -/
def Obligations.CoreCycleFillsBuckets : Prop :=
  ∀ (s : State) (p : Pos) (k : ClusterNo) (x : Cluster) (r w e : Nat), coreRuns (getChip s p) = true →
    bwsplitShares (codeOf (getChip s p).wake.latched.bwsplit) = some (r, w, e) → tabFind (getChip s p).clusters k = some x →
    ∃ y, tabFind (getChip (tick s) p).clusters k = some y ∧
      y.readTokens = min 327680 (x.readTokens + r * (getChip s p).wake.issueRate) ∧
      y.writeTokens = min 327680 (x.writeTokens + w * (getChip s p).wake.issueRate) ∧
      y.egressTokens = min 327680 (x.egressTokens + e * (getChip s p).wake.issueRate) ∧
      (x.halted = true → y.run = x.run ∧ y.next = x.next ∧ y.stepMode = x.stepMode) ∧
      (x.halted = false → ∀ u, x.run = some u →
        y.run = some { u with count := if u.active then u.count + (getChip s p).wake.issueRate else u.count })

/-- Every command completes in every state, but a flash sequence: that one stops, by name, exactly while FLASH_GNT_n is asserted and beyond
the flash, where the device has no byte (R41, R89). -/
def Obligations.OnlyFlashSequencesCanStop : Prop :=
  (∀ (i : Instr) (s : State), (∀ op, i ≠ .flashProgramEraseSequence op) → ∃ t, exec i s = .next t) ∧
  ∀ (op : FlashOp) (s : State),
    if (pinsOf s).flashGnt = true ∧ op.ok = false then exec (.flashProgramEraseSequence op) s = .fault .outsideFlash
    else ∃ t, exec (.flashProgramEraseSequence op) s = .next t

/-- Reset is the tray Off: power removed, no rail up, both feeds absent, no code forwarded, chips holding nothing (R24, R25, R64; that
reset is the Off tray is the model's choice, log entry 3). -/
def Obligations.ResetIsTheTrayOff : Prop :=
  State.reset.pending = [] ∧ State.reset.tray.feedA = false ∧ State.reset.tray.feedB = false ∧
  (∀ r, railOf State.reset.tray r = .down) ∧ State.reset.tray.forwarding = false ∧ State.reset.tray.forwarded = none ∧
  State.reset.tray.refClock = false ∧
  ∀ p, (getChip State.reset p).wake.season = .off ∧ (getChip State.reset p).image = none ∧
    (getChip State.reset p).tenants = [] ∧ (getChip State.reset p).vault.keys = [] ∧ (getChip State.reset p).faults = []

/-- The invariants hold at reset (the erased flash and the full issue rate there are the model's choices, log entries 5 and 4). -/
def Obligations.InvariantsHoldAtReset : Prop := FlashWf State.reset ∧ RatesLegal State.reset

/-- Every step keeps the flash in canonical form and inside its 64 MiB (R89). -/
def Obligations.StepKeepsTheFlashForm : Prop :=
  ∀ s t : State, FlashWf s → step s = .next t → FlashWf t

/-- Every step keeps every chip's issue rate between 4/16 and 16/16 (R87). -/
def Obligations.StepKeepsTheIssueRates : Prop :=
  ∀ s t : State, RatesLegal s → step s = .next t → RatesLegal t

/-! ## The tray keeper -/

/-- FEED_PRESENT and FEED_ABSENT: a keeper that runs reports the feed, and nothing else changes (R24). TRAY_START from Off: VKEEP rises, FANCURVE is sensed, both feeds
start as absent. TRAY_POWER_LOSS from any state takes every rail and every chip Off, keeping the fuses and the flash (R24, R25, R27, Table 2-2
step 1). -/
def Obligations.PowerComesAndGoes : Prop :=
  (∀ s : State, railOf s.tray .vkeep ≠ .down →
    exec (.feedPresent .a) s = .next { s with tray := { s.tray with feedA := true } } ∧
    exec (.feedPresent .b) s = .next { s with tray := { s.tray with feedB := true } } ∧
    exec (.feedAbsent .a) s = .next { s with tray := { s.tray with feedA := false } } ∧
    exec (.feedAbsent .b) s = .next { s with tray := { s.tray with feedB := false } }) ∧
  (∀ (s : State) (f : LadderReading) (lid : Bool), railOf s.tray .vkeep = .down →
    ∃ t, exec (.trayStart f lid) s = .next t ∧ OnlyTray s t ∧ railOf t.tray .vkeep = .rising ∧
      t.tray.fancurve = senseLadder f ∧ t.tray.lidOpen = lid ∧ t.tray.feedA = false ∧ t.tray.feedB = false ∧
      (∀ r, r ≠ .vkeep → railOf t.tray r = railOf s.tray r) ∧ t.tray.flash = s.tray.flash) ∧
  ∀ s : State, ∃ t, exec .trayPowerLoss s = .next t ∧ t.pending = s.pending ∧ (∀ r, railOf t.tray r = .down) ∧
    t.tray.feedA = false ∧ t.tray.feedB = false ∧ t.tray.flash = s.tray.flash ∧ t.tray.forwarding = false ∧
    ∀ p, (getChip t p).wake.season = .off ∧ (getChip t p).fuses = (getChip s p).fuses ∧ (getChip t p).vault.keys = [] ∧
      (getChip t p).hbm = [] ∧ (getChip t p).tenants = []

/-- RAIL_IN_REGULATION: rails rise in the order of Table 2-2, each only after the one before it is in regulation; once VDDQ is, the chips stand in Winter
holding nothing, and the keeper begins forwarding; in a Spring preparation four of the five rails are each followed by the next (R27, R28, Table 2-2 steps 2 to
6). While a rail fault is held no rail after VKEEP is followed by another (R30).
That an event whose condition does not hold does nothing is log entry 2. -/
def Obligations.RailsRiseInOrder : Prop :=
  (∀ (s : State) (r n : Rail), (r, n) ∈ [(Rail.vkeep, Rail.vbus), (.vbus, .vaon), (.vaon, .vret), (.vret, .vpp), (.vpp, .vddh), (.vddh, .vddq)] →
    s.tray.railFault = false → railOf s.tray r = .rising → railOf s.tray n = .down →
    ∃ t, exec (.railInRegulation r) s = .next t ∧ t.chips = s.chips ∧ t.pending = s.pending ∧ railOf t.tray r = .up ∧
      railOf t.tray n = .rising ∧ ∀ q, q ≠ r → q ≠ n → railOf t.tray q = railOf s.tray q) ∧
  (∀ (s : State) (r n : Rail), (r, n) ∈ [(Rail.vcore, Rail.vsram), (.vsram, .vser), (.vser, .vserh), (.vserh, .vcage)] →
    s.tray.railFault = false → s.tray.prep = true → railOf s.tray r = .rising → railOf s.tray n = .down →
    (∀ q ∈ springRails.takeWhile (fun q => decide (q ≠ r)), railOf s.tray q = .up) →
    ∃ t, exec (.railInRegulation r) s = .next t ∧ OnlyTray s t ∧ railOf t.tray r = .up ∧ railOf t.tray n = .rising ∧
      ∀ q, q ≠ r → q ≠ n → railOf t.tray q = railOf s.tray q) ∧
  (∀ (s : State) (r : Rail), r ≠ .vkeep → s.tray.railFault = true → railOf s.tray r = .rising →
    ∃ t, exec (.railInRegulation r) s = .next t ∧ OnlyTray s t ∧ railOf t.tray r = .up ∧
      ∀ q, q ≠ r → railOf t.tray q = railOf s.tray q) ∧
  (∀ (s : State) (r : Rail), railOf s.tray r ≠ .rising → exec (.railInRegulation r) s = .next s) ∧
  ∀ s : State, s.tray.railFault = false → railOf s.tray .vddq = .rising →
    ∃ t, exec (.railInRegulation .vddq) s = .next t ∧ t.tray.forwarding = true ∧ railOf t.tray .vddq = .up ∧
      ∀ p, (getChip t p).wake.season = .winter ∧ (getChip t p).wake.ctxValid = false ∧ (getChip t p).tenants = [] ∧
        (getChip t p).vault.keys = [] ∧ (getChip t p).fuses = (getChip s p).fuses

/-- RAIL_OUT_OF_BAND: a rail that leaves its band while up takes every rail but VBUS and VKEEP with it, and the chips lose everything but their fuses.
RAIL_FAULT_RECOVERY: nothing rises again until SEASON is held at Winter with VBUS in regulation, and then VAON is the first (R30). -/
def Obligations.RailFaultAndRecovery : Prop :=
  (∀ (s : State) (r : Rail), railOf s.tray r = .up →
    ∃ t, exec (.railOutOfBand r) s = .next t ∧ t.pending = s.pending ∧ t.tray.railFault = true ∧
      railOf t.tray .vbus = railOf s.tray .vbus ∧ railOf t.tray .vkeep = railOf s.tray .vkeep ∧
      (∀ q, q ≠ .vbus → q ≠ .vkeep → railOf t.tray q = .down) ∧ t.tray.forwarding = false ∧ t.tray.flash = s.tray.flash ∧
      ∀ p, (getChip t p).wake.season = .off ∧ (getChip t p).tenants = [] ∧ (getChip t p).hbm = [] ∧ (getChip t p).vault.keys = [] ∧
        (getChip t p).fuses = (getChip s p).fuses) ∧
  (∀ s : State, s.tray.railFault = true → s.tray.seasonPins = 0#2 → railOf s.tray .vbus = .up → railOf s.tray .vaon = .down →
    ∃ t, exec .railFaultRecovery s = .next t ∧ OnlyTray s t ∧ t.tray.railFault = false ∧ railOf t.tray .vaon = .rising ∧
      ∀ q, q ≠ .vaon → railOf t.tray q = railOf s.tray q) ∧
  ∀ s : State, (s.tray.seasonPins ≠ 0#2 ∨ railOf s.tray .vbus ≠ .up) → exec .railFaultRecovery s = .next s

/-- THERMISTOR_READING and FAN_FAILURE: the fans follow the highest thermistor reading by FANCURVE, an open or short thermistor counting as +125 °C; with a rotor slow or a
module absent they run at 100 %, and with COLD_n asserted and every reading below 60 °C they stand still (R36, R62; that this stop goes before the
100 % is log entry 59). -/
def Obligations.FansAndCagesFollowTheirReadings : Prop :=
  (∀ (s : State) (n : Fin 6) (v : Option Int), railOf s.tray .vkeep = .up →
    ∃ t, exec (.thermistorReading n v) s = .next t ∧ OnlyTray s t ∧ tabFind t.tray.thermistors n = some (v.getD 125) ∧
      (∀ m, m ≠ n → tabFind t.tray.thermistors m = tabFind s.tray.thermistors m) ∧ t.tray.fans = s.tray.fans ∧ DutyRule s t) ∧
  (∀ (s : State) (m : Fin 6) (f : FanFault),
    ∃ t, exec (.fanFailure m f) s = .next t ∧ OnlyTray s t ∧ tabFind t.tray.fans m = some (failFan (tabGet .reset s.tray.fans m) f) ∧
      (∀ n, n ≠ m → tabFind t.tray.fans n = tabFind s.tray.fans n) ∧ t.tray.thermistors = s.tray.thermistors ∧ DutyRule s t ∧
      ((∀ p, (getChip s p).wake.cold = false) → ((∃ b, f = .rotor b) ∨ f = .absent) → t.tray.fanDutyNum = 100 ∧ t.tray.fanDutyDen = 1)) ∧
  ∀ (s : State) (g : Fin 40) (mw : Nat),
    ∃ t, exec (.cageModuleInsert g mw) s = .next t ∧ t.pending = s.pending ∧ (∀ p, p ≠ cageChip g → getChip t p = getChip s p) ∧
      (tabGet Cage.reset t.tray.cages g).present = true ∧ (tabGet Cage.reset t.tray.cages g).milliwatts = mw ∧
      ((tabGet Cage.reset t.tray.cages g).highPower = true → mw ≤ 5000 ∧ railOf s.tray .vcage = .up) ∧
      (railOf s.tray .vcage = .up → mw ≤ 5000 →
        strappedMode (getChip s (cageChip g)).wake.latched (Fin.ofNat 64 (cagePort g)) ≠ .off →
        (tabGet Cage.reset t.tray.cages g).highPower = true) ∧
      (railOf s.tray .vcage = .up → 5000 < mw → ∀ p, cageOfPort (cageChip g) p = some g →
        (portOf (getChip t (cageChip g)) p).step = .down) ∧
      ∀ h, h ≠ g → tabGet Cage.reset t.tray.cages h = tabGet Cage.reset s.tray.cages h

/-- FLASH_REQUEST is granted at once where chip A is not reading the image, else FLASH_GRANT_AFTER_READ grants it; FLASH_RELEASE takes the grant back;
each grant and each release outside a read leaves the flash in 1S-1S-1S mode (R40). A release for which chip A's load waited lets that load begin (R92). -/
def Obligations.FlashGrants : Prop :=
  (∀ s : State, railOf s.tray .vkeep = .up → reading s.tray = false →
    exec .flashRequest s = .next { s with tray := { s.tray with flashReq := true, flashGnt := true, grantDue := false, flashOctal := false } }) ∧
  (∀ s : State, railOf s.tray .vkeep = .up → reading s.tray = true →
    exec .flashRequest s = .next { s with tray := { s.tray with flashReq := true, grantDue := true } }) ∧
  (∀ s : State, s.tray.grantDue = true → s.tray.flashReq = true → reading s.tray = false →
    exec .flashGrantAfterRead s = .next { s with tray := { s.tray with flashGnt := true, grantDue := false, flashOctal := false } }) ∧
  (∀ s : State, s.tray.load.phase = .idle →
    exec .flashRelease s = .next { s with tray := { s.tray with flashReq := false, flashGnt := false, grantDue := false, flashOctal := false } }) ∧
  ∀ s : State, s.tray.load.phase = .waitGrant →
    exec .flashRelease s = .next (modTray s (fun y =>
      { y with flashReq := false, flashGnt := false, grantDue := false, flashOctal := true, load := { y.load with phase := .header } }))

/-- FLASH_PROGRAM_ERASE_SEQUENCE: while FLASH_GNT_n is asserted a sequence inside the flash leaves exactly its bytes: programmed bytes read back, erased bytes read 0xFF, every other
byte reads as before. While it is not asserted the keeper ignores the pins (R41, R89, R91). -/
def Obligations.FlashSequencesWriteTheirBytes : Prop :=
  (∀ (s : State) (a : Nat) (bs : List Byte), (pinsOf s).flashGnt = true → a + bs.length ≤ 67108864 → FlashWf s →
    ∃ t, exec (.flashProgramEraseSequence (.program a bs)) s = .next t ∧ OnlyTray s t ∧
      (∀ x, memGet 0xFF#8 t.tray.flash x = if h : a ≤ x ∧ x - a < bs.length then bs[x - a]'h.2 else memGet 0xFF#8 s.tray.flash x) ∧
      t.tray.flashConfigAltered = s.tray.flashConfigAltered) ∧
  (∀ (s : State) (a n : Nat), (pinsOf s).flashGnt = true → a + n ≤ 67108864 → FlashWf s →
    ∃ t, exec (.flashProgramEraseSequence (.erase a n)) s = .next t ∧ OnlyTray s t ∧
      ∀ x, memGet 0xFF#8 t.tray.flash x = if a ≤ x ∧ x < a + n then 0xFF#8 else memGet 0xFF#8 s.tray.flash x) ∧
  (∀ (s : State) (v : Bool), (pinsOf s).flashGnt = true →
    exec (.flashProgramEraseSequence (.configure v)) s = .next { s with tray := { s.tray with flashConfigAltered := v } }) ∧
  ∀ (s : State) (op : FlashOp), (pinsOf s).flashGnt = false → exec (.flashProgramEraseSequence op) s = .next s

/-! ## Straps and seasons -/

/-- SEASON_PIN_CHANGE starts the stability count again; SEASON_FORWARD takes a stable code once (R32). A code that becomes stable while the Spring
preparation runs is held behind those before it, and nothing else moves (R28).
That an event whose condition does not hold does nothing is log entry 2. -/
def Obligations.SeasonPinsAreDebounced : Prop :=
  (∀ (s : State) (code : BitVec 2), code ≠ s.tray.seasonPins →
    exec (.seasonPinChange code) s = .next { s with tray := { s.tray with seasonPins := code, pinTaken := false } }) ∧
  (∀ s : State, s.tray.pinTaken = true → exec .seasonForward s = .next s) ∧
  (∀ s : State, s.tray.forwarding = true → s.tray.pinTaken = false → s.tray.prep = true →
    exec .seasonForward s = .next { s with tray := { s.tray with pinTaken := true, held := s.tray.held ++ [s.tray.seasonPins] } })

/-- A code forwarded by SEASON_FORWARD (01 in Winter is not: it starts the preparation) to a chip that is not stopped, is in no season error and has no fault listed
moves it by Table 4-2: Summer answers 10 with
Autumn and stays on 11, Autumn answers 11 with Summer and 00 with Winter, a Spring that is done answers 11 with Summer; an answer that Table 4-2 does not list
is season error 0x63, the season unchanged (R65, R66). -/
def Obligations.ForwardedCodesMoveByTheTable : Prop :=
  ∀ (s : State) (p : Pos), s.tray.forwarding = true → s.tray.pinTaken = false → s.tray.prep = false →
    (∀ q, (getChip s q).wake.season = (getChip s p).wake.season) → (getChip s p).wake.stopped = false →
    (getChip s p).wake.seasonError = false → (getChip s p).faults = [] → ((getChip s p).wake.season = .winter → s.tray.seasonPins ≠ 1#2) →
    ∃ t, exec .seasonForward s = .next t ∧ t.tray.forwarded = some s.tray.seasonPins ∧ t.tray.pinTaken = true ∧ t.pending = s.pending ∧
      ((getChip s p).wake.season = .summer → s.tray.seasonPins = 2#2 →
        (getChip t p).wake.season = .autumn ∧ (getChip t p).wake.entered = false ∧ (getChip t p).wake.drain = .steps) ∧
      ((getChip s p).wake.season = .summer → s.tray.seasonPins = 3#2 → getChip t p = getChip s p) ∧
      ((getChip s p).wake.season = .autumn → s.tray.seasonPins = 3#2 → (getChip t p).wake.season = .summer ∧ (getChip t p).wake.entered = true) ∧
      ((getChip s p).wake.season = .spring → (getChip s p).wake.phase = .done → s.tray.seasonPins = 3#2 →
        (getChip t p).wake.season = .summer ∧ (getChip t p).wake.entered = true) ∧
      ((getChip s p).wake.season = .autumn → s.tray.seasonPins = 0#2 → (getChip t p).wake.season = .winter ∧ t.tray.winterWait = true) ∧
      ((((getChip s p).wake.season = .winter ∧ (s.tray.seasonPins = 2#2 ∨ s.tray.seasonPins = 3#2)) ∨
        ((getChip s p).wake.season = .spring ∧ s.tray.seasonPins = 2#2) ∨
        ((getChip s p).wake.season = .summer ∧ (s.tray.seasonPins = 0#2 ∨ s.tray.seasonPins = 1#2)) ∨
        ((getChip s p).wake.season = .autumn ∧ s.tray.seasonPins = 1#2)) →
        (getChip t p).wake.season = (getChip s p).wake.season ∧ (getChip t p).wake.seasonError = true ∧
        holdsFault (getChip t p) 0x63 = true ∧ (getChip t p).tenants = (getChip s p).tenants ∧
        (getChip t p).ports = (getChip s p).ports)

/-- 01 for a tray in Winter starts the preparation by SEASON_FORWARD: the first of the five rails rises, and no chip has Spring yet (R28). While the keeper
still waits for Winter to be reported, the rails of the season before go first (the model's choice, log entry 58). -/
def Obligations.SpringIsPreparedFirst : Prop :=
  (∀ s : State, s.tray.forwarding = true → s.tray.pinTaken = false → s.tray.prep = false → s.tray.winterWait = false →
    s.tray.seasonPins = 1#2 → (getChip s 0).wake.season = .winter → (∀ r ∈ springRails, railOf s.tray r = .down) →
    ∃ t, exec .seasonForward s = .next t ∧ OnlyTray s t ∧ t.tray.prep = true ∧ t.tray.strapsDelivered = false ∧
      railOf t.tray .vcore = .rising ∧ ∀ r, r ≠ .vcore → railOf t.tray r = railOf s.tray r) ∧
  ∀ s : State, s.tray.forwarding = true → s.tray.pinTaken = false → s.tray.prep = false → s.tray.winterWait = true →
    s.tray.seasonPins = 1#2 → (getChip s 0).wake.season = .winter →
    exec .seasonForward s = .next { s with tray := { s.tray with pinTaken := true, prep := true, strapsDelivered := false } }

/-- STRAP_SET_DELIVERY: when the sensing completes, every chip in Winter latches the whole set with its own CHIPPOS; an unstable strap on any chip fails the
Spring of every one with 0x51, a reserved code with 0x50, a CHIPPOS that is not the chip's place with 0x52 (R53, R55, R63).
That an unstable CHIPPOS counts for every chip is log entry 54. -/
def Obligations.StrapsAreLatchedAndChecked : Prop :=
  ∀ (s : State) (r : StrapReadings) (pos : ChipposReadings), s.tray.prep = true → s.tray.winterWait = false → s.tray.strapsDelivered = false →
    s.tray.refClock = false → s.tray.railCodeDue = false →
    (∀ p, (getChip s p).wake.season = .winter ∧ (getChip s p).wake.stopped = false ∧ (getChip s p).faults = []) →
    ∃ t, exec (.strapSetDelivery r pos) s = .next t ∧ t.pending = s.pending ∧ t.tray = { s.tray with strapsDelivered := true } ∧
      ∀ p, (getChip t p).wake.latched = senseStraps r (posReading pos p) ∧ (getChip t p).wake.season = .winter ∧
        (getChip t p).image = (getChip s p).image ∧ (getChip t p).tenants = (getChip s p).tenants ∧
        ((∃ q, unstableStrap (senseStraps r (posReading pos q)) = true) →
          (getChip t p).wake.phase = .failed ∧ holdsFault (getChip t p) 0x51 = true) ∧
        (reservedStrap (senseStraps r (posReading pos p)) = true →
          (getChip t p).wake.phase = .failed ∧ holdsFault (getChip t p) 0x50 = true) ∧
        (∀ v, posReading pos p = some v → v.toNat ≠ p.val →
          (getChip t p).wake.phase = .failed ∧ holdsFault (getChip t p) 0x52 = true)

/-- STRAP_RESENSE changes what is observed and counted, and no latched strap: an unstable one keeps its last stable value (R54). -/
def Obligations.ResenseObservesOnly : Prop :=
  ∀ (s : State) (r : StrapReadings), s.tray.forwarding = true → s.tray.prep = false →
    (∀ p, (getChip s p).wake.season = .winter ∨ (getChip s p).wake.season = .summer ∨ (getChip s p).wake.season = .autumn) →
    ∃ t, exec (.strapResense r) s = .next t ∧ t.tray = s.tray ∧ t.pending = s.pending ∧
      ∀ p, (getChip t p).wake.latched = (getChip s p).wake.latched ∧ (getChip t p).wake.season = (getChip s p).wake.season ∧
        (getChip t p).wake.observed = observeStraps (getChip s p).wake.observed (senseStraps r none) ∧
        tabGet 0 (getChip t p).counters 148 = satAdd64 (tabGet 0 (getChip s p).counters 148) (unstableCount (senseStraps r none)) ∧
        (getChip t p).tenants = (getChip s p).tenants ∧ (getChip t p).ports = (getChip s p).ports

/-- WINTER_REACHED: when the last chip on its way to Winter reports it reached, the keeper removes the five rails and stops the clock; the drained chip's
context is valid and HBM is in self-refresh (R28, R67, R70). WINTER_REPORT_TIMEOUT: a chip that has not reported within its time loses its context, and every chip
records 0x65 (R29). -/
def Obligations.WinterIsReported : Prop :=
  (∀ (s : State) (c : Pos), s.tray.winterWait = true → s.tray.prep = false →
    (∀ p, (getChip s p).wake.season = .winter) → (getChip s c).wake.winterReported = false →
    (∀ p, p ≠ c → (getChip s p).wake.winterReported = true) → (getChip s c).wake.drained = true → (getChip s c).wake.answering = false →
    (getChip s c).wipe = none → (getChip s c).faults = [] → (getChip s c).wake.phase = .idle → (getChip s c).wake.hbm = .running →
    ∃ t, exec (.winterReached c) s = .next t ∧ t.pending = s.pending ∧ t.tray.winterWait = false ∧ t.tray.refClock = false ∧
      (∀ r ∈ springRails, railOf t.tray r = .down) ∧ (getChip t c).wake.ctxValid = true ∧ (getChip t c).wake.hbm = .selfRefresh ∧
      (getChip t c).wake.winterReported = true ∧ (getChip t c).outbox = [] ∧ (getChip t c).inbox = [] ∧
      ∀ p, p ≠ c → getChip t p = getChip s p) ∧
  ∀ s : State, s.tray.winterWait = true → s.tray.prep = false →
    ∃ t, exec .winterReportTimeout s = .next t ∧ t.pending = s.pending ∧ t.tray.winterWait = false ∧ t.tray.winterFault = true ∧
      t.tray.refClock = false ∧ (∀ r ∈ springRails, railOf t.tray r = .down) ∧
      ∀ p, tabGet 0 (getChip t p).occurrences 0x65 = tabGet 0 (getChip s p).occurrences 0x65 + 1 ∧
        ((getChip s p).wake.winterReported = false → (getChip t p).wake.ctxValid = false) ∧
        ((getChip s p).wake.season = .winter → (getChip s p).wake.winterReported = true → (getChip t p).wake = (getChip s p).wake)

/-- AUTUMN_NO_STEP_IN_FLIGHT: an Autumn chip with no step in flight goes on to the write-back, and with a step in flight it does not; AUTUMN_WRITEBACK_DONE: with the write-back done
and no stage under way its lane states are saved as they stand and it has finished entering Autumn (R82, R84, R293, Table 4-6 steps 4 to 7).
That an event whose condition does not hold does nothing is log entry 2. -/
def Obligations.AutumnDrains : Prop :=
  (∀ (s : State) (c : Pos), (getChip s c).wake.season = .autumn → (getChip s c).wake.drain = .steps → (getChip s c).wake.stopped = false →
    chipInFlight (getChip s c) = false →
    ∃ t, exec (.autumnNoStepInFlight c) s = .next t ∧ OnlyChip c s t ∧ (getChip t c).wake = { (getChip s c).wake with drain := .writeBack } ∧
      (getChip t c).ports = (getChip s c).ports ∧ (getChip t c).faults = (getChip s c).faults ∧ (getChip t c).hbm = (getChip s c).hbm) ∧
  (∀ (s : State) (c : Pos), chipInFlight (getChip s c) = true → exec (.autumnNoStepInFlight c) s = .next s) ∧
  ∀ (s : State) (c : Pos), (getChip s c).wake.season = .autumn → (getChip s c).wake.drain = .writeBack → (getChip s c).wake.stopped = false →
    anyStage (getChip s c) = false →
    ∃ t, exec (.autumnWritebackDone c) s = .next t ∧ OnlyChip c s t ∧
      (getChip t c).wake = { (getChip s c).wake with drain := .done, drained := true, entered := true } ∧
      (getChip t c).ports = (getChip s c).ports ∧ (getChip t c).faults = (getChip s c).faults ∧
      ∀ n x, tabFind (getChip t c).tenants n = some x → x.savedSeed = some x.laneSeed ∧ x.saved = x.lanes
/-! ## Spring -/

/-- SPRING_RECEIVED at a chip that has entered Spring: with TAMPER_n low or the lid open it fails at once, holds 0x70 or 0x71 for each, draws no key and starts
no port (R388). Else Table 4-4 or 4-5 begins at step 1: the fused life cycle is copied, every cluster's buckets and the ingress class are full, no SYNC_OP
number is kept, no tenant stands loaded, and exactly the ports that may train do so; a Spring from Off begins with no counter, no sync object, and
tenants that hold no shard, step or slot, a Spring from Winter keeps the counters (R70, R72, R153, R327, R344, R372, R373). The issue rate of 16/16 is the
model's choice (log entry 63). -/
def Obligations.SpringBegins : Prop :=
  (∀ (s : State) (c : Pos), (getChip s c).wake.season = .spring → (getChip s c).wake.phase = .idle →
    (s.tray.tamperLow = true ∨ s.tray.lidOpen = true) → (getChip s c).faults.length < 15 →
    ∃ t, exec (.springReceived c) s = .next t ∧ OnlyChip c s t ∧ (getChip t c).wake.phase = .failed ∧
      (s.tray.tamperLow = true → holdsFault (getChip t c) 0x70 = true) ∧ (s.tray.lidOpen = true → holdsFault (getChip t c) 0x71 = true) ∧
      (getChip t c).vault = (getChip s c).vault ∧ (getChip t c).ports = (getChip s c).ports ∧ (getChip t c).hbm = (getChip s c).hbm ∧
      (getChip t c).tenants = (getChip s c).tenants) ∧
  ∀ (s : State) (c : Pos), (getChip s c).wake.season = .spring → (getChip s c).wake.phase = .idle → s.tray.tamperLow = false →
    s.tray.lidOpen = false →
    ∃ t, exec (.springReceived c) s = .next t ∧ OnlyChip c s t ∧ (getChip t c).wake.phase = .pll ∧ (getChip t c).wake.issueRate = 16 ∧
      (getChip t c).wake.season = .spring ∧ (getChip t c).image = none ∧ (getChip t c).vault.lifeCycle = (getChip s c).fuses ∧
      (getChip t c).vault.keys = (getChip s c).vault.keys ∧ (getChip t c).hbm = (getChip s c).hbm ∧
      (getChip t c).faults = (getChip s c).faults ∧
      (∀ p, (portOf (getChip t c) p).step = if portEnabled t c p then .lanes else .down) ∧
      (∀ k x, tabFind (getChip t c).clusters k = some x → x.readTokens = 327680 ∧ x.writeTokens = 327680 ∧ x.egressTokens = 327680) ∧
      (∀ u, tabGet 5242880 (getChip t c).ingressTokens u = 5242880) ∧
      (∀ n x, tabFind (getChip t c).tenants n = some x → x.loaded = false ∧ x.syncTx = [] ∧ x.syncRx = []) ∧
      ((getChip s c).wake.fromOff = true → (getChip t c).counters = [] ∧ (getChip t c).sync = [] ∧
        (getChip t c).vault.springOffAt = s.tray.now ∧
        ∀ n x, tabFind (getChip t c).tenants n = some x → x.shards = [] ∧ x.steps = [] ∧ x.slots = [] ∧ x.committed = none) ∧
      ((getChip s c).wake.fromOff = false → (getChip t c).counters = (getChip s c).counters)

/-- CORE_PLL_LOCKED: in a Spring from Off the clearing of SRAM follows; in a Spring from Winter the cold check does, here of readings that are not cold, so that
step 5 is next. SRAM_CLEAR_DONE: clusters, caches and sync objects hold nothing, HBM stays, and the key draws are next, but for a
BLANK chip, which stops there (Tables 4-4, 4-5 and 21-5). -/
def Obligations.SpringClearsFromOff : Prop :=
  (∀ (s : State) (c : Pos) (x : Temps), (getChip s c).wake.season = .spring → (getChip s c).wake.phase = .pll → (getChip s c).wake.fromOff = true →
    ∃ t, exec (.corePllLocked c x) s = .next t ∧ OtherChips c s t ∧ OnlyFans s t ∧
      getChip t c = { getChip s c with wake := { (getChip s c).wake with temps := x, phase := .clear } }) ∧
  (∀ (s : State) (c : Pos) (x : Temps), (getChip s c).wake.season = .spring → (getChip s c).wake.phase = .pll → (getChip s c).wake.fromOff = false →
    isCold x = false →
    ∃ t, exec (.corePllLocked c x) s = .next t ∧ OtherChips c s t ∧ OnlyFans s t ∧
      getChip t c = { getChip s c with wake := { (getChip s c).wake with temps := x, phase := .hbm } }) ∧
  ∀ (s : State) (c : Pos), (getChip s c).wake.season = .spring → (getChip s c).wake.phase = .clear →
    ∃ t, exec (.sramClearDone c) s = .next t ∧ OnlyChip c s t ∧
      (getChip t c).wake = { (getChip s c).wake with phase := if (getChip s c).vault.lifeCycle = .blank then .blank else .keys } ∧
      (getChip t c).sync = [] ∧ (getChip t c).lines = [] ∧
      (∀ k x, tabFind (getChip t c).clusters k = some x → x.scratch = [] ∧ x.l1 = [] ∧ x.queue = [] ∧ x.run = none ∧ x.next = none) ∧
      (getChip t c).hbm = (getChip s c).hbm ∧ (getChip t c).ports = (getChip s c).ports ∧ (getChip t c).vault = (getChip s c).vault

/-- KEY_DRAW_DONE: the draws of step 3 end (what they give is free, log entry 7) with the cold check of step 4, which holds a cold chip with COLD_n asserted and
the heating load on under HEAT_EN and sends any other to step 5 (R74); a tray of one tenant then holds one valid key, its two halves different (R377, R378).
KEY_DRAW_TIMEOUT: a draw not complete in time wipes the chip for 0x75; where no draw is under way and every slot drawn holds a valid key it does nothing
(R377). -/
def Obligations.KeysAreDrawnThenColdIsChecked : Prop :=
  (∀ (s : State) (c : Pos) (x : Temps), (getChip s c).wake.season = .spring → (getChip s c).wake.phase = .keys →
    ∃ t, exec (.keyDrawDone c x) s = .next t ∧ OtherChips c s t ∧ OnlyFans s t ∧ (getChip t c).wake.temps = x ∧
      (isCold x = true → (getChip t c).wake.phase = .cold ∧ (getChip t c).wake.cold = true ∧
        ((getChip t c).wake.heating = true ↔ (getChip s c).wake.latched.heatEn = some true)) ∧
      (isCold x = false → (getChip t c).wake.phase = .hbm ∧ (getChip t c).wake.cold = (getChip s c).wake.cold) ∧
      (tenantCount (getChip s c) = 1 → ∃ k, (getChip t c).vault.keys = [(0, k)] ∧ k.valid = true ∧ k.key1 ≠ k.key2 ∧ k.draws = 1) ∧
      (getChip t c).faults = (getChip s c).faults ∧ (getChip t c).ports = (getChip s c).ports ∧
      (getChip t c).tenants = (getChip s c).tenants ∧ (getChip t c).image = (getChip s c).image) ∧
  (∀ (s : State) (c : Pos), (getChip s c).wake.season = .spring → (getChip s c).wake.phase = .keys → (getChip s c).wipe = none →
    ∃ t, exec (.keyDrawTimeout c) s = .next t ∧ OtherChips c s t ∧ ((getChip t c).wipe.map (·.codes)) = some [0x75] ∧
      (getChip t c).vault.keys = [] ∧ (getChip t c).vault.hbmRefused = true ∧ (getChip t c).hbm = [] ∧ (getChip t c).wake.phase = .wiped) ∧
  ∀ (s : State) (c : Pos), (getChip s c).wake.season = .summer → (∀ x ∈ (getChip s c).tenants, x.2.resetPhase = .none) →
    (∀ k ∈ (getChip s c).vault.keys, k.2.valid = true) → exec (.keyDrawTimeout c) s = .next s

/-- COLD_START_END: step 4 ends when Tj is at 5 °C or more and every HBM case at 0 °C or more: COLD_n and the heating load are released and step 5 follows;
with an HBM case below 0 °C it does not end. HEATING_TIMEOUT: 20 minutes of heating end it with 0x62, the chip staying in Spring (R74, R76).
That an event whose condition does not hold does nothing is log entry 2. -/
def Obligations.ColdStartEnds : Prop :=
  (∀ (s : State) (c : Pos) (x : Temps), (getChip s c).wake.season = .spring → (getChip s c).wake.phase = .cold →
    (80 ≤ x.tj0 ∨ 80 ≤ x.tj1 ∨ 80 ≤ x.tj2) → 0 ≤ x.hbm0 → 0 ≤ x.hbm1 → 0 ≤ x.hbm2 → 0 ≤ x.hbm3 →
    ∃ t, exec (.coldStartEnd c x) s = .next t ∧ OtherChips c s t ∧ OnlyFans s t ∧
      getChip t c = { getChip s c with wake := { (getChip s c).wake with temps := x, phase := .hbm, cold := false, heating := false } }) ∧
  (∀ (s : State) (c : Pos) (x : Temps), (x.hbm0 < 0 ∨ x.hbm1 < 0 ∨ x.hbm2 < 0 ∨ x.hbm3 < 0) → exec (.coldStartEnd c x) s = .next s) ∧
  ∀ (s : State) (c : Pos), (getChip s c).wake.season = .spring → (getChip s c).wake.phase = .cold → (getChip s c).wake.heating = true →
    (getChip s c).faults.length < 16 →
    ∃ t, exec (.heatingTimeout c) s = .next t ∧ OtherChips c s t ∧ OnlyFans s t ∧ (getChip t c).wake.cold = false ∧
      (getChip t c).wake.heating = false ∧ (getChip t c).wake.season = .spring ∧ (getChip t c).wake.phase = .heatingStopped ∧
      holdsFault (getChip t c) 0x62 = true ∧ (getChip t c).vault = (getChip s c).vault ∧ (getChip t c).ports = (getChip s c).ports

/-- HBM_TRAINING_DONE with HBM failed: 0x24, Spring fails there and every port goes down. With HBM trained and the mesh trained, step 6 follows; at chip A the image load starts, from the bank that
BANK_SEL selects, and reads the header at once, but waits where the host holds or has asked for the flash grant. FLASH_GRANT_WAIT_TIMEOUT: a grant held too long fails every Spring
that has neither completed nor failed, with 0x54 (Table 4-4 step 5, R55, R92, R93, R101). That step 6 waits for a mesh port to each peer is log entry 64. -/
def Obligations.HbmThenTheImageLoad : Prop :=
  (∀ (s : State) (c : Pos), (getChip s c).wake.season = .spring → (getChip s c).wake.phase = .hbm → (getChip s c).faults.length < 16 →
    ∃ t, exec (.hbmTrainingDone c false) s = .next t ∧ OnlyChip c s t ∧ (getChip t c).wake.phase = .failed ∧
      holdsFault (getChip t c) 0x24 = true ∧ (∀ p, (portOf (getChip t c) p).step = .down) ∧ (getChip t c).vault = (getChip s c).vault ∧
      (getChip t c).hbm = (getChip s c).hbm) ∧
  (∀ s : State, (getChip s 0).wake.season = .spring → (getChip s 0).wake.phase = .hbm → meshTrained (getChip s 0) = true →
    ∃ t, exec (.hbmTrainingDone 0 true) s = .next t ∧ OtherChips 0 s t ∧
      getChip t 0 = { getChip s 0 with wake := { (getChip s 0).wake with phase := .image, hbm := .running } } ∧
      t.tray.load.phase = (if s.tray.flashGnt || s.tray.flashReq then .waitGrant else .header) ∧
      t.tray.flashOctal = !(s.tray.flashGnt || s.tray.flashReq) ∧
      (t.tray.load.bank = true ↔ (getChip s 0).wake.latched.bankSel = some false) ∧ t.tray.load.otherFailed = false ∧
      t.tray.load.reports = [] ∧ t.tray = { s.tray with flashOctal := t.tray.flashOctal, load := t.tray.load }) ∧
  (∀ (s : State) (c : Pos), c ≠ 0 → (getChip s c).wake.season = .spring → (getChip s c).wake.phase = .hbm →
    meshTrained (getChip s c) = true →
    exec (.hbmTrainingDone c true) s =
      .next (setChip s c { getChip s c with wake := { (getChip s c).wake with phase := .image, hbm := .running } })) ∧
  (∀ (s : State) (c : Pos), (∃ g, g < 3 ∧ upPorts (getChip s c) g = []) → exec (.hbmTrainingDone c true) s = .next s) ∧
  ∀ s : State, s.tray.load.phase = .waitGrant →
    ∃ t, exec .flashGrantWaitTimeout s = .next t ∧ t.pending = s.pending ∧ t.tray = { s.tray with load := Load.reset } ∧
      ∀ p, (((getChip s p).wake.season = .spring ∧ (getChip s p).wake.phase ≠ .done ∧ (getChip s p).wake.phase ≠ .failed) →
          (getChip t p).wake.phase = .failed ∧ ((getChip s p).faults.length < 16 → holdsFault (getChip t p) 0x54 = true) ∧
          (∀ q, (portOf (getChip t p) q).step = .down) ∧ (getChip t p).vault = (getChip s p).vault) ∧
        (((getChip s p).wake.season ≠ .spring ∨ (getChip s p).wake.phase = .done ∨ (getChip s p).wake.phase = .failed) →
          getChip t p = getChip s p)

/-- IMAGE_HEADER_READ: a header that passes its checks, the flash configuration unaltered, is followed by the body; one that does not gives 0x55 on every chip whose Spring
is under way and then the other bank, and with both failed those chips hold 0x56 and fail (Table 5-4, R91, R96, R102). IMAGE_OUTCOME_TIMEOUT: a chip B, C or D
that has had no outcome in time raises 0x59, and its Spring fails (R104, R55). -/
def Obligations.ImageBanksAreTried : Prop :=
  (∀ s : State, s.tray.load.phase = .header → (getChip s 0).wake.season = .spring → (getChip s 0).wake.phase = .image →
    headerOk (bankBytes s.tray.flash s.tray.load.bank 128) = true → s.tray.flashConfigAltered = false →
    exec .imageHeaderRead s = .next { s with tray := { s.tray with load := { s.tray.load with phase := .body } } }) ∧
  (∀ s : State, s.tray.load.phase = .header → (getChip s 0).wake.season = .spring → (getChip s 0).wake.phase = .image →
    (headerOk (bankBytes s.tray.flash s.tray.load.bank 128) = false ∨ s.tray.flashConfigAltered = true) → s.tray.load.otherFailed = false →
    ∃ t, exec .imageHeaderRead s = .next t ∧ t.pending = s.pending ∧
      t.tray = { s.tray with load := { phase := .header, bank := !s.tray.load.bank, otherFailed := true, reports := [] } } ∧
      ∀ p, (springRuns (getChip s p) = true →
          (getChip t p).wake = { (getChip s p).wake with failedBank := some s.tray.load.bank } ∧
          tabGet 0 (getChip t p).occurrences 0x55 = tabGet 0 (getChip s p).occurrences 0x55 + 1 ∧
          (getChip t p).tenants = (getChip s p).tenants ∧ (getChip t p).ports = (getChip s p).ports) ∧
        (springRuns (getChip s p) = false → getChip t p = getChip s p)) ∧
  (∀ s : State, s.tray.load.phase = .header → (getChip s 0).wake.season = .spring → (getChip s 0).wake.phase = .image →
    (headerOk (bankBytes s.tray.flash s.tray.load.bank 128) = false ∨ s.tray.flashConfigAltered = true) → s.tray.load.otherFailed = true →
    ∃ t, exec .imageHeaderRead s = .next t ∧ t.pending = s.pending ∧ t.tray = { s.tray with load := Load.reset } ∧
      ∀ p, springRuns (getChip s p) = true → (getChip t p).wake.phase = .failed ∧
        tabGet 0 (getChip t p).occurrences 0x56 = tabGet 0 (getChip s p).occurrences 0x56 + 1 ∧
        ((getChip s p).faults.length < 15 → holdsFault (getChip t p) 0x56 = true)) ∧
  (∀ (s : State) (c : Pos), c ≠ 0 → (getChip s c).wake.season = .spring → (getChip s c).wake.phase = .image →
    (getChip s c).faults.length < 16 →
    ∃ t, exec (.imageOutcomeTimeout c) s = .next t ∧ OnlyChip c s t ∧ (getChip t c).wake.phase = .failed ∧
      (getChip t c).wake.entered = false ∧ holdsFault (getChip t c) 0x59 = true ∧ (∀ q, (portOf (getChip t c) q).step = .down)) ∧
  ∀ (s : State), exec (.imageOutcomeTimeout 0) s = .next s

/-- IMAGE_BANK_READ_DONE: a chip at step 6 checks the bank's bytes by itself and reports whether they pass. BANK_CHECK_REPORT: with all four reports good, a chip that holds the parsed
image and stands where its straps put it in the image's torus takes the image, its generation and bank, and is at the end of its Spring; one that does not stand there fails with
0x58. With a bad report the other bank is read, or with both failed the chips hold 0x56 (Table 5-4 steps 4 to 8, R102, R103, R105). -/
def Obligations.ImageIsAcceptedByAllFour : Prop :=
  (∀ (s : State) (c : Pos), s.tray.load.phase = .body → (getChip s c).wake.season = .spring → (getChip s c).wake.phase = .image →
    tabFind s.tray.load.reports c = none →
    ∃ t, exec (.imageBankReadDone c) s = .next t ∧ OtherChips c s t ∧
      getChip t c = { getChip s c with candidate := parseImage (bankBytes s.tray.flash s.tray.load.bank (imageLength s.tray.flash s.tray.load.bank)) } ∧
      tabFind t.tray.load.reports c =
        some (parseImage (bankBytes s.tray.flash s.tray.load.bank (imageLength s.tray.flash s.tray.load.bank))).isSome ∧
      (∀ d, d ≠ c → tabFind t.tray.load.reports d = tabFind s.tray.load.reports d) ∧
      t.tray = { s.tray with load := { s.tray.load with reports := t.tray.load.reports } }) ∧
  (∀ (s : State) (i : Image), s.tray.load.phase = .body → s.tray.load.reports.length = 4 → (∀ r ∈ s.tray.load.reports, r.2 = true) →
    (∀ p, (getChip s p).candidate = some i ∧ (getChip s p).wake.season = .spring ∧ (getChip s p).wake.phase = .image ∧
      (getChip s p).wake.summerDue = false) →
    ∃ t, exec .bankCheckReport s = .next t ∧ t.pending = s.pending ∧ t.tray = { s.tray with flashOctal := false, load := Load.reset } ∧
      ∀ p, (getChip t p).image = some i ∧ (getChip t p).wake.generation = i.generation ∧ (getChip t p).wake.bank = s.tray.load.bank ∧
        (getChip t p).wake.season = .spring ∧
        (placeOk { getChip s p with image := some i } = true → (getChip t p).wake.phase = .done ∧ (getChip t p).wake.entered = true) ∧
        (placeOk { getChip s p with image := some i } = false → (getChip t p).wake.phase = .failed ∧
          ((getChip s p).faults.length < 15 → holdsFault (getChip t p) 0x58 = true) ∧ (getChip t p).tenants = (getChip s p).tenants)) ∧
  ∀ s : State, s.tray.load.phase = .body → (∃ r ∈ s.tray.load.reports, r.2 = false) →
    (s.tray.load.otherFailed = false →
      ∃ t, exec .bankCheckReport s = .next t ∧ t.pending = s.pending ∧
        t.tray = { s.tray with load := { phase := .header, bank := !s.tray.load.bank, otherFailed := true, reports := [] } } ∧
        ∀ p, (getChip t p).image = (getChip s p).image ∧ (getChip t p).tenants = (getChip s p).tenants ∧
          (springRuns (getChip s p) = true → (getChip t p).wake.failedBank = some s.tray.load.bank)) ∧
    (s.tray.load.otherFailed = true →
      ∃ t, exec .bankCheckReport s = .next t ∧ t.pending = s.pending ∧ t.tray = { s.tray with load := Load.reset } ∧
        ∀ p, (getChip t p).image = (getChip s p).image ∧
          (springRuns (getChip s p) = true → (getChip t p).wake.phase = .failed ∧
            ((getChip s p).faults.length < 15 → holdsFault (getChip t p) 0x56 = true)))

/-! ## Tenant reset -/

/-- TENRST_ASSERT: the pin is recorded, and on each chip that runs with its tenants loaded, holds no wipe code and is not resetting t already, t becomes resetting, erasing, with no task, held PULL or
lines of its own (steps 2 to 4); in an unfinished Spring the erasing waits for the load; in Winter, with no wipe under way, t is marked and its TENANT_DOWN is owed; a chip on which t does not exist
stays as it is. Where the PULLs held for t are t's own, no other tenant's context changes. Another assertion while the pin is low does nothing. TENRST_RELEASE only raises the pin (R34, R71, R133, R134,
Table 7-3). -/
def Obligations.TenantResetBeginsOnAllChips : Prop :=
  (∀ (s : State) (t : Tenant), s.tray.tenrstLow.getLsbD t.val = false →
    ∃ u, exec (.tenrstAssert t) s = .next u ∧ u.pending = s.pending ∧
      u.tray = { s.tray with tenrstLow := s.tray.tenrstLow ||| (1#8 <<< t.val) } ∧
      ∀ p, (getChip u p).wake = (getChip s p).wake ∧
        ((∀ f ∈ (ten (getChip s p) t.val).heldPulls, (rxHead f).tenant = t.val) → ∀ n, n ≠ t.val → ten (getChip u p) n = ten (getChip s p) n) ∧
        (tenantExists (getChip s p) t.val = false → getChip u p = getChip s p) ∧
        (tenantExists (getChip s p) t.val = true → coreRuns (getChip s p) = true → wipeCode (getChip s p) = none →
          (ten (getChip s p) t.val).resetPhase = .none →
          (ten (getChip u p) t.val).state = .resetting ∧ (ten (getChip u p) t.val).resetPhase = .erasing ∧
          (getChip u p).vault = (getChip s p).vault ∧
          ((getChip s p).wake.phase = .done → (ten (getChip u p) t.val).heldPulls = [] ∧
            (∀ l ∈ (getChip u p).lines, l.2.tenant ≠ t.val) ∧
            ∀ k x, tabFind (getChip u p).clusters k = some x → (∀ v ∈ x.queue, v.tenant ≠ t.val) ∧
              (∀ r, x.run = some r → r.task.tenant ≠ t.val) ∧ ∀ r, x.next = some r → r.task.tenant ≠ t.val) ∧
          ((getChip s p).wake.phase ≠ .done → (ten (getChip u p) t.val).downDue = true)) ∧
        (tenantExists (getChip s p) t.val = true → (getChip s p).wake.season = .winter → (getChip s p).wipe = none →
          (ten (getChip u p) t.val).winterMark = true ∧ (ten (getChip u p) t.val).downDue = true)) ∧
  (∀ (s : State) (t : Tenant), s.tray.tenrstLow.getLsbD t.val = true → exec (.tenrstAssert t) s = .next s) ∧
  ∀ (s : State) (t : Tenant),
    exec (.tenrstRelease t) s = .next { s with tray := { s.tray with tenrstLow := s.tray.tenrstLow &&& ~~~(1#8 <<< t.val) } }

/-- TENANT_RESET_COMPLETE: with steps 5 and 6 done, t loaded and the pin high, t's faults end and it runs; a t that failed its load stays faulted; while the pin is low nothing
moves (R132, R133, R134). DEFERRED_TENANT_DOWN: the TENANT_DOWN that a reset owes goes out, once Spring is done and the ports toward every peer are up, to every peer off
the tray that homes a shard of t or is its step root; where none is owed nothing happens (R135, Table 7-3 step 4).
That an event whose condition does not hold does nothing is log entry 2. -/
def Obligations.TenantResetCompletesAndIsTold : Prop :=
  (∀ (s : State) (c : Pos) (t : Tenant), (ten (getChip s c) t.val).resetPhase = .loaded → s.tray.tenrstLow.getLsbD t.val = false →
    ∃ u, exec (.tenantResetComplete c t) s = .next u ∧ OnlyChip c s u ∧
      ((ten (getChip s c) t.val).loaded = true →
        ten (getChip u c) t.val = { ten (getChip s c) t.val with resetPhase := .none, fault := 0, state := .running }) ∧
      ((ten (getChip s c) t.val).loaded = false → (ten (getChip s c) t.val).fault ≠ 0 →
        ten (getChip u c) t.val = { ten (getChip s c) t.val with resetPhase := .none, state := .faulted }) ∧
      (∀ n, n ≠ t.val → ten (getChip u c) n = ten (getChip s c) n) ∧ (getChip u c).wake = (getChip s c).wake ∧
      (getChip u c).vault = (getChip s c).vault ∧ (getChip u c).clusters = (getChip s c).clusters) ∧
  (∀ (s : State) (c : Pos) (t : Tenant), s.tray.tenrstLow.getLsbD t.val = true → exec (.tenantResetComplete c t) s = .next s) ∧
  (∀ (s : State) (c : Pos) (t : Tenant), (getChip s c).wake.phase = .done → linksOn (getChip s c) = true → (ten (getChip s c) t.val).downDue = true →
    peersReached (getChip s c) t.val = true →
    ∃ u, exec (.deferredTenantDown c t) s = .next u ∧ OnlyChip c s u ∧
      ten (getChip u c) t.val = { ten (getChip s c) t.val with downDue := false } ∧
      (getChip u c).outbox = (getChip s c).outbox ++ (peerChips (getChip s c) t.val).map (fun n =>
        chipTo (getChip s c) n (chipHdr tyTenantDown t.val 0 n) (downPayload (getChip s c))) ∧
      (∀ n, n ≠ t.val → ten (getChip u c) n = ten (getChip s c) n) ∧ (getChip u c).wake = (getChip s c).wake ∧
      (getChip u c).ports = (getChip s c).ports ∧ (getChip u c).vault = (getChip s c).vault) ∧
  ∀ (s : State) (c : Pos) (t : Tenant), (ten (getChip s c) t.val).downDue = false → exec (.deferredTenantDown c t) s = .next s

/-- TENANT_RESET_ERASE_DONE: steps 5 and 6 of Table 7-3 give t a valid new key and load it empty, with no committed step, no shard, no step in flight, no stash slot and no
counter; where t fails its load, the load fault stands; the other tenants' contexts stay. TENRST_IN_WINTER: each chip in Winter with no wipe under way marks t, owes its TENANT_DOWN, and
holds a new valid key for it at once; where the PULLs held for t are t's own no other tenant's context changes on any chip (R71, R133, R135, R377). -/
def Obligations.TenantResetErasesOneTenant : Prop :=
  (∀ (s : State) (c : Pos) (t : Tenant), (ten (getChip s c) t.val).resetPhase = .erasing → (getChip s c).wake.phase = .done →
    ∃ u, exec (.tenantResetEraseDone c t) s = .next u ∧ OnlyChip c s u ∧ (ten (getChip u c) t.val).resetPhase = .loaded ∧
      (ten (getChip u c) t.val).state = .resetting ∧
      (ten (getChip u c) t.val).committed = none ∧ (ten (getChip u c) t.val).shards = [] ∧ (ten (getChip u c) t.val).steps = [] ∧
      (ten (getChip u c) t.val).slots = [] ∧
      (loadFault (getChip s c) t.val = none → (ten (getChip u c) t.val).loaded = true ∧ (ten (getChip u c) t.val).counters = [] ∧
        (ten (getChip u c) t.val).fault = (ten (getChip s c) t.val).fault) ∧
      (∀ code, loadFault (getChip s c) t.val = some code → (ten (getChip u c) t.val).loaded = false ∧
        (ten (getChip u c) t.val).fault = code) ∧
      (tabGet .reset (getChip u c).vault.keys t.val).valid = true ∧
      (tabGet .reset (getChip u c).vault.keys t.val).key1 ≠ (tabGet .reset (getChip u c).vault.keys t.val).key2 ∧
      (∀ n, n ≠ t.val → ten (getChip u c) n = ten (getChip s c) n) ∧ (getChip u c).wake = (getChip s c).wake ∧
      (getChip u c).ports = (getChip s c).ports) ∧
  ∀ (s : State) (t : Tenant), s.tray.tenrstLow.getLsbD t.val = false →
    ∃ u, exec (.tenrstInWinter t) s = .next u ∧ u.pending = s.pending ∧
      u.tray = { s.tray with tenrstLow := s.tray.tenrstLow ||| (1#8 <<< t.val) } ∧
      ∀ p, ((∀ f ∈ (ten (getChip s p) t.val).heldPulls, (rxHead f).tenant = t.val) → ∀ n, n ≠ t.val → ten (getChip u p) n = ten (getChip s p) n) ∧
        (getChip u p).wake = (getChip s p).wake ∧
        ((getChip s p).wake.season = .winter → tenantExists (getChip s p) t.val = true → (getChip s p).wipe = none →
          (ten (getChip u p) t.val).winterMark = true ∧ (ten (getChip u p) t.val).downDue = true ∧
          (tabGet .reset (getChip u p).vault.keys t.val).valid = true ∧
          (tabGet .reset (getChip u p).vault.keys t.val).key1 ≠ (tabGet .reset (getChip u p).vault.keys t.val).key2)

/-! ## Wipes -/

/-- TAMPER_ASSERT and LID_OPEN: TAMPER_n going low, and a lid opened with VKEEP in regulation, reach every chip that has power as a wipe source of 0x70 or 0x71, and leave a chip without power as it is (R39, R384, Tables 21-3 and 21-4). A lid opened with VKEEP not in regulation is only
seen. TAMPER_RELEASE and LID_CLOSE only raise the pin and close the lid.
One wipe for several sources is log entry 30. -/
def Obligations.TamperAndLidWipeTheTray : Prop :=
  (∀ s : State, s.tray.tamperLow = false →
    ∃ t, exec .tamperAssert s = .next t ∧ t.pending = s.pending ∧ t.tray.tamperLow = true ∧ t.tray.flash = s.tray.flash ∧
      ∀ p, ((getChip s p).wake.season ≠ .off → WipeReaches 0x70 (getChip s p) (getChip t p)) ∧
        ((getChip s p).wake.season = .off → getChip t p = getChip s p)) ∧
  (∀ s : State, s.tray.tamperLow = true → exec .tamperAssert s = .next s) ∧
  (∀ s : State, railOf s.tray .vkeep = .up → s.tray.lidOpen = false →
    ∃ t, exec .lidOpen s = .next t ∧ t.pending = s.pending ∧ t.tray.lidOpen = true ∧ t.tray.flash = s.tray.flash ∧
      ∀ p, ((getChip s p).wake.season ≠ .off → WipeReaches 0x71 (getChip s p) (getChip t p)) ∧
        ((getChip s p).wake.season = .off → getChip t p = getChip s p)) ∧
  (∀ s : State, railOf s.tray .vkeep ≠ .up → exec .lidOpen s = .next { s with tray := { s.tray with lidOpen := true } }) ∧
  (∀ s : State, exec .tamperRelease s = .next { s with tray := { s.tray with tamperLow := false } }) ∧
  ∀ s : State, exec .lidClose s = .next { s with tray := { s.tray with lidOpen := false } }

/-- VOLTAGE_GLITCH, CLOCK_GLITCH and VAULT_ERROR reach their own chip alone as wipe sources of 0x72, 0x73 and 0x75: VAON and the crystal in every season but Off, VCORE, VSRAM and the core
clock only while the core has power, the reference only while it runs; else nothing happens (Table 21-3).
That an event whose condition does not hold does nothing is log entry 2. -/
def Obligations.GlitchesWipeOneChip : Prop :=
  (∀ (s : State) (c : Pos) (r : GlitchRail), (getChip s c).wake.season ≠ .off → (r = .vaon ∨ coreUp (getChip s c) = true) →
    ∃ t, exec (.voltageGlitch c r) s = .next t ∧ OtherChips c s t ∧ WipeReaches 0x72 (getChip s c) (getChip t c)) ∧
  (∀ (s : State) (c : Pos) (r : GlitchRail), r ≠ .vaon → coreUp (getChip s c) = false → exec (.voltageGlitch c r) s = .next s) ∧
  (∀ (s : State) (c : Pos) (k : GlitchClock), (getChip s c).wake.season ≠ .off →
    (k = .crystal ∨ (k = .core ∧ coreUp (getChip s c) = true) ∨ (k = .reference ∧ s.tray.refClock = true)) →
    ∃ t, exec (.clockGlitch c k) s = .next t ∧ OtherChips c s t ∧ WipeReaches 0x73 (getChip s c) (getChip t c)) ∧
  (∀ (s : State) (c : Pos), coreUp (getChip s c) = false → exec (.clockGlitch c .core) s = .next s) ∧
  (∀ (s : State) (c : Pos), s.tray.refClock = false → exec (.clockGlitch c .reference) s = .next s) ∧
  ∀ (s : State) (c : Pos), (getChip s c).wake.season ≠ .off →
    ∃ t, exec (.vaultError c) s = .next t ∧ OtherChips c s t ∧ WipeReaches 0x75 (getChip s c) (getChip t c)

/-- WIPE_CLEAR_DONE with VCORE up, and RETENTION_SWITCH_TIMER in Winter, end the wipe: every source of it has an entry of its own in the tamper log, its code is held, SRAM holds nothing, the context is
invalid, and the counter of wipes rises by one; a wipe in Winter leaves the clearing of the rest to the next Spring; without a wipe of its kind neither does anything (R384, R387, R390, R391, Table 21-4).
One wipe for several sources, and the moment of the fuses, are log entries 30 and 28. -/
def Obligations.WipesEndWithALogEntryEach : Prop :=
  (∀ (s : State) (c : Pos) (w : Wipe), (getChip s c).wipe = some w → w.inWinter = false →
    ∃ t, exec (.wipeClearDone c) s = .next t ∧ OnlyChip c s t ∧ WipeEnded w (getChip s c) (getChip t c) ∧
      (getChip t c).clearAtSpring = false) ∧
  (∀ (s : State) (c : Pos), (getChip s c).wipe = none →
    exec (.wipeClearDone c) s = .next s ∧ exec (.retentionSwitchTimer c) s = .next s) ∧
  ∀ (s : State) (c : Pos) (w : Wipe), (getChip s c).wipe = some w → w.inWinter = true → w.retentionOpen = true →
    exec (.wipeClearDone c) s = .next s ∧
    ∃ t, exec (.retentionSwitchTimer c) s = .next t ∧ OnlyChip c s t ∧ WipeEnded w (getChip s c) (getChip t c) ∧
      (getChip t c).clearAtSpring = true

/-! ## Heat -/

/-- HOT_THRESHOLD: HOT_n is asserted when Tj or any HBM case reaches 100 or 90 °C, and released when all are below 97 and 87 °C (R86, Table 4-7; readings are in
sixteenths of a degree). Nothing but the readings and HOT_n changes. -/
def Obligations.HotFollowsTheThresholds : Prop :=
  ∀ (s : State) (c : Pos) (x : Temps), (getChip s c).wake.season ≠ .off →
    ∃ t, exec (.hotThreshold c x) s = .next t ∧ OnlyChip c s t ∧
      getChip t c = { getChip s c with wake := { (getChip s c).wake with temps := x, hot := (getChip t c).wake.hot } } ∧
      ((getChip s c).wake.hot = false → ((getChip t c).wake.hot = true ↔ 1600 ≤ x.tj0 ∨ 1600 ≤ x.tj1 ∨ 1600 ≤ x.tj2 ∨ 1440 ≤ x.hbm0 ∨
        1440 ≤ x.hbm1 ∨ 1440 ≤ x.hbm2 ∨ 1440 ≤ x.hbm3)) ∧
      ((getChip s c).wake.hot = true → ((getChip t c).wake.hot = false ↔ x.tj0 < 1552 ∧ x.tj1 < 1552 ∧ x.tj2 < 1552 ∧ x.hbm0 < 1392 ∧
        x.hbm1 < 1392 ∧ x.hbm2 < 1392 ∧ x.hbm3 < 1392))

/-- GOVERNOR_STEP_DOWN: while Tj or any HBM case is at 108 or 93 °C or more the issue rate of a running core falls by 1/16, to no lower than 4/16; GOVERNOR_STEP_UP: while all are below 104 and 90 °C it rises by
1/16, up to 16/16; nothing else changes (R86, R87, Table 4-7). -/
def Obligations.GovernorMovesTheRateByOneSixteenth : Prop :=
  (∀ (s : State) (c : Pos) (x : Temps), coreRuns (getChip s c) = true →
    (1728 ≤ x.tj0 ∨ 1728 ≤ x.tj1 ∨ 1728 ≤ x.tj2 ∨ 1488 ≤ x.hbm0 ∨ 1488 ≤ x.hbm1 ∨ 1488 ≤ x.hbm2 ∨ 1488 ≤ x.hbm3) →
    exec (.governorStepDown c x) s =
      .next (setChip s c { getChip s c with wake := { (getChip s c).wake with temps := x, issueRate := max 4 ((getChip s c).wake.issueRate - 1) } })) ∧
  ∀ (s : State) (c : Pos) (x : Temps), coreRuns (getChip s c) = true → x.tj0 < 1664 → x.tj1 < 1664 → x.tj2 < 1664 → x.hbm0 < 1440 → x.hbm1 < 1440 →
    x.hbm2 < 1440 → x.hbm3 < 1440 →
    exec (.governorStepUp c x) s =
      .next (setChip s c { getChip s c with wake := { (getChip s c).wake with temps := x, issueRate := min 16 ((getChip s c).wake.issueRate + 1) } })

/-- THERMAL_SHUTDOWN: with Tj or any HBM case at 115 or 95 °C or more a chip that has power and is not stopped stops: no task runs or waits, every port is down, HBM that ran goes to self-refresh with nothing written back, the
context is invalid and 0x61 is held; below both limits nothing happens (R86, R88, Table 4-7).
That an event whose condition does not hold does nothing is log entry 2. -/
def Obligations.ThermalShutdownStopsTheChip : Prop :=
  (∀ (s : State) (c : Pos) (x : Temps), (getChip s c).wake.season ≠ .off → (getChip s c).wake.stopped = false →
    (1840 ≤ x.tj0 ∨ 1840 ≤ x.tj1 ∨ 1840 ≤ x.tj2 ∨ 1520 ≤ x.hbm0 ∨ 1520 ≤ x.hbm1 ∨ 1520 ≤ x.hbm2 ∨ 1520 ≤ x.hbm3) →
    ∃ t, exec (.thermalShutdown c x) s = .next t ∧ OtherChips c s t ∧ (getChip t c).wake.stopped = true ∧ (getChip t c).wake.ctxValid = false ∧
      ((getChip s c).wake.hbm = .running → (getChip t c).wake.hbm = .selfRefresh) ∧ (getChip t c).hbm = (getChip s c).hbm ∧
      (getChip t c).wake.season = (getChip s c).wake.season ∧ (getChip t c).wake.temps = x ∧ (getChip t c).vault = (getChip s c).vault ∧
      ((getChip s c).faults.length < 16 → holdsFault (getChip t c) 0x61 = true) ∧
      (∀ p, (portOf (getChip t c) p).step = .down) ∧
      ∀ k x, tabFind (getChip t c).clusters k = some x → x.run = none ∧ x.next = none ∧ x.queue = []) ∧
  ∀ (s : State) (c : Pos) (x : Temps), x.tj0 < 1840 → x.tj1 < 1840 → x.tj2 < 1840 → x.hbm0 < 1520 → x.hbm1 < 1520 → x.hbm2 < 1520 → x.hbm3 < 1520 →
    exec (.thermalShutdown c x) s = .next s

/-! ## Training and peers (R153, R154) -/

/-- LANES_LOCKED, PCS_LOCKED and UNITS_DELINEATED take a training port through steps 1 to 3 of Table 8-7; with unit boundaries locked it sends HELLO with a fresh NONCE, and HELLO_TIMER sends the same one again while
no echo has come. The NONCE is a free value (log entry 8). -/
def Obligations.PortsTrainStepByStep : Prop :=
  (∀ (s : State) (c : Pos) (p : PortNo), (portOf (getChip s c) p).step = .lanes →
    exec (.lanesLocked c p) s = .next (setChip s c (setPort (getChip s c) p { portOf (getChip s c) p with step := .pcs }))) ∧
  (∀ (s : State) (c : Pos) (p : PortNo), (portOf (getChip s c) p).step = .pcs →
    exec (.pcsLocked c p) s = .next (setChip s c (setPort (getChip s c) p { portOf (getChip s c) p with step := .delineate }))) ∧
  (∀ (s : State) (c : Pos) (p : PortNo), (portOf (getChip s c) p).step = .delineate →
    ∃ t, exec (.unitsDelineated c p) s = .next t ∧ OnlyChip c s t ∧ LinkFrame p (getChip s c) (getChip t c) ∧
      (portOf (getChip t c) p).step = .hello ∧
      (portOf (getChip t c) p).nonce = Config.nonce (posOf (getChip s c)) (getChip s c).nonces ∧
      ((portOf (getChip s c) p).mode ≠ .ethernet → (portOf (getChip t c) p).wire = (portOf (getChip s c) p).wire ++
        [controlUnit (helloOf (getChip s c) p 0x03 (Config.nonce (posOf (getChip s c)) (getChip s c).nonces))]) ∧
      ((portOf (getChip s c) p).mode = .ethernet → (portOf (getChip t c) p).ethQueue = (portOf (getChip s c) p).ethQueue ++
        [controlUnit (helloOf (getChip s c) p 0x03 (Config.nonce (posOf (getChip s c)) (getChip s c).nonces))])) ∧
  ∀ (s : State) (c : Pos) (p : PortNo), (portOf (getChip s c) p).step = .hello → (portOf (getChip s c) p).echoed = false →
    exec (.helloTimer c p) s = .next (setChip s c (setPort (getChip s c) p
      (sendUnit (portOf (getChip s c) p) (controlUnit (helloOf (getChip s c) p 0x03 (portOf (getChip s c) p).nonce)))))

/-- HELLO at a port in step 4: its EPOCH is kept and its peer checked; one that fails Table 8-9 ends the attempt with 0x11 on the port, and one that passes leaves the port checked; a native port answers either with a
HELLO_ACK of its NONCE. HELLO_ACK with the NONCE sent is the first echo and sets RTT. Once both are done, by whichever comes last, SEQ starts at 0, the initial credits go out, every pool granted its size, and the port waits for credits, or is up
where it has had them (Table 8-7, R150, R153, R154). EPOCH and NONCE by attempt are log entry 39. -/
def Obligations.PeersAreChecked : Prop :=
  (∀ (s : State) (c : Pos) (p : PortNo) (content : BitVec 256), (portOf (getChip s c) p).step = .hello →
    peerOk (getChip s c) p (parseHello content) = false →
    ∃ t, exec (.hello c p content) s = .next t ∧ OnlyChip c s t ∧ (portOf (getChip t c) p).step = .failed4 ∧
      (portOf (getChip t c) p).lastFault = 0x11 ∧ (portOf (getChip t c) p).peerEpoch = (parseHello content).epoch ∧
      tabGet 0 (getChip t c).occurrences 0x11 = tabGet 0 (getChip s c).occurrences 0x11 + 1 ∧
      ((portOf (getChip s c) p).mode ≠ .ethernet → (portOf (getChip t c) p).wire = (portOf (getChip s c) p).wire ++
        [controlUnit (helloOf (getChip s c) p 0x04 (parseHello content).nonce)]) ∧
      LinkFrame p (getChip s c) (getChip t c)) ∧
  (∀ (s : State) (c : Pos) (p : PortNo) (content : BitVec 256), (portOf (getChip s c) p).step = .hello →
    peerOk (getChip s c) p (parseHello content) = true →
    ∃ t, exec (.hello c p content) s = .next t ∧ OnlyChip c s t ∧ LinkFrame p (getChip s c) (getChip t c) ∧
      (portOf (getChip t c) p).checked = true ∧ (portOf (getChip t c) p).peerEpoch = (parseHello content).epoch ∧
      ((portOf (getChip s c) p).echoed = false → (portOf (getChip t c) p).step = .hello ∧
        ((portOf (getChip s c) p).mode ≠ .ethernet → (portOf (getChip t c) p).wire = (portOf (getChip s c) p).wire ++
          [controlUnit (helloOf (getChip s c) p 0x04 (parseHello content).nonce)])) ∧
      ((portOf (getChip s c) p).echoed = true →
        (portOf (getChip t c) p).step = (if (portOf (getChip s c) p).creditsIn then .up else .credits) ∧
        (portOf (getChip t c) p).txSeq = 0 ∧ (portOf (getChip t c) p).rxSeq = 0 ∧ (portOf (getChip t c) p).creditsOut = true ∧
        ∀ q ∈ allPools, tabGet 0 (portOf (getChip t c) p).granted q = poolSize (getChip s c) p q)) ∧
  ∀ (s : State) (c : Pos) (p : PortNo) (content : BitVec 256) (us : Nat), (portOf (getChip s c) p).step = .hello →
    (portOf (getChip s c) p).echoed = false → (parseHello content).nonce = (portOf (getChip s c) p).nonce →
    ∃ t, exec (.helloAck c p content us) s = .next t ∧ OnlyChip c s t ∧ LinkFrame p (getChip s c) (getChip t c) ∧
      (portOf (getChip t c) p).echoed = true ∧ (portOf (getChip t c) p).rttUs = sat16 us ∧
      ((portOf (getChip s c) p).checked = false → (portOf (getChip t c) p).step = .hello) ∧
      ((portOf (getChip s c) p).checked = true →
        (portOf (getChip t c) p).step = (if (portOf (getChip s c) p).creditsIn then .up else .credits) ∧
        (portOf (getChip t c) p).txSeq = 0 ∧ (portOf (getChip t c) p).rxSeq = 0 ∧ (portOf (getChip t c) p).creditsOut = true ∧
        ∀ q ∈ allPools, tabGet 0 (portOf (getChip t c) p).granted q = poolSize (getChip s c) p q)

/-- TRAINING_TIMEOUT: a bound of Table 8-7 that is missed raises 0x10 on the port. RETRAIN_TIMER: a second later a port that may train begins again, at step 1, or at step 4 after a
failed peer check; EPOCH counts attempts, modulo 2^32; a port that may not train stays (R153). -/
def Obligations.FailedAttemptsBeginAgain : Prop :=
  (∀ (s : State) (c : Pos) (p : PortNo), inTraining (portOf (getChip s c) p) = true →
    ∃ t, exec (.trainingTimeout c p) s = .next t ∧ OnlyChip c s t ∧ LinkFrame p (getChip s c) (getChip t c) ∧
      (portOf (getChip t c) p).step = .failed1 ∧ (portOf (getChip t c) p).lastFault = 0x10 ∧
      (portOf (getChip t c) p).epoch = (portOf (getChip s c) p).epoch ∧
      tabGet 0 (getChip t c).occurrences 0x10 = tabGet 0 (getChip s c).occurrences 0x10 + 1) ∧
  (∀ (s : State) (c : Pos) (p : PortNo), portEnabled s c p = true → (portOf (getChip s c) p).step = .failed1 →
    ∃ t, exec (.retrainTimer c p) s = .next t ∧ OnlyChip c s t ∧ LinkFrame p (getChip s c) (getChip t c) ∧
      (portOf (getChip t c) p).step = .lanes ∧
      (portOf (getChip t c) p).epoch = ((portOf (getChip s c) p).epoch + 1) % 2 ^ 32) ∧
  (∀ (s : State) (c : Pos) (p : PortNo), portEnabled s c p = true → (portOf (getChip s c) p).step = .failed4 →
    ∃ t, exec (.retrainTimer c p) s = .next t ∧ OnlyChip c s t ∧ LinkFrame p (getChip s c) (getChip t c) ∧
      (portOf (getChip t c) p).step = .hello ∧ (portOf (getChip t c) p).checked = false ∧ (portOf (getChip t c) p).echoed = false ∧
      (portOf (getChip t c) p).epoch = ((portOf (getChip s c) p).epoch + 1) % 2 ^ 32) ∧
  ∀ (s : State) (c : Pos) (p : PortNo), portEnabled s c p = false → exec (.retrainTimer c p) s = .next s

/-! ## Wire units and retry (R145 to R147, R150) -/

/-- DATA_FLIT: a flit with the expected SEQ is accepted and SEQ advances; one on VC3 is counted and takes no pool; one with SOF but not EOF on another VC begins its VC's frame and takes a flit of its pool. A flit with another SEQ is discarded, and the first discard after an
accepted flit sends one NAK with the expected SEQ. WIRE_UNIT_CRC_FAIL: the unit is counted and discarded the same way; the eighth in a row loses the unit lock of a native
port (R140, R146, R148, R149, R150). -/
def Obligations.FlitsAreTakenInSequence : Prop :=
  (∀ (s : State) (c : Pos) (p : PortNo) (raw : BitVec 320), unitOk raw = true → (parseUnit raw).kind = 1 →
    carriesData (portOf (getChip s c) p) = true → (parseUnit raw).seq = (portOf (getChip s c) p).rxSeq → (parseUnit raw).eof = false →
    ∃ t, exec (.dataFlit c p raw) s = .next t ∧ OnlyChip c s t ∧ LinkFrame p (getChip s c) (getChip t c) ∧
      (portOf (getChip t c) p).rxSeq = ((portOf (getChip s c) p).rxSeq + 1) % 65536 ∧ (portOf (getChip t c) p).nakSent = false ∧
      (portOf (getChip t c) p).crcFails = 0 ∧
      ((parseUnit raw).vc = 3 → (portOf (getChip t c) p).heldFlits = (portOf (getChip s c) p).heldFlits ∧
        tabGet 0 (getChip t c).counters 138 = satAdd64 (tabGet 0 (getChip s c).counters 138) 1) ∧
      ((parseUnit raw).vc ≠ 3 → (parseUnit raw).sof = true →
        tabFind (portOf (getChip s c) p).assembly (BitVec.ofNat 2 (parseUnit raw).vc) = none →
        (getChip t c).counters = (getChip s c).counters ∧
        (∃ a, tabFind (portOf (getChip t c) p).assembly (BitVec.ofNat 2 (parseUnit raw).vc) = some a ∧ a.units = [raw]) ∧
        tabGet 0 (portOf (getChip t c) p).heldFlits (flitPool (parseUnit raw).vc (parseUnit raw).dl (parseUnit raw).tenant) =
          tabGet 0 (portOf (getChip s c) p).heldFlits (flitPool (parseUnit raw).vc (parseUnit raw).dl (parseUnit raw).tenant) + 1)) ∧
  (∀ (s : State) (c : Pos) (p : PortNo) (raw : BitVec 320), unitOk raw = true → (parseUnit raw).kind = 1 →
    carriesData (portOf (getChip s c) p) = true → (parseUnit raw).seq ≠ (portOf (getChip s c) p).rxSeq →
    ∃ t, exec (.dataFlit c p raw) s = .next t ∧ OnlyChip c s t ∧ LinkFrame p (getChip s c) (getChip t c) ∧
      (portOf (getChip t c) p).rxSeq = (portOf (getChip s c) p).rxSeq ∧ (portOf (getChip t c) p).nakSent = true ∧
      (portOf (getChip t c) p).assembly = (portOf (getChip s c) p).assembly ∧
      ((portOf (getChip s c) p).nakSent = true → (getChip t c).counters = (getChip s c).counters ∧
        (portOf (getChip t c) p).wire = (portOf (getChip s c) p).wire) ∧
      ((portOf (getChip s c) p).nakSent = false →
        tabGet 0 (getChip t c).counters 135 = satAdd64 (tabGet 0 (getChip s c).counters 135) 1 ∧
        ((portOf (getChip s c) p).mode ≠ .ethernet → (portOf (getChip t c) p).wire =
          (portOf (getChip s c) p).wire ++ [controlUnit (nakContent (portOf (getChip s c) p).rxSeq)]))) ∧
  (∀ (s : State) (c : Pos) (p : PortNo), carriesData (portOf (getChip s c) p) = true → (portOf (getChip s c) p).crcFails < 7 →
    ∃ t, exec (.wireUnitCrcFail c p) s = .next t ∧ OnlyChip c s t ∧ LinkFrame p (getChip s c) (getChip t c) ∧
      (portOf (getChip t c) p).crcFails = (portOf (getChip s c) p).crcFails + 1 ∧
      (portOf (getChip t c) p).rxSeq = (portOf (getChip s c) p).rxSeq ∧ (portOf (getChip t c) p).nakSent = true ∧
      (portOf (getChip t c) p).step = (portOf (getChip s c) p).step ∧
      tabGet 0 (getChip t c).counters 134 = satAdd64 (tabGet 0 (getChip s c).counters 134) 1 ∧
      ((portOf (getChip s c) p).nakSent = false → (portOf (getChip s c) p).mode ≠ .ethernet → (portOf (getChip t c) p).wire =
        (portOf (getChip s c) p).wire ++ [controlUnit (nakContent (portOf (getChip s c) p).rxSeq)])) ∧
  ∀ (s : State) (c : Pos) (p : PortNo), hears (portOf (getChip s c) p) = true → 7 ≤ (portOf (getChip s c) p).crcFails →
    (portOf (getChip s c) p).mode ≠ .ethernet →
    ∃ t, exec (.wireUnitCrcFail c p) s = .next t ∧ OnlyChip c s t ∧ LinkFrame p (getChip s c) (getChip t c) ∧
      (portOf (getChip t c) p).step = (if portEnabled s c p then .lanes else .down) ∧
      tabGet 0 (getChip t c).counters 134 = satAdd64 (tabGet 0 (getChip s c).counters 134) 1

/-- CREDIT on a port that is up takes over the counts of VC0 and of its CLASS, and an ACK_SEQ of the newest flit empties the replay buffer and ends a run of resends; on a port that waits for credits it brings the port
up. NAK resends the flits from EXPECTED_SEQ on, REPLAY_TIMEOUT every unacknowledged flit, in order; after 16 resends with no progress the port is lost with 0x12 instead. CREDIT_SEND sends a CREDIT flit of a class. UNKNOWN_CONTROL_FLIT is
counted and dropped (R144, R145, R146, R147, R150). The count of resends is read as log entry 39 says. -/
def Obligations.AcknowledgedFlitsLeaveReplay : Prop :=
  (∀ (s : State) (c : Pos) (p : PortNo) (content : BitVec 256), creditClassOk (byteOf content 1).toNat = true →
    (portOf (getChip s c) p).step = .up →
    ∃ t, exec (.credit c p content) s = .next t ∧ OnlyChip c s t ∧ LinkFrame p (getChip s c) (getChip t c) ∧
      (portOf (getChip t c) p).step = .up ∧ (portOf (getChip t c) p).creditsIn = true ∧
      tabGet 0 (portOf (getChip t c) p).advertised (.vc0 false) = (u16Of content 4).toNat ∧
      tabGet 0 (portOf (getChip t c) p).advertised (.vc0 true) = (u16Of content 6).toNat ∧
      (∀ i q, i < 8 → (classPools (byteOf content 1).toNat)[i]? = some q →
        tabGet 0 (portOf (getChip t c) p).advertised q = (u16Of content (8 + 2 * i)).toNat) ∧
      ((portOf (getChip s c) p).txSeq = ((u16Of content 2).toNat + 1) % 65536 → (portOf (getChip s c) p).replay ≠ [] →
        (portOf (getChip s c) p).replay.length ≤ 16384 →
        (portOf (getChip t c) p).replay = [] ∧ (portOf (getChip t c) p).unacked = [] ∧ (portOf (getChip t c) p).resends = 0)) ∧
  (∀ (s : State) (c : Pos) (p : PortNo) (content : BitVec 256), creditClassOk (byteOf content 1).toNat = true →
    (portOf (getChip s c) p).step = .credits → (portOf (getChip s c) p).creditsOut = true →
    ∃ t, exec (.credit c p content) s = .next t ∧ OnlyChip c s t ∧ LinkFrame p (getChip s c) (getChip t c) ∧
      (portOf (getChip t c) p).step = .up ∧
      tabGet 0 (getChip t c).counters 141 = satAdd64 (tabGet 0 (getChip s c).counters 141) 1) ∧
  (∀ (s : State) (c : Pos) (p : PortNo) (content : BitVec 256) (i : Nat), carriesData (portOf (getChip s c) p) = true →
    i < (portOf (getChip s c) p).replay.length → (portOf (getChip s c) p).replay.length ≤ 16384 →
    (portOf (getChip s c) p).txSeq = ((u16Of content 2).toNat + ((portOf (getChip s c) p).replay.length - i)) % 65536 →
    (portOf (getChip s c) p).resends < 16 →
    ∃ t, exec (.nak c p content) s = .next t ∧ OnlyChip c s t ∧ LinkFrame p (getChip s c) (getChip t c) ∧
      (portOf (getChip t c) p).replay = (portOf (getChip s c) p).replay ∧
      (portOf (getChip t c) p).resends = (portOf (getChip s c) p).resends + 1 ∧
      ((portOf (getChip s c) p).mode ≠ .ethernet →
        (portOf (getChip t c) p).wire = (portOf (getChip s c) p).wire ++ (portOf (getChip s c) p).replay.drop i) ∧
      tabGet 0 (getChip t c).counters 136 =
        satAdd64 (tabGet 0 (getChip s c).counters 136) ((portOf (getChip s c) p).replay.length - i)) ∧
  (∀ (s : State) (c : Pos) (p : PortNo), carriesData (portOf (getChip s c) p) = true →
    (portOf (getChip s c) p).replay ≠ [] → (portOf (getChip s c) p).resends < 16 →
    ∃ t, exec (.replayTimeout c p) s = .next t ∧ OnlyChip c s t ∧ LinkFrame p (getChip s c) (getChip t c) ∧
      (portOf (getChip t c) p).replay = (portOf (getChip s c) p).replay ∧
      (portOf (getChip t c) p).resends = (portOf (getChip s c) p).resends + 1 ∧
      ((portOf (getChip s c) p).mode ≠ .ethernet →
        (portOf (getChip t c) p).wire = (portOf (getChip s c) p).wire ++ (portOf (getChip s c) p).replay) ∧
      tabGet 0 (getChip t c).counters 136 =
        satAdd64 (tabGet 0 (getChip s c).counters 136) (portOf (getChip s c) p).replay.length) ∧
  (∀ (s : State) (c : Pos) (p : PortNo), carriesData (portOf (getChip s c) p) = true → (portOf (getChip s c) p).replay ≠ [] →
    16 ≤ (portOf (getChip s c) p).resends →
    ∃ t, exec (.replayTimeout c p) s = .next t ∧ OnlyChip c s t ∧ LinkFrame p (getChip s c) (getChip t c) ∧
      (portOf (getChip t c) p).step = (if portEnabled s c p then .lanes else .down) ∧ (portOf (getChip t c) p).lastFault = 0x12 ∧
      tabGet 0 (getChip t c).occurrences 0x12 = tabGet 0 (getChip s c).occurrences 0x12 + 1) ∧
  (∀ (s : State) (c : Pos) (p : PortNo) (cls : BitVec 8), carriesData (portOf (getChip s c) p) = true →
    creditClassOk cls.toNat = true →
    exec (.creditSend c p cls) s = .next (setChip s c (setPort (getChip s c) p
      (sendUnit (portOf (getChip s c) p) (controlUnit (creditContent (portOf (getChip s c) p) cls.toNat)))))) ∧
  ∀ (s : State) (c : Pos) (p : PortNo) (content : BitVec 256), hears (portOf (getChip s c) p) = true → unknownControl content = true →
    ∃ t, exec (.unknownControlFlit c p content) s = .next t ∧ OnlyChip c s t ∧ LinkFrame p (getChip s c) (getChip t c) ∧
      portOf (getChip t c) p = { portOf (getChip s c) p with crcFails := 0 } ∧
      tabGet 0 (getChip t c).counters 137 = satAdd64 (tabGet 0 (getChip s c).counters 137) 1

/-! ## Loss, Ethernet, frames (R152, R156 to R163) -/

/-- PORT_DOWN gives a chip link's waiting frames back to be routed again, or on a host port discards and counts them, and the port trains again where it may (R162). VC0_CREDIT_TIMEOUT takes a port whose first VC0 frame lacks credits down with
0x13 (R152). MESH_PEER_LOST, with all eight ports to the peer down, raises 0x14, which fails a Spring that is under way; TORUS_DIRECTION_LOST, with all eight ports of a direction that has neighbours down, raises 0x15, which stops nothing (R55, R163). -/
def Obligations.LostLinksAreReported : Prop :=
  (∀ (s : State) (c : Pos) (p : PortNo), (portOf (getChip s c) p).step ≠ .down →
    ∃ t, exec (.portDown c p) s = .next t ∧ OnlyChip c s t ∧ LinkFrame p (getChip s c) (getChip t c) ∧
      (portOf (getChip t c) p).step = (if portEnabled s c p then .lanes else .down) ∧
      (portOf (getChip t c) p).unacked = [] ∧ (portOf (getChip t c) p).egress = [] ∧
      (isChipLink p = true → (getChip t c).outbox = waitingFrames (portOf (getChip s c) p) ++ (getChip s c).outbox ∧
        (getChip t c).counters = (getChip s c).counters) ∧
      (isChipLink p = false → (getChip t c).outbox = (getChip s c).outbox ∧ tabGet 0 (getChip t c).counters 133 =
        satAdd64 (tabGet 0 (getChip s c).counters 133) (waitingFrames (portOf (getChip s c) p)).length)) ∧
  (∀ (s : State) (c : Pos) (p : PortNo) (f : TxFrame) (l : List TxFrame), (portOf (getChip s c) p).step = .up →
    tabGet [] (portOf (getChip s c) p).egress (0#2, 0) = f :: l →
    creditOf (portOf (getChip s c) p) (txPool (getChip s c) p f) < linkFlits p f →
    ∃ t, exec (.vc0CreditTimeout c p) s = .next t ∧ OnlyChip c s t ∧ LinkFrame p (getChip s c) (getChip t c) ∧
      (portOf (getChip t c) p).step = (if portEnabled s c p then .lanes else .down) ∧ (portOf (getChip t c) p).lastFault = 0x13 ∧
      tabGet 0 (getChip t c).occurrences 0x13 = tabGet 0 (getChip s c).occurrences 0x13 + 1) ∧
  (∀ (s : State) (c : Pos) (g : Fin 3), linksOn (getChip s c) = true → upPorts (getChip s c) g.val = [] →
    (getChip s c).lostPeers.contains g = false →
    ∃ t, exec (.meshPeerLost c g) s = .next t ∧ OnlyChip c s t ∧
      tabGet 0 (getChip t c).occurrences 0x14 = tabGet 0 (getChip s c).occurrences 0x14 + 1 ∧
      ((getChip s c).faults.length < 16 → holdsFault (getChip t c) 0x14 = true) ∧ (getChip t c).vault = (getChip s c).vault ∧
      (springRuns (getChip s c) = true → (getChip t c).wake.phase = .failed ∧ ∀ p, (portOf (getChip t c) p).step = .down) ∧
      (springRuns (getChip s c) = false → (getChip t c).lostPeers = (getChip s c).lostPeers ++ [g] ∧
        (getChip t c).wake = (getChip s c).wake)) ∧
  ∀ (s : State) (c : Pos) (d : Direction), linksOn (getChip s c) = true →
    (groupPorts (directionGroup d)).any (axisEnabled (getChip s c)) = true →
    upPorts (getChip s c) (directionGroup d) = [] → (getChip s c).lostDirs.contains d = false →
    ∃ t, exec (.torusDirectionLost c d) s = .next t ∧ OnlyChip c s t ∧ (getChip t c).lostDirs = (getChip s c).lostDirs ++ [d] ∧
      tabGet 0 (getChip t c).occurrences 0x15 = tabGet 0 (getChip s c).occurrences 0x15 + 1 ∧
      (getChip t c).tenants = (getChip s c).tenants ∧ (getChip t c).ports = (getChip s c).ports ∧ (getChip t c).wake = (getChip s c).wake

/-- ETHERNET_FRAME_SEND puts up to 37 queued units in one MAC frame, to the peer's address, with the image's EtherType and the port's EPOCH (R156). MAC_FRAME_RECEIVE: a MAC frame that
fails a check of R157 is discarded and counted, any other has its units received in order, the peer's address learned first where it was not known. -/
def Obligations.MacFramesCarryUnits : Prop :=
  (∀ (s : State) (c : Pos) (p : PortNo) (e : BitVec 16), etherOf (getChip s c) = some e → (portOf (getChip s c) p).ethQueue ≠ [] →
    ∃ t m, exec (.ethernetFrameSend c p) s = .next t ∧ OnlyChip c s t ∧ LinkFrame p (getChip s c) (getChip t c) ∧
      (portOf (getChip t c) p).macWire = (portOf (getChip s c) p).macWire ++ [m] ∧
      (portOf (getChip t c) p).ethQueue = (portOf (getChip s c) p).ethQueue.drop 37 ∧
      m.units = (portOf (getChip s c) p).ethQueue.take 37 ∧ m.units.length ≤ 37 ∧ m.unitsField = BitVec.ofNat 8 m.units.length ∧
      m.dest = (portOf (getChip s c) p).peerMac ∧ m.source = macOf (getChip s c) p ∧ m.etherType = e ∧
      m.epoch = BitVec.ofNat 32 (portOf (getChip s c) p).epoch) ∧
  (∀ (s : State) (c : Pos) (p : PortNo) (m : MacFrame), (portOf (getChip s c) p).mode = .ethernet → hears (portOf (getChip s c) p) = true →
    macAccepted (getChip s c) p m = true →
    ∃ t, exec (.macFrameReceive c p m) s = .next t ∧ OnlyChip c s t ∧
      t = m.units.foldl (fun s u => rxUnit s c p u m.rttUs)
        (setChip s c (setPort (getChip s c) p (learnMac (portOf (getChip s c) p) m)))) ∧
  ∀ (s : State) (c : Pos) (p : PortNo) (m : MacFrame), (portOf (getChip s c) p).mode = .ethernet → hears (portOf (getChip s c) p) = true →
    (m.fcsOk = false ∨ m.control = true ∨ (m.dest ≠ macOf (getChip s c) p ∧ m.dest ≠ BitVec.allOnes 48) ∨
      etherOf (getChip s c) ≠ some m.etherType ∨ 37 < m.units.length ∨ m.unitsField.toNat ≠ m.units.length ∨ m.encap.toNat / 16 ≠ 1 ∨
      m.clientBytes ≠ max 46 (8 + 40 * m.units.length) ∨
      (m.epoch ≠ (portOf (getChip s c) p).peerEpoch ∧ (m.units = [] ∨ ∃ u ∈ m.units, isHelloUnit u = false))) →
    exec (.macFrameReceive c p m) s = .next (setChip s c (countDev (getChip s c) 140 1))

/-- FRAME_SEND: a frame that credit covers is sent whole, its flits numbered in sequence, kept for replay and charged to their pool, VC0 first, then VC1 and VC2 in turn with the tenant that deficit round-robin serves (R145, R150, R151).
FRAME_FORWARD: the oldest frame to be routed goes to this chip, to a host port of it that is up, or to the port of its hop; one with no port up is discarded and counted (R158, R160, R369). INGRESS_DISPATCH: a frame leaves its ingress queue in
order; one for this chip waits for its command, a frame on VC1 or VC2 charged to the ingress class; one on its way goes on, its flits freed (R129, R150, R327). -/
def Obligations.FramesMoveWhole : Prop :=
  (∀ (s : State) (c : Pos) (p : PortNo) (f : TxFrame) (l : List TxFrame), (portOf (getChip s c) p).step = .up →
    tabGet [] (portOf (getChip s c) p).egress (0#2, 0) = f :: l → mayBegin (getChip s c) p f = true →
    ∃ t, exec (.frameSend c p) s = .next t ∧ OnlyChip c s t ∧ LinkFrame p (getChip s c) (getChip t c) ∧
      tabGet [] (portOf (getChip t c) p).egress (0#2, 0) = l ∧
      (portOf (getChip t c) p).unacked = (portOf (getChip s c) p).unacked ++ [f] ∧
      (portOf (getChip t c) p).txSeq = ((portOf (getChip s c) p).txSeq + linkFlits p f) % 65536 ∧
      (portOf (getChip t c) p).replay.length = (portOf (getChip s c) p).replay.length + linkFlits p f ∧
      tabGet 0 (portOf (getChip t c) p).sent (txPool (getChip s c) p f) =
        (tabGet 0 (portOf (getChip s c) p).sent (txPool (getChip s c) p f) + linkFlits p f) % 65536) ∧
  (∀ (s : State) (c : Pos) (p : PortNo) (v : BitVec 2) (u : Nat) (new : Tab Nat Nat) (f : TxFrame) (l : List TxFrame), (v = 1#2 ∨ v = 2#2) →
    (portOf (getChip s c) p).step = .up → tabGet [] (portOf (getChip s c) p).egress (0#2, 0) = [] →
    (portOf (getChip s c) p).vc2Next = decide (v = 2#2) → tabGet [] (portOf (getChip s c) p).egress (v, u) = f :: l →
    drrServe (byteQuantum (getChip s c)) (fun t => tabGet 0 (portOf (getChip s c) p).outDeficit (v, t))
      (egressHeads (getChip s c) p v) = some (u, new) →
    ∃ t, exec (.frameSend c p) s = .next t ∧ OnlyChip c s t ∧ LinkFrame p (getChip s c) (getChip t c) ∧
      tabGet [] (portOf (getChip t c) p).egress (v, u) = l ∧ (portOf (getChip t c) p).vc2Next = decide (v = 1#2) ∧
      (portOf (getChip t c) p).unacked = (portOf (getChip s c) p).unacked ++ [f]) ∧
  (∀ (s : State) (c : Pos) (f : TxFrame) (l : List TxFrame), linksOn (getChip s c) = true → (getChip s c).outbox = f :: l →
    ∃ t, exec (.frameForward c) s = .next t ∧ OnlyChip c s t ∧ (getChip t c).outbox = l ∧ (getChip t c).wake = (getChip s c).wake ∧
      (nextHop (getChip s c) f.route = .here → f.route.targetPort = 0x3F#8 →
        (getChip t c).ports = (getChip s c).ports ∧ (getChip t c).tenants = (getChip s c).tenants ∧
        ∃ g, (getChip t c).inbox = (getChip s c).inbox ++ [g] ∧ g.frame = f.frame ∧ g.vc = f.vc ∧ g.route = some f.route) ∧
      (∀ q, nextHop (getChip s c) f.route = .here → f.route.targetPort ≠ 0x3F#8 → q = Fin.ofNat 64 f.route.targetPort.toNat →
        isHostPort q = true → portUp (getChip s c) q = true →
        tabGet [] (portOf (getChip t c) q).egress (egressKey f) = tabGet [] (portOf (getChip s c) q).egress (egressKey f) ++ [f] ∧
        LinkFrame q (getChip s c) (getChip t c)) ∧
      (∀ q, nextHop (getChip s c) f.route ≠ .here →
        choosePort (upPorts (getChip s c) (hopGroup (nextHop (getChip s c) f.route))) (frameHead f.frame) = some q →
        tabGet [] (portOf (getChip t c) q).egress (egressKey f) = tabGet [] (portOf (getChip s c) q).egress (egressKey f) ++
          [{ f with route := hopRoute (nextHop (getChip s c) f.route) f.route }] ∧
        LinkFrame q (getChip s c) (getChip t c)) ∧
      (nextHop (getChip s c) f.route ≠ .here → choosePort (upPorts (getChip s c) (hopGroup (nextHop (getChip s c) f.route)))
        (frameHead f.frame) = none → (getChip t c).ports = (getChip s c).ports ∧ (getChip t c).inbox = (getChip s c).inbox ∧
        tabGet 0 (getChip t c).counters 133 = satAdd64 (tabGet 0 (getChip s c).counters 133) 1)) ∧
  (∀ (s : State) (c : Pos) (p : PortNo) (f : RxFrame) (l : List RxFrame), linksOn (getChip s c) = true →
    ingressQueue (portOf (getChip s c) p) 0#2 0 = f :: l → f.vc = 0#2 →
    ∃ t, exec (.ingressDispatch c p 0#2) s = .next t ∧ OnlyChip c s t ∧ ingressQueue (portOf (getChip t c) p) 0#2 0 = l ∧
      (getChip t c).ingressTokens = (getChip s c).ingressTokens ∧ (getChip t c).tenants = (getChip s c).tenants ∧
      (∀ q, q ≠ p → portOf (getChip t c) q = portOf (getChip s c) q) ∧
      (staysHere (getChip s c) f = true → (getChip t c).inbox = (getChip s c).inbox ++ [f] ∧ (getChip t c).outbox = (getChip s c).outbox ∧
        (portOf (getChip t c) p).heldFlits = (portOf (getChip s c) p).heldFlits) ∧
      (∀ r, f.route = some r → staysHere (getChip s c) f = false → (getChip t c).inbox = (getChip s c).inbox ∧
        (getChip t c).outbox = (getChip s c).outbox ++ [{ frame := f.frame, vc := f.vc, route := arriveRoute (getChip s c) p r }] ∧
        (tabGet 0 (portOf (getChip s c) p).stale (0#2, 0) = 0 → tabGet 0 (portOf (getChip t c) p).heldFlits (rxPool f) =
          tabGet 0 (portOf (getChip s c) p).heldFlits (rxPool f) - min (rxFlits f) (tabGet 0 (portOf (getChip s c) p).heldFlits (rxPool f))))) ∧
  ∀ (s : State) (c : Pos) (p : PortNo) (v : BitVec 2) (u : Nat) (new : Tab Nat Nat) (f : RxFrame) (l : List RxFrame), (v = 1#2 ∨ v = 2#2) →
    linksOn (getChip s c) = true →
    drrServe (byteQuantum (getChip s c)) (fun t => tabGet 0 (portOf (getChip s c) p).inDeficit (v, t))
      (ingressHeads (getChip s c) p v) = some (u, new) →
    ingressQueue (portOf (getChip s c) p) v u = f :: l → f.vc = v → staysHere (getChip s c) f = true → rxTarget f = chipNo (getChip s c) →
    ∃ t, exec (.ingressDispatch c p v) s = .next t ∧ OnlyChip c s t ∧ ingressQueue (portOf (getChip t c) p) v u = l ∧
      (getChip t c).inbox = (getChip s c).inbox ++ [f] ∧ (getChip t c).tenants = (getChip s c).tenants ∧
      (portOf (getChip t c) p).heldFlits = (portOf (getChip s c) p).heldFlits ∧
      tabGet ingressDepth (getChip t c).ingressTokens u =
        tabGet ingressDepth (getChip s c).ingressTokens u - 160 * (32 + f.frame.payload.length)

/-! ## Requests and their checks (Table 9-4) -/

/-- Every host request, with no earlier frame of its tenant and VC before it, meets the checks of Table 9-4 in order. At the port it comes in by: a wrong trailer drops it, counted, with no answer;
a bad header, another VC than 1, a tenant that does not exist, a destination outside the torus are answered; a request for another chip goes on
to it. At its destination a wipe answers FAULT (STAT_GET apart), a chip-level or tray-level code answers FAULT to what is no read; a tenant in reset or not yet loaded answers TENANT_RESET, a faulted one FAULT (a read of a loaded one served), and Autumn
refuses writes, each after RETRY is counted. UNKNOWN_FRAME_TYPE: a frame of a type that is no request is answered BADTYPE to a host, dropped and counted from a chip, and goes on where it is for another chip. A DONE goes back to the sender.
The order of fields in BADHEADER and what is counted are log entry 32, frames as operands log entry 9. -/
def Obligations.RequestsMeetTheirChecks : Prop :=
  (∀ (i : Instr) (c : Pos) (f : RxFrame) (ty : Nat) (s : State) (k : Chip), requestOf i = some (c, f, ty) → linksOn (getChip s c) = true →
    (rxHead f).type = ty → f.route = none → waitsBehind (getChip s c) f = false → k = consume (getChip s c) f →
    (trailerFails f = true → exec i s = .next (setChip s c (countDev k 128 1))) ∧
    (∀ d, trailerFails f = false → badHeader f = some d → exec i s = .next (setChip s c (sendDone k f (doneInfo stBadHeader d)))) ∧
    (trailerFails f = false → badHeader f = none →
      (f.vc ≠ 1#2 → exec i s = .next (setChip s c (sendDone k f (doneInfo stBadType ty)))) ∧
      (f.vc = 1#2 → tenantExists k (rxHead f).tenant = false →
        exec i s = .next (setChip s c (sendDone (countDev k 129 1) f (doneInfo stBadTensor 0)))) ∧
      (f.vc = 1#2 → tenantExists k (rxHead f).tenant = true →
        (destInside k (rxHead f).dest = false → exec i s = .next (setChip s c (sendDone k f (doneInfo stRange 0)))) ∧
        (destInside k (rxHead f).dest = true → (rxHead f).dest ≠ chipNo k →
          exec i s = .next (setChip s c (sendOn k f (rxHead f).dest))) ∧
        (destInside k (rxHead f).dest = true → (rxHead f).dest = chipNo k →
          (∀ code, wipeCode k = some code → ty ≠ tyStatGet → exec i s = .next (setChip s c (sendFault k f code))) ∧
          (∀ code, wipeCode k = none → stoppingFault k = some code → isReadback ty = false →
            exec i s = .next (setChip s c (sendFault k f code))) ∧
          (wipeCode k = none → stoppingFault k = none → ∀ k', k' = taken (getChip s c) f true →
            (awaitsReset (ten k (rxHead f).tenant) = true →
              exec i s = .next (setChip s c (sendDone k' f (doneInfo stTenantReset 0)))) ∧
            (awaitsReset (ten k (rxHead f).tenant) = false → (ten k (rxHead f).tenant).fault ≠ 0 →
              (isReadback ty = false ∨ (ten k (rxHead f).tenant).loaded = false) →
              exec i s = .next (setChip s c (sendFault k' f (ten k (rxHead f).tenant).fault))) ∧
            (awaitsReset (ten k (rxHead f).tenant) = false → (ten k (rxHead f).tenant).fault = 0 → k.wake.season = .autumn →
              isWrite ty = true → exec i s = .next (setChip s c (sendDone k' f (doneInfo stAutumn 0))))))))) ∧
  (∀ (c : Pos) (f : RxFrame) (s : State) (k : Chip), linksOn (getChip s c) = true → isHostRequest (rxHead f).type = false → isChipFrame f = false →
    waitsBehind (getChip s c) f = false → k = consume (getChip s c) f →
    (f.route = none → trailerFails f = false → badHeader f = none →
      exec (.unknownFrameType c f) s = .next (setChip s c (sendDone k f (doneInfo stBadType (rxHead f).type)))) ∧
    (∀ r, f.route = some r → r.targetChip.toNat = chipNo (getChip s c) →
      exec (.unknownFrameType c f) s = .next (setChip s c (countDev k 130 1))) ∧
    (∀ r, f.route = some r → r.targetChip.toNat ≠ chipNo (getChip s c) →
      exec (.unknownFrameType c f) s = .next (setChip s c { k with outbox := k.outbox ++ [{ frame := f.frame, vc := f.vc, route := r }] }))) ∧
  ∀ (k : Chip) (f : RxFrame) (d : DoneInfo), (sendDone k f d).outbox = k.outbox ++ [doneTo k f d] ∧
    (d.status = 0 → sendDone k f d = { k with outbox := k.outbox ++ [doneTo k f d] })

/-- Requests that pass checks 1 to 8: STAT_GET is answered with its page; SCALE_GET of a FILLED shard homed here whose history is whole with the shard's scale record; MASK_GET with the keep bits of its range; PULL of a step not resolved is held, and of a resolved one is answered, in
order, with the elements of its arrays where no line of them is poisoned. None of them changes an array, a fill or a step of any shard, and a PULL leaves HBM as it is where its lines stand in their slices. A MASK_GET whose cluster is not free waits in the cluster's queue (R17, R178, R179,
R180, R183, R188, R329). Tasks that run whole are log entry 10. -/
def Obligations.ReadsAreAnswered : Prop :=
  (∀ (s : State) (c : Pos) (f : RxFrame) (k : Chip), ServedRequest s c f tyStatGet k →
    ∃ t, exec (.statGet c f) s = .next t ∧ OnlyChip c s t ∧ TenantFrame (rxHead f).tenant k (getChip t c) ∧
      (ten (getChip t c) (rxHead f).tenant).shards = (ten k (rxHead f).tenant).shards ∧
      (getChip t c).outbox = k.outbox ++ [answerTo k f (replyHdr k (rxHead f) tyStatData flLast (rxHead f).aux)
        (statPage s.tray k (rxHead f).tenant (rxHead f).aux)] ∧
      tabFind (ten (getChip t c) (rxHead f).tenant).origins (rxHead f).source = some (originOf k f)) ∧
  (∀ (s : State) (c : Pos) (f : RxFrame) (k : Chip) (r : TensorRec) (g : GroupRec) (h : Shard), ServedRequest s c f tyScaleGet k →
    paramTensor k (rxHead f).tenant (rxHead f).tensor = some (r, g) →
    homeOf k (rxHead f).tenant (rxHead f).tensor (rxHead f).shard = some (chipNo k) →
    h = shardOf (ten k (rxHead f).tenant) (rxHead f).tensor (rxHead f).shard → h.fill = .filled → h.histPoison = false →
    ∃ t, exec (.scaleGet c f) s = .next t ∧ OnlyChip c s t ∧ TenantFrame (rxHead f).tenant k (getChip t c) ∧
      (ten (getChip t c) (rxHead f).tenant).shards = (ten k (rxHead f).tenant).shards ∧
      (getChip t c).outbox = k.outbox ++ [answerTo k f (replyHdr k (rxHead f) tyScaleData flLast 0)
        (scalePayload g h (latestCommitted (ten k (rxHead f).tenant) h))]) ∧
  (∀ (s : State) (c : Pos) (f : RxFrame) (k : Chip) (r : TensorRec) (w : Task), ServedRequest s c f tyMaskGet k →
    tensorOf k (rxHead f).tenant (rxHead f).tensor = some r → r.mask = true → 0 < (rxHead f).count →
    maskFirst (rxHead f) + (rxHead f).count ≤ tensorElems r → w = frameTask k 11 f (maskFirst (rxHead f)) (rxHead f).count s.tray.now →
    ∃ t, exec (.maskGet c f) s = .next t ∧ OnlyChip c s t ∧
      (RunsAtOnce k w → TenantFrame (rxHead f).tenant k (getChip t c) ∧
        (ten (getChip t c) (rxHead f).tenant).shards = (ten k (rxHead f).tenant).shards ∧
        (getChip t c).outbox = k.outbox ++ maskReplies k f r.keepP16 (cutRange (rxHead f).count 131072 (maskFirst (rxHead f)) (rxHead f).count)) ∧
      (canRunNow k (workTasks k w) = false → TenantFrame (rxHead f).tenant k (getChip t c) ∧ (getChip t c).outbox = k.outbox ∧
        (ten (getChip t c) (rxHead f).tenant).shards = (ten k (rxHead f).tenant).shards ∧
        (workTasks k w).headD w ∈ (clusterOf (getChip t c) (taskPlace k ((workTasks k w).headD w))).queue)) ∧
  ∀ (s : State) (c : Pos) (f : RxFrame) (k : Chip) (r : TensorRec) (g : GroupRec) (h : Shard), ServedRequest s c f tyPull k →
    paramTensor k (rxHead f).tenant (rxHead f).tensor = some (r, g) →
    pullFormat g (ten k (rxHead f).tenant).m8 (rxHead f).aux (rxHead f).format = true → (rxHead f).shard < r.shards →
    homeOf k (rxHead f).tenant (rxHead f).tensor (rxHead f).shard = some (chipNo k) → absentMoment g (rxHead f).aux = false →
    pullRange (elemsOf k (rxHead f).tenant (rxHead f).tensor (rxHead f).shard) (rxHead f) = true →
    beyondResolved (ten k (rxHead f).tenant) (rxHead f).step 2 = false →
    h = shardOf (ten k (rxHead f).tenant) (rxHead f).tensor (rxHead f).shard → h.fill = .filled →
    (resolvedBy (ten k (rxHead f).tenant) (rxHead f).step = false →
      ∃ t, exec (.pull c f) s = .next t ∧ OnlyChip c s t ∧ TenantFrame (rxHead f).tenant k (getChip t c) ∧
        (ten (getChip t c) (rxHead f).tenant).heldPulls = (ten k (rxHead f).tenant).heldPulls ++ [f] ∧
        (ten (getChip t c) (rxHead f).tenant).shards = (ten k (rxHead f).tenant).shards ∧ (getChip t c).outbox = k.outbox) ∧
    ∀ (a : ArrayInfo) (l : List (Nat × Nat × Nat)), resolvedBy (ten k (rxHead f).tenant) (rxHead f).step = true →
      arrayInfoOf k (rxHead f).tenant (rxHead f).tensor (rxHead f).shard = some a →
      l = pullPieces a (rxHead f).aux (rxHead f).format (rxHead f).offset (pullCount a.n (rxHead f)) →
      (∀ p ∈ l, arrayPoison a h (pullArray a p.1 (rxHead f).format (decide ((rxHead f).aux = 4))) p.2.1 p.2.2 = none) →
      RunsAtOnce k (frameTask k 4 f (rxHead f).offset (pullCount a.n (rxHead f)) s.tray.now) →
      ∃ t, exec (.pull c f) s = .next t ∧ OnlyChip c s t ∧ ShardFrame (rxHead f).tenant (fun _ _ => True) k (getChip t c) ∧
        (getChip t c).outbox = k.outbox ++ paramReplies k f a h l ∧
        ((∀ sel ∈ pullSelectors a (rxHead f).aux,
            ∀ n ∈ storedLines (arrayFmt a (pullArray a sel (rxHead f).format (decide ((rxHead f).aux = 4)))) (rxHead f).offset (pullCount a.n (rxHead f)),
              (sliceLine k (tensorKey k (rxHead f).tenant (rxHead f).tensor (rxHead f).shard
                (pullArray a sel (rxHead f).format (decide ((rxHead f).aux = 4))) n)).isSome = true) →
          (getChip t c).hbm = k.hbm)

/-! ## Filling and the stash -/

/-- INIT at the home of a shard, its format, selector and range good and its task free to run: into a shard not FILLED, with the STEP of the tenant's first INIT or as that first INIT, it makes the shard FILLING, or with LAST on the master FILLED at its STEP and answered OK; an array kept in FP32 takes exactly
its elements; the first INIT sets the tenant's committed and resolved step. A FILLED shard stays and is answered NOTEMPTY, or DUP under RETRY; another STEP than the tenant's is answered RANGE. No array, fill or step of another shard changes (R172, R175, R176, R177). A run of bytes written to a memory reads back,
and every other byte reads as before. Tasks that run whole are log entry 10. -/
def Obligations.InitFillsShards : Prop :=
  (∀ (s : State) (c : Pos) (f : RxFrame) (k : Chip) (i : ShardInfo) (h : Shard), ServedRequest s c f tyInit k →
    paramTensor k (rxHead f).tenant (rxHead f).tensor = some (i.tensor, i.group) →
    shardInfo k (rxHead f).tenant (rxHead f).tensor (rxHead f).shard = some i →
    homeOf k (rxHead f).tenant (rxHead f).tensor (rxHead f).shard = some (chipNo k) →
    initFormat i.group (ten k (rxHead f).tenant).m8 (rxHead f).aux (rxHead f).format = true → absentMoment i.group (rxHead f).aux = false →
    (rxHead f).offset + (rxHead f).count ≤ i.n →
    RunsAtOnce k (frameTask k 3 f (rxHead f).offset (rxHead f).count s.tray.now) →
    h = shardOf (ten k (rxHead f).tenant) (rxHead f).tensor (rxHead f).shard →
    ∃ t, exec (.init c f) s = .next t ∧ OnlyChip c s t ∧
      ShardFrame (rxHead f).tenant (fun m n => (m, n) ≠ ((rxHead f).tensor, (rxHead f).shard)) k (getChip t c) ∧
      (((ten k (rxHead f).tenant).initStep = none ∨ (ten k (rxHead f).tenant).initStep = some (rxHead f).step) → h.fill ≠ .filled →
        (shardOf (ten (getChip t c) (rxHead f).tenant) (rxHead f).tensor (rxHead f).shard).fill =
          (if hasFlag (rxHead f).flags flLast && decide ((rxHead f).aux = 0) then .filled else .filling) ∧
        (storedFmt i.group (ten k (rxHead f).tenant).m8 (rxHead f).aux = 0 →
          arrayMem (shardOf (ten (getChip t c) (rxHead f).tenant) (rxHead f).tensor (rxHead f).shard) (rxHead f).aux =
            memWrite 0#8 (arrayMem h (rxHead f).aux) (4 * (rxHead f).offset) (f.frame.payload.take (4 * (rxHead f).count))) ∧
        ((ten k (rxHead f).tenant).initStep = none → (ten (getChip t c) (rxHead f).tenant).committed = some (rxHead f).step ∧
          (ten (getChip t c) (rxHead f).tenant).resolved = some (rxHead f).step) ∧
        (hasFlag (rxHead f).flags flLast = false → (getChip t c).outbox = k.outbox) ∧
        (hasFlag (rxHead f).flags flLast = true → ∃ d, (getChip t c).outbox = k.outbox ++ [doneTo (getChip t c) f d] ∧ d.status = stOk) ∧
        (hasFlag (rxHead f).flags flLast = true → (rxHead f).aux = 0 →
          (shardOf (ten (getChip t c) (rxHead f).tenant) (rxHead f).tensor (rxHead f).shard).stateStep = (rxHead f).step)) ∧
      (((ten k (rxHead f).tenant).initStep = none ∨ (ten k (rxHead f).tenant).initStep = some (rxHead f).step) → h.fill = .filled →
        (shardOf (ten (getChip t c) (rxHead f).tenant) (rxHead f).tensor (rxHead f).shard).arrays = h.arrays ∧
        (shardOf (ten (getChip t c) (rxHead f).tenant) (rxHead f).tensor (rxHead f).shard).fill = .filled ∧
        (rxFlag f flRetry = false → (getChip t c).outbox = k.outbox ++ [doneTo k f (doneInfo stNotEmpty 0)]) ∧
        (rxFlag f flRetry = true → ∃ d, (getChip t c).outbox = k.outbox ++ [doneTo k f d] ∧ d.status = stDup ∧
          d.duplicates = tabGet 0 h.initDups (fillKey (rxHead f)) + 1)) ∧
      (∀ n, (ten k (rxHead f).tenant).initStep = some n → n ≠ (rxHead f).step →
        (ten (getChip t c) (rxHead f).tenant).shards = (ten k (rxHead f).tenant).shards ∧
        (getChip t c).outbox = k.outbox ++ [doneTo k f (doneInfo stRange 0)])) ∧
  ∀ (m : Mem Byte) (a : Nat) (bs : List Byte), Memory.wf 0#8 m = true →
    Memory.wf 0#8 (memWrite 0#8 m a bs) = true ∧
    ∀ x, memGet 0#8 (memWrite 0#8 m a bs) x = if h : a ≤ x ∧ x - a < bs.length then bs[x - a]'h.2 else memGet 0#8 m x

/-- STASH_PUT of BF16 blocks within the ranges of R181 and R272, its task free to run: a RETRY of a block already written is answered DUP; a ZRL frame out of its token's order, and one that does not fit the site's reservation, is answered RANGE and stores nothing, the second counted; any
other stores its blocks encoded, answered OK with LAST. STASH_GET: a range with a block not written is answered RANGE with the first token that has one, any other, where no block is poisoned, with its blocks in ascending order. Neither touches another slot, a shard or HBM (R182,
R272, R276, R277, R278). Tasks that run whole and the counts of a run are log entries 10 and 42. -/
def Obligations.StashHoldsActivations : Prop :=
  (∀ (s : State) (c : Pos) (f : RxFrame) (k : Chip) (r : SiteRec) (old base new : Slot), ServedRequest s c f tyStashPut k →
    siteOf k (rxHead f).tenant (rxHead f).tensor = some r → (rxHead f).format = 0x01 → stashRangeOk r (rxHead f) = true →
    (rxHead f).count ≤ 8192 →
    RunsAtOnce k (frameTask k (stashKind r.codec 5) f (stashToken (rxHead f)) (rxHead f).count s.tray.now) →
    old = slotOf (ten k (rxHead f).tenant) (rxHead f).tensor (rxHead f).shard → base = freshSlot old (rxHead f) →
    new = storeBlocks r (stashBlocks r (rxHead f)) (putValues f) base →
    ∃ t, exec (.stashPut c f) s = .next t ∧ OnlyChip c s t ∧ TenantFrame (rxHead f).tenant k (getChip t c) ∧
      (ten (getChip t c) (rxHead f).tenant).shards = (ten k (rxHead f).tenant).shards ∧
      (∀ m n, (m, n) ≠ ((rxHead f).tensor, (rxHead f).shard) →
        slotOf (ten (getChip t c) (rxHead f).tenant) m n = slotOf (ten k (rxHead f).tenant) m n) ∧
      (hasFlag (rxHead f).flags flRetry = true → (stashBlocks r (rxHead f)).any (blockWritten old) = true →
        (slotOf (ten (getChip t c) (rxHead f).tenant) (rxHead f).tensor (rxHead f).shard).blocks = old.blocks ∧
        ∃ d, (getChip t c).outbox = k.outbox ++ [doneTo k f d] ∧ d.status = stDup ∧ d.duplicates = old.runDups + 1) ∧
      ((hasFlag (rxHead f).flags flRetry = false ∨ (stashBlocks r (rxHead f)).any (blockWritten old) = false) →
        (r.codec = 0x30 → zrlOrder base (stashToken (rxHead f)) (rxHead f).seq = false →
          slotOf (ten (getChip t c) (rxHead f).tenant) (rxHead f).tensor (rxHead f).shard = old ∧
          ∃ d, (getChip t c).outbox = k.outbox ++ [doneTo k f d] ∧ d.status = stRange) ∧
        ((r.codec ≠ 0x30 ∨ zrlOrder base (stashToken (rxHead f)) (rxHead f).seq = true) →
          (slotFits (ten k (rxHead f).tenant) r old new = false →
            slotOf (ten (getChip t c) (rxHead f).tenant) (rxHead f).tensor (rxHead f).shard = old ∧
            (∃ d, (getChip t c).outbox = k.outbox ++ [doneTo k f d] ∧ d.status = stRange) ∧
            tabGet 0 (ten (getChip t c) (rxHead f).tenant).counters 31 = satAdd64 (tabGet 0 (ten k (rxHead f).tenant).counters 31) 1) ∧
          (slotFits (ten k (rxHead f).tenant) r old new = true →
            (slotOf (ten (getChip t c) (rxHead f).tenant) (rxHead f).tensor (rxHead f).shard).blocks = new.blocks ∧
            (hasFlag (rxHead f).flags flLast = false → (getChip t c).outbox = k.outbox) ∧
            (hasFlag (rxHead f).flags flLast = true → ∃ d, (getChip t c).outbox = k.outbox ++ [doneTo k f d] ∧ d.status = stOk))))) ∧
  (∀ (r : SiteRec) (l : Slot) (b : Nat × Nat) (v : List (BitVec 16)), r.codec ≠ 0x30 →
    tabFind (storeBlocks r [b] [v] l).blocks b = some (stashEncode r.codec v) ∧
    ∀ b', b' ≠ b → tabFind (storeBlocks r [b] [v] l).blocks b' = tabFind l.blocks b') ∧
  ∀ (s : State) (c : Pos) (f : RxFrame) (k : Chip) (r : SiteRec) (l : Slot) (runs : List (Nat × Nat)), ServedRequest s c f tyStashGet k →
    siteOf k (rxHead f).tenant (rxHead f).tensor = some r → stashFormat r.codec (rxHead f).format = true → stashRangeOk r (rxHead f) = true →
    RunsAtOnce k (frameTask k (stashKind r.codec 8) f (stashToken (rxHead f)) (rxHead f).count s.tray.now) →
    l = slotOf (ten k (rxHead f).tenant) (rxHead f).tensor (rxHead f).shard →
    runs = cutRange (rxHead f).count (blocksPerFrame (rxHead f).format) (stashStart r (rxHead f)) ((rxHead f).count / 32) →
    (∀ p ∈ runs, slotPoison l (runBlocks r p) = none) →
    ∃ t, exec (.stashGet c f) s = .next t ∧ OnlyChip c s t ∧ TenantFrame (rxHead f).tenant k (getChip t c) ∧
      (ten (getChip t c) (rxHead f).tenant).slots = (ten k (rxHead f).tenant).slots ∧
      (ten (getChip t c) (rxHead f).tenant).shards = (ten k (rxHead f).tenant).shards ∧
      ((∀ b ∈ stashBlocks r (rxHead f), blockWritten l b = true) → (getChip t c).outbox = k.outbox ++ stashReplies k f r l runs) ∧
      ∀ b, (stashBlocks r (rxHead f)).find? (fun b => !blockWritten l b) = some b →
        (getChip t c).outbox = k.outbox ++ [doneTo k f (doneInfo stRange b.1)]

/-! ## Contributions -/

/-- A GRAD at its home and a REDUCE that brings one there, accepted on time by Table 10-1, are added element by element, once, to the step's accumulator, and set the arrival bit of their slot (R193, R195, R199); a GRAD
for a shard homed elsewhere goes there as REDUCE with its origin kept and AUX 0 (R4, R173, R189), and a whole-tensor GRAD goes to the home of each shard it touches as one piece (R197). Each element is added with one binary32 addition, and elements
outside the frame stay. Tasks that run whole and room for accumulators are log entries 10 and 31. -/
def Obligations.GradientsAreAdded : Prop :=
  (∀ (s : State) (c : Pos) (f : RxFrame) (k k₁ : Chip) (i : ShardInfo), ServedRequest s c f tyGrad k → AcceptedOnTime k k₁ s.tray.now f i →
    ∃ t, exec (.grad c f) s = .next t ∧ OnlyChip c s t ∧ ValuesAdded k₁ (getChip t c) f i) ∧
  (∀ (s : State) (c : Pos) (f : RxFrame) (k k₁ : Chip) (i : ShardInfo), ServedFrame s c f tyReduce k → AcceptedOnTime k k₁ s.tray.now f i →
    ∃ t, exec (.reduce c f) s = .next t ∧ OnlyChip c s t ∧ ValuesAdded k₁ (getChip t c) f i) ∧
  (∀ (s : State) (c : Pos) (f : RxFrame) (k : Chip) (i : ShardInfo) (home : Nat), ServedRequest s c f tyGrad k →
    paramTensor k (rxHead f).tenant (rxHead f).tensor = some (i.tensor, i.group) → gradFormat (rxHead f).format = true →
    (rxHead f).source < i.group.expected → (rxHead f).shard ≠ 0xFFFF →
    shardInfo k (rxHead f).tenant (rxHead f).tensor (rxHead f).shard = some i → gradRange i.n (rxHead f) = true →
    homeOf k (rxHead f).tenant (rxHead f).tensor (rxHead f).shard = some home → home ≠ chipNo k →
    exec (.grad c f) s = .next (setChip s c { k with outbox := k.outbox ++
      [{ frame := mkFrame { rxHead f with type := tyReduce, vc := 2, aux := 0, dest := home, flags := reduceFlags (rxHead f) false false } f.frame.payload,
         vc := 2#2, route := newPrefix (originOf k f).1.toNat (originOf k f).2.toNat home 0x3F }] })) ∧
  (∀ (s : State) (c : Pos) (f : RxFrame) (k : Chip) (r : TensorRec) (g : GroupRec), ServedRequest s c f tyGrad k →
    paramTensor k (rxHead f).tenant (rxHead f).tensor = some (r, g) → gradFormat (rxHead f).format = true →
    (rxHead f).source < g.expected → (rxHead f).shard = 0xFFFF → g.rule ≠ 7 → tensorElems r ≤ 4294967296 →
    gradRange (tensorElems r) (rxHead f) = true → RunsAtOnce k (frameTask k 1 f (rxHead f).offset (rxHead f).count s.tray.now) →
    ∃ t, exec (.grad c f) s = .next t ∧ OnlyChip c s t ∧ TenantFrame (rxHead f).tenant k (getChip t c) ∧
      (ten (getChip t c) (rxHead f).tenant).shards = (ten k (rxHead f).tenant).shards ∧
      (getChip t c).outbox = k.outbox ++
        (pieces (shardStride g.rule r) (rxHead f).count (rxHead f).offset 0 (rxHead f).count).map (fun p =>
          (fun w => { frame := mkFrame { rxHead f with type := tyReduce, vc := 2, aux := 0, shard := p.1, offset := p.2.1, count := p.2.2.1, dest := homeChip (torusOf k).1 (torusOf k).2 r p.1, flags := reduceFlags (rxHead f) true (decide (p.2.2.2 + p.2.2.1 = (rxHead f).count)) } (sliceBytes f.frame.payload (p.2.2.2 * w) (p.2.2.1 * w)), vc := 2#2, route := newPrefix (originOf k f).1.toNat (originOf k f).2.toNat (homeChip (torusOf k).1 (torusOf k).2 r p.1) 0x3F })
            (if (rxHead f).format = 0 then 4 else 2))) ∧
  ∀ (i : ShardInfo) (o : Nat) (vs : List Word) (m : Mem Word), i.group.rule ≠ 7 → Memory.wf 0#32 m = true →
    Memory.wf 0#32 (addValues i [] o vs m) = true ∧
    ∀ a, memGet 0#32 (addValues i [] o vs m) a =
      if h : o ≤ a ∧ a - o < vs.length then f32Add (memGet 0#32 m a) (vs[a - o]'h.2) else memGet 0#32 m a

/-- INDEX: a frame in sequence, on time, adds its rows to its source's row list, and the LAST one completes the list and is answered (R230). LEDGER_COLLISION_RETRY: a frame whose
arrival bit's write collides is counted and stays; at the ninth collision in succession its acceptance ends with 0x44, counted, the frame taken and answered ABORTED with DETAIL 0x44 where it replies at all, no shard changed, so that a copy meets the same outcome as
it would have; a retry that does not collide is taken as the frame's own command (R300, R301). Whether a write collides is an operand (log entry 37). -/
def Obligations.RowListsAndCollisions : Prop :=
  (∀ (s : State) (c : Pos) (f : RxFrame) (k : Chip) (i : ShardInfo), ServedRequest s c f tyIndex k →
    paramTensor k (rxHead f).tenant (rxHead f).tensor = some (i.tensor, i.group) → i.group.rule = 7 →
    (rxHead f).source < i.group.expected → (rxHead f).count ≤ 4096 →
    shardInfo k (rxHead f).tenant (rxHead f).tensor (rxHead f).shard = some i →
    homeOf k (rxHead f).tenant (rxHead f).tensor (rxHead f).shard = some (chipNo k) →
    beyondResolved (ten k (rxHead f).tenant) (rxHead f).step 2 = false →
    (shardOf (ten k (rxHead f).tenant) (rxHead f).tensor (rxHead f).shard).fill = .filled →
    shardLate i (ten k (rxHead f).tenant) (rxHead f).tensor (rxHead f).shard (rxHead f).step = false →
    ∀ src, src = sourceOf (stepOf (shardOf (ten k (rxHead f).tenant) (rxHead f).tensor (rxHead f).shard) (rxHead f).step) (rxHead f).source →
    src.indexSeqs.contains (rxHead f).seq = false → (rxHead f).seq = src.indexSeqs.length → src.indexDone = false →
    rowsOk (i.n / rowElems i.tensor) src.rows.getLast? (indexRows f) = true →
    ∃ t, exec (.index c f) s = .next t ∧ OnlyChip c s t ∧ TenantFrame (rxHead f).tenant k (getChip t c) ∧
      sourceOf (stepOf (shardOf (ten (getChip t c) (rxHead f).tenant) (rxHead f).tensor (rxHead f).shard) (rxHead f).step) (rxHead f).source =
        { src with rows := src.rows ++ indexRows f, indexSeqs := src.indexSeqs ++ [(rxHead f).seq], indexDone := hasFlag (rxHead f).flags flLast } ∧
      (∀ m n, (shardOf (ten (getChip t c) (rxHead f).tenant) m n).arrays = (shardOf (ten k (rxHead f).tenant) m n).arrays) ∧
      (hasFlag (rxHead f).flags flLast = false → (getChip t c).outbox = k.outbox) ∧
      (hasFlag (rxHead f).flags flLast = true → ∃ d, (getChip t c).outbox = k.outbox ++ [doneTo k f d] ∧ d.status = stOk ∧
        d.frames = src.indexSeqs.length + 1)) ∧
  (∀ (s : State) (c : Pos) (f : RxFrame), linksOn (getChip s c) = true → writesBit (getChip s c) f = true →
    tabGet 0 (getChip s c).collisions f < 8 →
    exec (.ledgerCollisionRetry c f true) s = .next (setChip s c
      { countDev (getChip s c) 145 1 with collisions := tabSet (getChip s c).collisions f (tabGet 0 (getChip s c).collisions f + 1) })) ∧
  (∀ (s : State) (c : Pos) (f : RxFrame), linksOn (getChip s c) = true → writesBit (getChip s c) f = true →
    tabGet 0 (getChip s c).collisions f = 8 →
    ∃ t, exec (.ledgerCollisionRetry c f true) s = .next t ∧ OnlyChip c s t ∧
      tabGet 0 (getChip t c).occurrences 0x44 = tabGet 0 (getChip s c).occurrences 0x44 + 1 ∧
      tabGet 0 (getChip t c).counters 145 = satAdd64 (tabGet 0 (getChip s c).counters 145) 1 ∧
      (∀ n, (ten (getChip t c) n).shards = (ten (getChip s c) n).shards) ∧
      (∀ i, homeOutcome (getChip t c) i f = homeOutcome (getChip s c) i f) ∧
      (getChip t c).inbox = (getChip s c).inbox.erase f ∧
      (isSilent f (isPiece f) = false → ∃ d, (getChip t c).outbox = (getChip s c).outbox ++ [doneTo (getChip s c) f d] ∧
        d.status = stAborted ∧ d.detail = 0x44)) ∧
  ∀ (s : State) (c : Pos) (f : RxFrame),
    ((rxHead f).type = tyGrad → exec (.ledgerCollisionRetry c f false) s = exec (.grad c f) s) ∧
    ((rxHead f).type = tyReduce → exec (.ledgerCollisionRetry c f false) s = exec (.reduce c f) s)

/-! ## Steps -/

/-- SHARD_DEADLINE: a running deadline expires while no pool of the tenant is full, the frames that had arrived by then noted; below quorum with none of those, outside Autumn, the shard waits with no deadline and the verdict timer of its step runs; every other tenant stays
(R203, R204, R205, R366). SHARD_CLOSE: while an accepted frame is still to be added it does nothing; once the closing instant has come, with the CLOSE tasks run or free to run, it closes the shard with exactly the contributors that have arrived, sends the SHARD_VERDICT with what it
found to the step root at once, and only queues the shard's update (R12, R189, R205, R210). CLOSE tasks that run whole are log entry 10, the instant of the close log entry 38. -/
def Obligations.ShardsClose : Prop :=
  (∀ (s : State) (c : Pos) (r : ShardStepRef) (i : ShardInfo) (p q : ShardStep) (w : List RxFrame),
    shardInfo (getChip s c) r.tenant.val r.tensor r.shard = some i →
    coreRuns (getChip s c) = true → tenantPoolFull (getChip s c) r.tenant.val = false →
    p = stepOf (shardOf (ten (getChip s c) r.tenant.val) r.tensor r.shard) r.step → p.deadline = .running → p.closed = false →
    closeDue i r.shard p = false → w = waitingGrads (getChip s c) r.tenant.val r.tensor r.shard r.step →
    q = { p with deadline := .expired, timely := w, autumnDue := decide ((getChip s c).wake.season = .autumn) } →
    ∃ t, exec (.shardDeadline c r) s = .next t ∧ OnlyChip c s t ∧ TenantFrame r.tenant.val (getChip s c) (getChip t c) ∧
      (getChip t c).outbox = (getChip s c).outbox ∧
      ((w ≠ [] ∨ quorumOf i.group ≤ (arrivedSources i r.shard p).length ∨ (getChip s c).wake.season = .autumn) →
        stepOf (shardOf (ten (getChip t c) r.tenant.val) r.tensor r.shard) r.step = q) ∧
      (w = [] → (arrivedSources i r.shard p).length < quorumOf i.group → (getChip s c).wake.season ≠ .autumn → p.waited = false →
        stepOf (shardOf (ten (getChip t c) r.tenant.val) r.tensor r.shard) r.step = { q with waited := true } ∧
        (stepRec (ten (getChip t c) r.tenant.val) r.step).timer ≠ .idle)) ∧
  (∀ (s : State) (c : Pos) (r : ShardStepRef), addsWait (getChip s c) r.tenant.val r.tensor r.shard r.step = true →
    exec (.shardClose c r) s = .next s) ∧
  ∀ (s : State) (c : Pos) (r : ShardStepRef) (i : ShardInfo) (k : Chip) (p : ShardStep) (us : List Task), k = getChip s c →
    shardInfo k r.tenant.val r.tensor r.shard = some i → coreRuns k = true →
    p = stepOf (shardOf (ten k r.tenant.val) r.tensor r.shard) r.step → p.closed = false →
    resolvedBy (ten k r.tenant.val) r.step = false → anyAccepted p = true → addsWait k r.tenant.val r.tensor r.shard r.step = false →
    us = closeTasks k s.tray.now i r.tenant.val r.tensor r.shard r.step →
    ((p.closing = true ∧ closeRuns k r.tenant.val r.tensor r.shard r.step = false) ∨
      (p.closing = false ∧ closeDue i r.shard p = true ∧ slotsWhere k (fun b => us.any (taskSlot b)) = [] ∧ (closeAll us k).isSome = true)) →
    ∃ t r', exec (.shardClose c r) s = .next t ∧ OnlyChip c s t ∧
      r' = stepOf (shardOf (ten (getChip t c) r.tenant.val) r.tensor r.shard) r.step ∧
      r'.closed = true ∧ r'.included = arrivedSources i r.shard p ∧
      r'.below = decide ((arrivedSources i r.shard p).length < quorumOf i.group) ∧ r'.acc = p.acc ∧ r'.update = .running ∧
      (p.accPoison = true → r'.nonfinite = true) ∧
      chipTo k (stepRootOf k r.tenant.val) { chipHdr tyShardVerdict r.tenant.val 0 (stepRootOf k r.tenant.val) with
          tensor := r.tensor, shard := r.shard, step := r.step, flags := if r'.nonfinite then flNonfinite else 0 }
        (verdictPayload r'.nonfinite r'.below r'.included r'.norm2 r'.amax) ∈ (getChip t c).outbox ∧
      (∀ n, n ≠ r.tenant.val → ten (getChip t c) n = ten k n) ∧ (getChip t c).wake = k.wake ∧ (getChip t c).ports = k.ports

/-! ## Steps, their verdicts and their ends -/

/-- SHARD_VERDICT at the step root of tenant t, for a shard of the catalogue not yet counted in the step, adds 1 to object 16 + 2t + (s mod 2), whose T
is t's shard count and on which the device waits; when C then equals T the step is decided by Table 10-2 (R212), C goes to 0 and VERDICT goes to every chip that homes a shard of t; one already counted for
the step, or of a step that is decided, is dropped and counted (R349). VERDICT at a home is recorded with its factor and exponent, its timer ended (R190, R368). A VERDICT on a shard whose stage is over (Table 12-1): a commit
makes the pending bytes committed state, a roll back keeps that state. UPDATE_STAGE_END, all tiles done: the stage stands ended with its committed arrays as they were, and the step is settled, which changes nothing while no VERDICT of it or the
next step is known. COMMIT_BARRIER, every ARRIVE in: the step is resolved, and committed unless it rolled back (R348). When the step before is over is log entry 15. -/
def Obligations.StepsAreDecidedAndCommitted : Prop :=
  (∀ (s : State) (c : Pos) (f : RxFrame) (k : Chip) (cat : Catalogue) (g : Gather) (n : Nat) (o : SyncObj), ServedFrame s c f tyShardVerdict k →
    catOf k (rxHead f).tenant = some cat → stepRootOf k (rxHead f).tenant = chipNo k →
    (homeOf k (rxHead f).tenant (rxHead f).tensor (rxHead f).shard).isSome = true →
    gatherOver (ten k (rxHead f).tenant) (rxHead f).step = false →
    tabFind (tabGet Gather.reset (ten k (rxHead f).tenant).gathers (rxHead f).step).verdicts ((rxHead f).tensor, (rxHead f).shard) = none →
    g = { tabGet Gather.reset (ten k (rxHead f).tenant).gathers (rxHead f).step with
      verdicts := tabSet (tabGet Gather.reset (ten k (rxHead f).tenant).gathers (rxHead f).step).verdicts
        ((rxHead f).tensor, (rxHead f).shard) (shardVerdictOf f.frame.payload), timer := .running } →
    n = 16 + 2 * (rxHead f).tenant + (rxHead f).step % 2 → o = syncObj k n →
    ∃ t, exec (.shardVerdict c f) s = .next t ∧ OnlyChip c s t ∧ TenantFrame (rxHead f).tenant k (getChip t c) ∧
      (ten (getChip t c) (rxHead f).tenant).shards = (ten k (rxHead f).tenant).shards ∧
      (∀ m, m ≠ n → syncObj (getChip t c) m = syncObj k m) ∧
      (o.c + 1#32 ≠ BitVec.ofNat 32 (allShards cat).length →
        syncObj (getChip t c) n = { o with c := o.c + 1#32, t := BitVec.ofNat 32 (allShards cat).length, device := true } ∧
        tabGet Gather.reset (ten (getChip t c) (rxHead f).tenant).gathers (rxHead f).step = g ∧ (getChip t c).outbox = k.outbox) ∧
      (o.c + 1#32 = BitVec.ofNat 32 (allShards cat).length →
        (syncObj (getChip t c) n).c = 0#32 ∧
        tabGet Gather.reset (ten (getChip t c) (rxHead f).tenant).gathers (rxHead f).step = { g with timer := .idle, decided := true } ∧
        ∀ (r : TenantRec) (d : Decision) (e : Int × Nat), tenantRec k (rxHead f).tenant = some r →
          d = decideStep cat r.globalClip (stepExponent k (rxHead f).tenant (rxHead f).step) (gatheredOf cat g) →
          e = nextScale r.cleanSteps d.row (ten k (rxHead f).tenant).rootExp (ten k (rxHead f).tenant).rootClean →
          (ten (getChip t c) (rxHead f).tenant).rootExp = e.1 ∧ (ten (getChip t c) (rxHead f).tenant).rootClean = e.2 ∧
          (getChip t c).outbox = k.outbox ++ (homesOf k (rxHead f).tenant).map (fun h =>
            chipTo k h { chipHdr tyVerdict (rxHead f).tenant 0 h with step := (rxHead f).step, aux := d.aux } (verdictBytes d e.1)))) ∧
  (∀ (s : State) (c : Pos) (f : RxFrame) (k : Chip) (cat : Catalogue), ServedFrame s c f tyShardVerdict k →
    catOf k (rxHead f).tenant = some cat → stepRootOf k (rxHead f).tenant = chipNo k →
    (homeOf k (rxHead f).tenant (rxHead f).tensor (rxHead f).shard).isSome = true →
    (gatherOver (ten k (rxHead f).tenant) (rxHead f).step = true ∨
      (tabFind (tabGet Gather.reset (ten k (rxHead f).tenant).gathers (rxHead f).step).verdicts ((rxHead f).tensor, (rxHead f).shard)).isSome = true) →
    exec (.shardVerdict c f) s = .next (setChip s c (countTen k (rxHead f).tenant 33 1))) ∧
  (∀ (s : State) (c : Pos) (f : RxFrame) (k : Chip), ServedFrame s c f tyVerdict k → (rxHead f).aux ≤ 3 →
    resolvedBy (ten k (rxHead f).tenant) (rxHead f).step = false → (stepRec (ten k (rxHead f).tenant) (rxHead f).step).verdict = none →
    ∃ t v, exec (.verdict c f) s = .next t ∧ OnlyChip c s t ∧ ShardFrame (rxHead f).tenant (fun _ _ => False) k (getChip t c) ∧
      (stepRec (ten (getChip t c) (rxHead f).tenant) (rxHead f).step).verdict = some v ∧ v.aux = (rxHead f).aux ∧
      v.factor = BitVec.ofNat 32 (fieldAt f.frame.payload 0 4) ∧ v.lsExp = signedOf 16 (fieldAt f.frame.payload 4 2) ∧
      v.tensors = (if (rxHead f).aux = 3 then verdictTensors f.frame.payload else []) ∧
      (stepRec (ten (getChip t c) (rxHead f).tenant) (rxHead f).step).timer = .idle ∧
      (ten (getChip t c) (rxHead f).tenant).lsExp = signedOf 16 (fieldAt f.frame.payload 4 2)) ∧
  (∀ (k : Chip) (t tensor shard step : Nat) (v : VerdictRec) (a : ArrayInfo) (h : Shard) (r : ShardStep) (h' : Shard),
    (stepRec (ten k t) step).verdict = some v → arrayInfoOf k t tensor shard = some a → h = shardOf (ten k t) tensor shard → r = stepOf h step →
    r.applied = false → prevOver (ten k t) step = true → stageStill k t tensor shard step = true →
    h' = shardOf (ten (applyShard k t tensor shard step) t) tensor shard →
    (r.update = .ended → (v.aux = 0 ∨ (v.aux = 2 ∧ (a.group.global = false ∨ r.direct = true)) ∨ (v.aux = 3 ∧ v.tensors.contains tensor = false)) →
      (∀ n, n < 4 → arrayMem h' n = mergeBytes (arrayMem h n) (pendMem r n)) ∧ h'.stateStep = step ∧ (stepOf h' step).applied = true ∧
        (stepOf h' step).pend = []) ∧
    ((v.aux = 1 ∨ (v.aux = 3 ∧ v.tensors.contains tensor = true)) →
      h'.arrays = h.arrays ∧ h'.stateStep = h.stateStep ∧ (stepOf h' step).rolledBack = true ∧ (stepOf h' step).applied = true ∧
        (stepOf h' step).pend = [])) ∧
  (∀ (s : State) (c : Pos) (r : ShardStepRef) (i : ShardInfo) (k k' : Chip), k = getChip s c →
    shardInfo k r.tenant.val r.tensor r.shard = some i → coreRuns k = true → stageDone k r.tenant.val r.tensor r.shard r.step i = true →
    k' = modTen (finishUpdate k r.tenant.val r.tensor r.shard r.step i) r.tenant.val (fun x =>
      modShardStep x r.tensor r.shard r.step (fun p => { p with update := .ended })) →
    exec (.updateStageEnd c r) s = .next (setChip s c (settle2 r.tenant.val r.step k')) ∧
      (stepOf (shardOf (ten k' r.tenant.val) r.tensor r.shard) r.step).update = .ended ∧
      (∀ m n, (shardOf (ten k' r.tenant.val) m n).arrays = (shardOf (ten k r.tenant.val) m n).arrays) ∧
      TenantFrame r.tenant.val k k' ∧ k'.outbox = k.outbox ∧
      ((stepRec (ten k r.tenant.val) r.step).verdict = none → (stepRec (ten k r.tenant.val) (r.step + 1)).verdict = none →
        settle2 r.tenant.val r.step k' = k')) ∧
  ∀ (s : State) (c : Pos) (t : Tenant) (step : Nat) (v : VerdictRec) (k : Chip), k = arrive (getChip s c) t.val step → coreRuns k = true →
    barrierDone k t.val step = true → (stepRec (ten k t.val) step).verdict = some v →
    ∃ u, exec (.commitBarrier c t step) s = .next u ∧ OnlyChip c s u ∧
      (ten (getChip u c) t.val).resolved = some (match (ten k t.val).resolved with | some n => max n step | none => step) ∧
      (v.aux = 1 → (ten (getChip u c) t.val).committed = (ten k t.val).committed) ∧
      (v.aux ≠ 1 → (ten (getChip u c) t.val).committed = some (match (ten k t.val).committed with | some n => max n step | none => step))

/-- VERDICT_TIMEOUT, the verdict timer of a step run out with no VERDICT known, GATHER_TIMEOUT, its gather timer run out, and TENANT_DOWN, for a tenant with no fault and no reset, raise 0x83, 0x84 and 0x85 at the tenant on this chip (R136,
R366, R367): it is faulted with the code, which is counted, its steps and gathers in flight are gone, its committed arrays and step number stay, and, where it holds its own PULLs only, no other tenant changes (R131). A TENANT_DOWN that finds the tenant faulted is only counted,
as is one after a reset until the first INIT (R136, R137). One that finds a reset under way is log entry 67. -/
def Obligations.TenantLevelCodesFaultOneTenant : Prop :=
  (∀ (s : State) (c : Pos) (t : Tenant) (step : Nat), coreRuns (getChip s c) = true →
    (stepRec (ten (getChip s c) t.val) step).timer = .running → (stepRec (ten (getChip s c) t.val) step).verdict = none →
    exec (.verdictTimeout c t step) s = .next (setChip s c (tenantFault (getChip s c) t.val 0x83))) ∧
  (∀ (s : State) (c : Pos) (t : Tenant) (step : Nat), coreRuns (getChip s c) = true →
    (tabGet Gather.reset (ten (getChip s c) t.val).gathers step).timer = .running →
    exec (.gatherTimeout c t step) s = .next (setChip s c (tenantFault (getChip s c) t.val 0x84))) ∧
  (∀ (s : State) (c : Pos) (f : RxFrame) (k : Chip) (r : Prefix), k = consume (getChip s c) f → linksOn (getChip s c) = true →
    waitsBehind (getChip s c) f = false → (rxHead f).type = tyTenantDown → f.route = some r → r.targetChip.toNat = chipNo k →
    chipFrameOk f = true → tenantExists k (rxHead f).tenant = true → wipeCode k = none → stoppingFault k = none →
    (ten k (rxHead f).tenant).resetPhase = .none →
    ((ten k (rxHead f).tenant).wasReset = false → (ten k (rxHead f).tenant).fault = 0 →
      exec (.tenantDown c f) s = .next (setChip s c (tenantFault k (rxHead f).tenant 0x85))) ∧
    ((ten k (rxHead f).tenant).wasReset = false → (ten k (rxHead f).tenant).fault ≠ 0 →
      exec (.tenantDown c f) s = .next (setChip s c (countTen k (rxHead f).tenant 35 1))) ∧
    ((ten k (rxHead f).tenant).wasReset = true → exec (.tenantDown c f) s = .next (setChip s c (countTen k (rxHead f).tenant 32 1)))) ∧
  ∀ (k : Chip) (t code : Nat) (k' : Chip), (ten k t).fault = 0 → code ≠ 0 → (ten k t).resetPhase = .none → (ten k t).loaded = true →
    k' = tenantFault k t code →
    (ten k' t).fault = code ∧ (ten k' t).state = .faulted ∧ (ten k' t).steps = [] ∧ (ten k' t).gathers = [] ∧
    tabGet 0 k'.occurrences code = tabGet 0 k.occurrences code + 1 ∧ (ten k' t).committed = (ten k t).committed ∧
    (∀ m n, (shardOf (ten k' t) m n).arrays = (shardOf (ten k t) m n).arrays) ∧
    ((∀ f ∈ (ten k t).heldPulls, (rxHead f).tenant = t) → ∀ u, u ≠ t → ten k' u = ten k u)

/-! ## Sync objects (chapter 18) -/

/-- SYNC_OP with an operation code of Table 18-2 is applied once, whatever it is repeated: the object of the tenant's index takes the operation's effect, waiters whose condition then holds leave it, no other object changes, and
SYNC_ACK carries the counter as it stands; a repeat is only answered, and one for an index that the tenant does not have is dropped and counted (R341, R343, R344, R345). SYNC_ACK of the operation outstanding to its sender: with no other one waiting the stage that waits
for it may end, else the next one leaves, under its own number; one that names no operation outstanding changes nothing. What is counted and what stays outstanding is log entry 50. -/
def Obligations.SyncOperationsTakeEffectOnce : Prop :=
  (∀ (s : State) (c : Pos) (f : RxFrame) (k : Chip) (r : Prefix) (n : Nat), ServedFrame s c f tySyncOp k → f.route = some r →
    n = syncNumber k (rxHead f).tenant (fieldAt f.frame.payload 0 2) → (rxHead f).aux < 4 →
    (syncIndexOk k (rxHead f).tenant (fieldAt f.frame.payload 0 2) = false →
      exec (.syncOp c f) s = .next (setChip s c (countTen k (rxHead f).tenant 34 1))) ∧
    (syncIndexOk k (rxHead f).tenant (fieldAt f.frame.payload 0 2) = true →
      tabFind (ten k (rxHead f).tenant).syncRx r.originChip.toNat = some (rxHead f).seq →
      exec (.syncOp c f) s = .next (setChip s c { k with outbox := k.outbox ++
        [chipTo k r.originChip.toNat { rxHead f with version := 1, type := tySyncAck, vc := 0 }
          (sliceBytes f.frame.payload 0 2 ++ leBytes 2 0 ++ sliceBytes f.frame.payload 4 4 ++ bytesOf (syncObj k n).c 4 ++ leBytes 4 0)] })) ∧
    (syncIndexOk k (rxHead f).tenant (fieldAt f.frame.payload 0 2) = true →
      tabFind (ten k (rxHead f).tenant).syncRx r.originChip.toNat ≠ some (rxHead f).seq →
      ∃ t o, exec (.syncOp c f) s = .next t ∧ OnlyChip c s t ∧ TenantFrame (rxHead f).tenant k (getChip t c) ∧
        o = syncEffect (syncObj k n) (rxHead f).aux (BitVec.ofNat 32 (fieldAt f.frame.payload 4 4)) ∧
        (syncObj (getChip t c) n).c = o.c ∧ (syncObj (getChip t c) n).t = o.t ∧
        (∀ w, w ∈ (syncObj (getChip t c) n).waiters ↔ w ∈ (syncObj k n).waiters ∧ serialGe o.c w.2 = false) ∧
        (∀ m, m ≠ n → syncObj (getChip t c) m = syncObj k m) ∧
        tabFind (ten (getChip t c) (rxHead f).tenant).syncRx r.originChip.toNat = some (rxHead f).seq ∧
        (getChip t c).outbox = k.outbox ++ [chipTo k r.originChip.toNat { rxHead f with version := 1, type := tySyncAck, vc := 0 }
          (sliceBytes f.frame.payload 0 2 ++ leBytes 2 0 ++ sliceBytes f.frame.payload 4 4 ++ bytesOf o.c 4 ++ leBytes 4 0)])) ∧
  ∀ (s : State) (c : Pos) (f : RxFrame) (k : Chip) (r : Prefix) (x : SyncTx), ServedFrame s c f tySyncAck k →
    f.route = some r → x = syncTxOf (ten k (rxHead f).tenant) r.originChip.toNat →
    ((∀ j, x.outstanding ≠ some ((rxHead f).seq, j)) → exec (.syncAck c f) s = .next (setChip s c k)) ∧
    ∀ j, x.outstanding = some ((rxHead f).seq, j) →
      ∃ t, exec (.syncAck c f) s = .next t ∧ OnlyChip c s t ∧ TenantFrame (rxHead f).tenant k (getChip t c) ∧
        (getChip t c).sync = k.sync ∧
        (x.waiting = [] → syncTxOf (ten (getChip t c) (rxHead f).tenant) r.originChip.toNat = { x with outstanding := none } ∧
          (getChip t c).outbox = k.outbox ∧
          ∀ u, (clusterOf k j).run = some u → u.task.tenant = (rxHead f).tenant → u.waitFor = .ack r.originChip.toNat →
            (clusterOf (getChip t c) j).run = some { u with waitFor := .released }) ∧
        ∀ j' g rest, x.waiting = (j', g) :: rest → (getChip t c).outbox = k.outbox ++ [g] ∧
          syncTxOf (ten (getChip t c) (rxHead f).tenant) r.originChip.toNat =
            { x with outstanding := some ((parseHdr g.frame.hdr).seq, j'), waiting := rest }

/-! ## Tasks and stages on a cluster (chapter 19) -/

/-- TASK_START: on an idle cluster the task that deficit round-robin and the queue's order choose leaves the queue, counts as run and has its first stage to come, with L1 emptied where its size changes and the scratchpad zero after another tenant's task, or runs whole; beside a running task the
same tenant's next one takes its place for its prologue (R128, R295, R296, R329, R330). STAGE_START, inputs, output buffers and tokens there and no breakpoint in the way: the stage is under way with its count at 0; a LOAD, STORE, GATHER or SCATTER issues its streams, a SIGNAL on the own chip has its effect, and a WAIT whose
value is not reached joins its object's waiters (R323, R341, R353). STAGE_END of a stage that may end: the next one is to come, or, with the last and its stores accepted, the task's work is done; a step of one stage halts the cluster (R401). STAGE_BOUND_EXCEEDED: the task ends with 0x43, or with 0x80 or 0x81
where it waits for an object or an acknowledgement (R346, R360). A halted cluster does none of these (R400). Whole tasks and the arbiter are log entries 10, 21 to 24, 26 and 69. -/
def Obligations.TasksRunStageByStage : Prop :=
  (∀ (s : State) (c : Pos) (j : ClusterNo) (u : Task) (k : Chip) (x : Cluster) (q : Tab Nat Nat), k = getChip s c → x = clusterOf k j →
    coreRuns k = true → x.halted = false → x.run = none → tenantExists k u.tenant = true → nextTask k x u.tenant = some u →
    drrServe (cycleQuantum k) (fun n => tabGet 0 x.deficit n) (taskHeads k x) = some (u.tenant, q) →
    (startsWhole k x u = false → recipeFits k u.recipe = true →
      ∃ t, exec (.taskStart c j) s = .next t ∧ OnlyChip c s t ∧
        (clusterOf (getChip t c) j).run = some (freshRun k u false) ∧ (clusterOf (getChip t c) j).queue = x.queue.erase u ∧
        (clusterOf (getChip t c) j).lastL1 = u.l1 ∧ (clusterOf (getChip t c) j).lastTenant = some u.tenant ∧
        tabGet 0 (ten (getChip t c) u.tenant).counters 27 = satAdd64 (tabGet 0 (ten k u.tenant).counters 27) 1 ∧
        TenantFrame u.tenant k (getChip t c) ∧ (x.lastL1 = u.l1 → (clusterOf (getChip t c) j).l1 = x.l1) ∧
        (x.lastL1 ≠ u.l1 → (clusterOf (getChip t c) j).l1 = []) ∧
        (x.lastTenant = some u.tenant → (clusterOf (getChip t c) j).scratch = x.scratch) ∧
        (x.lastTenant ≠ some u.tenant → (clusterOf (getChip t c) j).scratch = [])) ∧
    (startsWhole k x u = true → (x.passed = true ∨ slotsWhere k (fun b => taskSlot b u) = []) → wholeFault k u = none →
      ∃ k', exec (.taskStart c j) s = .next (setChip s c (endWork k' u)) ∧ (clusterOf k' j).run = none ∧
        (clusterOf k' j).queue = x.queue.erase u ∧ (clusterOf k' j).completion = some { task := u, deadReuse := false } ∧
        tabGet 0 (ten k' u.tenant).counters 27 = satAdd64 (tabGet 0 (ten k u.tenant).counters 27) 1)) ∧
  (∀ (s : State) (c : Pos) (j : ClusterNo) (r : RunTask) (u : Task) (k : Chip) (x : Cluster), k = getChip s c → x = clusterOf k j →
    coreRuns k = true → x.halted = false → x.run = some r → nextTask k x r.task.tenant = some u → mayPrologue k x r u = true →
    ∃ t, exec (.taskStart c j) s = .next t ∧ OnlyChip c s t ∧ TenantFrame u.tenant k (getChip t c) ∧
      (clusterOf (getChip t c) j).run = some r ∧ (clusterOf (getChip t c) j).next = some (freshRun k u true) ∧
      (clusterOf (getChip t c) j).queue = x.queue.erase u) ∧
  (∀ (s : State) (c : Pos) (j : ClusterNo), (clusterOf (getChip s c) j).halted = true →
    exec (.taskStart c j) s = .next s ∧ exec (.stageStart c j) s = .next s ∧ exec (.stageEnd c j) s = .next s ∧
    exec (.stageBoundExceeded c j) s = .next s) ∧
  (∀ (s : State) (c : Pos) (j : ClusterNo) (k : Chip) (x : Cluster) (u u₁ : RunTask) (g : StageRec) (ins : List StageIn) (n : Nat) (v : BitVec 32),
    k = getChip s c → x = clusterOf k j → coreRuns k = true → x.halted = false → x.run = some u → x.next = none → u.active = false →
    stageAt k u.task.recipe u.stage = some g → takeIns k (if isRange g.code then [] else g.ins) u = some (ins, u₁) →
    stageReady k x u₁ g = true → stageHits k x u = [] → (isCompute g.code = true → usedPoison k u.task g.code ins = 0) →
    (isRange g.code = true → ∀ d, descAt k u.task (g.ins.headD 0xFF) = some d → (rangeOf k u₁ d).1 = none) →
    (0x12 ≤ g.code → syncIndexOk k u.task.tenant g.sync = true) → n = syncNumber k u.task.tenant g.sync → v = BitVec.ofNat 32 g.operand →
    ∃ t u', exec (.stageStart c j) s = .next t ∧ OnlyChip c s t ∧ (clusterOf (getChip t c) j).run = some u' ∧ u'.active = true ∧
      u'.stage = u.stage ∧ u'.count = 0 ∧ u'.task = u.task ∧
      (isCompute g.code = false → isRange g.code = false → TenantFrame u.task.tenant k (getChip t c)) ∧
      (g.code ≤ 0x04 → ∀ i d, i ∈ issuedBy g → descAt k u.task i = some d →
        ∃ m, streamAt u' i = some { freshStream k u.task d with stamp := m }) ∧
      (g.code = 0x12 → isRemote k g = false →
        (syncObj (getChip t c) n).c = (syncEffect (syncObj k n) g.arg v).c ∧ (syncObj (getChip t c) n).t = (syncEffect (syncObj k n) g.arg v).t) ∧
      (g.code = 0x13 → serialGe (syncObj k n).c v = false →
        u'.waitFor = .reach n v ∧ syncObj (getChip t c) n = { syncObj k n with waiters := (syncObj k n).waiters ++ [(j, v)] }) ∧
      (g.code = 0x13 → serialGe (syncObj k n).c v = true → u'.waitFor = .released ∧ (getChip t c).sync = k.sync)) ∧
  (∀ (s : State) (c : Pos) (j : ClusterNo) (k : Chip) (x : Cluster) (u : RunTask), k = getChip s c → x = clusterOf k j → coreRuns k = true →
    x.halted = false → x.run = some u → u.active = true → stageOverNow k x u = true →
    (u.stage + 1 < stageCount k u.task.recipe →
      ∃ t u', exec (.stageEnd c j) s = .next t ∧ OnlyChip c s t ∧ (getChip t c).tenants = k.tenants ∧ (getChip t c).hbm = k.hbm ∧
        (clusterOf (getChip t c) j).run = some u' ∧ u'.active = false ∧ u'.stage = u.stage + 1 ∧ u'.count = 0 ∧ u'.task = u.task ∧
        (clusterOf (getChip t c) j).halted = decide (x.stepMode = .stage)) ∧
    (stageCount k u.task.recipe ≤ u.stage + 1 → isDrained k (releaseIns (pushOuts k u)) = true →
      ∃ k', exec (.stageEnd c j) s = .next (setChip s c
          (if u.task.kind = 12 then settle2 u.task.tenant u.task.step (noteTile k' u.task) else endWork k' u.task)) ∧
        k'.tenants = k.tenants ∧ k'.hbm = k.hbm ∧ (clusterOf k' j).run = x.next.map (fun n => { n with prologueOnly := false }) ∧
        (clusterOf k' j).next = none ∧ (clusterOf k' j).completion = some { task := u.task, deadReuse := u.deadReuse } ∧
        (clusterOf k' j).halted = decide (x.stepMode = .stage))) ∧
  ∀ (s : State) (c : Pos) (j : ClusterNo) (k : Chip) (x : Cluster) (u : RunTask) (k' : Chip), k = getChip s c → x = clusterOf k j →
    coreRuns k = true → x.halted = false → x.run = some u → overBound k u = true → k' = faultAt k j false (boundFault u) →
    exec (.stageBoundExceeded c j) s = .next (setChip s c k') ∧
    (u.waitFor = .nothing → boundFault u = 0x43) ∧ (∀ n v, u.waitFor = .reach n v → boundFault u = 0x80) ∧
    (∀ n, u.waitFor = .ack n → boundFault u = 0x81) ∧
    (x.next = none → (clusterOf k' j).run = none) ∧
    tabGet 0 k'.occurrences (boundFault u) = tabGet 0 k.occurrences (boundFault u) + 1

/-- STREAM_REQUEST_ISSUE: a load stream of the running task whose next request has its buffer, slot, tokens and miss registers issues it and pays for its lines; a store stream issues the next request of its
buffer, or of the one at the head of its queue, and pays for its bytes; with nothing to issue for the descriptor, the oldest transfer on the short path that is not outstanding is issued (R319, R320, R326, R327). READ_DATA_RETURN: the oldest read of a stream completes in order, scratchpad data as the scratchpad
holds them (R318, R322). WRITE_ACCEPT: the oldest write to the scratchpad leaves its buffer and stands there; the oldest outstanding short transfer is done (R320, R328). LINE_FILL: the slice's miss is over, and a region's line that its slice has a free way for stands there as HBM holds it (R313). DEAD_LINE_INVALIDATE: a line
whose last use under a dead hint is complete goes without a write-back (R310). ECC_UNCORRECTABLE poisons a region's slice line, a line of HBM that only its own place uses, a scratchpad word and an accumulator where it strikes, the first, second and last counted (R317, Table 16-6). The
order of completion is log entry 18, dead lines log entry 45, the short path log entry 53. -/
def Obligations.StreamsMoveTheirBytes : Prop :=
  (∀ (s : State) (c : Pos) (j : ClusterNo) (i : Fin 32) (k : Chip) (x : Cluster) (u : RunTask) (d : DescRec) (w : Stream) (p n : Nat) (l : List Nat),
    k = getChip s c → x = clusterOf k j → coreRuns k = true → x.halted = false → x.run = some u → descAt k u.task i.val = some d → d.op = 0 →
    keepsBack k u = false → isStalled k u.task = false → streamAt u i.val = some w → nextRequest k u d w = (p, n) → n ≠ 0 →
    (w.issued % d.buffer ≠ 0 ∨ (freeSlot k x = true ∧ freeBuffer k x u d w = true)) → l = bytesAt k u d p n →
    addressFault k u.task d l = none → 20480 * (linesOf l).length ≤ x.readTokens →
    registersFree x (((needsOf k u.task d l).filter (l1Miss x)).map (·.line)) = true →
    ∃ t u' w', exec (.streamRequestIssue c j i) s = .next t ∧ OnlyChip c s t ∧ (getChip t c).tenants = k.tenants ∧ (getChip t c).hbm = k.hbm ∧
      (clusterOf (getChip t c) j).run = some u' ∧ streamAt u' i.val = some w' ∧ w'.issued = w.issued + n ∧ w'.completed = w.completed ∧
      w'.inFlight.length = w.inFlight.length + 1 ∧
      (clusterOf (getChip t c) j).readTokens = x.readTokens - 20480 * (linesOf l).length) ∧
  (∀ (s : State) (c : Pos) (j : ClusterNo) (i : Fin 32) (k : Chip) (x : Cluster) (u u₁ : RunTask) (d : DescRec) (w : Stream) (p n : Nat) (l : List Nat),
    k = getChip s c → x = clusterOf k j → coreRuns k = true → x.halted = false → x.run = some u → descAt k u.task i.val = some d → d.op = 1 →
    keepsBack k u = false → isStalled k u.task = false → u₁ = takeBuffer k x u i.val d → streamAt u₁ i.val = some w →
    nextRequest k u₁ d w = (p, n) → n ≠ 0 → l = bytesAt k u₁ d p n → addressFault k u.task d l = none → writeCost l ≤ x.writeTokens →
    registersFree x [] = true → writesUpdate k u.task d = false →
    ∃ t u' w', exec (.streamRequestIssue c j i) s = .next t ∧ OnlyChip c s t ∧ (getChip t c).tenants = k.tenants ∧ (getChip t c).hbm = k.hbm ∧
      (clusterOf (getChip t c) j).run = some u' ∧ streamAt u' i.val = some w' ∧ w'.issued = w.issued + n ∧ w'.completed = w.completed ∧
      w'.inFlight.length = w.inFlight.length + 1 ∧ (clusterOf (getChip t c) j).writeTokens = x.writeTokens - writeCost l) ∧
  (∀ (s : State) (c : Pos) (j : ClusterNo) (i : Fin 32) (k : Chip) (x : Cluster) (u : RunTask) (m : ShortMove) (rest : List ShortMove),
    k = getChip s c → x = clusterOf k j → coreRuns k = true → x.run = some u → descAt k u.task i.val = none → x.next = none →
    u.shorts = m :: rest →
    (x.halted = false → m.issued = false → freeSlot k x = true → writeCost (List.range m.bytes) ≤ x.writeTokens →
      exec (.streamRequestIssue c j i) s = .next (setChip s c (setCluster k j
        { x with run := some { u with shorts := { m with issued := true } :: rest },
                 writeTokens := x.writeTokens - writeCost (List.range m.bytes) }))) ∧
    (m.issued = true → exec (.writeAccept c j i) s = .next (setChip s c (setCluster k j { x with run := some { u with shorts := rest } })))) ∧
  (∀ (s : State) (c : Pos) (j : ClusterNo) (i : Fin 32) (k : Chip) (x : Cluster) (u : RunTask) (d : DescRec) (w : Stream) (q : Request)
    (rest : List Request) (l : List Nat),
    k = getChip s c → x = clusterOf k j → coreRuns k = true → x.run = some u → descAt k u.task i.val = some d → d.op = 0 →
    streamAt u i.val = some w → w.inFlight = q :: rest → l = requestAddresses k u d w w.completed q.bytes →
    (needsOf k u.task d l).any (waitsForFill k x) = false → queueFull x d w q.bytes = false →
    mayComplete k u { desc := i.val, load := true, lines := orderedLines k u.task d l, stamp := q.stamp } = true →
    rereadsDead k u.task d l = false →
    ∃ t u' w', exec (.readDataReturn c j i) s = .next t ∧ OnlyChip c s t ∧
      (clusterOf (getChip t c) j).run = some u' ∧ u'.task = u.task ∧ streamAt u' i.val = some w' ∧ w'.completed = w.completed + l.length ∧
      w'.inFlight = rest ∧
      (d.space = 0 → (getChip t c).tenants = k.tenants ∧ (getChip t c).hbm = k.hbm ∧ (getChip t c).lines = k.lines ∧
        (endsTransfer d w l.length = false → w'.data = w.data ++ l.map (memGet 0#8 x.scratch)))) ∧
  (∀ (s : State) (c : Pos) (j : ClusterNo) (i : Fin 32) (k : Chip) (x : Cluster) (u : RunTask) (d : DescRec) (w : Stream) (q : Request)
    (rest : List Request),
    k = getChip s c → x = clusterOf k j → coreRuns k = true → x.run = some u → u.active = true → descAt k u.task i.val = some d →
    (d.op = 1 ∨ d.op = 2) → d.space = 0 → streamAt u i.val = some w → w.inFlight = q :: rest →
    ∃ t u' w', exec (.writeAccept c j i) s = .next t ∧ OnlyChip c s t ∧ (getChip t c).tenants = k.tenants ∧ (getChip t c).hbm = k.hbm ∧
      (clusterOf (getChip t c) j).run = some u' ∧ streamAt u' i.val = some w' ∧ w'.completed = w.completed + q.bytes ∧ w'.inFlight = rest ∧
      w'.data = w.data.drop q.bytes ∧
      (clusterOf (getChip t c) j).scratch =
        (storeScratch x d (requestAddresses k u d w w.completed q.bytes) (w.data.take q.bytes)).scratch) ∧
  (∀ (x : Cluster) (d : DescRec) (a : Nat) (b : Byte), d.op ≠ 2 → Memory.wf 0#8 x.scratch = true →
    Memory.wf 0#8 (storeScratch x d [a] [b]).scratch = true ∧ memGet 0#8 (storeScratch x d [a] [b]).scratch a = b ∧
    ∀ a', a' ≠ a → memGet 0#8 (storeScratch x d [a] [b]).scratch a' = memGet 0#8 x.scratch a') ∧
  (∀ (s : State) (c : Pos) (line : Nat) (m : Miss), coreRuns (getChip s c) = true → tabFind (getChip s c).lineMisses line = some m →
    ∃ t, exec (.lineFill c line) s = .next t ∧ OnlyChip c s t ∧ tabFind (getChip t c).lineMisses line = none ∧
      (getChip t c).wake = (getChip s c).wake ∧ (getChip t c).vault = (getChip s c).vault ∧ (getChip t c).ports = (getChip s c).ports ∧
      (m.kind = .region → holdersOf (getChip s c) line = [] → sliceLine (getChip s c) line = none → hasWay (getChip s c) m.tenant line = true →
        (getChip t c).tenants = (getChip s c).tenants ∧ (getChip t c).hbm = (getChip s c).hbm ∧
        (m.waiters = [] →
          ∃ l, sliceLine (getChip t c) line = some l ∧ l.data = hbmLine (getChip s c) line ∧ l.valid = fullMask ∧ l.dirty = 0#128))) ∧
  (∀ (s : State) (c : Pos) (line : Nat), coreRuns (getChip s c) = true → deadDone (getChip s c) line = true →
    ∃ t, exec (.deadLineInvalidate c line) s = .next t ∧ OnlyChip c s t ∧ (getChip t c).hbm = (getChip s c).hbm ∧
      (getChip t c).tenants = (getChip s c).tenants ∧ sliceLine (getChip t c) line = none ∧ line ∈ (getChip t c).deadLines ∧
      tabFind (getChip t c).deadDue line = none) ∧
  (∀ (s : State) (c : Pos) (line : Nat) (l : SliceLine), coreUp (getChip s c) = true → sliceLine (getChip s c) line = some l → l.kind = .region →
    exec (.eccUncorrectable c (.sliceLine line)) s =
      .next (setChip s c (countDev (setLine (getChip s c) line { l with poison := true }) 144 1))) ∧
  (∀ (s : State) (c : Pos) (line : Nat), coreUp (getChip s c) = true → (getChip s c).wake.hbm = .running → line < 0x30000000 →
    holderOf (getChip s c) (ownerOf (getChip s c) (128 * line)) line = .place →
    ∃ t, exec (.eccUncorrectable c (.hbmLine line)) s = .next t ∧ OnlyChip c s t ∧ line ∈ (getChip t c).hbmPoison ∧
      (getChip t c).hbm = (getChip s c).hbm ∧ (getChip t c).tenants = (getChip s c).tenants ∧
      tabGet 0 (getChip t c).counters 144 = satAdd64 (tabGet 0 (getChip s c).counters 144) 1) ∧
  (∀ (s : State) (c : Pos) (j : ClusterNo) (o : Nat), coreUp (getChip s c) = true → o < (8 - (clusterOf (getChip s c) j).lastL1) * 524288 →
    ∃ t, exec (.eccUncorrectable c (.scratchpad j o)) s = .next t ∧ OnlyChip c s t ∧ o / 8 ∈ (clusterOf (getChip t c) j).scratchPoison ∧
      (clusterOf (getChip t c) j).scratch = (clusterOf (getChip s c) j).scratch ∧ (getChip t c).tenants = (getChip s c).tenants) ∧
  ∀ (s : State) (c : Pos) (t : Tenant) (tensor shard step : Nat) (r : ShardStep), coreUp (getChip s c) = true →
    tabFind (shardOf (ten (getChip s c) t.val) tensor shard).steps step = some r →
    ∃ u, exec (.eccUncorrectable c (.accumulator t tensor shard step)) s = .next u ∧ OnlyChip c s u ∧
      stepOf (shardOf (ten (getChip u c) t.val) tensor shard) step = { r with accPoison := true } ∧
      tabGet 0 (getChip u c).counters 144 = satAdd64 (tabGet 0 (getChip s c).counters 144) 1

/-! ## The debug port (chapter 22) -/

/-- TAP_RESET selects IDCODE at every device whose TAP runs and gives the pins back, with clusters and breakpoints as they stood; BYPASS: an opcode that a device does not list; IDCODE captures the code of
Table 22-1; SAMPLE_PRELOAD captures and preloads the cells, at the keeper too. EXTEST, CLAMP and HIGHZ act on a chip in Winter, are refused in every other season but Off, and are
BYPASS at the keeper (R393 to R397, Tables 22-1 to 22-3). A device whose TAP has no power does nothing. Levels that State does not determine are free (log entry 19). -/
def Obligations.BoundaryScanFollowsTheSeason : Prop :=
  (∀ s : State, ∃ t, exec .tapReset s = .next t ∧ t.pending = s.pending ∧
    (keeperTapUp s = true → t.tray = { s.tray with tap := { s.tray.tap with ir := 0x02#8, driving := false, outputsOff := false } }) ∧
    (keeperTapUp s = false → t.tray = s.tray) ∧
    ∀ p, ((getChip s p).wake.season = .off → getChip t p = getChip s p) ∧
      ((getChip s p).wake.season ≠ .off → getChip t p = { getChip s p with dbg := { (getChip s p).dbg with
          tap := { (getChip s p).dbg.tap with ir := 0x02#8, driving := false, outputsOff := false } } })) ∧
  (∀ (s : State) (p : Pos) (op : BitVec 8), listsOpcode (.chip p) op = false → (getChip s p).wake.season ≠ .off →
    exec (.bypass (.chip p) op) s = .next (setChip s p (tapAccept (getChip s p) op 0#320))) ∧
  (∀ (s : State) (op : BitVec 8), listsOpcode .keeper op = false → keeperTapUp s = true →
    exec (.bypass .keeper op) s = .next { s with tray := { s.tray with tap := tapBypass s.tray.tap op } }) ∧
  (∀ (s : State) (p : Pos), (getChip s p).wake.season ≠ .off →
    exec (.idcode (.chip p)) s = .next (setChip s p (tapAccept (getChip s p) 0x02#8 0x15A213A5#320))) ∧
  (∀ s : State, keeperTapUp s = true →
    ∃ t, exec (.idcode .keeper) s = .next t ∧ OnlyTray s t ∧ t.tray.tap.dr = 0x14B0A3A5#320 ∧ t.tray.tap.ir = 0x02#8) ∧
  (∀ (s : State) (p : Pos) (cells : BitVec 38), (getChip s p).wake.season ≠ .off →
    ∃ t, exec (.samplePreload (.chip p) cells) s = .next t ∧ OnlyChip p s t ∧ (getChip t p).dbg.tap.cells = cells ∧
      (getChip t p).dbg.tap.dr = bitsReg (chipCells s p (getChip s p)) ∧ (getChip t p).dbg.tap.driving = false ∧
      (getChip t p).dbg.refused = false ∧ (getChip t p).clusters = (getChip s p).clusters) ∧
  (∀ (s : State) (cells : BitVec 38), keeperTapUp s = true →
    ∃ t, exec (.samplePreload .keeper cells) s = .next t ∧ OnlyTray s t ∧ t.tray.tap.cells = cells ∧
      t.tray.tap.dr = bitsReg (keeperCells s) ∧ t.tray.tap.ir = 0x01#8 ∧ t.tray.tap.driving = false) ∧
  (∀ (s : State) (p : Pos) (cells : BitVec 38), (getChip s p).wake.season = .winter →
    (∃ t, exec (.extest (.chip p) cells) s = .next t ∧ OnlyChip p s t ∧ (getChip t p).dbg.tap.cells = cells ∧
      (getChip t p).dbg.tap.driving = true ∧ (getChip t p).dbg.tap.dr = bitsReg (chipCells s p (getChip s p))) ∧
    (∃ t, exec (.clamp (.chip p)) s = .next t ∧ OnlyChip p s t ∧ (getChip t p).dbg.tap.driving = true ∧
      (getChip t p).dbg.tap.cells = (getChip s p).dbg.tap.cells ∧ (getChip t p).dbg.tap.dr = 0#320) ∧
    (∃ t, exec (.highz (.chip p)) s = .next t ∧ OnlyChip p s t ∧ (getChip t p).dbg.tap.outputsOff = true ∧
      (getChip t p).dbg.tap.driving = false ∧ (getChip t p).dbg.tap.dr = 0#320)) ∧
  (∀ (s : State) (p : Pos) (cells : BitVec 38), (getChip s p).wake.season ≠ .winter → (getChip s p).wake.season ≠ .off →
    exec (.extest (.chip p) cells) s = .next (setChip s p (tapRefuse (getChip s p) 0x00#8)) ∧
    exec (.clamp (.chip p)) s = .next (setChip s p (tapRefuse (getChip s p) 0x03#8)) ∧
    exec (.highz (.chip p)) s = .next (setChip s p (tapRefuse (getChip s p) 0x04#8))) ∧
  (∀ (s : State) (cells : BitVec 38), keeperTapUp s = true →
    exec (.extest .keeper cells) s = .next { s with tray := { s.tray with tap := tapBypass s.tray.tap 0x00#8 } } ∧
    exec (.clamp .keeper) s = .next { s with tray := { s.tray with tap := tapBypass s.tray.tap 0x03#8 } } ∧
    exec (.highz .keeper) s = .next { s with tray := { s.tray with tap := tapBypass s.tray.tap 0x04#8 } }) ∧
  ∀ (s : State) (d : TapDevice) (op : BitVec 8) (cells : BitVec 38),
    (match d with | .keeper => keeperTapUp s = false | .chip p => (getChip s p).wake.season = .off) →
    exec (.bypass d op) s = .next s ∧ exec (.idcode d) s = .next s ∧ exec (.samplePreload d cells) s = .next s ∧
    exec (.extest d cells) s = .next s ∧ exec (.clamp d) s = .next s ∧ exec (.highz d) s = .next s

/-- On a chip whose TAP has power, DBG_STATUS captures the status and starts the hits anew; where the life cycle and DEBUG_EN allow it DBG_TASK captures the selected cluster's task, HALT, RESUME, STEP_ONE_STAGE and
STEP_N_CYCLES act on the cluster that DBG_CTRL selects, or with its bit 4 on every one, while the core has power, STEP_CYCLES_EXPIRE halts a cluster whose N cycles are over, DBG_BREAK_SET and DBG_BREAK_CLEAR write their slot alone, DBG_MEM_READ gives 8 bytes, or sets MEM_ERROR and gives none, and DBG_MEM_WRITE stores
8 bytes, or sets MEM_ERROR and stores none, always so in FIELD (R397 to R405); where they are not allowed each is refused. LC_ADVANCE, in Winter and allowed, with the next state and the key reaches the chip as the wipe source 0x74, any other value only sets REFUSED, and not allowed it is
refused (R391, R406). At the keeper, which does not list them, they are BYPASS. Flags and layouts that chapter 22 leaves open are log entries 20 and 27. -/
def Obligations.DebugActsWhereAllowed : Prop :=
  (∀ (s : State) (p : Pos), (getChip s p).wake.season ≠ .off →
    ∃ t, exec (.dbgStatus (.chip p)) s = .next t ∧ OnlyChip p s t ∧
      (getChip t p).dbg.tap.dr = BitVec.ofNat 320 (debugStatus (getChip s p)) ∧ (getChip t p).dbg.hits = 0#8 ∧
      (getChip t p).dbg.refused = false ∧ (getChip t p).dbg.slots = (getChip s p).dbg.slots ∧
      (getChip t p).clusters = (getChip s p).clusters ∧ (getChip t p).tenants = (getChip s p).tenants) ∧
  (∀ (s : State) (p : Pos), (getChip s p).wake.season ≠ .off → mayDebug (getChip s p) = true →
    exec (.dbgTask (.chip p)) s = .next (setChip s p (tapAccept (getChip s p) 0x12#8
      (BitVec.ofNat 320 (debugTask (clusterOf (getChip s p) (getChip s p).dbg.selected)))))) ∧
  (∀ (s : State) (p : Pos) (ctrl : BitVec 32) (j : ClusterNo), coreUp (getChip s p) = true → mayDebug (getChip s p) = true →
    (ctrl.getLsbD 4 = true ∨ j = Fin.ofNat 256 (regField ctrl 5 8)) →
    (regField ctrl 0 4 = 1 → ∃ t, exec (.halt (.chip p) ctrl) s = .next t ∧ OnlyChip p s t ∧ (clusterOf (getChip t p) j).halted = true ∧
      (clusterOf (getChip t p) j).run = (clusterOf (getChip s p) j).run ∧ (getChip t p).dbg.selected = Fin.ofNat 256 (regField ctrl 5 8) ∧
      (ctrl.getLsbD 4 = false → ∀ i, i ≠ j → clusterOf (getChip t p) i = clusterOf (getChip s p) i)) ∧
    (regField ctrl 0 4 = 2 → ∃ t, exec (.resume (.chip p) ctrl) s = .next t ∧ OnlyChip p s t ∧ (clusterOf (getChip t p) j).halted = false ∧
      (clusterOf (getChip t p) j).run = (clusterOf (getChip s p) j).run ∧
      (ctrl.getLsbD 4 = false → ∀ i, i ≠ j → clusterOf (getChip t p) i = clusterOf (getChip s p) i)) ∧
    (regField ctrl 0 4 = 3 → ∃ t, exec (.stepOneStage (.chip p) ctrl) s = .next t ∧ OnlyChip p s t ∧
      clusterOf (getChip t p) j = { clusterOf (getChip s p) j with halted := false, stepMode := .stage } ∧
      (ctrl.getLsbD 4 = false → ∀ i, i ≠ j → clusterOf (getChip t p) i = clusterOf (getChip s p) i)) ∧
    (regField ctrl 0 4 = 4 → regField ctrl 16 16 ≠ 0 → ∃ t, exec (.stepNCycles (.chip p) ctrl) s = .next t ∧ OnlyChip p s t ∧
      clusterOf (getChip t p) j = { clusterOf (getChip s p) j with halted := false, stepMode := .cycles (regField ctrl 16 16) } ∧
      (ctrl.getLsbD 4 = false → ∀ i, i ≠ j → clusterOf (getChip t p) i = clusterOf (getChip s p) i))) ∧
  (∀ (s : State) (c : Pos) (j : ClusterNo), coreUp (getChip s c) = true → (clusterOf (getChip s c) j).stepMode = .cycles 0 →
    exec (.stepCyclesExpire c j) s = .next (setChip s c (setCluster (getChip s c) j
      { clusterOf (getChip s c) j with halted := true, stepMode := .none }))) ∧
  (∀ (s : State) (p : Pos) (reg : BitVec 96), (getChip s p).wake.season ≠ .off → mayDebug (getChip s p) = true →
    (setsSlot reg = true → ∃ t, exec (.dbgBreakSet (.chip p) reg) s = .next t ∧ OnlyChip p s t ∧
      tabFind (getChip t p).dbg.slots (regField reg 0 3) = some (slotOfReg reg) ∧ (getChip t p).clusters = (getChip s p).clusters ∧
      ∀ n, n ≠ regField reg 0 3 → tabFind (getChip t p).dbg.slots n = tabFind (getChip s p).dbg.slots n) ∧
    (setsSlot reg = false → ∃ t, exec (.dbgBreakClear (.chip p) reg) s = .next t ∧ OnlyChip p s t ∧
      tabFind (getChip t p).dbg.slots (regField reg 0 3) = some BreakSlot.reset ∧ (getChip t p).clusters = (getChip s p).clusters ∧
      ∀ n, n ≠ regField reg 0 3 → tabFind (getChip t p).dbg.slots n = tabFind (getChip s p).dbg.slots n)) ∧
  (∀ (s : State) (p : Pos) (reg : BitVec 128) (k : Chip) (r : Option (List Byte)), (getChip s p).wake.season ≠ .off → mayDebug (getChip s p) = true →
    reg.getLsbD 4 = false → k = acceptMem (getChip s p) → r = debugRead s k (regField reg 0 4) (regField reg 8 40) →
    ∃ t, exec (.dbgMemRead (.chip p) reg) s = .next t ∧ OnlyChip p s t ∧
      getChip t p = { k with dbg := { k.dbg with memDone := true, memError := r.isNone, memData := (r.map (packBytes 64)).getD k.dbg.memData } }) ∧
  (∀ (s : State) (p : Pos) (reg : BitVec 128) (k : Chip) (r : Option Chip), (getChip s p).wake.season ≠ .off → mayDebug (getChip s p) = true →
    reg.getLsbD 4 = true → k = acceptMem (getChip s p) →
    r = debugWrite k (regField reg 0 4) (regField reg 8 40) (bytesOf (BitVec.ofNat 64 (regField reg 64 64)) 8) →
    exec (.dbgMemWrite (.chip p) reg) s = .next (setChip s p
      { r.getD k with dbg := { (r.getD k).dbg with memDone := true, memError := r.isNone } }) ∧
    ((getChip s p).vault.lifeCycle = .field → r = none) ∧
    (regField reg 0 4 = 1 → (getChip s p).vault.lifeCycle ≠ .field → coreUp (getChip s p) = true → regField reg 8 40 % 8 = 0 →
      regField reg 8 40 < 0x40000000 →
      regField reg 8 40 % 4194304 < (8 - (clusterOf (getChip s p) (Fin.ofNat 256 (regField reg 8 40 / 4194304))).lastL1) * 524288 →
      ∃ k', r = some k' ∧ (clusterOf k' (Fin.ofNat 256 (regField reg 8 40 / 4194304))).scratch =
        memWrite 0#8 (clusterOf (getChip s p) (Fin.ofNat 256 (regField reg 8 40 / 4194304))).scratch (regField reg 8 40 % 4194304)
          (bytesOf (BitVec.ofNat 64 (regField reg 64 64)) 8))) ∧
  (∀ (s : State) (p : Pos) (ctrl : BitVec 32) (reg : BitVec 96) (m : BitVec 128), (getChip s p).wake.season ≠ .off →
    mayDebug (getChip s p) = false →
    exec (.dbgTask (.chip p)) s = .next (setChip s p (tapRefuse (getChip s p) 0x12#8)) ∧
    (regField ctrl 0 4 = 1 → exec (.halt (.chip p) ctrl) s = .next (setChip s p (tapRefuse (getChip s p) 0x11#8))) ∧
    (regField ctrl 0 4 = 2 → exec (.resume (.chip p) ctrl) s = .next (setChip s p (tapRefuse (getChip s p) 0x11#8))) ∧
    (regField ctrl 0 4 = 3 → exec (.stepOneStage (.chip p) ctrl) s = .next (setChip s p (tapRefuse (getChip s p) 0x11#8))) ∧
    (regField ctrl 0 4 = 4 → exec (.stepNCycles (.chip p) ctrl) s = .next (setChip s p (tapRefuse (getChip s p) 0x11#8))) ∧
    (setsSlot reg = true → exec (.dbgBreakSet (.chip p) reg) s = .next (setChip s p (tapRefuse (getChip s p) 0x13#8))) ∧
    (setsSlot reg = false → exec (.dbgBreakClear (.chip p) reg) s = .next (setChip s p (tapRefuse (getChip s p) 0x13#8))) ∧
    (m.getLsbD 4 = false → exec (.dbgMemRead (.chip p) m) s = .next (setChip s p (tapRefuse (getChip s p) 0x14#8))) ∧
    (m.getLsbD 4 = true → exec (.dbgMemWrite (.chip p) m) s = .next (setChip s p (tapRefuse (getChip s p) 0x14#8)))) ∧
  (∀ (s : State) (p : Pos) (reg : BitVec 32), (mayAdvance (getChip s p) = true →
    (advanceOk (getChip s p) reg = true → ∃ t, exec (.lcAdvance (.chip p) reg) s = .next t ∧ OtherChips p s t ∧
      WipeReaches 0x74 (tapAccept (getChip s p) 0x1F#8 0#320) (getChip t p)) ∧
    (advanceOk (getChip s p) reg = false →
      ∃ t, exec (.lcAdvance (.chip p) reg) s = .next t ∧ OnlyChip p s t ∧ (getChip t p).dbg.refused = true ∧
        (getChip t p).vault = (getChip s p).vault ∧ (getChip t p).fuses = (getChip s p).fuses)) ∧
    ((getChip s p).wake.season ≠ .off → mayAdvance (getChip s p) = false →
      exec (.lcAdvance (.chip p) reg) s = .next (setChip s p (tapRefuse (getChip s p) 0x1F#8)))) ∧
  ∀ (s : State) (reg ctrl : BitVec 32) (b : BitVec 96) (m : BitVec 128), keeperTapUp s = true →
    exec (.dbgStatus .keeper) s = .next { s with tray := { s.tray with tap := tapBypass s.tray.tap 0x10#8 } } ∧
    exec (.dbgTask .keeper) s = .next { s with tray := { s.tray with tap := tapBypass s.tray.tap 0x12#8 } } ∧
    exec (.lcAdvance .keeper reg) s = .next { s with tray := { s.tray with tap := tapBypass s.tray.tap 0x1F#8 } } ∧
    (regField ctrl 0 4 = 1 → exec (.halt .keeper ctrl) s = .next { s with tray := { s.tray with tap := tapBypass s.tray.tap 0x11#8 } }) ∧
    (regField ctrl 0 4 = 2 → exec (.resume .keeper ctrl) s = .next { s with tray := { s.tray with tap := tapBypass s.tray.tap 0x11#8 } }) ∧
    (regField ctrl 0 4 = 3 → exec (.stepOneStage .keeper ctrl) s = .next { s with tray := { s.tray with tap := tapBypass s.tray.tap 0x11#8 } }) ∧
    (regField ctrl 0 4 = 4 → exec (.stepNCycles .keeper ctrl) s = .next { s with tray := { s.tray with tap := tapBypass s.tray.tap 0x11#8 } }) ∧
    (setsSlot b = true → exec (.dbgBreakSet .keeper b) s = .next { s with tray := { s.tray with tap := tapBypass s.tray.tap 0x13#8 } }) ∧
    (setsSlot b = false → exec (.dbgBreakClear .keeper b) s = .next { s with tray := { s.tray with tap := tapBypass s.tray.tap 0x13#8 } }) ∧
    (m.getLsbD 4 = false → exec (.dbgMemRead .keeper m) s = .next { s with tray := { s.tray with tap := tapBypass s.tray.tap 0x14#8 } }) ∧
    (m.getLsbD 4 = true → exec (.dbgMemWrite .keeper m) s = .next { s with tray := { s.tray with tap := tapBypass s.tray.tap 0x14#8 } })

end
end

