-- ==== Sys2Proof/Laws/Memory.lean ====
section
/-!
SUPPORT. Laws of addressed memories: a read after a write, and that every operation keeps the canonical form.
-/
namespace Sys2Proof.Machine

set_option Elab.async false

variable {α : Type} [DecidableEq α] (d : α)

/-- An address listed below none of a memory's entries reads as the unlisted value. -/
theorem memGet_of_wfFrom {lo : Nat} {m : Mem α} (h : Mem.wfFrom d (some lo) m = true) {a : Nat} (ha : a ≤ lo) :
    memGet d m a = d := by
  induction m generalizing lo with
  | nil => rfl
  | cons p m ih =>
    obtain ⟨b, v⟩ := p
    simp only [Mem.wfFrom, Bool.and_eq_true, decide_eq_true_eq] at h
    obtain ⟨⟨hb, -⟩, hm⟩ := h
    simp only [memGet]
    rw [if_neg (by omega)]
    exact ih hm (by omega)

/-- The canonical form above a bound is the canonical form. -/
theorem wf_of_wfFrom {lo : Option Nat} {m : Mem α} (h : Mem.wfFrom d lo m = true) : Memory.wf d m = true := by
  cases m with
  | nil => rfl
  | cons p m =>
    obtain ⟨b, v⟩ := p
    cases lo <;> simp_all [Memory.wf, Mem.wfFrom]

/-- A weaker bound. -/
theorem wfFrom_weaken {lo lo' : Nat} (hl : lo' ≤ lo) {m : Mem α} (h : Mem.wfFrom d (some lo) m = true) :
    Mem.wfFrom d (some lo') m = true := by
  cases m with
  | nil => rfl
  | cons p m =>
    obtain ⟨b, v⟩ := p
    simp only [Mem.wfFrom, Bool.and_eq_true, decide_eq_true_eq] at h ⊢
    exact ⟨⟨by omega, h.1.2⟩, h.2⟩

/-- The address just written reads as the value written. -/
theorem memGet_memSet_self {lo : Option Nat} {m : Mem α} (h : Mem.wfFrom d lo m = true) (a : Nat) (v : α) :
    memGet d (memSet d m a v) a = v := by
  induction m generalizing lo with
  | nil => by_cases hv : v = d <;> simp [memSet, memGet, hv]
  | cons p m ih =>
    obtain ⟨b, w⟩ := p
    simp only [Mem.wfFrom, Bool.and_eq_true] at h
    obtain ⟨-, hm⟩ := h
    simp only [memSet]
    by_cases h1 : a < b
    · by_cases hv : v = d
      · rw [if_pos h1, if_pos hv]
        simp only [memGet]
        rw [if_neg (by omega), hv]
        exact memGet_of_wfFrom d hm (by omega)
      · rw [if_pos h1, if_neg hv]; simp [memGet]
    · by_cases h2 : a = b
      · subst h2
        by_cases hv : v = d
        · rw [if_neg h1, if_pos rfl, if_pos hv, hv]
          exact memGet_of_wfFrom d hm (Nat.le_refl _)
        · rw [if_neg h1, if_pos rfl, if_neg hv]; simp [memGet]
      · rw [if_neg h1, if_neg h2]
        simp only [memGet]
        rw [if_neg (Ne.symm h2)]
        exact ih hm

/-- Every other address reads as before. -/
theorem memGet_memSet_ne (m : Mem α) (a b : Nat) (v : α) (h : b ≠ a) : memGet d (memSet d m a v) b = memGet d m b := by
  induction m with
  | nil => by_cases hv : v = d <;> simp [memSet, memGet, hv, Ne.symm h]
  | cons p m ih =>
    obtain ⟨k, w⟩ := p
    simp only [memSet]
    by_cases h1 : a < k
    · by_cases hv : v = d <;> simp [h1, hv, memGet, Ne.symm h]
    · by_cases h2 : a = k
      · subst h2; by_cases hv : v = d <;> simp [hv, memGet, Ne.symm h]
      · simp only [if_neg h1, if_neg h2, memGet, ih]

/-- Writing keeps the canonical form, above any bound below the address. -/
theorem wfFrom_memSet {lo : Option Nat} {m : Mem α} (h : Mem.wfFrom d lo m = true) (a : Nat) (v : α)
    (ha : ∀ b, lo = some b → b < a) : Mem.wfFrom d lo (memSet d m a v) = true := by
  induction m generalizing lo with
  | nil =>
    by_cases hv : v = d
    · simp [memSet, hv, Mem.wfFrom]
    · cases lo with
      | none => simp [memSet, hv, Mem.wfFrom]
      | some b => simp [memSet, hv, Mem.wfFrom, ha b rfl]
  | cons p m ih =>
    obtain ⟨k, w⟩ := p
    have h' := h
    simp only [Mem.wfFrom, Bool.and_eq_true, decide_eq_true_eq] at h
    obtain ⟨⟨hk, hw⟩, hm⟩ := h
    simp only [memSet]
    by_cases h1 : a < k
    · by_cases hv : v = d
      · rw [if_pos h1, if_pos hv]; exact h'
      · rw [if_pos h1, if_neg hv]
        have hn : Mem.wfFrom d (some a) ((k, w) :: m) = true := by simp [Mem.wfFrom, h1, hw, hm]
        cases lo with
        | none => simp only [Mem.wfFrom, Bool.true_and, Bool.and_eq_true, decide_eq_true_eq] at hn ⊢; exact ⟨hv, hn⟩
        | some b =>
          simp only [Mem.wfFrom, Bool.and_eq_true, decide_eq_true_eq] at hn ⊢
          exact ⟨⟨ha b rfl, hv⟩, hn⟩
    · by_cases h2 : a = k
      · subst h2
        by_cases hv : v = d
        · rw [if_neg h1, if_pos rfl, if_pos hv]
          cases lo with
          | none => exact wf_of_wfFrom d hm
          | some b => exact wfFrom_weaken d (Nat.le_of_lt (ha b rfl)) hm
        · rw [if_neg h1, if_pos rfl, if_neg hv]
          simp only [Mem.wfFrom, Bool.and_eq_true, decide_eq_true_eq]
          exact ⟨⟨hk, hv⟩, hm⟩
      · rw [if_neg h1, if_neg h2]
        simp only [Mem.wfFrom, Bool.and_eq_true, decide_eq_true_eq]
        exact ⟨⟨hk, hw⟩, ih hm (by intro b hb; cases hb; omega)⟩

/-- Writing a value keeps the canonical form. -/
theorem wf_memSet {m : Mem α} (h : Memory.wf d m = true) (a : Nat) (v : α) : Memory.wf d (memSet d m a v) = true :=
  wfFrom_memSet d h a v (by simp)

/-- Writing a run keeps the canonical form. -/
theorem wf_memWrite (vs : List α) {m : Mem α} (h : Memory.wf d m = true) (a : Nat) :
    Memory.wf d (memWrite d m a vs) = true := by
  induction vs generalizing m a with
  | nil => exact h
  | cons v vs ih => exact ih (wf_memSet d h a v) (a + 1)

omit [DecidableEq α] in
theorem memDrop_mem (p : Nat → Bool) (m : Mem α) : ∀ x ∈ memDrop p m, x ∈ m ∧ p x.1 = false := by
  induction m with
  | nil => simp [memDrop]
  | cons q m ih =>
    obtain ⟨b, v⟩ := q
    intro x hx
    simp only [memDrop] at hx
    by_cases hp : p b
    · rw [if_pos hp] at hx; exact ⟨List.mem_cons_of_mem _ (ih x hx).1, (ih x hx).2⟩
    · rw [if_neg hp] at hx
      rcases List.mem_cons.1 hx with rfl | hx
      · exact ⟨List.mem_cons_self, by simpa using hp⟩
      · exact ⟨List.mem_cons_of_mem _ (ih x hx).1, (ih x hx).2⟩

/-- Dropping entries keeps the canonical form. -/
theorem wfFrom_memDrop (p : Nat → Bool) {lo : Option Nat} {m : Mem α} (h : Mem.wfFrom d lo m = true) :
    Mem.wfFrom d lo (memDrop p m) = true := by
  induction m generalizing lo with
  | nil => rfl
  | cons q m ih =>
    obtain ⟨b, v⟩ := q
    have h' := h
    simp only [Mem.wfFrom, Bool.and_eq_true, decide_eq_true_eq] at h
    obtain ⟨⟨hb, hv⟩, hm⟩ := h
    simp only [memDrop]
    by_cases hp : p b
    · rw [if_pos hp]
      cases lo with
      | none => exact wf_of_wfFrom d (ih hm)
      | some k => exact wfFrom_weaken d (Nat.le_of_lt (by simpa using hb)) (ih hm)
    · rw [if_neg hp]
      simp only [Mem.wfFrom, Bool.and_eq_true, decide_eq_true_eq]
      exact ⟨⟨hb, hv⟩, ih hm⟩

/-- Erasing a run keeps the canonical form. -/
theorem wf_memErase (a n : Nat) {m : Mem α} (h : Memory.wf d m = true) : Memory.wf d (memErase a n m) = true :=
  wfFrom_memDrop d _ h

/-- A memory filled from an address upward is in canonical form. -/
theorem wfFrom_memFrom (vs : List α) (lo : Option Nat) (a : Nat) (ha : ∀ b, lo = some b → b < a) :
    Mem.wfFrom d lo (memFrom d a vs) = true := by
  induction vs generalizing lo a with
  | nil => rfl
  | cons v vs ih =>
    simp only [memFrom]
    by_cases hv : v = d
    · rw [if_pos hv]; exact ih lo (a + 1) (by intro b hb; have := ha b hb; omega)
    · rw [if_neg hv]
      have := ih (some a) (a + 1) (by intro b hb; cases hb; omega)
      cases lo with
      | none => simp [Mem.wfFrom, hv, this]
      | some b => simp [Mem.wfFrom, hv, this, ha b rfl]

/-- The same, from the least bound. -/
theorem wf_memFrom (vs : List α) (a : Nat) : Memory.wf d (memFrom d a vs) = true := wfFrom_memFrom d vs none a (by simp)

omit [DecidableEq α] in
/-- Listing an address keeps addresses rising, for memories whose unlisted addresses have no fixed value. -/
theorem risingFrom_memPut {lo : Option Nat} {m : Mem α} (h : Mem.risingFrom lo m = true) (a : Nat) (v : α)
    (ha : ∀ b, lo = some b → b < a) : Mem.risingFrom lo (memPut m a v) = true := by
  induction m generalizing lo with
  | nil =>
    cases lo with
    | none => simp [memPut, Mem.risingFrom]
    | some b => simp [memPut, Mem.risingFrom, ha b rfl]
  | cons q m ih =>
    obtain ⟨k, w⟩ := q
    simp only [Mem.risingFrom, Bool.and_eq_true] at h
    obtain ⟨hk, hm⟩ := h
    simp only [memPut]
    by_cases h1 : a < k
    · rw [if_pos h1]
      cases lo with
      | none => simp [Mem.risingFrom, h1, hm]
      | some b => simp [Mem.risingFrom, h1, hm, ha b rfl]
    · by_cases h2 : a = k
      · subst h2
        rw [if_neg h1, if_pos rfl]
        simp only [Mem.risingFrom, Bool.and_eq_true]
        exact ⟨hk, hm⟩
      · rw [if_neg h1, if_neg h2]
        simp only [Mem.risingFrom, Bool.and_eq_true]
        exact ⟨hk, ih hm (by intro b hb; cases hb; omega)⟩

end Sys2Proof.Machine
end

