-- ==== Sys2Proof/Laws/PerInstr.lean ====
section
/-!
SUPPORT. The family of statements that are made command by command: WireOperands, that a well-formed command's frame, when it
carries one, has a payload that the wire can carry (section 9.1).
-/
namespace Sys2Proof.Laws.WireOperands

set_option Elab.async false

/-- The frame that a command carries. -/
def carried : Instr → Option Frame
  | .grad _ f => some f.frame
  | .init _ f => some f.frame
  | .pull _ f => some f.frame
  | .stashPut _ f => some f.frame
  | .stashGet _ f => some f.frame
  | .maskGet _ f => some f.frame
  | .scaleGet _ f => some f.frame
  | .statGet _ f => some f.frame
  | .index _ f => some f.frame
  | .unknownFrameType _ f => some f.frame
  | .reduce _ f => some f.frame
  | .ledgerCollisionRetry _ f _ => some f.frame
  | .shardVerdict _ f => some f.frame
  | .verdict _ f => some f.frame
  | .tenantDown _ f => some f.frame
  | .syncOp _ f => some f.frame
  | .syncAck _ f => some f.frame
  | _ => none

/-- What is stated of every command: a frame that it carries has a payload of at most 16,384 bytes when the command is well formed. -/
def Statement (i : Instr) : Prop := i.wellFormed = true → ∀ f, carried i = some f → f.payload.length ≤ 16384

theorem feedPresent (f : Feed) : Statement (.feedPresent f) := by
  intro _ g hg
  simp [carried] at hg
theorem feedAbsent (f : Feed) : Statement (.feedAbsent f) := by
  intro _ g hg
  simp [carried] at hg
theorem trayStart (fancurve : LadderReading) (lidOpen : Bool) : Statement (.trayStart fancurve lidOpen) := by
  intro _ g hg
  simp [carried] at hg
theorem railInRegulation (r : Rail) : Statement (.railInRegulation r) := by
  intro _ g hg
  simp [carried] at hg
theorem trayPowerLoss  : Statement (.trayPowerLoss ) := by
  intro _ g hg
  simp [carried] at hg
theorem seasonPinChange (code : BitVec 2) : Statement (.seasonPinChange code) := by
  intro _ g hg
  simp [carried] at hg
theorem seasonForward  : Statement (.seasonForward ) := by
  intro _ g hg
  simp [carried] at hg
theorem strapSetDelivery (r : StrapReadings) (pos : ChipposReadings) : Statement (.strapSetDelivery r pos) := by
  intro _ g hg
  simp [carried] at hg
theorem springReceived (c : Pos) : Statement (.springReceived c) := by
  intro _ g hg
  simp [carried] at hg
theorem corePllLocked (c : Pos) (t : Temps) : Statement (.corePllLocked c t) := by
  intro _ g hg
  simp [carried] at hg
theorem sramClearDone (c : Pos) : Statement (.sramClearDone c) := by
  intro _ g hg
  simp [carried] at hg
theorem keyDrawTimeout (c : Pos) : Statement (.keyDrawTimeout c) := by
  intro _ g hg
  simp [carried] at hg
theorem coldStartEnd (c : Pos) (t : Temps) : Statement (.coldStartEnd c t) := by
  intro _ g hg
  simp [carried] at hg
theorem heatingTimeout (c : Pos) : Statement (.heatingTimeout c) := by
  intro _ g hg
  simp [carried] at hg
theorem hbmTrainingDone (c : Pos) (ok : Bool) : Statement (.hbmTrainingDone c ok) := by
  intro _ g hg
  simp [carried] at hg
theorem flashGrantWaitTimeout  : Statement (.flashGrantWaitTimeout ) := by
  intro _ g hg
  simp [carried] at hg
theorem imageHeaderRead  : Statement (.imageHeaderRead ) := by
  intro _ g hg
  simp [carried] at hg
theorem imageBankReadDone (c : Pos) : Statement (.imageBankReadDone c) := by
  intro _ g hg
  simp [carried] at hg
theorem bankCheckReport  : Statement (.bankCheckReport ) := by
  intro _ g hg
  simp [carried] at hg
theorem imageOutcomeTimeout (c : Pos) : Statement (.imageOutcomeTimeout c) := by
  intro _ g hg
  simp [carried] at hg
theorem autumnNoStepInFlight (c : Pos) : Statement (.autumnNoStepInFlight c) := by
  intro _ g hg
  simp [carried] at hg
theorem autumnWritebackDone (c : Pos) : Statement (.autumnWritebackDone c) := by
  intro _ g hg
  simp [carried] at hg
theorem winterReached (c : Pos) : Statement (.winterReached c) := by
  intro _ g hg
  simp [carried] at hg
theorem winterReportTimeout  : Statement (.winterReportTimeout ) := by
  intro _ g hg
  simp [carried] at hg
theorem railOutOfBand (r : Rail) : Statement (.railOutOfBand r) := by
  intro _ g hg
  simp [carried] at hg
theorem railFaultRecovery  : Statement (.railFaultRecovery ) := by
  intro _ g hg
  simp [carried] at hg
theorem strapResense (r : StrapReadings) : Statement (.strapResense r) := by
  intro _ g hg
  simp [carried] at hg
theorem tenrstAssert (t : Tenant) : Statement (.tenrstAssert t) := by
  intro _ g hg
  simp [carried] at hg
theorem tenantResetEraseDone (c : Pos) (t : Tenant) : Statement (.tenantResetEraseDone c t) := by
  intro _ g hg
  simp [carried] at hg
theorem tenantResetComplete (c : Pos) (t : Tenant) : Statement (.tenantResetComplete c t) := by
  intro _ g hg
  simp [carried] at hg
theorem tenrstRelease (t : Tenant) : Statement (.tenrstRelease t) := by
  intro _ g hg
  simp [carried] at hg
theorem tenrstInWinter (t : Tenant) : Statement (.tenrstInWinter t) := by
  intro _ g hg
  simp [carried] at hg
theorem deferredTenantDown (c : Pos) (t : Tenant) : Statement (.deferredTenantDown c t) := by
  intro _ g hg
  simp [carried] at hg
theorem tamperAssert  : Statement (.tamperAssert ) := by
  intro _ g hg
  simp [carried] at hg
theorem lidOpen  : Statement (.lidOpen ) := by
  intro _ g hg
  simp [carried] at hg
theorem voltageGlitch (c : Pos) (r : GlitchRail) : Statement (.voltageGlitch c r) := by
  intro _ g hg
  simp [carried] at hg
theorem clockGlitch (c : Pos) (k : GlitchClock) : Statement (.clockGlitch c k) := by
  intro _ g hg
  simp [carried] at hg
theorem vaultError (c : Pos) : Statement (.vaultError c) := by
  intro _ g hg
  simp [carried] at hg
theorem wipeClearDone (c : Pos) : Statement (.wipeClearDone c) := by
  intro _ g hg
  simp [carried] at hg
theorem retentionSwitchTimer (c : Pos) : Statement (.retentionSwitchTimer c) := by
  intro _ g hg
  simp [carried] at hg
theorem flashRequest  : Statement (.flashRequest ) := by
  intro _ g hg
  simp [carried] at hg
theorem flashGrantAfterRead  : Statement (.flashGrantAfterRead ) := by
  intro _ g hg
  simp [carried] at hg
theorem flashRelease  : Statement (.flashRelease ) := by
  intro _ g hg
  simp [carried] at hg
theorem thermistorReading (i : Fin 6) (celsius : Option Int) : Statement (.thermistorReading i celsius) := by
  intro _ g hg
  simp [carried] at hg
theorem fanFailure (m : Fin 6) (f : FanFault) : Statement (.fanFailure m f) := by
  intro _ g hg
  simp [carried] at hg
theorem cageModuleInsert (cage : Fin 40) (milliwatts : Nat) : Statement (.cageModuleInsert cage milliwatts) := by
  intro _ g hg
  simp [carried] at hg
theorem hotThreshold (c : Pos) (t : Temps) : Statement (.hotThreshold c t) := by
  intro _ g hg
  simp [carried] at hg
theorem governorStepDown (c : Pos) (t : Temps) : Statement (.governorStepDown c t) := by
  intro _ g hg
  simp [carried] at hg
theorem governorStepUp (c : Pos) (t : Temps) : Statement (.governorStepUp c t) := by
  intro _ g hg
  simp [carried] at hg
theorem thermalShutdown (c : Pos) (t : Temps) : Statement (.thermalShutdown c t) := by
  intro _ g hg
  simp [carried] at hg
theorem lanesLocked (c : Pos) (p : PortNo) : Statement (.lanesLocked c p) := by
  intro _ g hg
  simp [carried] at hg
theorem pcsLocked (c : Pos) (p : PortNo) : Statement (.pcsLocked c p) := by
  intro _ g hg
  simp [carried] at hg
theorem unitsDelineated (c : Pos) (p : PortNo) : Statement (.unitsDelineated c p) := by
  intro _ g hg
  simp [carried] at hg
theorem helloTimer (c : Pos) (p : PortNo) : Statement (.helloTimer c p) := by
  intro _ g hg
  simp [carried] at hg
theorem hello (c : Pos) (p : PortNo) (content : BitVec 256) : Statement (.hello c p content) := by
  intro _ g hg
  simp [carried] at hg
theorem helloAck (c : Pos) (p : PortNo) (content : BitVec 256) (rttUs : Nat) : Statement (.helloAck c p content rttUs) := by
  intro _ g hg
  simp [carried] at hg
theorem trainingTimeout (c : Pos) (p : PortNo) : Statement (.trainingTimeout c p) := by
  intro _ g hg
  simp [carried] at hg
theorem retrainTimer (c : Pos) (p : PortNo) : Statement (.retrainTimer c p) := by
  intro _ g hg
  simp [carried] at hg
theorem dataFlit (c : Pos) (p : PortNo) (unit : BitVec 320) : Statement (.dataFlit c p unit) := by
  intro _ g hg
  simp [carried] at hg
theorem credit (c : Pos) (p : PortNo) (content : BitVec 256) : Statement (.credit c p content) := by
  intro _ g hg
  simp [carried] at hg
theorem nak (c : Pos) (p : PortNo) (content : BitVec 256) : Statement (.nak c p content) := by
  intro _ g hg
  simp [carried] at hg
theorem unknownControlFlit (c : Pos) (p : PortNo) (content : BitVec 256) : Statement (.unknownControlFlit c p content) := by
  intro _ g hg
  simp [carried] at hg
theorem wireUnitCrcFail (c : Pos) (p : PortNo) : Statement (.wireUnitCrcFail c p) := by
  intro _ g hg
  simp [carried] at hg
theorem replayTimeout (c : Pos) (p : PortNo) : Statement (.replayTimeout c p) := by
  intro _ g hg
  simp [carried] at hg
theorem creditSend (c : Pos) (p : PortNo) (cls : BitVec 8) : Statement (.creditSend c p cls) := by
  intro _ g hg
  simp [carried] at hg
theorem vc0CreditTimeout (c : Pos) (p : PortNo) : Statement (.vc0CreditTimeout c p) := by
  intro _ g hg
  simp [carried] at hg
theorem portDown (c : Pos) (p : PortNo) : Statement (.portDown c p) := by
  intro _ g hg
  simp [carried] at hg
theorem meshPeerLost (c : Pos) (group : Fin 3) : Statement (.meshPeerLost c group) := by
  intro _ g hg
  simp [carried] at hg
theorem torusDirectionLost (c : Pos) (d : Direction) : Statement (.torusDirectionLost c d) := by
  intro _ g hg
  simp [carried] at hg
theorem macFrameReceive (c : Pos) (p : PortNo) (m : MacFrame) : Statement (.macFrameReceive c p m) := by
  intro _ g hg
  simp [carried] at hg
theorem ethernetFrameSend (c : Pos) (p : PortNo) : Statement (.ethernetFrameSend c p) := by
  intro _ g hg
  simp [carried] at hg
theorem frameSend (c : Pos) (p : PortNo) : Statement (.frameSend c p) := by
  intro _ g hg
  simp [carried] at hg
theorem frameForward (c : Pos) : Statement (.frameForward c) := by
  intro _ g hg
  simp [carried] at hg
theorem ingressDispatch (c : Pos) (p : PortNo) (vc : BitVec 2) : Statement (.ingressDispatch c p vc) := by
  intro _ g hg
  simp [carried] at hg
theorem grad (c : Pos) (f : RxFrame) : Statement (.grad c f) := by
  intro h g hg
  simp only [carried, Option.some.injEq] at hg
  subst hg
  simp only [Instr.wellFormed, RxFrame.ok, Frame.ok, Bool.and_eq_true, decide_eq_true_eq] at h
  exact h.1
theorem init (c : Pos) (f : RxFrame) : Statement (.init c f) := by
  intro h g hg
  simp only [carried, Option.some.injEq] at hg
  subst hg
  simp only [Instr.wellFormed, RxFrame.ok, Frame.ok, Bool.and_eq_true, decide_eq_true_eq] at h
  exact h.1
theorem pull (c : Pos) (f : RxFrame) : Statement (.pull c f) := by
  intro h g hg
  simp only [carried, Option.some.injEq] at hg
  subst hg
  simp only [Instr.wellFormed, RxFrame.ok, Frame.ok, Bool.and_eq_true, decide_eq_true_eq] at h
  exact h.1
theorem stashPut (c : Pos) (f : RxFrame) : Statement (.stashPut c f) := by
  intro h g hg
  simp only [carried, Option.some.injEq] at hg
  subst hg
  simp only [Instr.wellFormed, RxFrame.ok, Frame.ok, Bool.and_eq_true, decide_eq_true_eq] at h
  exact h.1
theorem stashGet (c : Pos) (f : RxFrame) : Statement (.stashGet c f) := by
  intro h g hg
  simp only [carried, Option.some.injEq] at hg
  subst hg
  simp only [Instr.wellFormed, RxFrame.ok, Frame.ok, Bool.and_eq_true, decide_eq_true_eq] at h
  exact h.1
theorem maskGet (c : Pos) (f : RxFrame) : Statement (.maskGet c f) := by
  intro h g hg
  simp only [carried, Option.some.injEq] at hg
  subst hg
  simp only [Instr.wellFormed, RxFrame.ok, Frame.ok, Bool.and_eq_true, decide_eq_true_eq] at h
  exact h.1
theorem scaleGet (c : Pos) (f : RxFrame) : Statement (.scaleGet c f) := by
  intro h g hg
  simp only [carried, Option.some.injEq] at hg
  subst hg
  simp only [Instr.wellFormed, RxFrame.ok, Frame.ok, Bool.and_eq_true, decide_eq_true_eq] at h
  exact h.1
theorem statGet (c : Pos) (f : RxFrame) : Statement (.statGet c f) := by
  intro h g hg
  simp only [carried, Option.some.injEq] at hg
  subst hg
  simp only [Instr.wellFormed, RxFrame.ok, Frame.ok, Bool.and_eq_true, decide_eq_true_eq] at h
  exact h.1
theorem index (c : Pos) (f : RxFrame) : Statement (.index c f) := by
  intro h g hg
  simp only [carried, Option.some.injEq] at hg
  subst hg
  simp only [Instr.wellFormed, RxFrame.ok, Frame.ok, Bool.and_eq_true, decide_eq_true_eq] at h
  exact h.1
theorem unknownFrameType (c : Pos) (f : RxFrame) : Statement (.unknownFrameType c f) := by
  intro h g hg
  simp only [carried, Option.some.injEq] at hg
  subst hg
  simp only [Instr.wellFormed, RxFrame.ok, Frame.ok, Bool.and_eq_true, decide_eq_true_eq] at h
  exact h.1
theorem reduce (c : Pos) (f : RxFrame) : Statement (.reduce c f) := by
  intro h g hg
  simp only [carried, Option.some.injEq] at hg
  subst hg
  simp only [Instr.wellFormed, RxFrame.ok, Frame.ok, Bool.and_eq_true, decide_eq_true_eq] at h
  exact h.1
theorem ledgerCollisionRetry (c : Pos) (f : RxFrame) (collides : Bool) : Statement (.ledgerCollisionRetry c f collides) := by
  intro h g hg
  simp only [carried, Option.some.injEq] at hg
  subst hg
  simp only [Instr.wellFormed, RxFrame.ok, Frame.ok, Bool.and_eq_true, decide_eq_true_eq] at h
  exact h.1
theorem shardDeadline (c : Pos) (r : ShardStepRef) : Statement (.shardDeadline c r) := by
  intro _ g hg
  simp [carried] at hg
theorem shardClose (c : Pos) (r : ShardStepRef) : Statement (.shardClose c r) := by
  intro _ g hg
  simp [carried] at hg
theorem shardVerdict (c : Pos) (f : RxFrame) : Statement (.shardVerdict c f) := by
  intro h g hg
  simp only [carried, Option.some.injEq] at hg
  subst hg
  simp only [Instr.wellFormed, RxFrame.ok, Frame.ok, Bool.and_eq_true, decide_eq_true_eq] at h
  exact h.1
theorem verdict (c : Pos) (f : RxFrame) : Statement (.verdict c f) := by
  intro h g hg
  simp only [carried, Option.some.injEq] at hg
  subst hg
  simp only [Instr.wellFormed, RxFrame.ok, Frame.ok, Bool.and_eq_true, decide_eq_true_eq] at h
  exact h.1
theorem updateStageEnd (c : Pos) (r : ShardStepRef) : Statement (.updateStageEnd c r) := by
  intro _ g hg
  simp [carried] at hg
theorem commitBarrier (c : Pos) (t : Tenant) (step : Nat) : Statement (.commitBarrier c t step) := by
  intro _ g hg
  simp [carried] at hg
theorem verdictTimeout (c : Pos) (t : Tenant) (step : Nat) : Statement (.verdictTimeout c t step) := by
  intro _ g hg
  simp [carried] at hg
theorem gatherTimeout (c : Pos) (t : Tenant) (step : Nat) : Statement (.gatherTimeout c t step) := by
  intro _ g hg
  simp [carried] at hg
theorem tenantDown (c : Pos) (f : RxFrame) : Statement (.tenantDown c f) := by
  intro h g hg
  simp only [carried, Option.some.injEq] at hg
  subst hg
  simp only [Instr.wellFormed, RxFrame.ok, Frame.ok, Bool.and_eq_true, decide_eq_true_eq] at h
  exact h.1
theorem syncOp (c : Pos) (f : RxFrame) : Statement (.syncOp c f) := by
  intro h g hg
  simp only [carried, Option.some.injEq] at hg
  subst hg
  simp only [Instr.wellFormed, RxFrame.ok, Frame.ok, Bool.and_eq_true, decide_eq_true_eq] at h
  exact h.1
theorem syncAck (c : Pos) (f : RxFrame) : Statement (.syncAck c f) := by
  intro h g hg
  simp only [carried, Option.some.injEq] at hg
  subst hg
  simp only [Instr.wellFormed, RxFrame.ok, Frame.ok, Bool.and_eq_true, decide_eq_true_eq] at h
  exact h.1
theorem taskStart (c : Pos) (k : ClusterNo) : Statement (.taskStart c k) := by
  intro _ g hg
  simp [carried] at hg
theorem stageStart (c : Pos) (k : ClusterNo) : Statement (.stageStart c k) := by
  intro _ g hg
  simp [carried] at hg
theorem stageEnd (c : Pos) (k : ClusterNo) : Statement (.stageEnd c k) := by
  intro _ g hg
  simp [carried] at hg
theorem stageBoundExceeded (c : Pos) (k : ClusterNo) : Statement (.stageBoundExceeded c k) := by
  intro _ g hg
  simp [carried] at hg
theorem streamRequestIssue (c : Pos) (k : ClusterNo) (desc : Fin 32) : Statement (.streamRequestIssue c k desc) := by
  intro _ g hg
  simp [carried] at hg
theorem readDataReturn (c : Pos) (k : ClusterNo) (desc : Fin 32) : Statement (.readDataReturn c k desc) := by
  intro _ g hg
  simp [carried] at hg
theorem writeAccept (c : Pos) (k : ClusterNo) (desc : Fin 32) : Statement (.writeAccept c k desc) := by
  intro _ g hg
  simp [carried] at hg
theorem lineFill (c : Pos) (line : Nat) : Statement (.lineFill c line) := by
  intro _ g hg
  simp [carried] at hg
theorem deadLineInvalidate (c : Pos) (line : Nat) : Statement (.deadLineInvalidate c line) := by
  intro _ g hg
  simp [carried] at hg
theorem eccUncorrectable (c : Pos) (site : EccSite) : Statement (.eccUncorrectable c site) := by
  intro _ g hg
  simp [carried] at hg
theorem tapReset  : Statement (.tapReset) := by
  intro _ g hg
  simp [carried] at hg
theorem bypass (d : TapDevice) (opcode : BitVec 8) : Statement (.bypass d opcode) := by
  intro _ g hg
  simp [carried] at hg
theorem idcode (d : TapDevice) : Statement (.idcode d) := by
  intro _ g hg
  simp [carried] at hg
theorem samplePreload (d : TapDevice) (cells : BitVec 38) : Statement (.samplePreload d cells) := by
  intro _ g hg
  simp [carried] at hg
theorem extest (d : TapDevice) (cells : BitVec 38) : Statement (.extest d cells) := by
  intro _ g hg
  simp [carried] at hg
theorem clamp (d : TapDevice) : Statement (.clamp d) := by
  intro _ g hg
  simp [carried] at hg
theorem highz (d : TapDevice) : Statement (.highz d) := by
  intro _ g hg
  simp [carried] at hg
theorem dbgStatus (d : TapDevice) : Statement (.dbgStatus d) := by
  intro _ g hg
  simp [carried] at hg
theorem dbgTask (d : TapDevice) : Statement (.dbgTask d) := by
  intro _ g hg
  simp [carried] at hg
theorem halt (d : TapDevice) (ctrl : BitVec 32) : Statement (.halt d ctrl) := by
  intro _ g hg
  simp [carried] at hg
theorem resume (d : TapDevice) (ctrl : BitVec 32) : Statement (.resume d ctrl) := by
  intro _ g hg
  simp [carried] at hg
theorem stepOneStage (d : TapDevice) (ctrl : BitVec 32) : Statement (.stepOneStage d ctrl) := by
  intro _ g hg
  simp [carried] at hg
theorem stepNCycles (d : TapDevice) (ctrl : BitVec 32) : Statement (.stepNCycles d ctrl) := by
  intro _ g hg
  simp [carried] at hg
theorem stepCyclesExpire (c : Pos) (k : ClusterNo) : Statement (.stepCyclesExpire c k) := by
  intro _ g hg
  simp [carried] at hg
theorem dbgBreakSet (d : TapDevice) (reg : BitVec 96) : Statement (.dbgBreakSet d reg) := by
  intro _ g hg
  simp [carried] at hg
theorem dbgBreakClear (d : TapDevice) (reg : BitVec 96) : Statement (.dbgBreakClear d reg) := by
  intro _ g hg
  simp [carried] at hg
theorem dbgMemRead (d : TapDevice) (reg : BitVec 128) : Statement (.dbgMemRead d reg) := by
  intro _ g hg
  simp [carried] at hg
theorem dbgMemWrite (d : TapDevice) (reg : BitVec 128) : Statement (.dbgMemWrite d reg) := by
  intro _ g hg
  simp [carried] at hg
theorem lcAdvance (d : TapDevice) (reg : BitVec 32) : Statement (.lcAdvance d reg) := by
  intro _ g hg
  simp [carried] at hg
theorem tamperRelease  : Statement (.tamperRelease ) := by
  intro _ g hg
  simp [carried] at hg
theorem lidClose  : Statement (.lidClose ) := by
  intro _ g hg
  simp [carried] at hg
theorem flashProgramEraseSequence (op : FlashOp) : Statement (.flashProgramEraseSequence op) := by
  intro _ g hg
  simp [carried] at hg
theorem keyDrawDone (c : Pos) (t : Temps) : Statement (.keyDrawDone c t) := by
  intro _ g hg
  simp [carried] at hg

end Sys2Proof.Laws.WireOperands
end

