-- ==== Sys2Proof/Laws/Tables.lean ====
section
/-!
SUPPORT. Laws of tables by key: what a read finds after a write, an erasure or a change of every value.
-/
namespace Sys2Proof.Machine

set_option Elab.async false

variable {κ α β : Type} [DecidableEq κ]

@[simp] theorem tabGet_nil (d : α) (k : κ) : tabGet d [] k = d := rfl

/-- The key just written reads as the value written. -/
@[simp] theorem tabGet_tabSet_self (d : α) (l : Tab κ α) (k : κ) (v : α) : tabGet d (tabSet l k v) k = v := by
  induction l with
  | nil => simp [tabSet, tabGet]
  | cons p l ih =>
    obtain ⟨k', v'⟩ := p
    by_cases h : k' = k <;> simp [tabSet, tabGet, h, ih]

/-- Every other key reads as before. -/
theorem tabGet_tabSet_ne (d : α) (l : Tab κ α) (k k' : κ) (v : α) (h : k' ≠ k) :
    tabGet d (tabSet l k v) k' = tabGet d l k' := by
  induction l with
  | nil => simp [tabSet, tabGet, Ne.symm h]
  | cons p l ih =>
    obtain ⟨k₀, v₀⟩ := p
    by_cases h₀ : k₀ = k
    · subst h₀; simp [tabSet, tabGet, Ne.symm h]
    · by_cases h₁ : k₀ = k'
      · subst h₁; simp [tabSet, tabGet, h₀]
      · simp [tabSet, tabGet, h₀, h₁, ih]

/-- The key just written is listed with the value written. -/
@[simp] theorem tabFind_tabSet_self (l : Tab κ α) (k : κ) (v : α) : tabFind (tabSet l k v) k = some v := by
  induction l with
  | nil => simp [tabSet, tabFind]
  | cons p l ih =>
    obtain ⟨k', v'⟩ := p
    by_cases h : k' = k <;> simp [tabSet, tabFind, h, ih]

/-- Every other key is listed as before. -/
theorem tabFind_tabSet_ne (l : Tab κ α) (k k' : κ) (v : α) (h : k' ≠ k) : tabFind (tabSet l k v) k' = tabFind l k' := by
  induction l with
  | nil => simp [tabSet, tabFind, Ne.symm h]
  | cons p l ih =>
    obtain ⟨k₀, v₀⟩ := p
    by_cases h₀ : k₀ = k
    · subst h₀; simp [tabSet, tabFind, Ne.symm h]
    · by_cases h₁ : k₀ = k'
      · subst h₁; simp [tabSet, tabFind, h₀]
      · simp [tabSet, tabFind, h₀, h₁, ih]

/-- An erased key is not listed. -/
@[simp] theorem tabFind_tabErase_self (l : Tab κ α) (k : κ) : tabFind (tabErase l k) k = none := by
  induction l with
  | nil => rfl
  | cons p l ih =>
    obtain ⟨k', v'⟩ := p
    by_cases h : k' = k <;> simp [tabErase, tabFind, h, ih]

/-- Other keys stay listed as they were. -/
theorem tabFind_tabErase_ne (l : Tab κ α) (k k' : κ) (h : k' ≠ k) : tabFind (tabErase l k) k' = tabFind l k' := by
  induction l with
  | nil => rfl
  | cons p l ih =>
    obtain ⟨k₀, v₀⟩ := p
    by_cases h₀ : k₀ = k
    · subst h₀; simp [tabErase, tabFind, Ne.symm h, ih]
    · by_cases h₁ : k₀ = k'
      · subst h₁; simp [tabErase, tabFind, h₀]
      · simp [tabErase, tabFind, h₀, h₁, ih]

/-- A change of every value changes what a listed key reads as. -/
theorem tabFind_tabMap (f : κ → α → β) (l : Tab κ α) (k : κ) : tabFind (tabMap f l) k = (tabFind l k).map (f k) := by
  induction l with
  | nil => rfl
  | cons p l ih =>
    obtain ⟨k', v'⟩ := p
    by_cases h : k' = k
    · subst h; simp [tabMap, tabFind]
    · simp [tabMap, tabFind, h, ih]

/-- A read with a value of its own for keys that are not listed, in terms of the listing. -/
theorem tabGet_eq_find (d : α) (l : Tab κ α) (k : κ) : tabGet d l k = (tabFind l k).getD d := by
  induction l with
  | nil => rfl
  | cons p l ih =>
    obtain ⟨k', v'⟩ := p
    by_cases h : k' = k <;> simp [tabGet, tabFind, h, ih]

end Sys2Proof.Machine
end

