-- ==== Sys2Proof/Laws/State.lean ====
section
/-!
SUPPORT. Beside State: what each update leaves of each field, true by unfolding; and reading a chip, a tenant, a port or a cluster
after an update of one.
-/
namespace Sys2Proof.Machine

set_option Elab.async false

/-! ## The tray, the chips, the queue -/

@[simp] theorem setChip_tray (s : State) (p : Pos) (c : Chip) : (setChip s p c).tray = s.tray := rfl
@[simp] theorem setChip_pending (s : State) (p : Pos) (c : Chip) : (setChip s p c).pending = s.pending := rfl
@[simp] theorem modChip_tray (s : State) (p : Pos) (f : Chip → Chip) : (modChip s p f).tray = s.tray := rfl
@[simp] theorem modChip_pending (s : State) (p : Pos) (f : Chip → Chip) : (modChip s p f).pending = s.pending := rfl
@[simp] theorem mapChips_tray (s : State) (g : Pos → Chip → Chip) : (mapChips s g).tray = s.tray := rfl
@[simp] theorem mapChips_pending (s : State) (g : Pos → Chip → Chip) : (mapChips s g).pending = s.pending := rfl
@[simp] theorem modTray_chips (s : State) (f : Tray → Tray) : (modTray s f).chips = s.chips := rfl
@[simp] theorem modTray_pending (s : State) (f : Tray → Tray) : (modTray s f).pending = s.pending := rfl
@[simp] theorem modTray_tray (s : State) (f : Tray → Tray) : (modTray s f).tray = f s.tray := rfl

/-- The chip just put back. -/
@[simp] theorem getChip_setChip_self (s : State) (p : Pos) (c : Chip) : getChip (setChip s p c) p = c := by
  match p with
  | 0 => rfl
  | 1 => rfl
  | 2 => rfl
  | 3 => rfl

/-- The other three. -/
theorem getChip_setChip_ne (s : State) (p q : Pos) (c : Chip) (h : q ≠ p) : getChip (setChip s p c) q = getChip s q := by
  match p, q with
  | 0, 0 | 1, 1 | 2, 2 | 3, 3 => exact absurd rfl h
  | 0, 1 | 0, 2 | 0, 3 | 1, 0 | 1, 2 | 1, 3 | 2, 0 | 2, 1 | 2, 3 | 3, 0 | 3, 1 | 3, 2 => rfl

@[simp] theorem getChip_modChip_self (s : State) (p : Pos) (f : Chip → Chip) : getChip (modChip s p f) p = f (getChip s p) :=
  getChip_setChip_self s p _

theorem getChip_modChip_ne (s : State) (p q : Pos) (f : Chip → Chip) (h : q ≠ p) : getChip (modChip s p f) q = getChip s q :=
  getChip_setChip_ne s p q _ h

@[simp] theorem getChip_modTray (s : State) (f : Tray → Tray) (p : Pos) : getChip (modTray s f) p = getChip s p := by
  match p with
  | 0 => rfl
  | 1 => rfl
  | 2 => rfl
  | 3 => rfl

@[simp] theorem getChip_mapChips (s : State) (f : Pos → Chip → Chip) (p : Pos) : getChip (mapChips s f) p = f p (getChip s p) := by
  match p with
  | 0 => rfl
  | 1 => rfl
  | 2 => rfl
  | 3 => rfl

@[simp] theorem getChip_pending (s : State) (l : List Instr) (p : Pos) : getChip { s with pending := l } p = getChip s p := by
  match p with
  | 0 => rfl
  | 1 => rfl
  | 2 => rfl
  | 3 => rfl

/-! ## A chip -/

@[simp] theorem setTen_wake (c : Chip) (t : Nat) (x : TenantCtx) : (setTen c t x).wake = c.wake := rfl
@[simp] theorem setTen_faults (c : Chip) (t : Nat) (x : TenantCtx) : (setTen c t x).faults = c.faults := rfl
@[simp] theorem setTen_occurrences (c : Chip) (t : Nat) (x : TenantCtx) : (setTen c t x).occurrences = c.occurrences := rfl
@[simp] theorem setTen_counters (c : Chip) (t : Nat) (x : TenantCtx) : (setTen c t x).counters = c.counters := rfl
@[simp] theorem setTen_unusedRecords (c : Chip) (t : Nat) (x : TenantCtx) : (setTen c t x).unusedRecords = c.unusedRecords := rfl
@[simp] theorem setTen_image (c : Chip) (t : Nat) (x : TenantCtx) : (setTen c t x).image = c.image := rfl
@[simp] theorem setTen_candidate (c : Chip) (t : Nat) (x : TenantCtx) : (setTen c t x).candidate = c.candidate := rfl
@[simp] theorem setTen_ports (c : Chip) (t : Nat) (x : TenantCtx) : (setTen c t x).ports = c.ports := rfl
@[simp] theorem setTen_outbox (c : Chip) (t : Nat) (x : TenantCtx) : (setTen c t x).outbox = c.outbox := rfl
@[simp] theorem setTen_inbox (c : Chip) (t : Nat) (x : TenantCtx) : (setTen c t x).inbox = c.inbox := rfl
@[simp] theorem setTen_lostPeers (c : Chip) (t : Nat) (x : TenantCtx) : (setTen c t x).lostPeers = c.lostPeers := rfl
@[simp] theorem setTen_lostDirs (c : Chip) (t : Nat) (x : TenantCtx) : (setTen c t x).lostDirs = c.lostDirs := rfl
@[simp] theorem setTen_ingressTokens (c : Chip) (t : Nat) (x : TenantCtx) : (setTen c t x).ingressTokens = c.ingressTokens := rfl
@[simp] theorem setTen_collisions (c : Chip) (t : Nat) (x : TenantCtx) : (setTen c t x).collisions = c.collisions := rfl
@[simp] theorem setTen_clusters (c : Chip) (t : Nat) (x : TenantCtx) : (setTen c t x).clusters = c.clusters := rfl
@[simp] theorem setTen_lines (c : Chip) (t : Nat) (x : TenantCtx) : (setTen c t x).lines = c.lines := rfl
@[simp] theorem setTen_lineMisses (c : Chip) (t : Nat) (x : TenantCtx) : (setTen c t x).lineMisses = c.lineMisses := rfl
@[simp] theorem setTen_deadDue (c : Chip) (t : Nat) (x : TenantCtx) : (setTen c t x).deadDue = c.deadDue := rfl
@[simp] theorem setTen_deadLines (c : Chip) (t : Nat) (x : TenantCtx) : (setTen c t x).deadLines = c.deadLines := rfl
@[simp] theorem setTen_lineClock (c : Chip) (t : Nat) (x : TenantCtx) : (setTen c t x).lineClock = c.lineClock := rfl
@[simp] theorem setTen_hbm (c : Chip) (t : Nat) (x : TenantCtx) : (setTen c t x).hbm = c.hbm := rfl
@[simp] theorem setTen_hbmPoison (c : Chip) (t : Nat) (x : TenantCtx) : (setTen c t x).hbmPoison = c.hbmPoison := rfl
@[simp] theorem setTen_sync (c : Chip) (t : Nat) (x : TenantCtx) : (setTen c t x).sync = c.sync := rfl
@[simp] theorem setTen_vault (c : Chip) (t : Nat) (x : TenantCtx) : (setTen c t x).vault = c.vault := rfl
@[simp] theorem setTen_fuses (c : Chip) (t : Nat) (x : TenantCtx) : (setTen c t x).fuses = c.fuses := rfl
@[simp] theorem setTen_wipe (c : Chip) (t : Nat) (x : TenantCtx) : (setTen c t x).wipe = c.wipe := rfl
@[simp] theorem setTen_clearAtSpring (c : Chip) (t : Nat) (x : TenantCtx) : (setTen c t x).clearAtSpring = c.clearAtSpring := rfl
@[simp] theorem setTen_dbg (c : Chip) (t : Nat) (x : TenantCtx) : (setTen c t x).dbg = c.dbg := rfl
@[simp] theorem setTen_nonces (c : Chip) (t : Nat) (x : TenantCtx) : (setTen c t x).nonces = c.nonces := rfl
@[simp] theorem setTen_launches (c : Chip) (t : Nat) (x : TenantCtx) : (setTen c t x).launches = c.launches := rfl
@[simp] theorem modTen_wake (c : Chip) (t : Nat) (f : TenantCtx → TenantCtx) : (modTen c t f).wake = c.wake := rfl
@[simp] theorem modTen_faults (c : Chip) (t : Nat) (f : TenantCtx → TenantCtx) : (modTen c t f).faults = c.faults := rfl
@[simp] theorem modTen_occurrences (c : Chip) (t : Nat) (f : TenantCtx → TenantCtx) : (modTen c t f).occurrences = c.occurrences := rfl
@[simp] theorem modTen_counters (c : Chip) (t : Nat) (f : TenantCtx → TenantCtx) : (modTen c t f).counters = c.counters := rfl
@[simp] theorem modTen_unusedRecords (c : Chip) (t : Nat) (f : TenantCtx → TenantCtx) : (modTen c t f).unusedRecords = c.unusedRecords := rfl
@[simp] theorem modTen_image (c : Chip) (t : Nat) (f : TenantCtx → TenantCtx) : (modTen c t f).image = c.image := rfl
@[simp] theorem modTen_candidate (c : Chip) (t : Nat) (f : TenantCtx → TenantCtx) : (modTen c t f).candidate = c.candidate := rfl
@[simp] theorem modTen_ports (c : Chip) (t : Nat) (f : TenantCtx → TenantCtx) : (modTen c t f).ports = c.ports := rfl
@[simp] theorem modTen_outbox (c : Chip) (t : Nat) (f : TenantCtx → TenantCtx) : (modTen c t f).outbox = c.outbox := rfl
@[simp] theorem modTen_inbox (c : Chip) (t : Nat) (f : TenantCtx → TenantCtx) : (modTen c t f).inbox = c.inbox := rfl
@[simp] theorem modTen_lostPeers (c : Chip) (t : Nat) (f : TenantCtx → TenantCtx) : (modTen c t f).lostPeers = c.lostPeers := rfl
@[simp] theorem modTen_lostDirs (c : Chip) (t : Nat) (f : TenantCtx → TenantCtx) : (modTen c t f).lostDirs = c.lostDirs := rfl
@[simp] theorem modTen_ingressTokens (c : Chip) (t : Nat) (f : TenantCtx → TenantCtx) : (modTen c t f).ingressTokens = c.ingressTokens := rfl
@[simp] theorem modTen_collisions (c : Chip) (t : Nat) (f : TenantCtx → TenantCtx) : (modTen c t f).collisions = c.collisions := rfl
@[simp] theorem modTen_clusters (c : Chip) (t : Nat) (f : TenantCtx → TenantCtx) : (modTen c t f).clusters = c.clusters := rfl
@[simp] theorem modTen_lines (c : Chip) (t : Nat) (f : TenantCtx → TenantCtx) : (modTen c t f).lines = c.lines := rfl
@[simp] theorem modTen_lineMisses (c : Chip) (t : Nat) (f : TenantCtx → TenantCtx) : (modTen c t f).lineMisses = c.lineMisses := rfl
@[simp] theorem modTen_deadDue (c : Chip) (t : Nat) (f : TenantCtx → TenantCtx) : (modTen c t f).deadDue = c.deadDue := rfl
@[simp] theorem modTen_deadLines (c : Chip) (t : Nat) (f : TenantCtx → TenantCtx) : (modTen c t f).deadLines = c.deadLines := rfl
@[simp] theorem modTen_lineClock (c : Chip) (t : Nat) (f : TenantCtx → TenantCtx) : (modTen c t f).lineClock = c.lineClock := rfl
@[simp] theorem modTen_hbm (c : Chip) (t : Nat) (f : TenantCtx → TenantCtx) : (modTen c t f).hbm = c.hbm := rfl
@[simp] theorem modTen_hbmPoison (c : Chip) (t : Nat) (f : TenantCtx → TenantCtx) : (modTen c t f).hbmPoison = c.hbmPoison := rfl
@[simp] theorem modTen_sync (c : Chip) (t : Nat) (f : TenantCtx → TenantCtx) : (modTen c t f).sync = c.sync := rfl
@[simp] theorem modTen_vault (c : Chip) (t : Nat) (f : TenantCtx → TenantCtx) : (modTen c t f).vault = c.vault := rfl
@[simp] theorem modTen_fuses (c : Chip) (t : Nat) (f : TenantCtx → TenantCtx) : (modTen c t f).fuses = c.fuses := rfl
@[simp] theorem modTen_wipe (c : Chip) (t : Nat) (f : TenantCtx → TenantCtx) : (modTen c t f).wipe = c.wipe := rfl
@[simp] theorem modTen_clearAtSpring (c : Chip) (t : Nat) (f : TenantCtx → TenantCtx) : (modTen c t f).clearAtSpring = c.clearAtSpring := rfl
@[simp] theorem modTen_dbg (c : Chip) (t : Nat) (f : TenantCtx → TenantCtx) : (modTen c t f).dbg = c.dbg := rfl
@[simp] theorem modTen_nonces (c : Chip) (t : Nat) (f : TenantCtx → TenantCtx) : (modTen c t f).nonces = c.nonces := rfl
@[simp] theorem modTen_launches (c : Chip) (t : Nat) (f : TenantCtx → TenantCtx) : (modTen c t f).launches = c.launches := rfl
@[simp] theorem setPort_wake (c : Chip) (p : PortNo) (x : Port) : (setPort c p x).wake = c.wake := rfl
@[simp] theorem setPort_faults (c : Chip) (p : PortNo) (x : Port) : (setPort c p x).faults = c.faults := rfl
@[simp] theorem setPort_occurrences (c : Chip) (p : PortNo) (x : Port) : (setPort c p x).occurrences = c.occurrences := rfl
@[simp] theorem setPort_counters (c : Chip) (p : PortNo) (x : Port) : (setPort c p x).counters = c.counters := rfl
@[simp] theorem setPort_unusedRecords (c : Chip) (p : PortNo) (x : Port) : (setPort c p x).unusedRecords = c.unusedRecords := rfl
@[simp] theorem setPort_image (c : Chip) (p : PortNo) (x : Port) : (setPort c p x).image = c.image := rfl
@[simp] theorem setPort_candidate (c : Chip) (p : PortNo) (x : Port) : (setPort c p x).candidate = c.candidate := rfl
@[simp] theorem setPort_tenants (c : Chip) (p : PortNo) (x : Port) : (setPort c p x).tenants = c.tenants := rfl
@[simp] theorem setPort_outbox (c : Chip) (p : PortNo) (x : Port) : (setPort c p x).outbox = c.outbox := rfl
@[simp] theorem setPort_inbox (c : Chip) (p : PortNo) (x : Port) : (setPort c p x).inbox = c.inbox := rfl
@[simp] theorem setPort_lostPeers (c : Chip) (p : PortNo) (x : Port) : (setPort c p x).lostPeers = c.lostPeers := rfl
@[simp] theorem setPort_lostDirs (c : Chip) (p : PortNo) (x : Port) : (setPort c p x).lostDirs = c.lostDirs := rfl
@[simp] theorem setPort_ingressTokens (c : Chip) (p : PortNo) (x : Port) : (setPort c p x).ingressTokens = c.ingressTokens := rfl
@[simp] theorem setPort_collisions (c : Chip) (p : PortNo) (x : Port) : (setPort c p x).collisions = c.collisions := rfl
@[simp] theorem setPort_clusters (c : Chip) (p : PortNo) (x : Port) : (setPort c p x).clusters = c.clusters := rfl
@[simp] theorem setPort_lines (c : Chip) (p : PortNo) (x : Port) : (setPort c p x).lines = c.lines := rfl
@[simp] theorem setPort_lineMisses (c : Chip) (p : PortNo) (x : Port) : (setPort c p x).lineMisses = c.lineMisses := rfl
@[simp] theorem setPort_deadDue (c : Chip) (p : PortNo) (x : Port) : (setPort c p x).deadDue = c.deadDue := rfl
@[simp] theorem setPort_deadLines (c : Chip) (p : PortNo) (x : Port) : (setPort c p x).deadLines = c.deadLines := rfl
@[simp] theorem setPort_lineClock (c : Chip) (p : PortNo) (x : Port) : (setPort c p x).lineClock = c.lineClock := rfl
@[simp] theorem setPort_hbm (c : Chip) (p : PortNo) (x : Port) : (setPort c p x).hbm = c.hbm := rfl
@[simp] theorem setPort_hbmPoison (c : Chip) (p : PortNo) (x : Port) : (setPort c p x).hbmPoison = c.hbmPoison := rfl
@[simp] theorem setPort_sync (c : Chip) (p : PortNo) (x : Port) : (setPort c p x).sync = c.sync := rfl
@[simp] theorem setPort_vault (c : Chip) (p : PortNo) (x : Port) : (setPort c p x).vault = c.vault := rfl
@[simp] theorem setPort_fuses (c : Chip) (p : PortNo) (x : Port) : (setPort c p x).fuses = c.fuses := rfl
@[simp] theorem setPort_wipe (c : Chip) (p : PortNo) (x : Port) : (setPort c p x).wipe = c.wipe := rfl
@[simp] theorem setPort_clearAtSpring (c : Chip) (p : PortNo) (x : Port) : (setPort c p x).clearAtSpring = c.clearAtSpring := rfl
@[simp] theorem setPort_dbg (c : Chip) (p : PortNo) (x : Port) : (setPort c p x).dbg = c.dbg := rfl
@[simp] theorem setPort_nonces (c : Chip) (p : PortNo) (x : Port) : (setPort c p x).nonces = c.nonces := rfl
@[simp] theorem setPort_launches (c : Chip) (p : PortNo) (x : Port) : (setPort c p x).launches = c.launches := rfl
@[simp] theorem modPort_wake (c : Chip) (p : PortNo) (f : Port → Port) : (modPort c p f).wake = c.wake := rfl
@[simp] theorem modPort_faults (c : Chip) (p : PortNo) (f : Port → Port) : (modPort c p f).faults = c.faults := rfl
@[simp] theorem modPort_occurrences (c : Chip) (p : PortNo) (f : Port → Port) : (modPort c p f).occurrences = c.occurrences := rfl
@[simp] theorem modPort_counters (c : Chip) (p : PortNo) (f : Port → Port) : (modPort c p f).counters = c.counters := rfl
@[simp] theorem modPort_unusedRecords (c : Chip) (p : PortNo) (f : Port → Port) : (modPort c p f).unusedRecords = c.unusedRecords := rfl
@[simp] theorem modPort_image (c : Chip) (p : PortNo) (f : Port → Port) : (modPort c p f).image = c.image := rfl
@[simp] theorem modPort_candidate (c : Chip) (p : PortNo) (f : Port → Port) : (modPort c p f).candidate = c.candidate := rfl
@[simp] theorem modPort_tenants (c : Chip) (p : PortNo) (f : Port → Port) : (modPort c p f).tenants = c.tenants := rfl
@[simp] theorem modPort_outbox (c : Chip) (p : PortNo) (f : Port → Port) : (modPort c p f).outbox = c.outbox := rfl
@[simp] theorem modPort_inbox (c : Chip) (p : PortNo) (f : Port → Port) : (modPort c p f).inbox = c.inbox := rfl
@[simp] theorem modPort_lostPeers (c : Chip) (p : PortNo) (f : Port → Port) : (modPort c p f).lostPeers = c.lostPeers := rfl
@[simp] theorem modPort_lostDirs (c : Chip) (p : PortNo) (f : Port → Port) : (modPort c p f).lostDirs = c.lostDirs := rfl
@[simp] theorem modPort_ingressTokens (c : Chip) (p : PortNo) (f : Port → Port) : (modPort c p f).ingressTokens = c.ingressTokens := rfl
@[simp] theorem modPort_collisions (c : Chip) (p : PortNo) (f : Port → Port) : (modPort c p f).collisions = c.collisions := rfl
@[simp] theorem modPort_clusters (c : Chip) (p : PortNo) (f : Port → Port) : (modPort c p f).clusters = c.clusters := rfl
@[simp] theorem modPort_lines (c : Chip) (p : PortNo) (f : Port → Port) : (modPort c p f).lines = c.lines := rfl
@[simp] theorem modPort_lineMisses (c : Chip) (p : PortNo) (f : Port → Port) : (modPort c p f).lineMisses = c.lineMisses := rfl
@[simp] theorem modPort_deadDue (c : Chip) (p : PortNo) (f : Port → Port) : (modPort c p f).deadDue = c.deadDue := rfl
@[simp] theorem modPort_deadLines (c : Chip) (p : PortNo) (f : Port → Port) : (modPort c p f).deadLines = c.deadLines := rfl
@[simp] theorem modPort_lineClock (c : Chip) (p : PortNo) (f : Port → Port) : (modPort c p f).lineClock = c.lineClock := rfl
@[simp] theorem modPort_hbm (c : Chip) (p : PortNo) (f : Port → Port) : (modPort c p f).hbm = c.hbm := rfl
@[simp] theorem modPort_hbmPoison (c : Chip) (p : PortNo) (f : Port → Port) : (modPort c p f).hbmPoison = c.hbmPoison := rfl
@[simp] theorem modPort_sync (c : Chip) (p : PortNo) (f : Port → Port) : (modPort c p f).sync = c.sync := rfl
@[simp] theorem modPort_vault (c : Chip) (p : PortNo) (f : Port → Port) : (modPort c p f).vault = c.vault := rfl
@[simp] theorem modPort_fuses (c : Chip) (p : PortNo) (f : Port → Port) : (modPort c p f).fuses = c.fuses := rfl
@[simp] theorem modPort_wipe (c : Chip) (p : PortNo) (f : Port → Port) : (modPort c p f).wipe = c.wipe := rfl
@[simp] theorem modPort_clearAtSpring (c : Chip) (p : PortNo) (f : Port → Port) : (modPort c p f).clearAtSpring = c.clearAtSpring := rfl
@[simp] theorem modPort_dbg (c : Chip) (p : PortNo) (f : Port → Port) : (modPort c p f).dbg = c.dbg := rfl
@[simp] theorem modPort_nonces (c : Chip) (p : PortNo) (f : Port → Port) : (modPort c p f).nonces = c.nonces := rfl
@[simp] theorem modPort_launches (c : Chip) (p : PortNo) (f : Port → Port) : (modPort c p f).launches = c.launches := rfl
@[simp] theorem setCluster_wake (c : Chip) (k : ClusterNo) (x : Cluster) : (setCluster c k x).wake = c.wake := rfl
@[simp] theorem setCluster_faults (c : Chip) (k : ClusterNo) (x : Cluster) : (setCluster c k x).faults = c.faults := rfl
@[simp] theorem setCluster_occurrences (c : Chip) (k : ClusterNo) (x : Cluster) : (setCluster c k x).occurrences = c.occurrences := rfl
@[simp] theorem setCluster_counters (c : Chip) (k : ClusterNo) (x : Cluster) : (setCluster c k x).counters = c.counters := rfl
@[simp] theorem setCluster_unusedRecords (c : Chip) (k : ClusterNo) (x : Cluster) : (setCluster c k x).unusedRecords = c.unusedRecords := rfl
@[simp] theorem setCluster_image (c : Chip) (k : ClusterNo) (x : Cluster) : (setCluster c k x).image = c.image := rfl
@[simp] theorem setCluster_candidate (c : Chip) (k : ClusterNo) (x : Cluster) : (setCluster c k x).candidate = c.candidate := rfl
@[simp] theorem setCluster_tenants (c : Chip) (k : ClusterNo) (x : Cluster) : (setCluster c k x).tenants = c.tenants := rfl
@[simp] theorem setCluster_ports (c : Chip) (k : ClusterNo) (x : Cluster) : (setCluster c k x).ports = c.ports := rfl
@[simp] theorem setCluster_outbox (c : Chip) (k : ClusterNo) (x : Cluster) : (setCluster c k x).outbox = c.outbox := rfl
@[simp] theorem setCluster_inbox (c : Chip) (k : ClusterNo) (x : Cluster) : (setCluster c k x).inbox = c.inbox := rfl
@[simp] theorem setCluster_lostPeers (c : Chip) (k : ClusterNo) (x : Cluster) : (setCluster c k x).lostPeers = c.lostPeers := rfl
@[simp] theorem setCluster_lostDirs (c : Chip) (k : ClusterNo) (x : Cluster) : (setCluster c k x).lostDirs = c.lostDirs := rfl
@[simp] theorem setCluster_ingressTokens (c : Chip) (k : ClusterNo) (x : Cluster) : (setCluster c k x).ingressTokens = c.ingressTokens := rfl
@[simp] theorem setCluster_collisions (c : Chip) (k : ClusterNo) (x : Cluster) : (setCluster c k x).collisions = c.collisions := rfl
@[simp] theorem setCluster_lines (c : Chip) (k : ClusterNo) (x : Cluster) : (setCluster c k x).lines = c.lines := rfl
@[simp] theorem setCluster_lineMisses (c : Chip) (k : ClusterNo) (x : Cluster) : (setCluster c k x).lineMisses = c.lineMisses := rfl
@[simp] theorem setCluster_deadDue (c : Chip) (k : ClusterNo) (x : Cluster) : (setCluster c k x).deadDue = c.deadDue := rfl
@[simp] theorem setCluster_deadLines (c : Chip) (k : ClusterNo) (x : Cluster) : (setCluster c k x).deadLines = c.deadLines := rfl
@[simp] theorem setCluster_lineClock (c : Chip) (k : ClusterNo) (x : Cluster) : (setCluster c k x).lineClock = c.lineClock := rfl
@[simp] theorem setCluster_hbm (c : Chip) (k : ClusterNo) (x : Cluster) : (setCluster c k x).hbm = c.hbm := rfl
@[simp] theorem setCluster_hbmPoison (c : Chip) (k : ClusterNo) (x : Cluster) : (setCluster c k x).hbmPoison = c.hbmPoison := rfl
@[simp] theorem setCluster_sync (c : Chip) (k : ClusterNo) (x : Cluster) : (setCluster c k x).sync = c.sync := rfl
@[simp] theorem setCluster_vault (c : Chip) (k : ClusterNo) (x : Cluster) : (setCluster c k x).vault = c.vault := rfl
@[simp] theorem setCluster_fuses (c : Chip) (k : ClusterNo) (x : Cluster) : (setCluster c k x).fuses = c.fuses := rfl
@[simp] theorem setCluster_wipe (c : Chip) (k : ClusterNo) (x : Cluster) : (setCluster c k x).wipe = c.wipe := rfl
@[simp] theorem setCluster_clearAtSpring (c : Chip) (k : ClusterNo) (x : Cluster) : (setCluster c k x).clearAtSpring = c.clearAtSpring := rfl
@[simp] theorem setCluster_dbg (c : Chip) (k : ClusterNo) (x : Cluster) : (setCluster c k x).dbg = c.dbg := rfl
@[simp] theorem setCluster_nonces (c : Chip) (k : ClusterNo) (x : Cluster) : (setCluster c k x).nonces = c.nonces := rfl
@[simp] theorem setCluster_launches (c : Chip) (k : ClusterNo) (x : Cluster) : (setCluster c k x).launches = c.launches := rfl
@[simp] theorem modCluster_wake (c : Chip) (k : ClusterNo) (f : Cluster → Cluster) : (modCluster c k f).wake = c.wake := rfl
@[simp] theorem modCluster_faults (c : Chip) (k : ClusterNo) (f : Cluster → Cluster) : (modCluster c k f).faults = c.faults := rfl
@[simp] theorem modCluster_occurrences (c : Chip) (k : ClusterNo) (f : Cluster → Cluster) : (modCluster c k f).occurrences = c.occurrences := rfl
@[simp] theorem modCluster_counters (c : Chip) (k : ClusterNo) (f : Cluster → Cluster) : (modCluster c k f).counters = c.counters := rfl
@[simp] theorem modCluster_unusedRecords (c : Chip) (k : ClusterNo) (f : Cluster → Cluster) : (modCluster c k f).unusedRecords = c.unusedRecords := rfl
@[simp] theorem modCluster_image (c : Chip) (k : ClusterNo) (f : Cluster → Cluster) : (modCluster c k f).image = c.image := rfl
@[simp] theorem modCluster_candidate (c : Chip) (k : ClusterNo) (f : Cluster → Cluster) : (modCluster c k f).candidate = c.candidate := rfl
@[simp] theorem modCluster_tenants (c : Chip) (k : ClusterNo) (f : Cluster → Cluster) : (modCluster c k f).tenants = c.tenants := rfl
@[simp] theorem modCluster_ports (c : Chip) (k : ClusterNo) (f : Cluster → Cluster) : (modCluster c k f).ports = c.ports := rfl
@[simp] theorem modCluster_outbox (c : Chip) (k : ClusterNo) (f : Cluster → Cluster) : (modCluster c k f).outbox = c.outbox := rfl
@[simp] theorem modCluster_inbox (c : Chip) (k : ClusterNo) (f : Cluster → Cluster) : (modCluster c k f).inbox = c.inbox := rfl
@[simp] theorem modCluster_lostPeers (c : Chip) (k : ClusterNo) (f : Cluster → Cluster) : (modCluster c k f).lostPeers = c.lostPeers := rfl
@[simp] theorem modCluster_lostDirs (c : Chip) (k : ClusterNo) (f : Cluster → Cluster) : (modCluster c k f).lostDirs = c.lostDirs := rfl
@[simp] theorem modCluster_ingressTokens (c : Chip) (k : ClusterNo) (f : Cluster → Cluster) : (modCluster c k f).ingressTokens = c.ingressTokens := rfl
@[simp] theorem modCluster_collisions (c : Chip) (k : ClusterNo) (f : Cluster → Cluster) : (modCluster c k f).collisions = c.collisions := rfl
@[simp] theorem modCluster_lines (c : Chip) (k : ClusterNo) (f : Cluster → Cluster) : (modCluster c k f).lines = c.lines := rfl
@[simp] theorem modCluster_lineMisses (c : Chip) (k : ClusterNo) (f : Cluster → Cluster) : (modCluster c k f).lineMisses = c.lineMisses := rfl
@[simp] theorem modCluster_deadDue (c : Chip) (k : ClusterNo) (f : Cluster → Cluster) : (modCluster c k f).deadDue = c.deadDue := rfl
@[simp] theorem modCluster_deadLines (c : Chip) (k : ClusterNo) (f : Cluster → Cluster) : (modCluster c k f).deadLines = c.deadLines := rfl
@[simp] theorem modCluster_lineClock (c : Chip) (k : ClusterNo) (f : Cluster → Cluster) : (modCluster c k f).lineClock = c.lineClock := rfl
@[simp] theorem modCluster_hbm (c : Chip) (k : ClusterNo) (f : Cluster → Cluster) : (modCluster c k f).hbm = c.hbm := rfl
@[simp] theorem modCluster_hbmPoison (c : Chip) (k : ClusterNo) (f : Cluster → Cluster) : (modCluster c k f).hbmPoison = c.hbmPoison := rfl
@[simp] theorem modCluster_sync (c : Chip) (k : ClusterNo) (f : Cluster → Cluster) : (modCluster c k f).sync = c.sync := rfl
@[simp] theorem modCluster_vault (c : Chip) (k : ClusterNo) (f : Cluster → Cluster) : (modCluster c k f).vault = c.vault := rfl
@[simp] theorem modCluster_fuses (c : Chip) (k : ClusterNo) (f : Cluster → Cluster) : (modCluster c k f).fuses = c.fuses := rfl
@[simp] theorem modCluster_wipe (c : Chip) (k : ClusterNo) (f : Cluster → Cluster) : (modCluster c k f).wipe = c.wipe := rfl
@[simp] theorem modCluster_clearAtSpring (c : Chip) (k : ClusterNo) (f : Cluster → Cluster) : (modCluster c k f).clearAtSpring = c.clearAtSpring := rfl
@[simp] theorem modCluster_dbg (c : Chip) (k : ClusterNo) (f : Cluster → Cluster) : (modCluster c k f).dbg = c.dbg := rfl
@[simp] theorem modCluster_nonces (c : Chip) (k : ClusterNo) (f : Cluster → Cluster) : (modCluster c k f).nonces = c.nonces := rfl
@[simp] theorem modCluster_launches (c : Chip) (k : ClusterNo) (f : Cluster → Cluster) : (modCluster c k f).launches = c.launches := rfl
@[simp] theorem modWake_faults (c : Chip) (f : Wake → Wake) : (modWake c f).faults = c.faults := rfl
@[simp] theorem modWake_occurrences (c : Chip) (f : Wake → Wake) : (modWake c f).occurrences = c.occurrences := rfl
@[simp] theorem modWake_counters (c : Chip) (f : Wake → Wake) : (modWake c f).counters = c.counters := rfl
@[simp] theorem modWake_unusedRecords (c : Chip) (f : Wake → Wake) : (modWake c f).unusedRecords = c.unusedRecords := rfl
@[simp] theorem modWake_image (c : Chip) (f : Wake → Wake) : (modWake c f).image = c.image := rfl
@[simp] theorem modWake_candidate (c : Chip) (f : Wake → Wake) : (modWake c f).candidate = c.candidate := rfl
@[simp] theorem modWake_tenants (c : Chip) (f : Wake → Wake) : (modWake c f).tenants = c.tenants := rfl
@[simp] theorem modWake_ports (c : Chip) (f : Wake → Wake) : (modWake c f).ports = c.ports := rfl
@[simp] theorem modWake_outbox (c : Chip) (f : Wake → Wake) : (modWake c f).outbox = c.outbox := rfl
@[simp] theorem modWake_inbox (c : Chip) (f : Wake → Wake) : (modWake c f).inbox = c.inbox := rfl
@[simp] theorem modWake_lostPeers (c : Chip) (f : Wake → Wake) : (modWake c f).lostPeers = c.lostPeers := rfl
@[simp] theorem modWake_lostDirs (c : Chip) (f : Wake → Wake) : (modWake c f).lostDirs = c.lostDirs := rfl
@[simp] theorem modWake_ingressTokens (c : Chip) (f : Wake → Wake) : (modWake c f).ingressTokens = c.ingressTokens := rfl
@[simp] theorem modWake_collisions (c : Chip) (f : Wake → Wake) : (modWake c f).collisions = c.collisions := rfl
@[simp] theorem modWake_clusters (c : Chip) (f : Wake → Wake) : (modWake c f).clusters = c.clusters := rfl
@[simp] theorem modWake_lines (c : Chip) (f : Wake → Wake) : (modWake c f).lines = c.lines := rfl
@[simp] theorem modWake_lineMisses (c : Chip) (f : Wake → Wake) : (modWake c f).lineMisses = c.lineMisses := rfl
@[simp] theorem modWake_deadDue (c : Chip) (f : Wake → Wake) : (modWake c f).deadDue = c.deadDue := rfl
@[simp] theorem modWake_deadLines (c : Chip) (f : Wake → Wake) : (modWake c f).deadLines = c.deadLines := rfl
@[simp] theorem modWake_lineClock (c : Chip) (f : Wake → Wake) : (modWake c f).lineClock = c.lineClock := rfl
@[simp] theorem modWake_hbm (c : Chip) (f : Wake → Wake) : (modWake c f).hbm = c.hbm := rfl
@[simp] theorem modWake_hbmPoison (c : Chip) (f : Wake → Wake) : (modWake c f).hbmPoison = c.hbmPoison := rfl
@[simp] theorem modWake_sync (c : Chip) (f : Wake → Wake) : (modWake c f).sync = c.sync := rfl
@[simp] theorem modWake_vault (c : Chip) (f : Wake → Wake) : (modWake c f).vault = c.vault := rfl
@[simp] theorem modWake_fuses (c : Chip) (f : Wake → Wake) : (modWake c f).fuses = c.fuses := rfl
@[simp] theorem modWake_wipe (c : Chip) (f : Wake → Wake) : (modWake c f).wipe = c.wipe := rfl
@[simp] theorem modWake_clearAtSpring (c : Chip) (f : Wake → Wake) : (modWake c f).clearAtSpring = c.clearAtSpring := rfl
@[simp] theorem modWake_dbg (c : Chip) (f : Wake → Wake) : (modWake c f).dbg = c.dbg := rfl
@[simp] theorem modWake_nonces (c : Chip) (f : Wake → Wake) : (modWake c f).nonces = c.nonces := rfl
@[simp] theorem modWake_launches (c : Chip) (f : Wake → Wake) : (modWake c f).launches = c.launches := rfl
@[simp] theorem setSync_wake (c : Chip) (n : Nat) (o : SyncObj) : (setSync c n o).wake = c.wake := rfl
@[simp] theorem setSync_faults (c : Chip) (n : Nat) (o : SyncObj) : (setSync c n o).faults = c.faults := rfl
@[simp] theorem setSync_occurrences (c : Chip) (n : Nat) (o : SyncObj) : (setSync c n o).occurrences = c.occurrences := rfl
@[simp] theorem setSync_counters (c : Chip) (n : Nat) (o : SyncObj) : (setSync c n o).counters = c.counters := rfl
@[simp] theorem setSync_unusedRecords (c : Chip) (n : Nat) (o : SyncObj) : (setSync c n o).unusedRecords = c.unusedRecords := rfl
@[simp] theorem setSync_image (c : Chip) (n : Nat) (o : SyncObj) : (setSync c n o).image = c.image := rfl
@[simp] theorem setSync_candidate (c : Chip) (n : Nat) (o : SyncObj) : (setSync c n o).candidate = c.candidate := rfl
@[simp] theorem setSync_tenants (c : Chip) (n : Nat) (o : SyncObj) : (setSync c n o).tenants = c.tenants := rfl
@[simp] theorem setSync_ports (c : Chip) (n : Nat) (o : SyncObj) : (setSync c n o).ports = c.ports := rfl
@[simp] theorem setSync_outbox (c : Chip) (n : Nat) (o : SyncObj) : (setSync c n o).outbox = c.outbox := rfl
@[simp] theorem setSync_inbox (c : Chip) (n : Nat) (o : SyncObj) : (setSync c n o).inbox = c.inbox := rfl
@[simp] theorem setSync_lostPeers (c : Chip) (n : Nat) (o : SyncObj) : (setSync c n o).lostPeers = c.lostPeers := rfl
@[simp] theorem setSync_lostDirs (c : Chip) (n : Nat) (o : SyncObj) : (setSync c n o).lostDirs = c.lostDirs := rfl
@[simp] theorem setSync_ingressTokens (c : Chip) (n : Nat) (o : SyncObj) : (setSync c n o).ingressTokens = c.ingressTokens := rfl
@[simp] theorem setSync_collisions (c : Chip) (n : Nat) (o : SyncObj) : (setSync c n o).collisions = c.collisions := rfl
@[simp] theorem setSync_clusters (c : Chip) (n : Nat) (o : SyncObj) : (setSync c n o).clusters = c.clusters := rfl
@[simp] theorem setSync_lines (c : Chip) (n : Nat) (o : SyncObj) : (setSync c n o).lines = c.lines := rfl
@[simp] theorem setSync_lineMisses (c : Chip) (n : Nat) (o : SyncObj) : (setSync c n o).lineMisses = c.lineMisses := rfl
@[simp] theorem setSync_deadDue (c : Chip) (n : Nat) (o : SyncObj) : (setSync c n o).deadDue = c.deadDue := rfl
@[simp] theorem setSync_deadLines (c : Chip) (n : Nat) (o : SyncObj) : (setSync c n o).deadLines = c.deadLines := rfl
@[simp] theorem setSync_lineClock (c : Chip) (n : Nat) (o : SyncObj) : (setSync c n o).lineClock = c.lineClock := rfl
@[simp] theorem setSync_hbm (c : Chip) (n : Nat) (o : SyncObj) : (setSync c n o).hbm = c.hbm := rfl
@[simp] theorem setSync_hbmPoison (c : Chip) (n : Nat) (o : SyncObj) : (setSync c n o).hbmPoison = c.hbmPoison := rfl
@[simp] theorem setSync_vault (c : Chip) (n : Nat) (o : SyncObj) : (setSync c n o).vault = c.vault := rfl
@[simp] theorem setSync_fuses (c : Chip) (n : Nat) (o : SyncObj) : (setSync c n o).fuses = c.fuses := rfl
@[simp] theorem setSync_wipe (c : Chip) (n : Nat) (o : SyncObj) : (setSync c n o).wipe = c.wipe := rfl
@[simp] theorem setSync_clearAtSpring (c : Chip) (n : Nat) (o : SyncObj) : (setSync c n o).clearAtSpring = c.clearAtSpring := rfl
@[simp] theorem setSync_dbg (c : Chip) (n : Nat) (o : SyncObj) : (setSync c n o).dbg = c.dbg := rfl
@[simp] theorem setSync_nonces (c : Chip) (n : Nat) (o : SyncObj) : (setSync c n o).nonces = c.nonces := rfl
@[simp] theorem setSync_launches (c : Chip) (n : Nat) (o : SyncObj) : (setSync c n o).launches = c.launches := rfl
@[simp] theorem emit_wake (c : Chip) (f : TxFrame) : (emit c f).wake = c.wake := rfl
@[simp] theorem emit_faults (c : Chip) (f : TxFrame) : (emit c f).faults = c.faults := rfl
@[simp] theorem emit_occurrences (c : Chip) (f : TxFrame) : (emit c f).occurrences = c.occurrences := rfl
@[simp] theorem emit_counters (c : Chip) (f : TxFrame) : (emit c f).counters = c.counters := rfl
@[simp] theorem emit_unusedRecords (c : Chip) (f : TxFrame) : (emit c f).unusedRecords = c.unusedRecords := rfl
@[simp] theorem emit_image (c : Chip) (f : TxFrame) : (emit c f).image = c.image := rfl
@[simp] theorem emit_candidate (c : Chip) (f : TxFrame) : (emit c f).candidate = c.candidate := rfl
@[simp] theorem emit_tenants (c : Chip) (f : TxFrame) : (emit c f).tenants = c.tenants := rfl
@[simp] theorem emit_ports (c : Chip) (f : TxFrame) : (emit c f).ports = c.ports := rfl
@[simp] theorem emit_inbox (c : Chip) (f : TxFrame) : (emit c f).inbox = c.inbox := rfl
@[simp] theorem emit_lostPeers (c : Chip) (f : TxFrame) : (emit c f).lostPeers = c.lostPeers := rfl
@[simp] theorem emit_lostDirs (c : Chip) (f : TxFrame) : (emit c f).lostDirs = c.lostDirs := rfl
@[simp] theorem emit_ingressTokens (c : Chip) (f : TxFrame) : (emit c f).ingressTokens = c.ingressTokens := rfl
@[simp] theorem emit_collisions (c : Chip) (f : TxFrame) : (emit c f).collisions = c.collisions := rfl
@[simp] theorem emit_clusters (c : Chip) (f : TxFrame) : (emit c f).clusters = c.clusters := rfl
@[simp] theorem emit_lines (c : Chip) (f : TxFrame) : (emit c f).lines = c.lines := rfl
@[simp] theorem emit_lineMisses (c : Chip) (f : TxFrame) : (emit c f).lineMisses = c.lineMisses := rfl
@[simp] theorem emit_deadDue (c : Chip) (f : TxFrame) : (emit c f).deadDue = c.deadDue := rfl
@[simp] theorem emit_deadLines (c : Chip) (f : TxFrame) : (emit c f).deadLines = c.deadLines := rfl
@[simp] theorem emit_lineClock (c : Chip) (f : TxFrame) : (emit c f).lineClock = c.lineClock := rfl
@[simp] theorem emit_hbm (c : Chip) (f : TxFrame) : (emit c f).hbm = c.hbm := rfl
@[simp] theorem emit_hbmPoison (c : Chip) (f : TxFrame) : (emit c f).hbmPoison = c.hbmPoison := rfl
@[simp] theorem emit_sync (c : Chip) (f : TxFrame) : (emit c f).sync = c.sync := rfl
@[simp] theorem emit_vault (c : Chip) (f : TxFrame) : (emit c f).vault = c.vault := rfl
@[simp] theorem emit_fuses (c : Chip) (f : TxFrame) : (emit c f).fuses = c.fuses := rfl
@[simp] theorem emit_wipe (c : Chip) (f : TxFrame) : (emit c f).wipe = c.wipe := rfl
@[simp] theorem emit_clearAtSpring (c : Chip) (f : TxFrame) : (emit c f).clearAtSpring = c.clearAtSpring := rfl
@[simp] theorem emit_dbg (c : Chip) (f : TxFrame) : (emit c f).dbg = c.dbg := rfl
@[simp] theorem emit_nonces (c : Chip) (f : TxFrame) : (emit c f).nonces = c.nonces := rfl
@[simp] theorem emit_launches (c : Chip) (f : TxFrame) : (emit c f).launches = c.launches := rfl
@[simp] theorem countDev_wake (c : Chip) (i n : Nat) : (countDev c i n).wake = c.wake := rfl
@[simp] theorem countDev_faults (c : Chip) (i n : Nat) : (countDev c i n).faults = c.faults := rfl
@[simp] theorem countDev_occurrences (c : Chip) (i n : Nat) : (countDev c i n).occurrences = c.occurrences := rfl
@[simp] theorem countDev_unusedRecords (c : Chip) (i n : Nat) : (countDev c i n).unusedRecords = c.unusedRecords := rfl
@[simp] theorem countDev_image (c : Chip) (i n : Nat) : (countDev c i n).image = c.image := rfl
@[simp] theorem countDev_candidate (c : Chip) (i n : Nat) : (countDev c i n).candidate = c.candidate := rfl
@[simp] theorem countDev_tenants (c : Chip) (i n : Nat) : (countDev c i n).tenants = c.tenants := rfl
@[simp] theorem countDev_ports (c : Chip) (i n : Nat) : (countDev c i n).ports = c.ports := rfl
@[simp] theorem countDev_outbox (c : Chip) (i n : Nat) : (countDev c i n).outbox = c.outbox := rfl
@[simp] theorem countDev_inbox (c : Chip) (i n : Nat) : (countDev c i n).inbox = c.inbox := rfl
@[simp] theorem countDev_lostPeers (c : Chip) (i n : Nat) : (countDev c i n).lostPeers = c.lostPeers := rfl
@[simp] theorem countDev_lostDirs (c : Chip) (i n : Nat) : (countDev c i n).lostDirs = c.lostDirs := rfl
@[simp] theorem countDev_ingressTokens (c : Chip) (i n : Nat) : (countDev c i n).ingressTokens = c.ingressTokens := rfl
@[simp] theorem countDev_collisions (c : Chip) (i n : Nat) : (countDev c i n).collisions = c.collisions := rfl
@[simp] theorem countDev_clusters (c : Chip) (i n : Nat) : (countDev c i n).clusters = c.clusters := rfl
@[simp] theorem countDev_lines (c : Chip) (i n : Nat) : (countDev c i n).lines = c.lines := rfl
@[simp] theorem countDev_lineMisses (c : Chip) (i n : Nat) : (countDev c i n).lineMisses = c.lineMisses := rfl
@[simp] theorem countDev_deadDue (c : Chip) (i n : Nat) : (countDev c i n).deadDue = c.deadDue := rfl
@[simp] theorem countDev_deadLines (c : Chip) (i n : Nat) : (countDev c i n).deadLines = c.deadLines := rfl
@[simp] theorem countDev_lineClock (c : Chip) (i n : Nat) : (countDev c i n).lineClock = c.lineClock := rfl
@[simp] theorem countDev_hbm (c : Chip) (i n : Nat) : (countDev c i n).hbm = c.hbm := rfl
@[simp] theorem countDev_hbmPoison (c : Chip) (i n : Nat) : (countDev c i n).hbmPoison = c.hbmPoison := rfl
@[simp] theorem countDev_sync (c : Chip) (i n : Nat) : (countDev c i n).sync = c.sync := rfl
@[simp] theorem countDev_vault (c : Chip) (i n : Nat) : (countDev c i n).vault = c.vault := rfl
@[simp] theorem countDev_fuses (c : Chip) (i n : Nat) : (countDev c i n).fuses = c.fuses := rfl
@[simp] theorem countDev_wipe (c : Chip) (i n : Nat) : (countDev c i n).wipe = c.wipe := rfl
@[simp] theorem countDev_clearAtSpring (c : Chip) (i n : Nat) : (countDev c i n).clearAtSpring = c.clearAtSpring := rfl
@[simp] theorem countDev_dbg (c : Chip) (i n : Nat) : (countDev c i n).dbg = c.dbg := rfl
@[simp] theorem countDev_nonces (c : Chip) (i n : Nat) : (countDev c i n).nonces = c.nonces := rfl
@[simp] theorem countDev_launches (c : Chip) (i n : Nat) : (countDev c i n).launches = c.launches := rfl
@[simp] theorem countCode_wake (c : Chip) (n : Nat) : (countCode c n).wake = c.wake := rfl
@[simp] theorem countCode_faults (c : Chip) (n : Nat) : (countCode c n).faults = c.faults := rfl
@[simp] theorem countCode_counters (c : Chip) (n : Nat) : (countCode c n).counters = c.counters := rfl
@[simp] theorem countCode_unusedRecords (c : Chip) (n : Nat) : (countCode c n).unusedRecords = c.unusedRecords := rfl
@[simp] theorem countCode_image (c : Chip) (n : Nat) : (countCode c n).image = c.image := rfl
@[simp] theorem countCode_candidate (c : Chip) (n : Nat) : (countCode c n).candidate = c.candidate := rfl
@[simp] theorem countCode_tenants (c : Chip) (n : Nat) : (countCode c n).tenants = c.tenants := rfl
@[simp] theorem countCode_ports (c : Chip) (n : Nat) : (countCode c n).ports = c.ports := rfl
@[simp] theorem countCode_outbox (c : Chip) (n : Nat) : (countCode c n).outbox = c.outbox := rfl
@[simp] theorem countCode_inbox (c : Chip) (n : Nat) : (countCode c n).inbox = c.inbox := rfl
@[simp] theorem countCode_lostPeers (c : Chip) (n : Nat) : (countCode c n).lostPeers = c.lostPeers := rfl
@[simp] theorem countCode_lostDirs (c : Chip) (n : Nat) : (countCode c n).lostDirs = c.lostDirs := rfl
@[simp] theorem countCode_ingressTokens (c : Chip) (n : Nat) : (countCode c n).ingressTokens = c.ingressTokens := rfl
@[simp] theorem countCode_collisions (c : Chip) (n : Nat) : (countCode c n).collisions = c.collisions := rfl
@[simp] theorem countCode_clusters (c : Chip) (n : Nat) : (countCode c n).clusters = c.clusters := rfl
@[simp] theorem countCode_lines (c : Chip) (n : Nat) : (countCode c n).lines = c.lines := rfl
@[simp] theorem countCode_lineMisses (c : Chip) (n : Nat) : (countCode c n).lineMisses = c.lineMisses := rfl
@[simp] theorem countCode_deadDue (c : Chip) (n : Nat) : (countCode c n).deadDue = c.deadDue := rfl
@[simp] theorem countCode_deadLines (c : Chip) (n : Nat) : (countCode c n).deadLines = c.deadLines := rfl
@[simp] theorem countCode_lineClock (c : Chip) (n : Nat) : (countCode c n).lineClock = c.lineClock := rfl
@[simp] theorem countCode_hbm (c : Chip) (n : Nat) : (countCode c n).hbm = c.hbm := rfl
@[simp] theorem countCode_hbmPoison (c : Chip) (n : Nat) : (countCode c n).hbmPoison = c.hbmPoison := rfl
@[simp] theorem countCode_sync (c : Chip) (n : Nat) : (countCode c n).sync = c.sync := rfl
@[simp] theorem countCode_vault (c : Chip) (n : Nat) : (countCode c n).vault = c.vault := rfl
@[simp] theorem countCode_fuses (c : Chip) (n : Nat) : (countCode c n).fuses = c.fuses := rfl
@[simp] theorem countCode_wipe (c : Chip) (n : Nat) : (countCode c n).wipe = c.wipe := rfl
@[simp] theorem countCode_clearAtSpring (c : Chip) (n : Nat) : (countCode c n).clearAtSpring = c.clearAtSpring := rfl
@[simp] theorem countCode_dbg (c : Chip) (n : Nat) : (countCode c n).dbg = c.dbg := rfl
@[simp] theorem countCode_nonces (c : Chip) (n : Nat) : (countCode c n).nonces = c.nonces := rfl
@[simp] theorem countCode_launches (c : Chip) (n : Nat) : (countCode c n).launches = c.launches := rfl
@[simp] theorem recordFault_wake (c : Chip) (n : Nat) (p : Option PortNo) : (recordFault c n p).wake = c.wake := rfl
@[simp] theorem recordFault_counters (c : Chip) (n : Nat) (p : Option PortNo) : (recordFault c n p).counters = c.counters := rfl
@[simp] theorem recordFault_unusedRecords (c : Chip) (n : Nat) (p : Option PortNo) : (recordFault c n p).unusedRecords = c.unusedRecords := rfl
@[simp] theorem recordFault_image (c : Chip) (n : Nat) (p : Option PortNo) : (recordFault c n p).image = c.image := rfl
@[simp] theorem recordFault_candidate (c : Chip) (n : Nat) (p : Option PortNo) : (recordFault c n p).candidate = c.candidate := rfl
@[simp] theorem recordFault_tenants (c : Chip) (n : Nat) (p : Option PortNo) : (recordFault c n p).tenants = c.tenants := rfl
@[simp] theorem recordFault_ports (c : Chip) (n : Nat) (p : Option PortNo) : (recordFault c n p).ports = c.ports := rfl
@[simp] theorem recordFault_outbox (c : Chip) (n : Nat) (p : Option PortNo) : (recordFault c n p).outbox = c.outbox := rfl
@[simp] theorem recordFault_inbox (c : Chip) (n : Nat) (p : Option PortNo) : (recordFault c n p).inbox = c.inbox := rfl
@[simp] theorem recordFault_lostPeers (c : Chip) (n : Nat) (p : Option PortNo) : (recordFault c n p).lostPeers = c.lostPeers := rfl
@[simp] theorem recordFault_lostDirs (c : Chip) (n : Nat) (p : Option PortNo) : (recordFault c n p).lostDirs = c.lostDirs := rfl
@[simp] theorem recordFault_ingressTokens (c : Chip) (n : Nat) (p : Option PortNo) : (recordFault c n p).ingressTokens = c.ingressTokens := rfl
@[simp] theorem recordFault_collisions (c : Chip) (n : Nat) (p : Option PortNo) : (recordFault c n p).collisions = c.collisions := rfl
@[simp] theorem recordFault_clusters (c : Chip) (n : Nat) (p : Option PortNo) : (recordFault c n p).clusters = c.clusters := rfl
@[simp] theorem recordFault_lines (c : Chip) (n : Nat) (p : Option PortNo) : (recordFault c n p).lines = c.lines := rfl
@[simp] theorem recordFault_lineMisses (c : Chip) (n : Nat) (p : Option PortNo) : (recordFault c n p).lineMisses = c.lineMisses := rfl
@[simp] theorem recordFault_deadDue (c : Chip) (n : Nat) (p : Option PortNo) : (recordFault c n p).deadDue = c.deadDue := rfl
@[simp] theorem recordFault_deadLines (c : Chip) (n : Nat) (p : Option PortNo) : (recordFault c n p).deadLines = c.deadLines := rfl
@[simp] theorem recordFault_lineClock (c : Chip) (n : Nat) (p : Option PortNo) : (recordFault c n p).lineClock = c.lineClock := rfl
@[simp] theorem recordFault_hbm (c : Chip) (n : Nat) (p : Option PortNo) : (recordFault c n p).hbm = c.hbm := rfl
@[simp] theorem recordFault_hbmPoison (c : Chip) (n : Nat) (p : Option PortNo) : (recordFault c n p).hbmPoison = c.hbmPoison := rfl
@[simp] theorem recordFault_sync (c : Chip) (n : Nat) (p : Option PortNo) : (recordFault c n p).sync = c.sync := rfl
@[simp] theorem recordFault_vault (c : Chip) (n : Nat) (p : Option PortNo) : (recordFault c n p).vault = c.vault := rfl
@[simp] theorem recordFault_fuses (c : Chip) (n : Nat) (p : Option PortNo) : (recordFault c n p).fuses = c.fuses := rfl
@[simp] theorem recordFault_wipe (c : Chip) (n : Nat) (p : Option PortNo) : (recordFault c n p).wipe = c.wipe := rfl
@[simp] theorem recordFault_clearAtSpring (c : Chip) (n : Nat) (p : Option PortNo) : (recordFault c n p).clearAtSpring = c.clearAtSpring := rfl
@[simp] theorem recordFault_dbg (c : Chip) (n : Nat) (p : Option PortNo) : (recordFault c n p).dbg = c.dbg := rfl
@[simp] theorem recordFault_nonces (c : Chip) (n : Nat) (p : Option PortNo) : (recordFault c n p).nonces = c.nonces := rfl
@[simp] theorem recordFault_launches (c : Chip) (n : Nat) (p : Option PortNo) : (recordFault c n p).launches = c.launches := rfl
@[simp] theorem clearFault_wake (c : Chip) (n : Nat) : (clearFault c n).wake = c.wake := rfl
@[simp] theorem clearFault_occurrences (c : Chip) (n : Nat) : (clearFault c n).occurrences = c.occurrences := rfl
@[simp] theorem clearFault_counters (c : Chip) (n : Nat) : (clearFault c n).counters = c.counters := rfl
@[simp] theorem clearFault_unusedRecords (c : Chip) (n : Nat) : (clearFault c n).unusedRecords = c.unusedRecords := rfl
@[simp] theorem clearFault_image (c : Chip) (n : Nat) : (clearFault c n).image = c.image := rfl
@[simp] theorem clearFault_candidate (c : Chip) (n : Nat) : (clearFault c n).candidate = c.candidate := rfl
@[simp] theorem clearFault_tenants (c : Chip) (n : Nat) : (clearFault c n).tenants = c.tenants := rfl
@[simp] theorem clearFault_ports (c : Chip) (n : Nat) : (clearFault c n).ports = c.ports := rfl
@[simp] theorem clearFault_outbox (c : Chip) (n : Nat) : (clearFault c n).outbox = c.outbox := rfl
@[simp] theorem clearFault_inbox (c : Chip) (n : Nat) : (clearFault c n).inbox = c.inbox := rfl
@[simp] theorem clearFault_lostPeers (c : Chip) (n : Nat) : (clearFault c n).lostPeers = c.lostPeers := rfl
@[simp] theorem clearFault_lostDirs (c : Chip) (n : Nat) : (clearFault c n).lostDirs = c.lostDirs := rfl
@[simp] theorem clearFault_ingressTokens (c : Chip) (n : Nat) : (clearFault c n).ingressTokens = c.ingressTokens := rfl
@[simp] theorem clearFault_collisions (c : Chip) (n : Nat) : (clearFault c n).collisions = c.collisions := rfl
@[simp] theorem clearFault_clusters (c : Chip) (n : Nat) : (clearFault c n).clusters = c.clusters := rfl
@[simp] theorem clearFault_lines (c : Chip) (n : Nat) : (clearFault c n).lines = c.lines := rfl
@[simp] theorem clearFault_lineMisses (c : Chip) (n : Nat) : (clearFault c n).lineMisses = c.lineMisses := rfl
@[simp] theorem clearFault_deadDue (c : Chip) (n : Nat) : (clearFault c n).deadDue = c.deadDue := rfl
@[simp] theorem clearFault_deadLines (c : Chip) (n : Nat) : (clearFault c n).deadLines = c.deadLines := rfl
@[simp] theorem clearFault_lineClock (c : Chip) (n : Nat) : (clearFault c n).lineClock = c.lineClock := rfl
@[simp] theorem clearFault_hbm (c : Chip) (n : Nat) : (clearFault c n).hbm = c.hbm := rfl
@[simp] theorem clearFault_hbmPoison (c : Chip) (n : Nat) : (clearFault c n).hbmPoison = c.hbmPoison := rfl
@[simp] theorem clearFault_sync (c : Chip) (n : Nat) : (clearFault c n).sync = c.sync := rfl
@[simp] theorem clearFault_vault (c : Chip) (n : Nat) : (clearFault c n).vault = c.vault := rfl
@[simp] theorem clearFault_fuses (c : Chip) (n : Nat) : (clearFault c n).fuses = c.fuses := rfl
@[simp] theorem clearFault_wipe (c : Chip) (n : Nat) : (clearFault c n).wipe = c.wipe := rfl
@[simp] theorem clearFault_clearAtSpring (c : Chip) (n : Nat) : (clearFault c n).clearAtSpring = c.clearAtSpring := rfl
@[simp] theorem clearFault_dbg (c : Chip) (n : Nat) : (clearFault c n).dbg = c.dbg := rfl
@[simp] theorem clearFault_nonces (c : Chip) (n : Nat) : (clearFault c n).nonces = c.nonces := rfl
@[simp] theorem clearFault_launches (c : Chip) (n : Nat) : (clearFault c n).launches = c.launches := rfl
@[simp] theorem setKey_wake (c : Chip) (t : Nat) (k : KeyRec) : (setKey c t k).wake = c.wake := rfl
@[simp] theorem setKey_faults (c : Chip) (t : Nat) (k : KeyRec) : (setKey c t k).faults = c.faults := rfl
@[simp] theorem setKey_occurrences (c : Chip) (t : Nat) (k : KeyRec) : (setKey c t k).occurrences = c.occurrences := rfl
@[simp] theorem setKey_counters (c : Chip) (t : Nat) (k : KeyRec) : (setKey c t k).counters = c.counters := rfl
@[simp] theorem setKey_unusedRecords (c : Chip) (t : Nat) (k : KeyRec) : (setKey c t k).unusedRecords = c.unusedRecords := rfl
@[simp] theorem setKey_image (c : Chip) (t : Nat) (k : KeyRec) : (setKey c t k).image = c.image := rfl
@[simp] theorem setKey_candidate (c : Chip) (t : Nat) (k : KeyRec) : (setKey c t k).candidate = c.candidate := rfl
@[simp] theorem setKey_tenants (c : Chip) (t : Nat) (k : KeyRec) : (setKey c t k).tenants = c.tenants := rfl
@[simp] theorem setKey_ports (c : Chip) (t : Nat) (k : KeyRec) : (setKey c t k).ports = c.ports := rfl
@[simp] theorem setKey_outbox (c : Chip) (t : Nat) (k : KeyRec) : (setKey c t k).outbox = c.outbox := rfl
@[simp] theorem setKey_inbox (c : Chip) (t : Nat) (k : KeyRec) : (setKey c t k).inbox = c.inbox := rfl
@[simp] theorem setKey_lostPeers (c : Chip) (t : Nat) (k : KeyRec) : (setKey c t k).lostPeers = c.lostPeers := rfl
@[simp] theorem setKey_lostDirs (c : Chip) (t : Nat) (k : KeyRec) : (setKey c t k).lostDirs = c.lostDirs := rfl
@[simp] theorem setKey_ingressTokens (c : Chip) (t : Nat) (k : KeyRec) : (setKey c t k).ingressTokens = c.ingressTokens := rfl
@[simp] theorem setKey_collisions (c : Chip) (t : Nat) (k : KeyRec) : (setKey c t k).collisions = c.collisions := rfl
@[simp] theorem setKey_clusters (c : Chip) (t : Nat) (k : KeyRec) : (setKey c t k).clusters = c.clusters := rfl
@[simp] theorem setKey_lines (c : Chip) (t : Nat) (k : KeyRec) : (setKey c t k).lines = c.lines := rfl
@[simp] theorem setKey_lineMisses (c : Chip) (t : Nat) (k : KeyRec) : (setKey c t k).lineMisses = c.lineMisses := rfl
@[simp] theorem setKey_deadDue (c : Chip) (t : Nat) (k : KeyRec) : (setKey c t k).deadDue = c.deadDue := rfl
@[simp] theorem setKey_deadLines (c : Chip) (t : Nat) (k : KeyRec) : (setKey c t k).deadLines = c.deadLines := rfl
@[simp] theorem setKey_lineClock (c : Chip) (t : Nat) (k : KeyRec) : (setKey c t k).lineClock = c.lineClock := rfl
@[simp] theorem setKey_hbm (c : Chip) (t : Nat) (k : KeyRec) : (setKey c t k).hbm = c.hbm := rfl
@[simp] theorem setKey_hbmPoison (c : Chip) (t : Nat) (k : KeyRec) : (setKey c t k).hbmPoison = c.hbmPoison := rfl
@[simp] theorem setKey_sync (c : Chip) (t : Nat) (k : KeyRec) : (setKey c t k).sync = c.sync := rfl
@[simp] theorem setKey_fuses (c : Chip) (t : Nat) (k : KeyRec) : (setKey c t k).fuses = c.fuses := rfl
@[simp] theorem setKey_wipe (c : Chip) (t : Nat) (k : KeyRec) : (setKey c t k).wipe = c.wipe := rfl
@[simp] theorem setKey_clearAtSpring (c : Chip) (t : Nat) (k : KeyRec) : (setKey c t k).clearAtSpring = c.clearAtSpring := rfl
@[simp] theorem setKey_dbg (c : Chip) (t : Nat) (k : KeyRec) : (setKey c t k).dbg = c.dbg := rfl
@[simp] theorem setKey_nonces (c : Chip) (t : Nat) (k : KeyRec) : (setKey c t k).nonces = c.nonces := rfl
@[simp] theorem setKey_launches (c : Chip) (t : Nat) (k : KeyRec) : (setKey c t k).launches = c.launches := rfl
@[simp] theorem modWake_wake (c : Chip) (f : Wake → Wake) : (modWake c f).wake = f c.wake := rfl
@[simp] theorem emit_outbox (c : Chip) (f : TxFrame) : (emit c f).outbox = c.outbox ++ [f] := rfl

/-! ## A tenant, a port, a cluster -/

@[simp] theorem ten_setTen_self (c : Chip) (t : Nat) (x : TenantCtx) : ten (setTen c t x) t = x := tabGet_tabSet_self _ _ _ _

theorem ten_setTen_ne (c : Chip) (t u : Nat) (x : TenantCtx) (h : u ≠ t) : ten (setTen c t x) u = ten c u :=
  tabGet_tabSet_ne _ _ _ _ _ h

@[simp] theorem ten_modTen_self (c : Chip) (t : Nat) (f : TenantCtx → TenantCtx) : ten (modTen c t f) t = f (ten c t) :=
  ten_setTen_self c t _

theorem ten_modTen_ne (c : Chip) (t u : Nat) (f : TenantCtx → TenantCtx) (h : u ≠ t) : ten (modTen c t f) u = ten c u :=
  ten_setTen_ne c t u _ h

@[simp] theorem portOf_setPort_self (c : Chip) (p : PortNo) (x : Port) : portOf (setPort c p x) p = x := tabGet_tabSet_self _ _ _ _

theorem portOf_setPort_ne (c : Chip) (p q : PortNo) (x : Port) (h : q ≠ p) : portOf (setPort c p x) q = portOf c q :=
  tabGet_tabSet_ne _ _ _ _ _ h

@[simp] theorem portOf_modPort_self (c : Chip) (p : PortNo) (f : Port → Port) : portOf (modPort c p f) p = f (portOf c p) :=
  portOf_setPort_self c p _

theorem portOf_modPort_ne (c : Chip) (p q : PortNo) (f : Port → Port) (h : q ≠ p) : portOf (modPort c p f) q = portOf c q :=
  portOf_setPort_ne c p q _ h

@[simp] theorem clusterOf_setCluster_self (c : Chip) (k : ClusterNo) (x : Cluster) : clusterOf (setCluster c k x) k = x :=
  tabGet_tabSet_self _ _ _ _

theorem clusterOf_setCluster_ne (c : Chip) (k j : ClusterNo) (x : Cluster) (h : j ≠ k) :
    clusterOf (setCluster c k x) j = clusterOf c j := tabGet_tabSet_ne _ _ _ _ _ h

@[simp] theorem clusterOf_modCluster_self (c : Chip) (k : ClusterNo) (f : Cluster → Cluster) :
    clusterOf (modCluster c k f) k = f (clusterOf c k) := clusterOf_setCluster_self c k _

theorem clusterOf_modCluster_ne (c : Chip) (k j : ClusterNo) (f : Cluster → Cluster) (h : j ≠ k) :
    clusterOf (modCluster c k f) j = clusterOf c j := clusterOf_setCluster_ne c k j _ h

@[simp] theorem syncObj_setSync_self (c : Chip) (n : Nat) (o : SyncObj) : syncObj (setSync c n o) n = o := tabGet_tabSet_self _ _ _ _

theorem syncObj_setSync_ne (c : Chip) (n m : Nat) (o : SyncObj) (h : m ≠ n) : syncObj (setSync c n o) m = syncObj c m :=
  tabGet_tabSet_ne _ _ _ _ _ h

/-! ## A shard and its steps -/

@[simp] theorem shardOf_setShard_self (x : TenantCtx) (a b : Nat) (h : Shard) : shardOf (setShard x a b h) a b = h :=
  tabGet_tabSet_self _ _ _ _

@[simp] theorem stepOf_setStep_self (h : Shard) (n : Nat) (r : ShardStep) : stepOf (setStep h n r) n = r := tabGet_tabSet_self _ _ _ _

theorem stepOf_setStep_ne (h : Shard) (n m : Nat) (r : ShardStep) (hm : m ≠ n) : stepOf (setStep h n r) m = stepOf h m :=
  tabGet_tabSet_ne _ _ _ _ _ hm

@[simp] theorem shardOf_modShard_self (x : TenantCtx) (a b : Nat) (f : Shard → Shard) :
    shardOf (modShard x a b f) a b = f (shardOf x a b) := shardOf_setShard_self x a b _

@[simp] theorem stepOf_modStep_self (h : Shard) (n : Nat) (f : ShardStep → ShardStep) : stepOf (modStep h n f) n = f (stepOf h n) :=
  stepOf_setStep_self h n _

@[simp] theorem stepRec_modStepRec_self (x : TenantCtx) (n : Nat) (f : StepRec → StepRec) :
    stepRec (modStepRec x n f) n = f (stepRec x n) := tabGet_tabSet_self _ _ _ _

end Sys2Proof.Machine
end

