-- ==== Sys2Proof/Tests/Slice0.lean ====
section
/-!
SUPPORT. Tests: an ill-formed term for each check of WellFormed; the spec's worked cases, one step or one function each; and for every
statement of Certificates/Slice0 a witness, that is a small state and operands that meet the hypotheses of each of its clauses.
-/
set_option Elab.async false

namespace Sys2Proof.Tests

open Sys2Proof Sys2Proof.Machine

/-! ## Ill-formed commands, one for each check -/

/-- A ladder read eight times the same. -/
def steady (v : Nat) : LadderReading := { first := List.replicate 8 v, again := [] }

/-- A two-level input read eight times the same. -/
def level (b : Bool) : LevelReading := { first := List.replicate 8 b, again := [] }

/-- A strap set read as all zeros. -/
def steadySet : StrapReadings :=
  { trayidH := steady 0, trayidL := steady 0, tenlayout := steady 0, bwsplit := steady 0, portmodeH := steady 0, portmodeT := steady 0,
    bankSel := level false, heatEn := level false, debugEn := level false }

def okPos : ChipposReadings := { a := some 0#2, b := some 1#2, c := some 2#2, d := some 3#2 }

/-- A header of a type with nothing else in it. -/
def hdr (type : Nat) : Hdr :=
  { version := 1, type := type, tenant := 0, vc := 1, flags := 0, tensor := 0, shard := 0, step := 0, source := 0, seq := 0, offset := 0,
    count := 0, format := 0, aux := 0, dest := 0, tag := 0#32 }

/-- A host's frame as it stands at a chip: on port 24, VC1 (Table 8-5). -/
def hostFrame (h : Hdr) (payload : List Byte) : RxFrame :=
  { frame := mkFrame h payload, port := 24, vc := 1#2, tagTenant := BitVec.ofNat 3 h.tenant, flits := flitsOf payload.length, route := none }

/-- The route of a frame from chip 1 to chip 0. -/
def fromB : Prefix := newPrefix 1 0x3F 0 0x3F

/-- A frame that a chip sent to chip 0, on the VC of its type. -/
def chipFrame (h : Hdr) (payload : List Byte) : RxFrame :=
  { frame := mkFrame h payload, port := 0, vc := BitVec.ofNat 2 h.vc, tagTenant := BitVec.ofNat 3 h.tenant, flits := flitsOf payload.length,
    route := some fromB }

def unitMac : MacFrame :=
  { fcsOk := true, control := false, dest := BitVec.allOnes 48, source := 0#48, etherType := 0#16, encap := 0x10#8, unitsField := 0#8,
    epoch := 0#32, units := [], clientBytes := 46, rttUs := 0 }

theorem test_ill_ladder : Instr.wellFormed (.trayStart { first := [0, 0], again := [] } false) = false := by decide
theorem test_ill_ladder_repeat : Instr.wellFormed (.trayStart { first := List.replicate 8 0, again := [1] } false) = false := by decide
theorem test_ill_strap_ladder :
    Instr.wellFormed (.strapSetDelivery { steadySet with tenlayout := { first := [], again := [] } } okPos) = false := by decide
theorem test_ill_strap_level : Instr.wellFormed (.strapResense { steadySet with heatEn := { first := [true], again := [] } }) = false := by
  decide
theorem test_ill_cage : Instr.wellFormed (.cageModuleInsert 0 65536) = false := by decide
theorem test_ill_mac : Instr.wellFormed (.macFrameReceive 0 0 { unitMac with units := List.replicate 38 0#320 }) = false := by decide
theorem test_ill_payload (l : List Byte) (h : l.length = 16385) : Frame.ok { hdr := 0#256, payload := l, trailer := 0#32 } = false := by
  simp [Frame.ok, h]
theorem test_ill_host_port : Instr.wellFormed (.statGet 0 { hostFrame (hdr 0x0C) [] with port := 23 }) = false := by decide +kernel
theorem test_ill_shard_ref : Instr.wellFormed (.shardClose 0 { tenant := 0, tensor := 0, shard := 65536, step := 0 }) = false := by decide
theorem test_ill_step : Instr.wellFormed (.commitBarrier 0 0 4294967296) = false := by decide
theorem test_ill_line : Instr.wellFormed (.lineFill 0 805306368) = false := by decide
theorem test_ill_scratchpad : Instr.wellFormed (.eccUncorrectable 0 (.scratchpad 0 4194304)) = false := by decide
theorem test_ill_hbm_line : Instr.wellFormed (.eccUncorrectable 0 (.hbmLine 805306368)) = false := by decide
theorem test_ill_lane : Instr.wellFormed (.eccUncorrectable 0 (.savedLane 0 32768)) = false := by decide
theorem test_ill_accumulator : Instr.wellFormed (.eccUncorrectable 0 (.accumulator 0 65536 0 0)) = false := by decide
theorem test_ill_flash : Instr.wellFormed (.flashProgramEraseSequence (.erase 67108864 1)) = false := by decide
theorem test_ill_pending : Instr.wellFormed (.eccUncorrectable 0 (.pendingLine 0 0 65536 0 0 0)) = false := by decide
theorem test_ill_array : Instr.wellFormed (.eccUncorrectable 0 (.committedArray 0 65536 0 0 0 false)) = false := by decide
theorem test_ill_stash : Instr.wellFormed (.eccUncorrectable 0 (.stashBlock 0 0 0 4294967296 0 false)) = false := by decide
theorem test_ok_flash : Instr.wellFormed (.flashProgramEraseSequence (.erase 67108863 1)) = true := by decide

/-! ## The spec's worked cases -/

/-- Tray (3, 5), chip C: chip number 214 (section 0.5). -/
theorem test_chip_number :
    chipNo { Chip.reset with wake := { Wake.reset with latched := { StrapSet.reset with trayidH := some 3, trayidL := some 5, chippos := some 2#2 } } }
      = 214 := by decide

/-- The check value of R94. -/
theorem test_crc : crc32c [0x31#8, 0x32#8, 0x33#8, 0x34#8, 0x35#8, 0x36#8, 0x37#8, 0x38#8, 0x39#8] = 0xE3069283#32 := by decide +kernel

/-- Table 9-11: the header bytes of the last frame of a bucket. -/
theorem test_header_bytes :
    hdrBytes
      { version := 1, type := 1, tenant := 2, vc := 1, flags := 4, tensor := 0x31, shard := 2, step := 8415, source := 1, seq := 255,
        offset := 4190208, count := 4096, format := 0, aux := 0, dest := 2, tag := 0x00005A17#32 } =
    [0x10#8, 0x01#8, 0x48#8, 0x04#8, 0x31#8, 0#8, 0x02#8, 0#8, 0xDF#8, 0x20#8, 0#8, 0#8, 0x01#8, 0#8, 0xFF#8, 0#8, 0#8, 0xF0#8, 0x3F#8, 0#8,
     0#8, 0x10#8, 0#8, 0#8, 0#8, 0#8, 0x02#8, 0#8, 0x17#8, 0x5A#8, 0#8, 0#8] := by decide +kernel

/-- The same bytes read back (Table 9-11). -/
theorem test_header_read :
    (parseHdr (packBytes 256 [0x10#8, 0x01#8, 0x48#8, 0x04#8, 0x31#8, 0#8, 0x02#8, 0#8, 0xDF#8, 0x20#8, 0#8, 0#8, 0x01#8, 0#8, 0xFF#8, 0#8, 0#8,
      0xF0#8, 0x3F#8, 0#8, 0#8, 0x10#8, 0#8, 0#8, 0#8, 0#8, 0x02#8, 0#8, 0x17#8, 0x5A#8, 0#8, 0#8])).offset = 4190208 := by decide +kernel

/-- Table 11-3: one Adam element at step 2, from the accumulator to the new master and moments. -/
theorem test_adam_element :
    ruleElem 3
      { lr := 0x3A800000#32, wd := 0#32, nlr := 0xBA800000#32, b1 := 0x3F600000#32, b2 := 0x3F700000#32,
        c1 := f32Sub f32One 0x3F600000#32, c2 := f32Sub f32One 0x3F700000#32, bc1 := f32Sub f32One (f32Powf 0x3F600000#32 2),
        bc2 := f32Sub f32One (f32Powf 0x3F700000#32 2), eps := 0x33800000#32 }
      (gradOf (unscaleBy 10 2) f32One f32One 0x44400000#32) { w := 0x3F000000#32, m := 0x3D800000#32, v := 0x3B800000#32 } =
    { w := 0x3EFF5306#32, m := 0x3DD00000#32, v := 0x3C4C0000#32 } := by decide +kernel

/-- Table 13-3: a compute-copy block in MXFP8 E4M3. -/
theorem test_mxfp8_block :
    encodeBlock 0x10 ([0x40400000#32, 0xBDCCCCCD#32, 0x3A83126F#32, 0x35800000#32, 0x402CCCCD#32, 0x80000000#32] ++ List.replicate 26 0#32) =
    [0x78#8, 0x7C#8, 0xD5#8, 0x20#8, 0x00#8, 0x7B#8, 0x80#8] ++ List.replicate 26 0#8 := by decide +kernel

/-- Table 15-4: the first draw of lane 0 for SEED 1. -/
theorem test_first_draw :
    laneNext 1#64 = 0x9E6C63D0D6A4C724#64 ∧ laneDraw (laneNext 1#64) = 0x9E6C63D4#32 ∧ laneSeed 1#64 0 = 1#64 := by decide +kernel

/-- Table 16-8: the slices of two consecutive lines. -/
theorem test_slices : sliceOf 0x0C01234580 = 45 ∧ sliceOf 0x0C01234600 = 42 := by decide +kernel

/-- Table 17-2 with section 17.6: a request of 1,024 bytes costs 163,840 tokens. -/
theorem test_request_cost : 20480 * (linesOf (List.range 1024)).length = 163840 := by decide +kernel

/-! ## The operations of Table 4-7 and of the tray, one command each -/

/-- A state with one chip at position 0 and the others Off. -/
def at0 (k : Chip) : State := setChip State.reset 0 k

/-- A state with the same chip at every position. -/
def all4 (k : Chip) : State := { State.reset with chips := { a := k, b := k, c := k, d := k } }

/-- A tray with rails in given states and four chips Off. -/
def trayOn (r : Tab Rail RailState) : State := { State.reset with tray := { Tray.reset with rails := r } }

/-- Readings at one temperature, in sixteenths of a degree. -/
def temps (t : Int) : Temps := { tj0 := t, tj1 := t, tj2 := t, hbm0 := t, hbm1 := t, hbm2 := t, hbm3 := t }

/-- A chip in Summer with HBM running. -/
def summer : Chip :=
  { Chip.reset with wake := { Wake.reset with season := .summer, entered := true, phase := .done, fromOff := false, hbm := .running } }

/-- What one command leaves of a state. -/
def after (i : Instr) (s : State) : State :=
  match exec i s with
  | .next t => t
  | _ => s

/-- The keeper with VKEEP in regulation and everything else as at reset. -/
def keeperUp : State := trayOn [(.vkeep, .up)]

/-- The keeper past step 5 of Table 2-2, with the flash granted to the host and one byte programmed. -/
def granted : State :=
  { keeperUp with tray := { keeperUp.tray with forwarding := true, flashGnt := true, flashReq := true, flash := [(15, 1#8), (16, 2#8), (18, 3#8)] } }

theorem test_feed_a : (after (.feedPresent .a) keeperUp).tray.feedA = true := by decide
theorem test_feed_without_power : exec (.feedPresent .a) State.reset = .next State.reset := by rfl
theorem test_hot_at_100 : (getChip (after (.hotThreshold 0 { temps 400 with tj1 := 1600 }) (at0 summer)) 0).wake.hot = true := by decide +kernel
theorem test_hot_below_100 : (getChip (after (.hotThreshold 0 { temps 400 with tj1 := 1599 }) (at0 summer)) 0).wake.hot = false := by
  decide +kernel
theorem test_governor_floor :
    (getChip (after (.governorStepDown 0 (temps 1728)) (at0 { summer with wake := { summer.wake with issueRate := 4 } })) 0).wake.issueRate = 4 := by
  decide +kernel
theorem test_erase_reads_ff : (after (.flashProgramEraseSequence (.erase 16 2)) granted).tray.flash = [(15, 1#8), (18, 3#8)] := by decide +kernel
theorem test_flash_end_is_outside : exec (.flashProgramEraseSequence (.erase 67108863 2)) granted = .fault .outsideFlash := by rfl
theorem test_idcode_chip : (getChip (after (.idcode (.chip 0)) (at0 summer)) 0).dbg.tap.dr = 0x15A213A5#320 := by decide +kernel
theorem test_queue_is_fifo :
    step { State.reset with pending := [.tamperAssert, .tamperRelease] } = exec .tamperAssert { State.reset with pending := [.tamperRelease] } := by
  rfl

/-! ## Witnesses: the block and the keeper -/

/-- A chip in Winter. -/
def winter : Chip := { Chip.reset with wake := { Wake.reset with season := .winter } }

/-- A chip in Spring at a phase. -/
def spring (p : SpringPhase) : Chip := { Chip.reset with wake := { Wake.reset with season := .spring, phase := p } }

/-- A chip in Autumn at a place of the drain. -/
def autumn (d : DrainPhase) : Chip :=
  { summer with wake := { summer.wake with season := .autumn, entered := false, drain := d } }

/-- A task that serves a PULL of one element for tenant 0. -/
def someTask : Task :=
  { recipe := 0, tenant := 0, kind := 4, l1 := 0, tensor := 0, shard := 0, step := 1, first := 0, count := 1, tag := 0#32, cause := none,
    readyAt := 0, workFirst := 0, workCount := 1, part := 0, array := 0, order := 0 }

/-- That task in its first stage. -/
def someRun : RunTask :=
  { task := someTask, stage := 0, active := true, count := 0, waitFor := .nothing, streams := [], queues := [], consumed := [], outs := [],
    shorts := [], stamps := 0, deadReuse := false, loadsIssued := false, prologueOnly := false }

/-- A cluster whose buckets are empty, running it. -/
def emptied : Cluster := { Cluster.reset with readTokens := 0, writeTokens := 0, egressTokens := 0, run := some someRun }

def runningChip : Chip := { summer with clusters := [(3, emptied), (4, { emptied with halted := true })] }

theorem witness_FrontCommandRuns : { State.reset with pending := [Instr.tapReset] }.pending = Instr.tapReset :: [] := by decide

theorem witness_CommandsLeaveTheQueue : exec (.feedPresent .a) keeperUp = .next { keeperUp with tray := { keeperUp.tray with feedA := true } } := by
  rfl

theorem witness_IdleStepIsOneCoreCycle : State.reset.pending = [] := by decide

theorem witness_CoreCycleFillsBuckets :
    coreRuns (getChip (at0 runningChip) 0) = true ∧ bwsplitShares (codeOf (getChip (at0 runningChip) 0).wake.latched.bwsplit) = some (50, 30, 20) ∧
    tabFind (getChip (at0 runningChip) 0).clusters 3 = some emptied ∧ emptied.halted = false ∧ emptied.run = some someRun ∧
    tabFind (getChip (at0 runningChip) 0).clusters 4 = some { emptied with halted := true } := by decide +kernel

theorem witness_OnlyFlashSequencesCanStop :
    (∀ op, Instr.tapReset ≠ .flashProgramEraseSequence op) ∧
    ((pinsOf granted).flashGnt = true ∧ (FlashOp.erase 67108863 2).ok = false ∧ (FlashOp.erase 67108863 1).ok = true) ∧
    (pinsOf State.reset).flashGnt = false := by
  refine ⟨?_, by decide +kernel, by decide +kernel⟩
  intro op h
  cases h

theorem witness_StepKeepsTheFlashForm : FlashWf granted ∧ step granted = .next (tick granted) := by
  refine ⟨?_, rfl⟩
  unfold FlashWf
  decide +kernel

theorem witness_StepKeepsTheIssueRates : RatesLegal State.reset ∧ step State.reset = .next (tick State.reset) := by
  refine ⟨?_, rfl⟩
  unfold RatesLegal
  decide

theorem witness_PowerComesAndGoes :
    railOf keeperUp.tray .vkeep ≠ .down ∧ railOf (trayOn [(.vkeep, .rising)]).tray .vkeep ≠ .down ∧ railOf State.reset.tray .vkeep = .down := by decide

/-- A Spring preparation with the rails before one of the five up and that one rising. -/
def preparing (r : Tab Rail RailState) : State := { State.reset with tray := { Tray.reset with rails := r, prep := true } }

theorem witness_RailsRiseInOrder :
    ((Rail.vkeep, Rail.vbus) ∈ [(Rail.vkeep, Rail.vbus), (.vbus, .vaon), (.vaon, .vret), (.vret, .vpp), (.vpp, .vddh), (.vddh, .vddq)] ∧
      (trayOn [(.vkeep, .rising)]).tray.railFault = false ∧
      railOf (trayOn [(.vkeep, .rising)]).tray .vkeep = .rising ∧ railOf (trayOn [(.vkeep, .rising)]).tray .vbus = .down) ∧
    (railOf (trayOn [(.vddh, .rising)]).tray .vddh = .rising ∧ railOf (trayOn [(.vddh, .rising)]).tray .vddq = .down) ∧
    ((Rail.vserh, Rail.vcage) ∈ [(Rail.vcore, Rail.vsram), (.vsram, .vser), (.vser, .vserh), (.vserh, .vcage)] ∧
      (preparing [(.vcore, .up), (.vsram, .up), (.vser, .up), (.vserh, .rising)]).tray.railFault = false ∧
      (preparing [(.vcore, .up), (.vsram, .up), (.vser, .up), (.vserh, .rising)]).tray.prep = true ∧
      railOf (preparing [(.vcore, .up), (.vsram, .up), (.vser, .up), (.vserh, .rising)]).tray .vserh = .rising ∧
      railOf (preparing [(.vcore, .up), (.vsram, .up), (.vser, .up), (.vserh, .rising)]).tray .vcage = .down ∧
      ∀ q ∈ springRails.takeWhile (fun q => decide (q ≠ .vserh)),
        railOf (preparing [(.vcore, .up), (.vsram, .up), (.vser, .up), (.vserh, .rising)]).tray q = .up) ∧
    (Rail.vbus ≠ .vkeep ∧ { Tray.reset with rails := [(.vbus, .rising)], railFault := true }.railFault = true ∧
      railOf { Tray.reset with rails := [(.vbus, .rising)], railFault := true } .vbus = .rising) ∧
    railOf State.reset.tray .vbus ≠ .rising ∧
    ((trayOn [(.vddq, .rising)]).tray.railFault = false ∧ railOf (trayOn [(.vddq, .rising)]).tray .vddq = .rising) := by decide

/-- A keeper after a rail fault, with SEASON at Winter. -/
def faulted : Tray := { Tray.reset with rails := [(.vkeep, .up), (.vbus, .up)], railFault := true, seasonPins := 0#2 }

theorem witness_RailFaultAndRecovery :
    railOf (trayOn [(.vpp, .up)]).tray .vpp = .up ∧
    (faulted.railFault = true ∧ faulted.seasonPins = 0#2 ∧ railOf faulted .vbus = .up ∧ railOf faulted .vaon = .down) ∧
    (State.reset.tray.seasonPins ≠ 0#2 ∧ railOf State.reset.tray .vbus ≠ .up) := by decide

theorem witness_FansAndCagesFollowTheirReadings :
    railOf keeperUp.tray .vkeep = .up ∧ (∀ p, (getChip keeperUp p).wake.cold = false) ∧
    ((∃ b, FanFault.rotor true = .rotor b) ∨ FanFault.rotor true = .absent) ∧
    (railOf (trayOn [(.vcage, .up)]).tray .vcage = .up ∧ 5000 ≤ 5000 ∧
      strappedMode (getChip (trayOn [(.vcage, .up)]) (cageChip 0)).wake.latched (Fin.ofNat 64 (cagePort 0)) ≠ .off) ∧
    5000 < 5001 ∧ ∃ p, cageOfPort (cageChip 0) p = some 0 := by
  refine ⟨by decide, by decide, Or.inl ⟨true, rfl⟩, by decide +kernel, by decide, Fin.ofNat 64 (cagePort 0), by decide +kernel⟩

theorem witness_FlashGrants :
    (railOf keeperUp.tray .vkeep = .up ∧ reading keeperUp.tray = false) ∧
    (railOf { keeperUp.tray with load := { Load.reset with phase := .body } } .vkeep = .up ∧
      reading { keeperUp.tray with load := { Load.reset with phase := .body } } = true) ∧
    ({ keeperUp.tray with grantDue := true, flashReq := true }.grantDue = true ∧ { keeperUp.tray with grantDue := true, flashReq := true }.flashReq = true ∧
      reading { keeperUp.tray with grantDue := true, flashReq := true } = false) ∧ keeperUp.tray.load.phase = .idle ∧
    { Load.reset with phase := .waitGrant }.phase = .waitGrant := by decide

theorem witness_FlashSequencesWriteTheirBytes :
    (pinsOf granted).flashGnt = true ∧ 67108862 + [0#8, 1#8].length ≤ 67108864 ∧ 67108863 + 1 ≤ 67108864 ∧ FlashWf granted ∧
    (pinsOf State.reset).flashGnt = false := by
  unfold FlashWf
  decide +kernel

/-! ## Witnesses: straps, seasons, Spring -/

/-- A tray that forwards codes, with one on its pins. -/
def forwardingTray (code : BitVec 2) : Tray := { keeperUp.tray with forwarding := true, seasonPins := code }

def tray4 (k : Chip) (y : Tray) : State := { all4 k with tray := y }

theorem witness_SeasonPinsAreDebounced :
    1#2 ≠ State.reset.tray.seasonPins ∧ { forwardingTray 1#2 with pinTaken := true }.pinTaken = true ∧
    ({ forwardingTray 1#2 with prep := true }.forwarding = true ∧ { forwardingTray 1#2 with prep := true }.pinTaken = false ∧
      { forwardingTray 1#2 with prep := true }.prep = true) := by decide

/-- What ForwardedCodesMoveByTheTable asks of a state at the first chip. -/
def mayMove (s : State) : Bool :=
  s.tray.forwarding && !s.tray.pinTaken && !s.tray.prep && decide (∀ q, (getChip s q).wake.season = (getChip s 0).wake.season) &&
  !(getChip s 0).wake.stopped && !(getChip s 0).wake.seasonError && decide ((getChip s 0).faults = []) &&
  decide ((getChip s 0).wake.season = .winter → s.tray.seasonPins ≠ 1#2)

theorem witness_ForwardedCodesMoveByTheTable :
    mayMove (tray4 summer (forwardingTray 2#2)) = true ∧ mayMove (tray4 summer (forwardingTray 3#2)) = true ∧
    mayMove (tray4 (autumn .steps) (forwardingTray 3#2)) = true ∧
    (mayMove (tray4 (spring .done) (forwardingTray 3#2)) = true ∧ (spring .done).wake.phase = .done) ∧
    mayMove (tray4 (autumn .done) (forwardingTray 0#2)) = true ∧
    mayMove (tray4 winter (forwardingTray 2#2)) = true ∧ mayMove (tray4 winter (forwardingTray 3#2)) = true ∧
    mayMove (tray4 (spring .hbm) (forwardingTray 2#2)) = true ∧ mayMove (tray4 summer (forwardingTray 0#2)) = true ∧
    mayMove (tray4 summer (forwardingTray 1#2)) = true ∧ mayMove (tray4 (autumn .steps) (forwardingTray 1#2)) = true := by decide +kernel

/-- What SpringIsPreparedFirst asks of a state. -/
def mayPrepare (s : State) (waiting : Bool) : Bool :=
  s.tray.forwarding && !s.tray.pinTaken && !s.tray.prep && decide (s.tray.winterWait = waiting) && decide (s.tray.seasonPins = 1#2) &&
  decide ((getChip s 0).wake.season = .winter)

theorem witness_SpringIsPreparedFirst :
    (mayPrepare (tray4 winter (forwardingTray 1#2)) false = true ∧ ∀ r ∈ springRails, railOf (forwardingTray 1#2) r = .down) ∧
    mayPrepare (tray4 winter { forwardingTray 1#2 with winterWait := true }) true = true := by decide +kernel

/-- An input that reads both ways, the repeat too (R52). -/
def mixed : LevelReading :=
  { first := [true, false, true, true, true, true, true, true], again := [true, false, true, true, true, true, true, true] }

theorem witness_StrapsAreLatchedAndChecked :
    ({ forwardingTray 1#2 with prep := true }.prep = true ∧ (forwardingTray 1#2).winterWait = false ∧
      { forwardingTray 1#2 with prep := true }.strapsDelivered = false ∧
      { forwardingTray 1#2 with prep := true }.refClock = false ∧ { forwardingTray 1#2 with prep := true }.railCodeDue = false ∧
      ∀ p, (getChip (tray4 winter { forwardingTray 1#2 with prep := true }) p).wake.season = .winter ∧
        (getChip (tray4 winter { forwardingTray 1#2 with prep := true }) p).wake.stopped = false ∧
        (getChip (tray4 winter { forwardingTray 1#2 with prep := true }) p).faults = []) ∧
    (∃ q, unstableStrap (senseStraps { steadySet with heatEn := mixed } (posReading okPos q)) = true) ∧
    reservedStrap (senseStraps { steadySet with tenlayout := steady 11160 } (posReading okPos 1)) = true ∧
    (posReading { okPos with d := some 2#2 } 3 = some 2#2 ∧ (2#2).toNat ≠ (3 : Pos).val) := by decide +kernel

theorem witness_ResenseObservesOnly :
    (forwardingTray 3#2).forwarding = true ∧ (forwardingTray 3#2).prep = false ∧
    (∀ p, (getChip (tray4 summer (forwardingTray 3#2)) p).wake.season = .summer) ∧
    (∀ p, (getChip (tray4 winter (forwardingTray 3#2)) p).wake.season = .winter) ∧
    ∀ p, (getChip (tray4 (autumn .steps) (forwardingTray 3#2)) p).wake.season = .autumn := by decide

/-- A drained chip on its way to Winter. -/
def toWinter : Chip :=
  { summer with wake := { summer.wake with season := .winter, entered := false, phase := .idle, drained := true, hbm := .running } }

def winterTray : State :=
  setChip (tray4 { toWinter with wake := { toWinter.wake with winterReported := true } } { forwardingTray 0#2 with winterWait := true, refClock := true }) 2
    toWinter

theorem witness_WinterIsReported :
    winterTray.tray.winterWait = true ∧ winterTray.tray.prep = false ∧ (∀ p, (getChip winterTray p).wake.season = .winter) ∧
    (getChip winterTray 2).wake.winterReported = false ∧ (∀ p, p ≠ 2 → (getChip winterTray p).wake.winterReported = true) ∧
    (getChip winterTray 2).wake.drained = true ∧ (getChip winterTray 2).wake.answering = false ∧ (getChip winterTray 2).wipe = none ∧
    (getChip winterTray 2).faults = [] ∧ (getChip winterTray 2).wake.phase = .idle ∧ (getChip winterTray 2).wake.hbm = .running := by decide

/-- A tenant with a step in flight. -/
def busyTenant : TenantCtx := { TenantCtx.reset with loaded := true, state := .running, steps := [(5, { StepRec.reset with firstAccept := some 0 })] }

theorem witness_AutumnDrains :
    ((getChip (at0 (autumn .steps)) 0).wake.season = .autumn ∧ (getChip (at0 (autumn .steps)) 0).wake.drain = .steps ∧
      (getChip (at0 (autumn .steps)) 0).wake.stopped = false ∧ chipInFlight (getChip (at0 (autumn .steps)) 0) = false) ∧
    chipInFlight (getChip (at0 { autumn .steps with tenants := [(0, busyTenant)] }) 0) = true ∧
    ((getChip (at0 (autumn .writeBack)) 0).wake.season = .autumn ∧ (getChip (at0 (autumn .writeBack)) 0).wake.drain = .writeBack ∧
      (getChip (at0 (autumn .writeBack)) 0).wake.stopped = false ∧ anyStage (getChip (at0 (autumn .writeBack)) 0) = false) := by decide +kernel

theorem witness_SpringBegins :
    ((getChip (at0 (spring .idle)) 0).wake.season = .spring ∧ (getChip (at0 (spring .idle)) 0).wake.phase = .idle ∧
      { Tray.reset with tamperLow := true, lidOpen := true }.tamperLow = true ∧ { Tray.reset with tamperLow := true, lidOpen := true }.lidOpen = true ∧
      (getChip (at0 (spring .idle)) 0).faults.length < 15) ∧
    (State.reset.tray.tamperLow = false ∧ State.reset.tray.lidOpen = false ∧ (getChip (at0 (spring .idle)) 0).wake.fromOff = true) ∧
    { (spring .idle).wake with fromOff := false }.fromOff = false := by decide

/-- A Spring that goes on from Winter. -/
def springWarm (p : SpringPhase) : Chip := { spring p with wake := { (spring p).wake with fromOff := false } }

theorem witness_SpringClearsFromOff :
    ((getChip (at0 (spring .pll)) 0).wake.season = .spring ∧ (getChip (at0 (spring .pll)) 0).wake.phase = .pll ∧
      (getChip (at0 (spring .pll)) 0).wake.fromOff = true) ∧
    ((getChip (at0 (springWarm .pll)) 0).wake.fromOff = false ∧ isCold (temps 0) = false) ∧
    ((getChip (at0 (spring .clear)) 0).wake.phase = .clear ∧ (getChip (at0 (spring .clear)) 0).vault.lifeCycle ≠ .blank) ∧
    { (spring .clear).vault with lifeCycle := .blank }.lifeCycle = .blank := by decide

theorem witness_KeysAreDrawnThenColdIsChecked :
    ((getChip (at0 (spring .keys)) 0).wake.season = .spring ∧ (getChip (at0 (spring .keys)) 0).wake.phase = .keys ∧
      (getChip (at0 (spring .keys)) 0).wipe = none ∧ isCold (temps (-1)) = true ∧ isCold (temps 0) = false ∧ tenantCount (getChip (at0 (spring .keys)) 0) = 1) ∧
    ((getChip (at0 summer) 0).wake.season = .summer ∧
      (∀ x ∈ (getChip (at0 { summer with tenants := [(0, TenantCtx.reset)] }) 0).tenants, x.2.resetPhase = .none) ∧
      ∀ k ∈ { summer.vault with keys := [(0, { KeyRec.reset with valid := true })] }.keys, k.2.valid = true) := by
  decide

theorem witness_ColdStartEnds :
    ((getChip (at0 (spring .cold)) 0).wake.season = .spring ∧ (getChip (at0 (spring .cold)) 0).wake.phase = .cold ∧
      (80 ≤ { temps 0 with tj2 := 80 }.tj0 ∨ 80 ≤ { temps 0 with tj2 := 80 }.tj1 ∨ 80 ≤ { temps 0 with tj2 := 80 }.tj2) ∧
      0 ≤ (temps 0).hbm0 ∧ 0 ≤ (temps 0).hbm1 ∧ 0 ≤ (temps 0).hbm2 ∧ 0 ≤ (temps 0).hbm3) ∧
    { temps 400 with hbm3 := -1 }.hbm3 < 0 ∧
    ({ (spring .cold).wake with heating := true }.heating = true ∧ (spring .cold).faults.length < 16) := by decide

/-- A chip in a Spring whose first two ports of each mesh group are up. -/
def meshed (p : SpringPhase) : Chip :=
  { spring p with ports := [(0, { Port.reset with step := .up }), (8, { Port.reset with step := .up }), (16, { Port.reset with step := .up })] }

theorem witness_HbmThenTheImageLoad :
    ((getChip (at0 (spring .hbm)) 0).wake.season = .spring ∧ (getChip (at0 (spring .hbm)) 0).wake.phase = .hbm ∧
      (getChip (at0 (spring .hbm)) 0).faults.length < 16) ∧
    ((getChip (at0 (meshed .hbm)) 0).wake.season = .spring ∧ (getChip (at0 (meshed .hbm)) 0).wake.phase = .hbm ∧
      meshTrained (getChip (at0 (meshed .hbm)) 0) = true) ∧
    ((1 : Pos) ≠ 0 ∧ (getChip (all4 (meshed .hbm)) 1).wake.phase = .hbm ∧ meshTrained (getChip (all4 (meshed .hbm)) 1) = true) ∧
    (∃ g, g < 3 ∧ upPorts (getChip (at0 (spring .hbm)) 0) g = []) ∧
    ({ Load.reset with phase := .waitGrant }.phase = .waitGrant ∧
      (∀ p, (getChip (all4 (spring .image)) p).wake.season = .spring ∧ (getChip (all4 (spring .image)) p).wake.phase ≠ .done ∧
        (getChip (all4 (spring .image)) p).wake.phase ≠ .failed ∧ (getChip (all4 (spring .image)) p).faults.length < 16) ∧
      ∀ p, (getChip (all4 (spring .failed)) p).wake.phase = .failed) := by
  refine ⟨by decide +kernel, by decide +kernel, by decide +kernel, ⟨2, by decide, by decide +kernel⟩, by decide +kernel⟩

/-- A state in step 6 of Spring, with a load at a phase. -/
def loading (l : Load) (k : Chip) : State := { all4 k with tray := { keeperUp.tray with load := l } }

/-- The 124 bytes of a header of generation 1 over a 1 × 1 torus with two sections, and its CRC (Table 5-2). -/
def goodHeader : List Byte :=
  let h := leBytes 4 0x4934544F ++ leBytes 1 1 ++ leBytes 1 0 ++ leBytes 2 128 ++ leBytes 4 1 ++ leBytes 4 160 ++ leBytes 2 2 ++ leBytes 1 1 ++ leBytes 1 1 ++
    List.replicate 104 0#8
  h ++ bytesOf (crc32c h) 4

set_option maxRecDepth 100000 in
theorem witness_ImageBanksAreTried :
    (∀ p, (getChip (loading { Load.reset with phase := .header } (spring .image)) p).wake.season = .spring ∧
      (getChip (loading { Load.reset with phase := .header } (spring .image)) p).wake.phase = .image ∧
      springRuns (getChip (loading { Load.reset with phase := .header } (spring .image)) p) = true) ∧
    springRuns (getChip (loading { Load.reset with phase := .header } (spring .failed)) 3) = false ∧
    { Load.reset with phase := .header }.phase = .header ∧ { Load.reset with phase := .header }.otherFailed = false ∧
    { Load.reset with phase := .header, otherFailed := true }.otherFailed = true ∧
    headerOk (bankBytes [] false 128) = false ∧ headerOk (bankBytes (memWrite 0xFF#8 [] 0 goodHeader) false 128) = true ∧
    State.reset.tray.flashConfigAltered = false ∧ { State.reset.tray with flashConfigAltered := true }.flashConfigAltered = true ∧
    ((3 : Pos) ≠ 0 ∧ (spring .image).faults.length < 15) := by decide +kernel

/-! ## A small image -/

def tenant0 : TenantRec :=
  { present := true, strictDead := false, fallbackM8 := false, fallbackShadow := false, minShare := 1, stepRoot := 0, shadowShift := 4, lsInit := 0,
    cleanSteps := 2000, seed := 0#64, globalClip := 0#32, verdictTimeout := 65000, fallbackLimit := 0, bytes := [] }

def group0 : GroupRec :=
  { rule := 0, drop := false, skipStep := false, global := false, allowM8 := false, m1Fmt := 0, m2Fmt := 0, computeFmt := 0, margin := 0,
    expected := 1, quorum := 256, lrSched := 0, wdSched := 0xFF, deadline := 1000, clip := 0#32, beta1 := 0#32, beta2 := 0#32,
    epsilon := 0x33800000#32, recipe := 0 }

def group7 : GroupRec := { group0 with rule := 7 }

/-- One element, homed on chip 0. -/
def tensor0 : TensorRec :=
  { id := 0, mask := false, group := 0, rank := 1, axis := 0, shards := 1, dims := [1, 0, 0, 0], homeStart := 0, stride := 1, keepP16 := 0 }

/-- One element, homed on chip 1. -/
def tensor1 : TensorRec := { tensor0 with id := 1, homeStart := 1 }

/-- A MASK tensor of 131,072 elements. -/
def tensor2 : TensorRec :=
  { id := 2, mask := true, group := 0, rank := 1, axis := 0, shards := 0, dims := [131072, 0, 0, 0], homeStart := 0, stride := 0, keepP16 := 32768 }

/-- Two rows of 32 elements for RULE 7, homed on chip 0. -/
def tensor3 : TensorRec := { tensor0 with id := 3, group := 1, rank := 2, dims := [2, 32, 0, 0] }

/-- A SIGN1 site of 32 channels. -/
def site0 : SiteRec := { id := 0, codec := 0x31, channels := 32, reserve := 1 }

def cat0 : Catalogue :=
  { groups := [group0, group7], scheds := [], tensors := [tensor0, tensor1, tensor2, tensor3], sites := [site0], regions := [], bytes := [] }

def image0 : Image :=
  { generation := 7#32, xSize := 1, ySize := 1, wrapX := false, wrapY := false, etherType := 0x88B5#16, tenants := [tenant0], catalogues := [(0, cat0)],
    bind := [], recipes := [], bytes := [] }

/-- The same over a torus of two trays side by side, with tensor 1 homed on the other one. -/
def image2 : Image :=
  { image0 with xSize := 2, catalogues := [(0, { cat0 with tensors := [tensor0, { tensor1 with homeStart := 4 }] })] }

/-- A tenant that runs. -/
def running : TenantCtx := { TenantCtx.reset with loaded := true, state := .running, committed := some 4, resolved := some 4 }

/-- A chip in Summer with the small image and tenant T0. -/
def live : Chip := { summer with image := some image0, tenants := [(0, running)] }

/-- A load of bank 0 with four reports. -/
def reported (good : Bool) : Load := { Load.reset with phase := .body, reports := [(0, true), (1, good), (2, true), (3, true)] }

/-- A chip at step 6 that has parsed an image. -/
def parsed (i : Image) : Chip := { spring .image with candidate := some i }

/-- A chip strapped outside the torus of its image. -/
def elsewhere : Chip := { parsed image2 with wake := { (spring .image).wake with latched := { StrapSet.reset with trayidH := some 1 } } }

theorem witness_ImageIsAcceptedByAllFour :
    (tabFind { Load.reset with phase := .body }.reports (2 : Pos) = none ∧ (spring .image).wake.season = .spring ∧ (spring .image).wake.phase = .image) ∧
    ((reported true).phase = .body ∧ (reported true).reports.length = 4 ∧ (∀ r ∈ (reported true).reports, r.2 = true) ∧
      (∀ p, (getChip (all4 (parsed image0)) p).candidate = some image0 ∧ (getChip (all4 (parsed image0)) p).wake.season = .spring ∧
        (getChip (all4 (parsed image0)) p).wake.phase = .image ∧ (getChip (all4 (parsed image0)) p).wake.summerDue = false) ∧
      placeOk { parsed image0 with image := some image0 } = true) ∧
    (placeOk { elsewhere with image := some image2 } = false ∧ elsewhere.candidate = some image2 ∧ elsewhere.faults.length < 15) ∧
    ((∃ r ∈ (reported false).reports, r.2 = false) ∧ (reported false).otherFailed = false ∧ { reported false with otherFailed := true }.otherFailed = true ∧
      springRuns (parsed image0) = true) := by decide +kernel

/-! ## Witnesses: tenant resets, wipes, heat -/

/-- A live chip whose tenant is in a given state. -/
def withTen (x : TenantCtx) : Chip := { live with tenants := [(0, x)] }

theorem witness_TenantResetBeginsOnAllChips :
    (State.reset.tray.tenrstLow.getLsbD (0 : Tenant).val = false ∧
      ∀ p, coreRuns (getChip (all4 live) p) = true ∧ wipeCode (getChip (all4 live) p) = none ∧ (getChip (all4 live) p).wake.phase = .done ∧
        tenantExists (getChip (all4 live) p) 0 = true ∧ (ten (getChip (all4 live) p) 0).resetPhase = .none ∧
        ∀ f ∈ (ten (getChip (all4 live) p) 0).heldPulls, (rxHead f).tenant = 0) ∧
    (coreRuns (spring .image) = true ∧ wipeCode (spring .image) = none ∧ tenantExists (spring .image) 0 = true ∧ (spring .image).wake.phase ≠ .done) ∧
    (tenantExists live 7 = false ∧ tenantExists winter 0 = true ∧ winter.wake.season = .winter ∧ winter.wipe = none) ∧
    { Tray.reset with tenrstLow := 0x80#8 }.tenrstLow.getLsbD (7 : Tenant).val = true := by decide +kernel

/-- A chip of a two-tray torus whose east port is up, with a TENANT_DOWN still to send. -/
def owesDown : Chip :=
  { live with image := some image2, tenants := [(0, { running with downDue := true })], ports := [(32, { Port.reset with step := .up })] }

theorem witness_TenantResetCompletesAndIsTold :
    ((ten (withTen { running with resetPhase := .loaded, fault := 0x83 }) 0).resetPhase = .loaded ∧
      (ten (withTen { running with resetPhase := .loaded, fault := 0x83 }) 0).loaded = true ∧
      State.reset.tray.tenrstLow.getLsbD (0 : Tenant).val = false) ∧
    ((ten (withTen { running with resetPhase := .loaded, fault := 0x52, loaded := false }) 0).loaded = false ∧
      (ten (withTen { running with resetPhase := .loaded, fault := 0x52, loaded := false }) 0).fault ≠ 0) ∧
    { Tray.reset with tenrstLow := 0x80#8 }.tenrstLow.getLsbD (7 : Tenant).val = true ∧
    ((getChip (at0 owesDown) 0).wake.phase = .done ∧ linksOn (getChip (at0 owesDown) 0) = true ∧ (ten (getChip (at0 owesDown) 0) 0).downDue = true ∧
      peersReached (getChip (at0 owesDown) 0) 0 = true ∧ (peerChips (getChip (at0 owesDown) 0) 0).length = 1) ∧
    (ten live 0).downDue = false := by decide +kernel

/-- A tenant record whose key slot's region the chip cannot hold, so that the load fails. -/
def shortImage : Image := { image0 with tenants := [{ tenant0 with minShare := 255 }] }

theorem witness_TenantResetErasesOneTenant :
    ((ten (withTen { running with resetPhase := .erasing }) 0).resetPhase = .erasing ∧ live.wake.phase = .done ∧
      loadFault (withTen { running with resetPhase := .erasing }) 0 = none) ∧
    (loadFault { withTen { running with resetPhase := .erasing } with image := some shortImage } 0).isSome = true ∧
    ((∀ q, (getChip (all4 winter) q).wake.season = .winter) ∧ State.reset.tray.tenrstLow.getLsbD (0 : Tenant).val = false ∧
      tenantExists (getChip (all4 winter) 0) 0 = true ∧ (getChip (all4 winter) 0).wipe = none ∧
      ∀ f ∈ (ten (getChip (all4 winter) 0) 0).heldPulls, (rxHead f).tenant = 0) := by
  decide +kernel

/-- A wipe of two sources in a chip with VCORE up, and one in Winter. -/
def wipeOn : Wipe := { codes := [0x70, 0x71], inWinter := false, retentionOpen := false }

def wipeOff : Wipe := { codes := [0x74], inWinter := true, retentionOpen := true }

theorem witness_TamperAndLidWipeTheTray :
    (State.reset.tray.tamperLow = false ∧ (∀ p, (getChip (all4 summer) p).wake.season ≠ .off ∧ (getChip (all4 summer) p).wipe = none) ∧
      { summer with wipe := some wipeOn }.wipe = some wipeOn ∧ Chip.reset.wake.season = .off) ∧
    { Tray.reset with tamperLow := true }.tamperLow = true ∧
    (railOf keeperUp.tray .vkeep = .up ∧ keeperUp.tray.lidOpen = false ∧
      ∀ p, (getChip { all4 winter with tray := keeperUp.tray } p).wake.season ≠ .off ∧ (getChip { all4 winter with tray := keeperUp.tray } p).wipe = none) ∧
    railOf State.reset.tray .vkeep ≠ .up := by decide +kernel

theorem witness_GlitchesWipeOneChip :
    ((getChip (at0 winter) 0).wake.season ≠ .off ∧ (getChip (at0 winter) 0).wipe = none ∧ GlitchRail.vaon = .vaon) ∧
    ((getChip (at0 summer) 0).wake.season ≠ .off ∧ coreUp (getChip (at0 summer) 0) = true ∧ { Tray.reset with refClock := true }.refClock = true) ∧
    (GlitchRail.vsram ≠ .vaon ∧ coreUp (getChip (at0 winter) 0) = false) ∧ State.reset.tray.refClock = false ∧
    { winter with wipe := some wipeOff }.wipe = some wipeOff := by decide +kernel

theorem witness_WipesEndWithALogEntryEach :
    ((getChip (at0 { summer with wipe := some wipeOn }) 0).wipe = some wipeOn ∧ wipeOn.inWinter = false ∧
      (getChip (at0 { summer with wipe := some wipeOn }) 0).vault.log.length + wipeOn.codes.length ≤ 64 ∧
      (getChip (at0 { summer with wipe := some wipeOn }) 0).faults.length + wipeOn.codes.length ≤ 16) ∧
    (getChip (at0 live) 0).wipe = none ∧
    ((getChip (at0 { winter with wipe := some wipeOff }) 0).wipe = some wipeOff ∧ wipeOff.inWinter = true ∧ wipeOff.retentionOpen = true) := by decide +kernel

theorem witness_HotFollowsTheThresholds :
    (getChip (at0 winter) 0).wake.season ≠ .off ∧ (getChip (at0 winter) 0).wake.hot = false ∧
    (getChip (at0 { summer with wake := { summer.wake with hot := true } }) 0).wake.hot = true := by decide

theorem witness_GovernorMovesTheRateByOneSixteenth :
    (coreRuns (getChip (at0 summer) 0) = true ∧ (1728 ≤ { temps 0 with hbm0 := 1488 }.tj0 ∨ 1488 ≤ { temps 0 with hbm0 := 1488 }.hbm0)) ∧
    ({ temps 1439 with tj0 := 1663 }.tj0 < 1664 ∧ { temps 1439 with tj0 := 1663 }.tj1 < 1664 ∧ { temps 1439 with tj0 := 1663 }.tj2 < 1664 ∧
      { temps 1439 with tj0 := 1663 }.hbm0 < 1440 ∧ { temps 1439 with tj0 := 1663 }.hbm1 < 1440 ∧ { temps 1439 with tj0 := 1663 }.hbm2 < 1440 ∧
      { temps 1439 with tj0 := 1663 }.hbm3 < 1440) := by decide

theorem witness_ThermalShutdownStopsTheChip :
    ((getChip (at0 summer) 0).wake.season ≠ .off ∧ (getChip (at0 summer) 0).wake.stopped = false ∧ 1840 ≤ { temps 0 with tj0 := 1840 }.tj0 ∧
      (getChip (at0 summer) 0).faults.length < 16 ∧ (getChip (at0 summer) 0).wake.hbm = .running) ∧
    ({ temps 1519 with tj1 := 1839 }.tj0 < 1840 ∧ { temps 1519 with tj1 := 1839 }.tj1 < 1840 ∧ { temps 1519 with tj1 := 1839 }.tj2 < 1840 ∧
      { temps 1519 with tj1 := 1839 }.hbm0 < 1520 ∧ { temps 1519 with tj1 := 1839 }.hbm1 < 1520 ∧ { temps 1519 with tj1 := 1839 }.hbm2 < 1520 ∧
      { temps 1519 with tj1 := 1839 }.hbm3 < 1520) := by decide

/-! ## Witnesses: links -/

/-- A live chip with one port in a given state. -/
def withPort (p : PortNo) (x : Port) : Chip := { live with ports := [(p, x)] }

/-- A port at a step of Table 8-7. -/
def atStep (t : TrainStep) : Port := { Port.reset with mode := .native, step := t }

theorem witness_PortsTrainStepByStep :
    (portOf (getChip (at0 (withPort 24 (atStep .lanes))) 0) 24).step = .lanes ∧ (portOf (getChip (at0 (withPort 24 (atStep .pcs))) 0) 24).step = .pcs ∧
    ((portOf (getChip (at0 (withPort 24 (atStep .delineate))) 0) 24).step = .delineate ∧
      (portOf (getChip (at0 (withPort 24 (atStep .delineate))) 0) 24).mode ≠ .ethernet) ∧
    { atStep .delineate with mode := .ethernet }.mode = .ethernet ∧
    ((portOf (getChip (at0 (withPort 24 (atStep .hello))) 0) 24).step = .hello ∧ (portOf (getChip (at0 (withPort 24 (atStep .hello))) 0) 24).echoed = false) := by
  decide +kernel

/-- The HELLO of a host on port 24 of a live chip (Table 8-9): ROLE host, CHIP 0x3FF. -/
def hostHello : BitVec 256 := packHello { parseHello (helloOf (withPort 24 (atStep .hello)) 24 0x03 0#32) with role := 1, chip := 0x3FF }

theorem witness_PeersAreChecked :
    ((portOf (getChip (at0 (withPort 24 (atStep .hello))) 0) 24).step = .hello ∧
      peerOk (getChip (at0 (withPort 24 (atStep .hello))) 0) 24 (parseHello 0#256) = false ∧
      (portOf (getChip (at0 (withPort 24 (atStep .hello))) 0) 24).mode ≠ .ethernet) ∧
    ((portOf (getChip (at0 (withPort 24 (atStep .hello))) 0) 24).echoed = false ∧
      peerOk (getChip (at0 (withPort 24 (atStep .hello))) 0) 24 (parseHello hostHello) = true) ∧
    ((parseHello hostHello).nonce = (portOf (getChip (at0 (withPort 24 (atStep .hello))) 0) 24).nonce ∧
      (portOf (getChip (at0 (withPort 24 (atStep .hello))) 0) 24).checked = false) ∧
    { atStep .hello with echoed := true }.echoed = true ∧
    ({ atStep .hello with checked := true }.checked = true ∧ { atStep .hello with checked := true }.creditsIn = false) := by decide +kernel

theorem witness_FailedAttemptsBeginAgain :
    inTraining (portOf (getChip (at0 (withPort 24 (atStep .credits))) 0) 24) = true ∧
    (portEnabled (at0 (withPort 0 (atStep .failed1))) 0 0 = true ∧ (portOf (getChip (at0 (withPort 0 (atStep .failed1))) 0) 0).step = .failed1) ∧
    (portEnabled (at0 (withPort 24 (atStep .failed4))) 0 24 = true ∧ (portOf (getChip (at0 (withPort 24 (atStep .failed4))) 0) 24).step = .failed4) ∧
    portEnabled (at0 live) 0 32 = false := by
  decide +kernel

/-- A data unit on VC1 with SOF, for SEQ n. -/
def dataUnit (n vc : Nat) : BitVec 320 := packUnit { kind := 1, vc := vc, sof := true, eof := false, dl := false, tenant := 0, seq := n, content := 0#256 }

theorem witness_FlitsAreTakenInSequence :
    (unitOk (dataUnit 0 3) = true ∧ (parseUnit (dataUnit 0 3)).kind = 1 ∧ (parseUnit (dataUnit 0 3)).eof = false ∧ carriesData (atStep .up) = true ∧
      (parseUnit (dataUnit 0 3)).seq = (atStep .up).rxSeq ∧ (parseUnit (dataUnit 0 3)).vc = 3) ∧
    (unitOk (dataUnit 65535 1) = true ∧ (parseUnit (dataUnit 65535 1)).kind = 1 ∧
      (parseUnit (dataUnit 65535 1)).seq = { atStep .up with rxSeq := 65535 }.rxSeq ∧ (parseUnit (dataUnit 65535 1)).vc ≠ 3 ∧
      (parseUnit (dataUnit 65535 1)).sof = true ∧ (parseUnit (dataUnit 65535 1)).eof = false ∧
      tabFind { atStep .up with rxSeq := 65535 }.assembly (BitVec.ofNat 2 (parseUnit (dataUnit 65535 1)).vc) = none) ∧
    ((parseUnit (dataUnit 65535 1)).seq ≠ (atStep .up).rxSeq ∧ (atStep .up).nakSent = false ∧ { atStep .up with nakSent := true }.nakSent = true ∧
      (atStep .up).mode ≠ .ethernet ∧ { atStep .up with crcFails := 6 }.crcFails < 7) ∧
    (hears { atStep .up with crcFails := 7 } = true ∧ { atStep .up with crcFails := 7 }.crcFails = 7) := by decide +kernel

/-- A CREDIT flit of class 1 that acknowledges SEQ n. -/
def creditAck (n : Nat) : BitVec 256 := packBytes 256 (leBytes 1 1 ++ leBytes 1 1 ++ leBytes 2 n)

/-- A port that is up with one flit unacknowledged, its SEQ the last before the wrap. -/
def oneInReplay : Port := { atStep .up with txSeq := 0, replay := [dataUnit 65535 1] }

theorem witness_AcknowledgedFlitsLeaveReplay :
    (creditClassOk (byteOf (creditAck 65535) 1).toNat = true ∧ oneInReplay.step = .up ∧
      oneInReplay.txSeq = ((u16Of (creditAck 65535) 2).toNat + 1) % 65536 ∧ oneInReplay.replay ≠ [] ∧ oneInReplay.replay.length ≤ 16384) ∧
    ({ atStep .credits with creditsOut := true }.step = .credits ∧ { atStep .credits with creditsOut := true }.creditsOut = true) ∧
    (carriesData oneInReplay = true ∧ 0 < oneInReplay.replay.length ∧
      oneInReplay.txSeq = ((u16Of (nakContent 65535) 2).toNat + (oneInReplay.replay.length - 0)) % 65536 ∧
      { oneInReplay with resends := 15 }.resends < 16) ∧
    (carriesData { oneInReplay with resends := 16 } = true ∧ 16 ≤ { oneInReplay with resends := 16 }.resends) ∧
    creditClassOk (6#8).toNat = true ∧ (hears (atStep .up) = true ∧ unknownControl 5#256 = true) := by decide +kernel

/-- A DONE on its way to the host of port 24, on VC0. -/
def doneFrame : TxFrame := { frame := mkFrame { hdr 0x20 with vc := 0 } (List.replicate 16 0#8), vc := 0#2, route := newPrefix 0 0x3F 0 24 }

theorem witness_LostLinksAreReported :
    ((portOf (getChip (at0 (withPort 24 (atStep .up))) 0) 24).step ≠ .down ∧ isChipLink 24 = false ∧ isChipLink 0 = true) ∧
    ((portOf (withPort 24 { atStep .up with egress := [((0#2, 0), [doneFrame])] }) 24).step = .up ∧
      tabGet [] (portOf (withPort 24 { atStep .up with egress := [((0#2, 0), [doneFrame])] }) 24).egress (0#2, 0) = doneFrame :: [] ∧
      creditOf (portOf (withPort 24 { atStep .up with egress := [((0#2, 0), [doneFrame])] }) 24)
        (txPool (withPort 24 { atStep .up with egress := [((0#2, 0), [doneFrame])] }) 24 doneFrame) < linkFlits 24 doneFrame) ∧
    (linksOn (getChip (at0 live) 0) = true ∧ upPorts (getChip (at0 live) 0) (2 : Fin 3).val = [] ∧ (getChip (at0 live) 0).lostPeers.contains 2 = false) ∧
    (springRuns (getChip (at0 (spring .hbm)) 0) = true ∧ linksOn (getChip (at0 (spring .hbm)) 0) = true ∧ springRuns (getChip (at0 live) 0) = false) ∧
    ((groupPorts (directionGroup .east)).any (axisEnabled (getChip (at0 { live with image := some image2 }) 0)) = true ∧
      linksOn (getChip (at0 { live with image := some image2 }) 0) = true ∧
      upPorts (getChip (at0 { live with image := some image2 }) 0) (directionGroup .east) = [] ∧
      (getChip (at0 { live with image := some image2 }) 0).lostDirs.contains .east = false) := by decide +kernel

/-- An Ethernet-mode port that is up, with 38 units to send. -/
def etherPort : Port := { atStep .up with mode := .ethernet, ethQueue := List.replicate 38 0#320 }

theorem witness_MacFramesCarryUnits :
    (etherOf (getChip (at0 (withPort 24 etherPort)) 0) = some 0x88B5#16 ∧ (portOf (getChip (at0 (withPort 24 etherPort)) 0) 24).ethQueue ≠ []) ∧
    ((portOf (getChip (at0 (withPort 24 etherPort)) 0) 24).mode = .ethernet ∧ hears (portOf (getChip (at0 (withPort 24 etherPort)) 0) 24) = true ∧
      macAccepted (getChip (at0 (withPort 24 etherPort)) 0) 24 { unitMac with etherType := 0x88B5#16 } = true) ∧
    (etherOf (getChip (at0 (withPort 24 etherPort)) 0) ≠ some unitMac.etherType ∧ 37 < { unitMac with units := List.replicate 38 0#320 }.units.length ∧
      { unitMac with fcsOk := false }.fcsOk = false ∧ { unitMac with control := true }.control = true ∧
      ({ unitMac with dest := 0#48 }.dest ≠ macOf (getChip (at0 (withPort 24 etherPort)) 0) 24 ∧ { unitMac with dest := 0#48 }.dest ≠ BitVec.allOnes 48) ∧
      { unitMac with unitsField := 1#8 }.unitsField.toNat ≠ unitMac.units.length ∧ { unitMac with encap := 0#8 }.encap.toNat / 16 ≠ 1 ∧
      { unitMac with clientBytes := 47 }.clientBytes ≠ max 46 (8 + 40 * unitMac.units.length) ∧
      ({ unitMac with epoch := 1#32 }.epoch ≠ (portOf (getChip (at0 (withPort 24 etherPort)) 0) 24).peerEpoch ∧ unitMac.units = [])) := by
  decide +kernel

/-- A PARAM-sized answer on VC0 and a GRAD on VC1 of tenant 0, both for another chip. -/
def gradOut : TxFrame := { frame := mkFrame (hdr 0x01) [], vc := 1#2, route := newPrefix 0 0x3F 1 0x3F }

/-- A port up with credit for everything. -/
def rich : Port := { atStep .up with advertised := [(.vc0 false, 2048), (.ten false false 0, 8192)] }

def inFrame : RxFrame := hostFrame (hdr 0x0C) []

theorem witness_FramesMoveWhole :
    ((portOf (withPort 24 { rich with egress := [((0#2, 0), [doneFrame])] }) 24).step = .up ∧
      tabGet [] (portOf (withPort 24 { rich with egress := [((0#2, 0), [doneFrame])] }) 24).egress (0#2, 0) = doneFrame :: [] ∧
      mayBegin (withPort 24 { rich with egress := [((0#2, 0), [doneFrame])] }) 24 doneFrame = true) ∧
    (tabGet [] (portOf (withPort 0 { rich with egress := [((1#2, 0), [gradOut])] }) 0).egress (0#2, 0) = [] ∧
      (portOf (withPort 0 { rich with egress := [((1#2, 0), [gradOut])] }) 0).vc2Next = decide ((1#2 : BitVec 2) = 2#2) ∧
      tabGet [] (portOf (withPort 0 { rich with egress := [((1#2, 0), [gradOut])] }) 0).egress (1#2, 0) = gradOut :: [] ∧
      (drrServe (byteQuantum (withPort 0 { rich with egress := [((1#2, 0), [gradOut])] }))
        (fun t => tabGet 0 (portOf (withPort 0 { rich with egress := [((1#2, 0), [gradOut])] }) 0).outDeficit (1#2, t))
        (egressHeads (withPort 0 { rich with egress := [((1#2, 0), [gradOut])] }) 0 1#2)).map (·.1) = some 0) ∧
    (linksOn live = true ∧ nextHop live (newPrefix 0 0x3F 0 0x3F) = .here ∧ (newPrefix 0 0x3F 0 0x3F).targetPort = 0x3F#8) ∧
    (nextHop (withPort 24 rich) doneFrame.route = .here ∧ doneFrame.route.targetPort ≠ 0x3F#8 ∧ Fin.ofNat 64 doneFrame.route.targetPort.toNat = (24 : PortNo) ∧
      isHostPort 24 = true ∧ portUp (withPort 24 rich) 24 = true) ∧
    (nextHop (withPort 0 rich) gradOut.route = .mesh 0 ∧
      choosePort (upPorts (withPort 0 rich) (hopGroup (nextHop (withPort 0 rich) gradOut.route))) (frameHead gradOut.frame) = some 0) ∧
    (nextHop live gradOut.route ≠ .here ∧ choosePort (upPorts live (hopGroup (nextHop live gradOut.route))) (frameHead gradOut.frame) = none) ∧
    (ingressQueue (portOf (withPort 24 { rich with ingress := [((0#2, 0), [{ inFrame with vc := 0#2 }])] }) 24) 0#2 0 = { inFrame with vc := 0#2 } :: [] ∧
      staysHere live { inFrame with vc := 0#2 } = true ∧ staysHere live { inFrame with vc := 0#2, route := some gradOut.route } = false ∧
      tabGet 0 rich.stale (0#2, 0) = 0) ∧
    ((drrServe (byteQuantum (withPort 24 { rich with ingress := [((1#2, 0), [inFrame])] }))
        (fun t => tabGet 0 (portOf (withPort 24 { rich with ingress := [((1#2, 0), [inFrame])] }) 24).inDeficit (1#2, t))
        (ingressHeads (withPort 24 { rich with ingress := [((1#2, 0), [inFrame])] }) 24 1#2)).map (·.1) = some 0 ∧
      ingressQueue (portOf (withPort 24 { rich with ingress := [((1#2, 0), [inFrame])] }) 24) 1#2 0 = inFrame :: [] ∧ inFrame.vc = 1#2 ∧
      staysHere live inFrame = true ∧ rxTarget inFrame = chipNo (withPort 24 { rich with ingress := [((1#2, 0), [inFrame])] })) := by decide +kernel

/-! ## Witnesses: requests and reads -/

/-- A host's frame at its destination is served where what ServedRequest asks holds. -/
theorem servedRequest_of {s : State} {c : Pos} {f : RxFrame} {type : Nat} {k : Chip} (r : f.route = none)
    (h : k = taken (getChip s c) f true ∧ linksOn (getChip s c) = true ∧ waitsBehind (getChip s c) f = false ∧ (rxHead f).type = type ∧
      trailerFails f = false ∧ badHeader f = none ∧ f.vc = 1#2 ∧ tenantExists k (rxHead f).tenant = true ∧
      destInside k (rxHead f).dest = true ∧ (rxHead f).dest = chipNo k ∧ wipeCode k = none ∧ stoppingFault k = none ∧
      awaitsReset (ten k (rxHead f).tenant) = false ∧ (ten k (rxHead f).tenant).fault = 0 ∧ k.wake.season ≠ .autumn) : ServedRequest s c f type k := by
  obtain ⟨h1, h2, h3, h4, h5, h6, h7, h8, h9, h10, h11⟩ := h
  exact ⟨h1, h2, h3, h4, h5, h6, h7, h8, fun _ => ⟨h9, h10⟩, fun p hp => by simp [r] at hp, h11⟩

/-- A chip-to-chip frame at its target is served where what ServedFrame asks holds. -/
theorem servedFrame_of {s : State} {c : Pos} {f : RxFrame} {type : Nat} {k : Chip} (r : Prefix)
    (h : f.route = some r ∧ r.targetChip.toNat = chipNo k)
    (g : k = taken (getChip s c) f (decide (type = tyReduce)) ∧ linksOn (getChip s c) = true ∧ waitsBehind (getChip s c) f = false ∧
      (rxHead f).type = type) (g' : chipFrameOk f = true ∧ tenantExists k (rxHead f).tenant = true ∧
      tenantDeaf k (ten k (rxHead f).tenant) = false ∧ (ten k (rxHead f).tenant).wasReset = false) : ServedFrame s c f type k :=
  ⟨g.1, g.2.1, g.2.2.1, g.2.2.2, ⟨r, h⟩, g'⟩

/-- A shard of one element that is filled with step 4. -/
def filledShard : Shard := { Shard.reset with fill := .filled, stateStep := 4, arrays := [(0, [(2, 0x80#8), (3, 0x3F#8)])] }

def filledTen : TenantCtx := { running with shards := [((0, 0), filledShard), ((3, 0), filledShard)] }

/-- A chip whose shard 0 of tensors 0 and 3 is filled. -/
def filled : Chip := withTen filledTen

/-- A STAT_GET of page 0. -/
def statReq : RxFrame := hostFrame (hdr 0x0C) []

theorem witness_RequestsMeetTheirChecks :
    (requestOf (.statGet 0 statReq) = some (0, statReq, 0x0C) ∧ linksOn live = true ∧ (rxHead statReq).type = 0x0C ∧ statReq.route = none ∧
      waitsBehind live statReq = false) ∧
    trailerFails { statReq with frame := { statReq.frame with trailer := 0#32 } } = true ∧
    (trailerFails (hostFrame { hdr 0x0C with version := 2 } []) = false ∧ badHeader (hostFrame { hdr 0x0C with version := 2 } []) = some 0) ∧
    (trailerFails statReq = false ∧ badHeader statReq = none ∧ tenantExists live 0 = true ∧ destInside live 0 = true ∧ (rxHead statReq).dest = chipNo live ∧
      wipeCode live = none ∧ stoppingFault live = none) ∧
    (badHeader { hostFrame { hdr 0x0C with vc := 0 } [] with vc := 0#2 } = none ∧ { hostFrame { hdr 0x0C with vc := 0 } [] with vc := 0#2 }.vc ≠ 1#2) ∧
    tenantExists live (rxHead (hostFrame { hdr 0x0C with tenant := 1 } [])).tenant = false ∧
    destInside live (rxHead (hostFrame { hdr 0x0C with dest := 4 } [])).dest = false ∧
    (destInside live (rxHead (hostFrame { hdr 0x0C with dest := 3 } [])).dest = true ∧ (rxHead (hostFrame { hdr 0x0C with dest := 3 } [])).dest ≠ chipNo live) ∧
    (wipeCode { live with wipe := some wipeOn } = some 0x70 ∧ tyGrad ≠ tyStatGet) ∧
    (stoppingFault { live with faults := [{ code := 0x61, level := 3, port := none, reportedOnly := false }] } = some 0x61 ∧ isReadback tyGrad = false) ∧
    awaitsReset { running with resetPhase := .erasing } = true ∧
    (awaitsReset { running with fault := 0x83 } = false ∧ { running with fault := 0x83 }.fault ≠ 0 ∧ isReadback 0x02 = false) ∧
    (awaitsReset running = false ∧ running.fault = 0 ∧ { live with wake := (autumn .steps).wake }.wake.season = .autumn ∧ isWrite 0x01 = true) ∧
    (isHostRequest (rxHead (hostFrame (hdr 0x30) [])).type = false ∧ isChipFrame (hostFrame (hdr 0x30) []) = false ∧
      trailerFails (hostFrame (hdr 0x30) []) = false ∧ badHeader (hostFrame (hdr 0x30) []) = none) ∧
    (isChipFrame (chipFrame (hdr 0x30) []) = false ∧ (chipFrame (hdr 0x30) []).route = some fromB ∧ fromB.targetChip.toNat = chipNo live ∧
      gradOut.route.targetChip.toNat ≠ chipNo live) ∧
    (doneInfo 0 0).status = 0 := by decide +kernel

theorem witness_StatGet : ServedRequest (at0 live) 0 statReq tyStatGet live := servedRequest_of rfl (by decide +kernel)

/-- SCALE_GET of shard 0 of tensor 0. -/
def scaleReq : RxFrame := hostFrame (hdr 0x0A) []

theorem witness_ScaleGet :
    ServedRequest (at0 filled) 0 scaleReq tyScaleGet filled ∧ paramTensor filled 0 0 = some (tensor0, group0) ∧ homeOf filled 0 0 0 = some (chipNo filled) ∧
    (shardOf (ten filled 0) 0 0).fill = .filled ∧ (shardOf (ten filled 0) 0 0).histPoison = false :=
  ⟨servedRequest_of rfl (by decide +kernel), by decide +kernel⟩

/-- MASK_GET of the whole of tensor 2. -/
def maskReq : RxFrame := hostFrame { hdr 0x08 with tensor := 2, count := 131072 } []

/-- A live chip whose clusters all run a task. -/
def full : Chip := { live with clusters := (List.range 256).map (fun n => (Fin.ofNat 256 n, { Cluster.reset with run := some someRun })) }

set_option maxRecDepth 100000 in
theorem witness_MaskGet :
    ServedRequest (at0 live) 0 maskReq tyMaskGet live ∧ tensorOf live 0 2 = some tensor2 ∧ tensor2.mask = true ∧ 0 < (rxHead maskReq).count ∧
    maskFirst (rxHead maskReq) + (rxHead maskReq).count ≤ tensorElems tensor2 ∧
    RunsAtOnce live (frameTask live 11 maskReq (maskFirst (rxHead maskReq)) (rxHead maskReq).count 0) ∧
    canRunNow full (workTasks full (frameTask full 11 maskReq (maskFirst (rxHead maskReq)) (rxHead maskReq).count 0)) = false := by
  refine ⟨servedRequest_of rfl (by decide +kernel), ?_⟩
  unfold RunsAtOnce
  decide +kernel

/-- PULL of the master of tensor 0 at a step. -/
def pullReq (step : Nat) : RxFrame := hostFrame { hdr 0x03 with step := step } []

def array0 : ArrayInfo := { group := group0, m8 := false, n := 1 }

set_option maxRecDepth 100000 in
theorem witness_Pull :
    (ServedRequest (at0 filled) 0 (pullReq 5) tyPull filled ∧ ServedRequest (at0 filled) 0 (pullReq 4) tyPull filled) ∧
    paramTensor filled 0 0 = some (tensor0, group0) ∧ pullFormat group0 (ten filled 0).m8 0 0 = true ∧ 0 < tensor0.shards ∧
    homeOf filled 0 0 0 = some (chipNo filled) ∧ absentMoment group0 0 = false ∧ pullRange (elemsOf filled 0 0 0) (rxHead (pullReq 4)) = true ∧
    beyondResolved (ten filled 0) 5 2 = false ∧ (shardOf (ten filled 0) 0 0).fill = .filled ∧ resolvedBy (ten filled 0) 5 = false ∧
    resolvedBy (ten filled 0) 4 = true ∧ arrayInfoOf filled 0 0 0 = some array0 ∧
    pullPieces array0 0 0 0 (pullCount 1 (rxHead (pullReq 4))) = [(0, 0, 1)] ∧
    arrayPoison array0 (shardOf (ten filled 0) 0 0) (pullArray array0 0 0 (decide ((0 : Nat) = 4))) 0 1 = none ∧
    RunsAtOnce filled (frameTask filled 4 (pullReq 4) 0 (pullCount 1 (rxHead (pullReq 4))) 0) := by
  refine ⟨⟨servedRequest_of rfl (by decide +kernel), servedRequest_of rfl (by decide +kernel)⟩, ?_⟩
  unfold RunsAtOnce
  decide +kernel

theorem witness_ReadsAreAnswered :
    ServedRequest (at0 live) 0 statReq tyStatGet live ∧ ServedRequest (at0 filled) 0 scaleReq tyScaleGet filled ∧
    ServedRequest (at0 live) 0 maskReq tyMaskGet live ∧
    ServedRequest (at0 filled) 0 (pullReq 5) tyPull filled ∧ ServedRequest (at0 filled) 0 (pullReq 4) tyPull filled :=
  ⟨witness_StatGet, witness_ScaleGet.1, witness_MaskGet.1, witness_Pull.1⟩

/-! ## Witnesses: filling, stash, contributions -/

/-- 1.0 in binary32. -/
def oneBytes : List Byte := [0#8, 0#8, 0x80#8, 0x3F#8]

/-- INIT of the one element of tensor 0 with FLAGS. -/
def initReq (flags : Nat) : RxFrame := hostFrame { hdr 0x02 with count := 1, flags := flags } oneBytes

/-- A chip whose tenant has nothing yet. -/
def blankTen : Chip := withTen { running with committed := none, resolved := none }

def info0 : ShardInfo := { tensor := tensor0, group := group0, n := 1, stride := 32 }

theorem witness_InitServed :
    ServedRequest (at0 blankTen) 0 (initReq 0) tyInit blankTen ∧ ServedRequest (at0 blankTen) 0 (initReq 4) tyInit blankTen ∧
    ServedRequest (at0 filled) 0 (initReq 0) tyInit filled ∧ (rxFlag (initReq flRetry) flRetry = true ∧ rxFlag (initReq 0) flRetry = false) :=
  ⟨servedRequest_of rfl (by decide +kernel), servedRequest_of rfl (by decide +kernel), servedRequest_of rfl (by decide +kernel), by decide +kernel⟩

theorem witness_InitFillsShards :
    paramTensor blankTen 0 0 = some (tensor0, group0) ∧ shardInfo blankTen 0 0 0 = some info0 ∧
    homeOf blankTen 0 0 0 = some (chipNo blankTen) ∧ initFormat group0 (ten blankTen 0).m8 0 0 = true ∧ absentMoment group0 0 = false ∧ 0 + 1 ≤ info0.n ∧
    RunsAtOnce blankTen (frameTask blankTen 3 (initReq 0) 0 1 0) ∧ RunsAtOnce blankTen (frameTask blankTen 3 (initReq 4) 0 1 0) ∧
    RunsAtOnce filled (frameTask filled 3 (initReq 0) 0 1 0) ∧
    (ten blankTen 0).initStep = none ∧ { running with initStep := some 0 }.initStep = some (rxHead (initReq 0)).step ∧
    (shardOf (ten blankTen 0) 0 0).fill ≠ .filled ∧ storedFmt group0 (ten blankTen 0).m8 0 = 0 ∧
    hasFlag (rxHead (initReq 0)).flags flLast = false ∧ hasFlag (rxHead (initReq 4)).flags flLast = true ∧ (rxHead (initReq 4)).aux = 0 ∧
    (ten filled 0).initStep = none ∧ (shardOf (ten filled 0) 0 0).fill = .filled ∧
    ({ running with initStep := some 7 }.initStep = some 7 ∧ 7 ≠ (rxHead (initReq 0)).step) ∧ Memory.wf 0#8 [(3, 1#8)] = true := by
  unfold RunsAtOnce
  and_intros <;> decide +kernel

/-- STASH_PUT of one block of site 0. -/
def putReq (flags : Nat) : RxFrame := hostFrame { hdr 0x05 with format := 1, count := 32, flags := flags } (List.replicate 64 0x3F#8)

/-- A live chip whose site 0 is full. -/
def fullSite : Chip := withTen { running with stashUsed := [(0, 508)] }

/-- STASH_GET of one block of site 0, decoded. -/
def getReq : RxFrame := hostFrame { hdr 0x06 with format := 1, count := 32 } []

/-- A slot of site 0 that holds its first block. -/
def oneBlock : Slot := { Slot.reset with blocks := [((0, 0), List.replicate 4 0xFF#8)] }

/-- A live chip with that slot. -/
def holdsBlock : Chip := withTen { running with slots := [((0, 0), oneBlock)] }

/-- What one STASH_PUT would store. -/
def storedSlot (f : RxFrame) : Slot := storeBlocks site0 (stashBlocks site0 (rxHead f)) (putValues f) (freshSlot Slot.reset (rxHead f))

set_option maxRecDepth 100000 in
theorem witness_StashServed :
    ServedRequest (at0 live) 0 (putReq 0) tyStashPut live ∧ ServedRequest (at0 live) 0 (putReq 4) tyStashPut live ∧
    ServedRequest (at0 fullSite) 0 (putReq 0) tyStashPut fullSite ∧
    ServedRequest (at0 holdsBlock) 0 getReq tyStashGet holdsBlock ∧ ServedRequest (at0 live) 0 getReq tyStashGet live :=
  ⟨servedRequest_of rfl (by decide +kernel), servedRequest_of rfl (by decide +kernel), servedRequest_of rfl (by decide +kernel),
   servedRequest_of rfl (by decide +kernel), servedRequest_of rfl (by decide +kernel)⟩

/-- A STASH_PUT of the second token of a ZRL site before its first. -/
def siteZ : SiteRec := { site0 with id := 1, codec := 0x30 }

set_option maxRecDepth 100000 in
theorem witness_StashHoldsActivations :
    (siteOf live 0 0 = some site0 ∧ siteOf fullSite 0 0 = some site0 ∧ (rxHead (putReq 0)).format = 0x01 ∧ stashRangeOk site0 (rxHead (putReq 0)) = true ∧
      (rxHead (putReq 0)).count ≤ 8192) ∧
    RunsAtOnce live (frameTask live (stashKind site0.codec 5) (putReq 0) (stashToken (rxHead (putReq 0))) 32 0) ∧
    RunsAtOnce live (frameTask live (stashKind site0.codec 5) (putReq 4) (stashToken (rxHead (putReq 4))) 32 0) ∧
    RunsAtOnce fullSite (frameTask fullSite (stashKind site0.codec 5) (putReq 0) (stashToken (rxHead (putReq 0))) 32 0) ∧
    (slotOf (ten live 0) 0 0 = Slot.reset ∧ slotOf (ten fullSite 0) 0 0 = Slot.reset ∧
      slotFits (ten live 0) site0 Slot.reset (storedSlot (putReq 0)) = true ∧ slotFits (ten fullSite 0) site0 Slot.reset (storedSlot (putReq 0)) = false) ∧
    (hasFlag (rxHead (putReq flRetry)).flags flRetry = true ∧ (stashBlocks site0 (rxHead (putReq flRetry))).any (blockWritten oneBlock) = true ∧
      hasFlag (rxHead (putReq 0)).flags flRetry = false) ∧
    (siteZ.codec = 0x30 ∧ zrlOrder Slot.reset 1 1 = false ∧ site0.codec ≠ 0x30) ∧
    (hasFlag (rxHead (putReq 0)).flags flLast = false ∧ hasFlag (rxHead (putReq 4)).flags flLast = true) ∧
    (stashFormat site0.codec 0x01 = true ∧ stashRangeOk site0 (rxHead getReq) = true ∧
      RunsAtOnce holdsBlock (frameTask holdsBlock (stashKind site0.codec 8) getReq (stashToken (rxHead getReq)) 32 0) ∧
      RunsAtOnce live (frameTask live (stashKind site0.codec 8) getReq (stashToken (rxHead getReq)) 32 0)) ∧
    (∀ p ∈ cutRange (rxHead getReq).count (blocksPerFrame (rxHead getReq).format) (stashStart site0 (rxHead getReq)) ((rxHead getReq).count / 32),
      slotPoison (slotOf (ten holdsBlock 0) 0 0) (runBlocks site0 p) = none) ∧
    (∀ b ∈ stashBlocks site0 (rxHead getReq), blockWritten (slotOf (ten holdsBlock 0) 0 0) b = true) ∧
    (stashBlocks site0 (rxHead getReq)).find? (fun b => !blockWritten (slotOf (ten live 0) 0 0) b) = some (0, 0) := by
  unfold RunsAtOnce
  and_intros <;> decide +kernel

/-- A GRAD of the one element of a tensor for step 5. -/
def gradReq (tensor : Nat) : RxFrame := hostFrame { hdr 0x01 with tensor := tensor, step := 5, count := 1, flags := 4 } oneBytes

/-- A GRAD of the whole of tensor 0. -/
def wholeReq : RxFrame := hostFrame { hdr 0x01 with shard := 0xFFFF, step := 5, count := 1, flags := 4 } oneBytes

/-- The same element in a REDUCE from chip 1. -/
def reduceReq : RxFrame := chipFrame { hdr 0x10 with vc := 2, step := 5, count := 1, flags := 4 } oneBytes

/-- The chip once the accumulator's line stands in its slice. -/
def roomFor (f : RxFrame) : Chip := (accRoom filled info0 f 5).1

set_option maxRecDepth 100000 in
theorem witness_GradAccepted : ServedRequest (at0 filled) 0 (gradReq 0) tyGrad filled ∧ AcceptedOnTime filled (roomFor (gradReq 0)) 0 (gradReq 0) info0 := by
  refine ⟨servedRequest_of rfl (by decide +kernel), ?_⟩
  simp only [AcceptedOnTime, RunsAtOnce]
  and_intros <;> decide +kernel

set_option maxRecDepth 100000 in
theorem witness_ReduceAccepted : ServedFrame (at0 filled) 0 reduceReq tyReduce filled ∧ AcceptedOnTime filled (roomFor reduceReq) 0 reduceReq info0 := by
  refine ⟨servedFrame_of fromB (by decide +kernel) (by decide +kernel) (by decide +kernel), ?_⟩
  simp only [AcceptedOnTime, RunsAtOnce]
  and_intros <;> decide +kernel

theorem witness_GradForwarded :
    ServedRequest (at0 filled) 0 (gradReq 1) tyGrad filled ∧ paramTensor filled 0 1 = some (tensor1, group0) ∧ gradFormat 0 = true ∧ 0 < group0.expected ∧
    shardInfo filled 0 1 0 = some { info0 with tensor := tensor1 } ∧ gradRange 1 (rxHead (gradReq 1)) = true ∧ homeOf filled 0 1 0 = some 1 ∧ 1 ≠ chipNo filled :=
  ⟨servedRequest_of rfl (by decide +kernel), by decide +kernel⟩

theorem witness_GradSplit :
    ServedRequest (at0 filled) 0 wholeReq tyGrad filled ∧ (rxHead wholeReq).shard = 0xFFFF ∧ group0.rule ≠ 7 ∧ tensorElems tensor0 ≤ 4294967296 ∧
    gradRange (tensorElems tensor0) (rxHead wholeReq) = true ∧ RunsAtOnce filled (frameTask filled 1 wholeReq 0 1 0) := by
  refine ⟨servedRequest_of rfl (by decide +kernel), ?_⟩
  simp only [RunsAtOnce]
  and_intros <;> decide +kernel

theorem witness_GradientsAreAdded :
    (ServedRequest (at0 filled) 0 (gradReq 0) tyGrad filled ∧ AcceptedOnTime filled (roomFor (gradReq 0)) 0 (gradReq 0) info0) ∧
    (ServedFrame (at0 filled) 0 reduceReq tyReduce filled ∧ AcceptedOnTime filled (roomFor reduceReq) 0 reduceReq info0) ∧
    ServedRequest (at0 filled) 0 (gradReq 1) tyGrad filled ∧ ServedRequest (at0 filled) 0 wholeReq tyGrad filled ∧
    (info0.group.rule ≠ 7 ∧ Memory.wf 0#32 [(0, 1#32)] = true) :=
  ⟨witness_GradAccepted, witness_ReduceAccepted, witness_GradForwarded.1, witness_GradSplit.1, by decide⟩

/-- INDEX of row 1 of tensor 3, the last of its list or not. -/
def indexReq (flags : Nat) : RxFrame := hostFrame { hdr 0x0E with tensor := 3, step := 5, count := 1, flags := flags } [1#8, 0#8, 0#8, 0#8]

def info3 : ShardInfo := { tensor := tensor3, group := group7, n := 64, stride := 64 }

theorem witness_IndexServed :
    ServedRequest (at0 filled) 0 (indexReq 4) tyIndex filled ∧ ServedRequest (at0 filled) 0 (indexReq 0) tyIndex filled :=
  ⟨servedRequest_of rfl (by decide +kernel), servedRequest_of rfl (by decide +kernel)⟩

theorem witness_RowListsAndCollisions :
    (paramTensor filled 0 3 = some (tensor3, group7) ∧ group7.rule = 7 ∧ 0 < group7.expected ∧ (rxHead (indexReq 4)).count ≤ 4096 ∧
      shardInfo filled 0 3 0 = some info3 ∧ homeOf filled 0 3 0 = some (chipNo filled) ∧ beyondResolved (ten filled 0) 5 2 = false ∧
      (shardOf (ten filled 0) 3 0).fill = .filled ∧ shardLate info3 (ten filled 0) 3 0 5 = false ∧
      (sourceOf (stepOf (shardOf (ten filled 0) 3 0) 5) 0).indexSeqs.contains 0 = false ∧
      (sourceOf (stepOf (shardOf (ten filled 0) 3 0) 5) 0).indexSeqs.length = 0 ∧ (sourceOf (stepOf (shardOf (ten filled 0) 3 0) 5) 0).indexDone = false ∧
      rowsOk (64 / rowElems tensor3) (sourceOf (stepOf (shardOf (ten filled 0) 3 0) 5) 0).rows.getLast? (indexRows (indexReq 4)) = true ∧
      hasFlag (rxHead (indexReq 0)).flags flLast = false ∧ hasFlag (rxHead (indexReq 4)).flags flLast = true) ∧
    (writesBit { filled with collisions := [(gradReq 0, 7)] } (gradReq 0) = true ∧ linksOn filled = true ∧
      tabGet 0 { filled with collisions := [(gradReq 0, 7)] }.collisions (gradReq 0) < 8) ∧
    (writesBit { filled with collisions := [(gradReq 0, 8)] } (gradReq 0) = true ∧ tabGet 0 { filled with collisions := [(gradReq 0, 8)] }.collisions (gradReq 0) = 8 ∧
      isSilent (gradReq 0) (isPiece (gradReq 0)) = false) ∧
    ((rxHead (gradReq 0)).type = tyGrad ∧ (rxHead reduceReq).type = tyReduce) := by
  and_intros <;> decide +kernel

/-! ## Witnesses: steps -/

/-- An image whose groups want two contributors and a quorum of one. -/
def imageQ : Image := { image0 with catalogues := [(0, { cat0 with groups := [{ group0 with expected := 2, quorum := 128 }, group7] })] }

def infoQ : ShardInfo := { info0 with group := { group0 with expected := 2, quorum := 128 } }

/-- A step that some sources have arrived in, its deadline running. -/
def openStep (l : Tab Nat Source) : ShardStep := { ShardStep.reset with deadline := .running, sources := l }

def arrivedSource : Source := { Source.reset with started := true, slots := [0] }

/-- A step that source 0 has arrived in. -/
def oneIn : ShardStep := openStep [(0, arrivedSource)]

/-- A chip with a step 5 of shard (0, 0). -/
def withStep (i : Image) (r : ShardStep) : Chip :=
  { live with image := some i, tenants := [(0, { filledTen with shards := [((0, 0), { filledShard with steps := [(5, r)] })] })] }

def ref5 : ShardStepRef := { tenant := 0, tensor := 0, shard := 0, step := 5 }

/-- A task of a kind for shard (0, 0) in step 5. -/
def taskOf (kind : Nat) : Task := { someTask with kind := kind, step := 5 }

/-- What a state of SHARD_DEADLINE asks. -/
def deadlineRuns (k : Chip) (p : ShardStep) : Bool :=
  decide (shardInfo k 0 0 0 = some infoQ) && coreRuns k && !tenantPoolFull k 0 && decide (stepOf (shardOf (ten k 0) 0 0) 5 = p) &&
  decide (p.deadline = .running) && !p.closed && !closeDue infoQ 0 p

set_option maxRecDepth 100000 in
theorem witness_ShardsClose :
    (deadlineRuns (withStep imageQ oneIn) oneIn = true ∧ quorumOf infoQ.group ≤ (arrivedSources infoQ 0 oneIn).length) ∧
    (deadlineRuns (withStep imageQ (openStep [])) (openStep []) = true ∧ waitingGrads (withStep imageQ (openStep [])) 0 0 0 5 = [] ∧
      (arrivedSources infoQ 0 (openStep [])).length < quorumOf infoQ.group ∧ (withStep imageQ (openStep [])).wake.season ≠ .autumn ∧
      (openStep []).waited = false) ∧
    (deadlineRuns { withStep imageQ (openStep []) with ports := [(24, { rich with ingress := [((1#2, 0), [gradReq 0])] })] } (openStep []) = true ∧
      waitingGrads { withStep imageQ (openStep []) with ports := [(24, { rich with ingress := [((1#2, 0), [gradReq 0])] })] } 0 0 0 5 ≠ []) ∧
    addsWait { withStep imageQ oneIn with clusters := [(3, { Cluster.reset with queue := [taskOf 0] })] } 0 0 0 5 = true ∧
    (shardInfo (withStep image0 oneIn) 0 0 0 = some info0 ∧ coreRuns (withStep image0 oneIn) = true ∧
      stepOf (shardOf (ten (withStep image0 oneIn) 0) 0 0) 5 = oneIn ∧ oneIn.closed = false ∧
      resolvedBy (ten (withStep image0 oneIn) 0) 5 = false ∧ anyAccepted oneIn = true ∧ addsWait (withStep image0 oneIn) 0 0 0 5 = false ∧
      oneIn.closing = false ∧ closeDue info0 0 oneIn = true ∧
      slotsWhere (withStep image0 oneIn) (fun b => (closeTasks (withStep image0 oneIn) 0 info0 0 0 0 5).any (taskSlot b)) = [] ∧
      (closeAll (closeTasks (withStep image0 oneIn) 0 info0 0 0 0 5) (withStep image0 oneIn)).isSome = true) ∧
    ({ oneIn with closing := true }.closing = true ∧ closeRuns (withStep image0 { oneIn with closing := true }) 0 0 0 5 = false) := by
  and_intros <;> decide +kernel

/-- A SHARD_VERDICT of shard (0, 0) for step 5. -/
def shardVerdictFrame : RxFrame := chipFrame { hdr 0x11 with vc := 0, step := 5 } (List.replicate 528 0#8)

/-- A VERDICT of step 5: factor 1.0. -/
def verdictFrame (aux : Nat) : RxFrame :=
  chipFrame { hdr 0x12 with vc := 0, step := 5, aux := aux } ([0#8, 0#8, 0x80#8, 0x3F#8] ++ List.replicate 12 0#8)

def verdictOf (aux : Nat) (l : List Nat) : VerdictRec := { aux := aux, factor := 0x3F800000#32, lsExp := 0, clean := 0, tensors := l }

/-- A chip on which step 5 has a verdict, and the step before is resolved. -/
def judged (v : VerdictRec) (r : ShardStep) : Chip :=
  withTen { filledTen with shards := [((0, 0), { filledShard with steps := [(5, r)] }), ((3, 0), { filledShard with steps := [(5, r)] })],
                           steps := [(5, { StepRec.reset with verdict := some v })] }

/-- A chip with the gather object of step 5 one short of its three shards. -/
def almostGathered : Chip := { filled with sync := [(17, { SyncObj.reset with c := 2#32 })] }

/-- A chip on which the verdict of shard (0, 0) for step 5 has been counted. -/
def counted : Chip :=
  withTen { filledTen with gathers := [(5, { Gather.reset with timer := .running, verdicts := [((0, 0), shardVerdictOf [])] })] }

set_option maxRecDepth 1000000 in
theorem witness_ShardVerdictServed :
    ServedFrame (at0 filled) 0 shardVerdictFrame tyShardVerdict filled ∧ ServedFrame (at0 almostGathered) 0 shardVerdictFrame tyShardVerdict almostGathered ∧
    ServedFrame (at0 counted) 0 shardVerdictFrame tyShardVerdict counted :=
  ⟨servedFrame_of fromB (by decide +kernel) (by decide +kernel) (by decide +kernel), servedFrame_of fromB (by decide +kernel) (by decide +kernel) (by decide +kernel),
   servedFrame_of fromB (by decide +kernel) (by decide +kernel) (by decide +kernel)⟩

theorem witness_VerdictServed : ServedFrame (at0 filled) 0 (verdictFrame 0) tyVerdict filled ∧ ServedFrame (at0 filled) 0 (verdictFrame 3) tyVerdict filled :=
  ⟨servedFrame_of fromB (by decide +kernel) (by decide +kernel) (by decide +kernel), servedFrame_of fromB (by decide +kernel) (by decide +kernel) (by decide +kernel)⟩

def endedStep : ShardStep := { oneIn with closed := true, update := .ended, pend := [(0, [(0, 1#8)])] }

def appliedStep : ShardStep := { endedStep with applied := true }

/-- What the application of a VERDICT asks. -/
def mayApply (k : Chip) (v : VerdictRec) (r : ShardStep) : Bool :=
  decide ((stepRec (ten k 0) 5).verdict = some v) && decide (arrayInfoOf k 0 0 0 = some array0) && decide (stepOf (shardOf (ten k 0) 0 0) 5 = r) &&
  !r.applied && prevOver (ten k 0) 5 && stageStill k 0 0 0 5

/-- A chip on which the only tile of shard (0, 0) in step 5 is done. -/
def tileDone : Chip := withStep image0 { endedStep with update := .running, tilesDone := [0] }

set_option maxRecDepth 100000 in
theorem witness_StepsAreDecidedAndCommitted :
    (catOf filled 0 = some cat0 ∧ stepRootOf filled 0 = chipNo filled ∧ (homeOf filled 0 0 0).isSome = true ∧ gatherOver (ten filled 0) 5 = false ∧
      tabFind (tabGet Gather.reset (ten filled 0).gathers 5).verdicts (0, 0) = none ∧ tenantRec filled 0 = some tenant0) ∧
    ((syncObj filled 17).c + 1#32 ≠ BitVec.ofNat 32 (allShards cat0).length ∧
      (syncObj almostGathered 17).c + 1#32 = BitVec.ofNat 32 (allShards cat0).length) ∧
    (tabFind (tabGet Gather.reset (ten counted 0).gathers 5).verdicts (0, 0)).isSome = true ∧
    gatherOver { running with gathers := [(5, { Gather.reset with decided := true })] } 5 = true ∧
    (resolvedBy (ten filled 0) 5 = false ∧ (stepRec (ten filled 0) 5).verdict = none ∧ (rxHead (verdictFrame 3)).aux ≤ 3) ∧
    (mayApply (judged (verdictOf 0 []) endedStep) (verdictOf 0 []) endedStep = true ∧ endedStep.update = .ended) ∧
    (mayApply (judged (verdictOf 2 []) endedStep) (verdictOf 2 []) endedStep = true ∧ array0.group.global = false) ∧
    (mayApply (judged (verdictOf 3 [3]) endedStep) (verdictOf 3 [3]) endedStep = true ∧ (verdictOf 3 [3]).tensors.contains 0 = false) ∧
    mayApply (judged (verdictOf 1 []) { endedStep with update := .aborted }) (verdictOf 1 []) { endedStep with update := .aborted } = true ∧
    (mayApply (judged (verdictOf 3 [0]) endedStep) (verdictOf 3 [0]) endedStep = true ∧ (verdictOf 3 [0]).tensors.contains 0 = true) ∧
    (shardInfo tileDone 0 0 0 = some info0 ∧ coreRuns tileDone = true ∧ stageDone tileDone 0 0 0 5 info0 = true ∧
      (stepRec (ten tileDone 0) 5).verdict = none ∧ (stepRec (ten tileDone 0) 6).verdict = none) ∧
    (coreRuns (arrive (judged (verdictOf 0 []) appliedStep) 0 5) = true ∧ barrierDone (arrive (judged (verdictOf 0 []) appliedStep) 0 5) 0 5 = true ∧
      (stepRec (ten (arrive (judged (verdictOf 0 []) appliedStep) 0 5) 0) 5).verdict = some (verdictOf 0 [])) ∧
    (barrierDone (arrive (judged (verdictOf 1 []) appliedStep) 0 5) 0 5 = true ∧
      (stepRec (ten (arrive (judged (verdictOf 1 []) appliedStep) 0 5) 0) 5).verdict = some (verdictOf 1 [])) := by
  and_intros <;> decide +kernel

/-- A TENANT_DOWN from chip 1. -/
def downFrame : RxFrame := chipFrame { hdr 0x15 with vc := 0 } (List.replicate 16 0#8)

/-- What a TENANT_DOWN that a chip takes asks. -/
def takesDown (k : Chip) : Bool :=
  decide (k = consume k downFrame) && linksOn k && !waitsBehind k downFrame && decide ((rxHead downFrame).type = tyTenantDown) &&
  decide (downFrame.route = some fromB) && decide (fromB.targetChip.toNat = chipNo k) && chipFrameOk downFrame && tenantExists k 0 &&
  decide (wipeCode k = none) && decide (stoppingFault k = none) && decide ((ten k 0).resetPhase = .none)

/-- Live chips whose verdict timer, or gather timer, of step 5 runs. -/
def awaitsVerdict : Chip := withTen { running with steps := [(5, { StepRec.reset with timer := .running })] }

def awaitsGather : Chip := withTen { running with gathers := [(5, { Gather.reset with timer := .running })] }

theorem witness_TenantLevelCodesFaultOneTenant :
    (coreRuns awaitsVerdict = true ∧ (stepRec (ten awaitsVerdict 0) 5).timer = .running ∧ (stepRec (ten awaitsVerdict 0) 5).verdict = none) ∧
    (coreRuns awaitsGather = true ∧ (tabGet Gather.reset (ten awaitsGather 0).gathers 5).timer = .running) ∧
    (takesDown live = true ∧ (ten live 0).wasReset = false ∧ (ten live 0).fault = 0) ∧
    (takesDown (withTen { running with fault := 0x83 }) = true ∧ { running with fault := 0x83 }.fault ≠ 0) ∧
    (takesDown (withTen { running with wasReset := true }) = true ∧ { running with wasReset := true }.wasReset = true) ∧
    (0x85 ≠ 0 ∧ (ten live 0).resetPhase = .none ∧ (ten live 0).loaded = true ∧ ∀ f ∈ (ten live 0).heldPulls, (rxHead f).tenant = 0) := by
  and_intros <;> decide +kernel

/-! ## Witnesses: sync objects -/

/-- A SYNC_OP that adds 1 to tenant 0's object j. -/
def opFrame (j : Nat) : RxFrame := chipFrame { hdr 0x13 with vc := 2, seq := 9 } (leBytes 2 j ++ leBytes 2 0 ++ leBytes 4 1 ++ leBytes 8 0)

/-- The SYNC_ACK of an operation sent with SEQ 9. -/
def ackFrame : RxFrame := chipFrame { hdr 0x14 with vc := 0, seq := 9 } (List.replicate 16 0#8)

/-- A chip that waits for that SYNC_ACK from chip 1. -/
def awaitsAck (l : List (ClusterNo × TxFrame)) : Chip :=
  { live with tenants := [(0, { running with syncTx := [(1, { SyncTx.reset with outstanding := some (9, 3), waiting := l })] })],
              clusters := [(3, { Cluster.reset with run := some { someRun with waitFor := .ack 1 } })] }

/-- A chip that has taken SEQ 9 from chip 1. -/
def tookNine : Chip := withTen { running with syncRx := [(1, 9)] }

theorem witness_SyncOpServed :
    ServedFrame (at0 live) 0 (opFrame 3839) tySyncOp live ∧ ServedFrame (at0 live) 0 (opFrame 3840) tySyncOp live ∧
    ServedFrame (at0 tookNine) 0 (opFrame 0) tySyncOp tookNine :=
  ⟨servedFrame_of fromB (by decide +kernel) (by decide +kernel) (by decide +kernel), servedFrame_of fromB (by decide +kernel) (by decide +kernel) (by decide +kernel),
   servedFrame_of fromB (by decide +kernel) (by decide +kernel) (by decide +kernel)⟩

theorem witness_SyncAckServed :
    ServedFrame (at0 live) 0 ackFrame tySyncAck live ∧ ServedFrame (at0 (awaitsAck [])) 0 ackFrame tySyncAck (awaitsAck []) ∧
    ServedFrame (at0 (awaitsAck [(4, gradOut)])) 0 ackFrame tySyncAck (awaitsAck [(4, gradOut)]) :=
  ⟨servedFrame_of fromB (by decide +kernel) (by decide +kernel) (by decide +kernel), servedFrame_of fromB (by decide +kernel) (by decide +kernel) (by decide +kernel),
   servedFrame_of fromB (by decide +kernel) (by decide +kernel) (by decide +kernel)⟩

theorem witness_SyncOperationsTakeEffectOnce :
    ((opFrame 3839).route = some fromB ∧ (rxHead (opFrame 3839)).aux < 4 ∧ syncIndexOk live 0 (fieldAt (opFrame 3839).frame.payload 0 2) = true ∧
      tabFind (ten live 0).syncRx fromB.originChip.toNat ≠ some (rxHead (opFrame 3839)).seq) ∧
    (syncIndexOk tookNine 0 (fieldAt (opFrame 0).frame.payload 0 2) = true ∧
      tabFind (ten tookNine 0).syncRx fromB.originChip.toNat = some (rxHead (opFrame 0)).seq) ∧
    syncIndexOk live 0 (fieldAt (opFrame 3840).frame.payload 0 2) = false ∧
    (syncTxOf (ten live 0) fromB.originChip.toNat).outstanding = none ∧
    (syncTxOf (ten (awaitsAck []) 0) fromB.originChip.toNat).outstanding = some ((rxHead ackFrame).seq, 3) ∧
    (syncTxOf (ten (awaitsAck []) 0) fromB.originChip.toNat).waiting = [] ∧
    ((clusterOf (awaitsAck []) 3).run = some { someRun with waitFor := .ack 1 } ∧ someRun.task.tenant = 0 ∧
      { someRun with waitFor := .ack 1 }.waitFor = .ack fromB.originChip.toNat) ∧
    (syncTxOf (ten (awaitsAck [(4, gradOut)]) 0) fromB.originChip.toNat).waiting = (4, gradOut) :: [] := by
  and_intros <;> decide +kernel

/-! ## Witnesses: tasks, streams, memory -/

/-- 128 bytes of scratchpad, loaded or stored in one buffer. -/
def scratchDesc (op : Nat) : DescRec :=
  { role := 0, op := op, space := 0, hint := 0, elemSize := 1, array := 0, warp := 0xFF, queue := op, surplus := 0, base := 0, count := 128,
    stride := 1, row := 128, pitch := 128, buffer := 128 }

def stageOf (code arg out operand : Nat) : StageRec :=
  { code := code, arg := arg, ins := [0xFF, 0xFF, 0xFF, 0xFF], outs := [out, 0xFF, 0xFF, 0xFF], shardScale := false, raw := false, sync := 0,
    target := 0, operand := operand, bound := 2464 }

/-- A recipe that loads, stores, waits for sync object 0 to reach 1, and signals it. -/
def recipe0 : Recipe :=
  { use := 4, prologue := 0, l1 := 0, tile := 4096, work := 0, stages := [stageOf 0x01 0 0 0, stageOf 0x02 0 1 0, stageOf 0x13 4 0xFF 1, stageOf 0x12 0 0xFF 1],
    descs := [scratchDesc 0, scratchDesc 1] }

/-- The same with a prologue of one stage. -/
def recipe1 : Recipe := { recipe0 with prologue := 1 }

/-- A live chip with those recipes, and one cluster. -/
def withCluster (x : Cluster) : Chip := { live with image := some { image0 with recipes := [recipe0, recipe1] }, clusters := [(3, x)] }

/-- The same with sync object 0 of tenant 0 at 1. -/
def reached (x : Cluster) : Chip := { withCluster x with sync := [(syncNumber (withCluster x) 0 0, { SyncObj.reset with c := 1#32 })] }

/-- A cluster that runs a task. -/
def running3 (r : RunTask) : Cluster := { Cluster.reset with run := some r }

def onRun (r : RunTask) : Chip := withCluster (running3 r)

/-- A task whose work has no recipe of its own, and so runs whole. -/
def wholeTask : Task := { someTask with recipe := 9 }

/-- A cluster with one task in its queue. -/
def queued (u : Task) : Cluster := { Cluster.reset with queue := [u] }

/-- What a start on an idle cluster asks of its one task. -/
def mayBeChosen (u : Task) : Bool :=
  coreRuns (withCluster (queued u)) && tenantExists (withCluster (queued u)) u.tenant &&
  decide (nextTask (withCluster (queued u)) (queued u) u.tenant = some u) &&
  decide ((drrServe (cycleQuantum (withCluster (queued u))) (fun n => tabGet 0 (queued u).deficit n)
    (taskHeads (withCluster (queued u)) (queued u))).map (·.1) = some u.tenant)

/-- An input that is none. -/
def noIn : StageIn := { fmt := none, start := 0, bytes := [], poison := 0 }

/-- What the start of stage n of the running task asks, a stage without inputs that is neither compute nor a range operation. -/
def mayBegin3 (k : Chip) (n : Nat) (g : StageRec) : Bool :=
  let u := { someRun with active := false, stage := n }
  decide (clusterOf k 3 = running3 u) && coreRuns k && decide (stageAt k 0 n = some g) &&
  decide (takeIns k g.ins u = some (List.replicate 4 noIn, u)) && stageReady k (running3 u) u g && decide (stageHits k (running3 u) u = []) &&
  !isCompute g.code && !isRange g.code && (decide (g.code < 0x12) || syncIndexOk k 0 g.sync)

/-- A run of stage n, not begun. -/
def idleAt (n : Nat) : RunTask := { someRun with active := false, stage := n }

/-- What the end of a stage of the running task asks. -/
def mayEnd3 (r : RunTask) : Bool :=
  decide (clusterOf (onRun r) 3 = running3 r) && coreRuns (onRun r) && r.active && stageOverNow (onRun r) (running3 r) r

/-- A run of the last stage, its wait over. -/
def lastStage : RunTask := { someRun with stage := 3, waitFor := .released }

theorem witness_TasksRunStageByStage :
    (mayBeChosen someTask = true ∧ startsWhole (withCluster (queued someTask)) (queued someTask) someTask = false ∧
      recipeFits (withCluster (queued someTask)) 0 = true) ∧
    (mayBeChosen wholeTask = true ∧ startsWhole (withCluster (queued wholeTask)) (queued wholeTask) wholeTask = true ∧
      slotsWhere (withCluster (queued wholeTask)) (fun b => taskSlot b wholeTask) = [] ∧ wholeFault (withCluster (queued wholeTask)) wholeTask = none) ∧
    (nextTask (withCluster { running3 { someRun with loadsIssued := true } with queue := [{ someTask with recipe := 1 }] })
        { running3 { someRun with loadsIssued := true } with queue := [{ someTask with recipe := 1 }] } 0 = some { someTask with recipe := 1 } ∧
      mayPrologue (withCluster { running3 { someRun with loadsIssued := true } with queue := [{ someTask with recipe := 1 }] })
        { running3 { someRun with loadsIssued := true } with queue := [{ someTask with recipe := 1 }] } { someRun with loadsIssued := true }
        { someTask with recipe := 1 } = true) ∧
    (clusterOf (withCluster { Cluster.reset with halted := true }) 3).halted = true ∧
    (mayBegin3 (onRun (idleAt 0)) 0 (stageOf 0x01 0 0 0) = true ∧ (stageOf 0x01 0 0 0).code ≤ 0x04 ∧ 0 ∈ issuedBy (stageOf 0x01 0 0 0) ∧
      descAt (onRun (idleAt 0)) someTask 0 = some (scratchDesc 0)) ∧
    (mayBegin3 (onRun (idleAt 3)) 3 (stageOf 0x12 0 0xFF 1) = true ∧ isRemote (onRun (idleAt 3)) (stageOf 0x12 0 0xFF 1) = false) ∧
    (mayBegin3 (onRun (idleAt 2)) 2 (stageOf 0x13 4 0xFF 1) = true ∧
      serialGe (syncObj (onRun (idleAt 2)) (syncNumber (onRun (idleAt 2)) 0 0)).c 1#32 = false) ∧
    (mayBegin3 (reached (running3 (idleAt 2))) 2 (stageOf 0x13 4 0xFF 1) = true ∧
      serialGe (syncObj (reached (running3 (idleAt 2))) (syncNumber (reached (running3 (idleAt 2))) 0 0)).c 1#32 = true) ∧
    (mayEnd3 { someRun with count := 16 * 2464 - 1 } = true ∧ someRun.stage + 1 < stageCount (onRun someRun) 0) ∧
    (mayEnd3 lastStage = true ∧ stageCount (onRun lastStage) 0 ≤ lastStage.stage + 1 ∧
      isDrained (onRun lastStage) (releaseIns (pushOuts (onRun lastStage) lastStage)) = true) ∧
    (overBound (onRun { someRun with count := 16 * 2464 }) { someRun with count := 16 * 2464 } = true ∧
      overBound (onRun { someRun with count := 16 * 2464, waitFor := .reach 256 1#32 }) { someRun with count := 16 * 2464, waitFor := .reach 256 1#32 } = true ∧
      overBound (onRun { someRun with count := 16 * 2464, waitFor := .ack 1 }) { someRun with count := 16 * 2464, waitFor := .ack 1 } = true ∧
      (running3 someRun).next = none) := by
  and_intros <;> decide +kernel

/-- A stream with nothing issued yet. -/
def stream0 : Stream :=
  { total := 128, issued := 0, completed := 0, inFlight := [], inUse := 0, borrowed := 0, data := [], poison := 0, indices := [], start := 0, length := 0,
    stamp := 0 }

/-- A request for 128 bytes. -/
def request0 : Request := { address := 0, bytes := 128, stamp := 0, serial := 0, missed := [] }

/-- A run whose load is issued, and one whose load has 128 bytes in flight. -/
def loading0 : RunTask := { someRun with streams := [(0, stream0)] }

def flying : RunTask := { someRun with streams := [(0, { stream0 with issued := 128, inFlight := [request0] })] }

/-- A run whose store waits for the buffer in its queue, and one whose store has 128 bytes in flight. -/
def pushed : RunTask :=
  { someRun with stage := 1, streams := [(1, stream0)],
                 queues := [(1, [{ desc := 1, stamp := 0, start := 0, bytes := List.replicate 128 1#8, poison := 0, last := true }])] }

def storing : RunTask :=
  { someRun with stage := 1, streams := [(1, { stream0 with issued := 128, length := 128, inFlight := [request0], data := List.replicate 128 1#8 })] }

/-- A run that waits on a short-path transfer of 4 bytes. -/
def short (issued : Bool) : RunTask := { someRun with shorts := [{ bytes := 4, issued := issued }] }

/-- The store with its buffer taken. -/
def takenBuffer : RunTask := takeBuffer (onRun pushed) (running3 pushed) pushed 1 (scratchDesc 1)

def sliceLine0 : SliceLine :=
  { tenant := 0, kind := .region, valid := fullMask, dirty := 0#128, data := 0#1024, hint := 0, stamp := 0, poison := false, dir := .i, sharers := [] }

/-- A chip with one miss, which nothing waits for. -/
def missing : Chip := { live with lineMisses := [(5, { tenant := 0, kind := .region, waiters := [] })] }

/-- The addresses of the load's bytes. -/
def loadBytes : List Nat := bytesAt (onRun loading0) loading0 (scratchDesc 0) 0 128

theorem witness_StreamRequestIssue :
    ((clusterOf (onRun loading0) 3 = running3 loading0 ∧ coreRuns (onRun loading0) = true ∧ descAt (onRun loading0) someTask 0 = some (scratchDesc 0) ∧
      (scratchDesc 0).op = 0 ∧ keepsBack (onRun loading0) loading0 = false ∧ isStalled (onRun loading0) someTask = false) ∧
      (streamAt loading0 0 = some stream0 ∧ nextRequest (onRun loading0) loading0 (scratchDesc 0) stream0 = (0, 128) ∧
      freeSlot (onRun loading0) (running3 loading0) = true ∧ freeBuffer (onRun loading0) (running3 loading0) loading0 (scratchDesc 0) stream0 = true ∧
      addressFault (onRun loading0) someTask (scratchDesc 0) loadBytes = none ∧ 20480 * (linesOf loadBytes).length ≤ (running3 loading0).readTokens ∧
      registersFree (running3 loading0) (((needsOf (onRun loading0) someTask (scratchDesc 0) loadBytes).filter (l1Miss (running3 loading0))).map (·.line)) = true)) ∧
    (clusterOf (onRun pushed) 3 = running3 pushed ∧ descAt (onRun pushed) someTask 1 = some (scratchDesc 1) ∧ (scratchDesc 1).op = 1 ∧
      keepsBack (onRun pushed) pushed = false ∧ isStalled (onRun pushed) someTask = false) ∧
    (∃ w, streamAt takenBuffer 1 = some w ∧ nextRequest (onRun pushed) takenBuffer (scratchDesc 1) w = (0, 128)) ∧
    (addressFault (onRun pushed) someTask (scratchDesc 1) (bytesAt (onRun pushed) takenBuffer (scratchDesc 1) 0 128) = none ∧
      writeCost (bytesAt (onRun pushed) takenBuffer (scratchDesc 1) 0 128) ≤ (running3 pushed).writeTokens ∧ registersFree (running3 pushed) [] = true ∧
      writesUpdate (onRun pushed) someTask (scratchDesc 1) = false) ∧
    (clusterOf (onRun (short false)) 3 = running3 (short false) ∧ descAt (onRun (short false)) someTask 31 = none ∧
      freeSlot (onRun (short false)) (running3 (short false)) = true ∧ writeCost (List.range 4) ≤ (running3 (short false)).writeTokens) ∧
    (clusterOf (onRun (short true)) 3 = running3 (short true) ∧ (short true).shorts = { bytes := 4, issued := true } :: []) := by
  refine ⟨by decide +kernel, by decide +kernel, ⟨(streamAt takenBuffer 1).getD stream0, by decide +kernel, by decide +kernel⟩, by decide +kernel,
    by decide +kernel, by decide +kernel⟩

theorem witness_StreamsMoveTheirBytes :
    (clusterOf (onRun flying) 3 = running3 flying ∧ descAt (onRun flying) someTask 0 = some (scratchDesc 0) ∧
      streamAt flying 0 = some { stream0 with issued := 128, inFlight := [request0] } ∧
      (needsOf (onRun flying) someTask (scratchDesc 0) loadBytes).any (waitsForFill (onRun flying) (running3 flying)) = false ∧
      queueFull (running3 flying) (scratchDesc 0) stream0 128 = false ∧
      mayComplete (onRun flying) flying { desc := 0, load := true, lines := orderedLines (onRun flying) someTask (scratchDesc 0) loadBytes, stamp := 0 } = true ∧
      rereadsDead (onRun flying) someTask (scratchDesc 0) loadBytes = false ∧ (scratchDesc 0).space = 0) ∧
    (clusterOf (onRun storing) 3 = running3 storing ∧ storing.active = true ∧ descAt (onRun storing) someTask 1 = some (scratchDesc 1) ∧
      (scratchDesc 1).op = 1 ∧ (scratchDesc 1).space = 0) ∧
    ((scratchDesc 1).op ≠ 2 ∧ Memory.wf 0#8 Cluster.reset.scratch = true) ∧
    (tabFind missing.lineMisses 5 = some { tenant := 0, kind := .region, waiters := [] } ∧ holdersOf missing 5 = [] ∧ sliceLine missing 5 = none ∧
      hasWay missing 0 5 = true) ∧
    deadDone { live with deadDue := [(5, [7])] } 5 = true ∧
    (coreUp live = true ∧ sliceLine { live with lines := [(5, sliceLine0)] } 5 = some sliceLine0 ∧ sliceLine0.kind = .region) ∧
    (live.wake.hbm = .running ∧ 0x2FFFFFFF < 0x30000000 ∧ holderOf live (ownerOf live (128 * 0x2FFFFFFF)) 0x2FFFFFFF = .place) ∧
    4194303 < (8 - (clusterOf live 0).lastL1) * 524288 ∧
    tabFind (shardOf (ten (withStep image0 (openStep [])) 0) 0 0).steps 5 = some (openStep []) := by
  and_intros <;> decide +kernel

/-! ## Witnesses: the debug port -/

theorem witness_BoundaryScanFollowsTheSeason :
    (keeperTapUp keeperUp = true ∧ keeperTapUp State.reset = false ∧ (getChip State.reset 1).wake.season = .off ∧ (getChip (at0 winter) 0).wake.season ≠ .off) ∧
    (listsOpcode (.chip 0) 0x05#8 = false ∧ listsOpcode .keeper 0x00#8 = false) ∧ (getChip (at0 winter) 0).wake.season = .winter ∧
    ((getChip (at0 summer) 0).wake.season ≠ .winter ∧ (getChip (at0 summer) 0).wake.season ≠ .off) := by decide +kernel

/-- A chip in Summer with DEBUG_EN latched high, in FIELD. -/
def debugged : Chip := { summer with wake := { summer.wake with latched := { StrapSet.reset with debugEn := some true } } }

/-- The same in RETURN. -/
def returned : Chip := { debugged with vault := { Vault.reset with lifeCycle := .ret } }

/-- A chip in Winter that may advance from FIELD. -/
def advancing : Chip := { winter with wake := { winter.wake with latched := { StrapSet.reset with debugEn := some true } } }

/-- A DBG_MEM value that writes the last 8 bytes of cluster 255's scratchpad. -/
def memReg : BitVec 128 := BitVec.ofNat 128 (1 + 16 + 256 * (255 * 4194304 + 4194296))

theorem witness_DebugActsWhereAllowed :
    ((getChip (at0 debugged) 0).wake.season ≠ .off ∧ mayDebug (getChip (at0 debugged) 0) = true ∧ coreUp (getChip (at0 debugged) 0) = true) ∧
    ((1#32).getLsbD 4 = false ∧ (0 : ClusterNo) = Fin.ofNat 256 (regField 1#32 5 8) ∧ (0x11#32).getLsbD 4 = true ∧
      regField 1#32 0 4 = 1 ∧ regField 2#32 0 4 = 2 ∧ regField 3#32 0 4 = 3 ∧ regField 0x00010004#32 0 4 = 4 ∧
      regField 0x00010004#32 16 16 ≠ 0 ∧ (0x00010004#32).getLsbD 4 = false ∧ (2#32).getLsbD 4 = false ∧ (3#32).getLsbD 4 = false) ∧
    (clusterOf { debugged with clusters := [(3, { Cluster.reset with stepMode := .cycles 0 })] } 3).stepMode = .cycles 0 ∧
    (setsSlot 8#96 = true ∧ setsSlot 0#96 = false) ∧
    ((1#128).getLsbD 4 = false ∧ memReg.getLsbD 4 = true ∧ regField memReg 0 4 = 1 ∧ mayDebug returned = true ∧ returned.vault.lifeCycle ≠ .field ∧
      coreUp returned = true ∧ regField memReg 8 40 % 8 = 0 ∧ regField memReg 8 40 < 0x40000000 ∧
      regField memReg 8 40 % 4194304 < (8 - (clusterOf returned (Fin.ofNat 256 (regField memReg 8 40 / 4194304))).lastL1) * 524288) ∧
    (getChip (at0 debugged) 0).vault.lifeCycle = .field ∧ mayDebug (getChip (at0 summer) 0) = false ∧
    (mayAdvance (getChip (at0 advancing) 0) = true ∧ advanceOk (getChip (at0 advancing) 0) 0x5A5A0003#32 = true ∧
      advanceOk (getChip (at0 advancing) 0) 0#32 = false) ∧
    ((getChip (at0 summer) 0).wake.season ≠ .off ∧ mayAdvance (getChip (at0 summer) 0) = false) ∧ keeperTapUp keeperUp = true := by
  and_intros <;> decide +kernel

end Sys2Proof.Tests
end

section
/-!
PROOFS. Rules about what an operation leaves alone: everything but one tenant of a chip (TenantFrame), and of that tenant its shards and the
frames that wait to be sent (Quiet).
-/
namespace Sys2Proof.Machine

/-! ## One chip of the state -/

/-- Putting a chip back changes only that chip. -/
theorem onlyChip_setChip (s : State) (c : Pos) (k : Chip) : OnlyChip c s (setChip s c k) :=
  ⟨rfl, rfl, fun p hp => getChip_setChip_ne s c p k hp⟩

/-! ## What the image and the straps fix -/

theorem shardInfo_congr {c c' : Chip} (h : c'.image = c.image) (t tensor shard : Nat) :
    shardInfo c' t tensor shard = shardInfo c t tensor shard := by
  simp only [shardInfo, paramTensor, tensorOf, groupOfTensor, elemsOf, catOf, h]

theorem stepRootOf_congr {c c' : Chip} (h : c'.image = c.image) (t : Nat) : stepRootOf c' t = stepRootOf c t := by
  simp only [stepRootOf, tenantRec, h]

theorem chipNo_congr {c c' : Chip} (hi : c'.image = c.image) (hw : c'.wake = c.wake) : chipNo c' = chipNo c := by
  simp only [chipNo, trayOf, posOf, hi, hw]

/-! ## TenantFrame -/

theorem tenantFrame_refl (t : Nat) (k : Chip) : TenantFrame t k k := ⟨rfl, rfl, rfl, rfl, rfl, fun _ _ => rfl⟩

theorem tenantFrame_trans {t : Nat} {a b c : Chip} (h : TenantFrame t a b) (g : TenantFrame t b c) : TenantFrame t a c := by
  obtain ⟨hh, hw, hv, hp, hi, ht⟩ := h
  obtain ⟨gh, gw, gv, gp, gi, gt⟩ := g
  exact ⟨gh.trans hh, gw.trans hw, gv.trans hv, gp.trans hp, gi.trans hi, fun u hu => (gt u hu).trans (ht u hu)⟩

theorem tenantFrame_modTen (c : Chip) (t : Nat) (f : TenantCtx → TenantCtx) : TenantFrame t c (modTen c t f) :=
  ⟨rfl, rfl, rfl, rfl, rfl, fun u hu => ten_modTen_ne c t u f hu⟩

theorem tenantFrame_emit (c : Chip) (t : Nat) (f : TxFrame) : TenantFrame t c (emit c f) :=
  ⟨rfl, rfl, rfl, rfl, rfl, fun _ _ => rfl⟩

/-! ## A shard's record of a step -/

/-- Changing a shard's record of a step on a chip changes that record. -/
theorem stepOf_modTen_modShardStep (c : Chip) (t tensor shard step : Nat) (f : ShardStep → ShardStep) :
    stepOf (shardOf (ten (modTen c t (fun x => modShardStep x tensor shard step f)) t) tensor shard) step =
      f (stepOf (shardOf (ten c t) tensor shard) step) := by
  rw [ten_modTen_self, modShardStep, shardOf_modShard_self, stepOf_modStep_self]

/-! ## Quiet -/

/-- Besides what TenantFrame says, the tenant's shards and the frames that wait to be sent are as they were: clusters, caches, counters,
fault records and the tenant's other records may differ. -/
structure Quiet (t : Nat) (k k' : Chip) : Prop where
  frame : TenantFrame t k k'
  shards : (ten k' t).shards = (ten k t).shards
  outbox : k'.outbox = k.outbox

theorem Quiet.refl (t : Nat) (k : Chip) : Quiet t k k := ⟨tenantFrame_refl t k, rfl, rfl⟩

theorem Quiet.trans {t : Nat} {a b c : Chip} (h : Quiet t a b) (g : Quiet t b c) : Quiet t a c :=
  ⟨tenantFrame_trans h.frame g.frame, g.shards.trans h.shards, g.outbox.trans h.outbox⟩

theorem Quiet.stepOf_eq {t : Nat} {k k' : Chip} (h : Quiet t k k') (tensor shard step : Nat) :
    stepOf (shardOf (ten k' t) tensor shard) step = stepOf (shardOf (ten k t) tensor shard) step := by
  simp only [shardOf, h.shards]

/-- A run of operations is in a relation that each of them is in. -/
theorem forEach_rel {α : Type} {R : Chip → Chip → Prop} (refl : ∀ c, R c c) (trans : ∀ {a b c}, R a b → R b c → R a c)
    {f : Chip → α → Chip} {l : List α} (h : ∀ c, ∀ x ∈ l, R c (f c x)) (c : Chip) : R c (forEach c l f) := by
  induction l generalizing c with
  | nil => exact refl c
  | cons x l ih => exact trans (h c x List.mem_cons_self) (ih (fun c y hy => h c y (List.mem_cons_of_mem _ hy)) (f c x))

theorem quiet_forEach {α : Type} {t : Nat} {f : Chip → α → Chip} (h : ∀ c x, Quiet t c (f c x)) (l : List α) (c : Chip) :
    Quiet t c (forEach c l f) :=
  forEach_rel (Quiet.refl t) Quiet.trans (fun c x _ => h c x) c

theorem quiet_modTen (c : Chip) (t : Nat) {f : TenantCtx → TenantCtx} (h : (f (ten c t)).shards = (ten c t).shards) :
    Quiet t c (modTen c t f) :=
  ⟨tenantFrame_modTen c t f, by rw [ten_modTen_self]; exact h, rfl⟩

theorem quiet_countTen (c : Chip) (t i n : Nat) : Quiet t c (countTen c t i n) := by
  unfold countTen
  split
  · exact quiet_modTen c t rfl
  · exact .refl t c

theorem quiet_startVerdictTimer (c : Chip) (t step : Nat) : Quiet t c (startVerdictTimer c t step) := quiet_modTen c t rfl

theorem quiet_modCluster (c : Chip) (t : Nat) (k : ClusterNo) (f : Cluster → Cluster) : Quiet t c (modCluster c k f) :=
  ⟨⟨rfl, rfl, rfl, rfl, rfl, fun _ _ => rfl⟩, rfl, rfl⟩

theorem quiet_countCode (c : Chip) (t code : Nat) : Quiet t c (countCode c code) :=
  ⟨⟨rfl, rfl, rfl, rfl, rfl, fun _ _ => rfl⟩, rfl, rfl⟩

theorem quiet_noteHit (c : Chip) (t slot : Nat) (k : ClusterNo) : Quiet t c (noteHit c slot k) :=
  ⟨⟨rfl, rfl, rfl, rfl, rfl, fun _ _ => rfl⟩, rfl, rfl⟩

theorem quiet_modLine (c : Chip) (t line : Nat) (f : SliceLine → SliceLine) : Quiet t c (modLine c line f) := by
  unfold modLine
  split
  · exact ⟨⟨rfl, rfl, rfl, rfl, rfl, fun _ _ => rfl⟩, rfl, rfl⟩
  · exact .refl t c

theorem quiet_pullDirty (c : Chip) (t line : Nat) (k : ClusterNo) : Quiet t c (pullDirty c line k) := by
  unfold pullDirty
  split
  · split
    · exact quiet_modLine c t line _
    · exact .refl t c
  · exact .refl t c

theorem quiet_dropL1 (c : Chip) (t line : Nat) (k : ClusterNo) : Quiet t c (dropL1 c line k) :=
  (quiet_modCluster c t k _).trans (quiet_modLine _ t line _)

theorem quiet_emptyL1 (c : Chip) (t : Nat) (k : ClusterNo) : Quiet t c (emptyL1 c k) :=
  quiet_forEach (fun c n => (quiet_pullDirty c t n k).trans (quiet_dropL1 _ t n k)) _ c

theorem quiet_haltAll (c : Chip) (t : Nat) : Quiet t c (haltAll c) := quiet_forEach (fun c k => quiet_modCluster c t k _) _ c

/-- A code's breakpoints halt clusters and set hit bits. -/
theorem quiet_hitFault (c : Chip) (t code : Nat) (k : Option ClusterNo) : Quiet t c (hitFault c code k) := by
  unfold hitFault
  split
  · refine quiet_forEach (fun c i => (quiet_noteHit c t i (k.getD 0)).trans ?_) _ c
    cases k with
    | none => exact quiet_haltAll _ t
    | some k =>
      dsimp only
      split
      · exact quiet_haltAll _ t
      · exact quiet_modCluster _ t k _
  · exact .refl t c

/-! ## Tasks -/

theorem quiet_queueTask (c : Chip) (t : Nat) (k : ClusterNo) (u : Task) : Quiet t c (queueTask c k u) := quiet_modCluster c t k _

theorem quiet_enterCluster (c : Chip) (t : Nat) (k : ClusterNo) (u : Task) : Quiet t c (enterCluster c k u) := by
  unfold enterCluster
  split
  · exact quiet_modCluster c t k _
  · exact (quiet_emptyL1 c t k).trans (quiet_modCluster _ t k _)

theorem quiet_enterWhole (c : Chip) (u : Task) : Quiet u.tenant c (enterWhole c u) :=
  ((quiet_enterCluster c _ _ u).trans (quiet_modCluster _ _ _ _)).trans (quiet_countTen _ _ 27 1)

end Sys2Proof.Machine
end

section
/-!
PROOFS. O53 (ShardsClose): the deadline of a shard, and its close (R12, R203 to R205, R210, R366).
-/
namespace Sys2Proof.Machine

/-! ## The CLOSE tasks -/

theorem quiet_runClose (c : Chip) (u : Task) : Quiet u.tenant c (runClose c u) := by
  unfold runClose
  dsimp only
  split
  · exact quiet_enterWhole c u
  · exact (quiet_modCluster c _ _ _).trans (quiet_countTen _ _ 27 1)

theorem quiet_closeAll {t : Nat} {us : List Task} (hus : ∀ u ∈ us, u.tenant = t) {c c' : Chip} (h : closeAll us c = some c') :
    Quiet t c c' := by
  induction us generalizing c with
  | nil =>
    obtain rfl := Option.some.inj h
    exact .refl t c
  | cons u us ih =>
    rw [closeAll] at h
    split at h
    · have hu : u.tenant = t := hus u List.mem_cons_self
      exact (hu ▸ quiet_runClose c u).trans (ih (fun v hv => hus v (List.mem_cons_of_mem _ hv)) h)
    · cases h

theorem closeTasks_tenant (c : Chip) (now : Nat) (i : ShardInfo) (t tensor shard step : Nat) :
    ∀ u ∈ closeTasks c now i t tensor shard step, u.tenant = t := by
  intro u hu
  obtain ⟨j, -, rfl⟩ := List.mem_map.1 hu
  rfl

/-- Where no cluster of the table holds a task that `p` names, no cluster has one queued. -/
theorem queue_filter_of_anyTask_false {c : Chip} {p : Task → Bool} (h : anyTask c p = false) (k : ClusterNo) :
    (clusterOf c k).queue.filter p = [] := by
  have hfind : ∀ l : Tab ClusterNo Cluster, l.any (fun x => holdsTask x.2 p) = false → (tabGet .reset l k).queue.filter p = [] := by
    intro l hl
    induction l with
    | nil => rfl
    | cons x l ih =>
      obtain ⟨j, x⟩ := x
      simp only [List.any_cons, Bool.or_eq_false_iff] at hl
      rw [tabGet]
      split
      · simp only [holdsTask, Bool.or_eq_false_iff, List.any_eq_false] at hl
        obtain ⟨⟨⟨hqueue, -⟩, -⟩, -⟩ := hl
        exact List.filter_eq_nil_iff.2 hqueue
      · exact ih hl.2
  exact hfind c.clusters h

/-- With no CLOSE task of the shard on any cluster, none stands behind a stalled update. -/
theorem closeBehind_of_not_closeRuns {c : Chip} {t tensor shard step : Nat} (h : closeRuns c t tensor shard step = false) :
    closeBehind c t tensor shard step = c := by
  have hstep (k : ClusterNo) (f : Chip → Task → Chip) :
      forEach c ((clusterOf c k).queue.filter (isCloseOf t tensor shard step)) f = c := by
    rw [queue_filter_of_anyTask_false h k]; rfl
  unfold closeBehind
  generalize allClusters = ks
  induction ks with
  | nil => rfl
  | cons k ks ih =>
    rw [forEach, List.foldl_cons, hstep]
    exact ih

/-! ## Records of a step that differ in their sources -/

/-- A step's record with other source records: arrival bits, owed replies, counts of duplicates. -/
def SameButSources (r r' : ShardStep) : Prop := ∃ l, r' = { r with sources := l }

theorem SameButSources.refl (r : ShardStep) : SameButSources r r := ⟨r.sources, rfl⟩

theorem SameButSources.trans {a b c : ShardStep} (h : SameButSources a b) (g : SameButSources b c) : SameButSources a c := by
  obtain ⟨l, rfl⟩ := h
  obtain ⟨m, rfl⟩ := g
  exact ⟨m, rfl⟩

/-- Releasing the arrival bits of a step changes no other step. -/
theorem stepOf_releaseBits_ne (h : Shard) {n m : Nat} (hm : m ≠ n) : stepOf (releaseBits h n) m = stepOf h m := by
  unfold releaseBits
  split
  · exact stepOf_setStep_ne h n m _ hm
  · rfl

/-- Of the step itself it changes the sources. -/
theorem releaseBits_sameButSources (h : Shard) (n : Nat) : SameButSources (stepOf h n) (stepOf (releaseBits h n) n) := by
  unfold releaseBits
  split
  · next r hr =>
    have : stepOf h n = r := by rw [stepOf, tabGet_eq_find, hr]; rfl
    rw [stepOf_setStep_self, this]
    exact ⟨_, rfl⟩
  · exact .refl _

theorem freeBits_sameButSources (h : Shard) (n : Nat) : SameButSources (stepOf h n) (stepOf (freeBits h n) n) := by
  have hbefore (b : Bool) : stepOf (if (0 < n && b : Bool) then releaseBits h (n - 1) else h) n = stepOf h n := by
    split
    · next hb =>
      have : 0 < n := by simp at hb; exact hb.1
      exact stepOf_releaseBits_ne h (by omega)
    · rfl
  unfold freeBits
  dsimp only
  split
  · exact (hbefore _) ▸ releaseBits_sameButSources _ n
  · exact (hbefore _) ▸ .refl _

/-! ## Settling what is owed -/

/-- What sending owed replies leaves alone: every other tenant, and of a step's record all but its sources. -/
structure Settled (t tensor shard step : Nat) (k k' : Chip) : Prop where
  frame : TenantFrame t k k'
  record : SameButSources (stepOf (shardOf (ten k t) tensor shard) step) (stepOf (shardOf (ten k' t) tensor shard) step)

theorem Settled.refl (t tensor shard step : Nat) (k : Chip) : Settled t tensor shard step k k := ⟨tenantFrame_refl t k, .refl _⟩

theorem Settled.trans {t tensor shard step : Nat} {a b c : Chip} (h : Settled t tensor shard step a b) (g : Settled t tensor shard step b c) :
    Settled t tensor shard step a c := ⟨tenantFrame_trans h.frame g.frame, h.record.trans g.record⟩

/-- A DONE of OK moves no counter: it is sent, or for a piece that never replies nothing happens. -/
theorem settled_sendBucket_ok (t tensor shard step : Nat) (c : Chip) (f : RxFrame) (i : ShardInfo) (src : Source) (slot : Nat) :
    Settled t tensor shard step c (sendBucket c f i src slot stOk 0 0) := by
  unfold sendBucket gradDone
  dsimp only
  split
  · exact .refl _ _ _ _ c
  · exact ⟨tenantFrame_emit c t _, .refl _⟩

theorem settled_settle (c : Chip) (i : ShardInfo) (t tensor shard step source : Nat) (all : Bool) :
    Settled t tensor shard step c (settle c i t tensor shard step source all) := by
  unfold settle
  refine Settled.trans ⟨tenantFrame_modTen c t _, ?_⟩
    (forEach_rel (Settled.refl t tensor shard step) Settled.trans (fun c f _ => settled_sendBucket_ok t tensor shard step c f i _ _) _)
  rw [stepOf_modTen_modShardStep]
  exact ⟨_, rfl⟩

/-! ## The work of closing, in its order -/

/-- The record with the shard verdict. -/
def closeVerdict (c : Chip) (now : Nat) (i : ShardInfo) (t tensor shard step : Nat) (fault : Option Nat) : ShardStep :=
  judge i now (stepOf (shardOf (ten c t) tensor shard) step) fault.isSome
    (arrivedSources i shard (stepOf (shardOf (ten c t) tensor shard) step))

/-- The chip with the verdict in the shard's record of the step, and arrival bits released (R202). -/
def closeRecorded (c : Chip) (t tensor shard step : Nat) (v : ShardStep) : Chip :=
  modTen c t (fun x => modShard x tensor shard (fun h => freeBits (setStep h step v) step))

/-- The close counted, with its faults (R361). -/
def closeCounted (c : Chip) (t : Nat) (v : ShardStep) (atDeadline : Bool) (fault : Option Nat) : Chip :=
  let c := countTen (countTen (countTen c t 16 1) t 17 (if atDeadline then 1 else 0)) t 18 (if v.below then 1 else 0)
  let c := countTen c t 20 (if v.nonfinite then 1 else 0)
  let c := if v.accPoison then closeCode c t 0x21 else c
  match fault with | some code => closeCode c t code | none => c

/-- The replies owed to the sources sent (R207). -/
def closeReplied (c : Chip) (i : ShardInfo) (t tensor shard step : Nat) (v : ShardStep) : Chip :=
  forEach c (v.sources.map (·.1)) (fun c s => settle c i t tensor shard step s true)

/-- The SHARD_VERDICT of a record, as it goes to the step root (R189). -/
def shardVerdictTo (c : Chip) (t tensor shard step : Nat) (v : ShardStep) : TxFrame :=
  chipTo c (stepRootOf c t)
    { chipHdr tyShardVerdict t 0 (stepRootOf c t) with
      tensor := tensor, shard := shard, step := step, flags := if v.nonfinite then flNonfinite else 0 }
    (verdictPayload v.nonfinite v.below v.included v.norm2 v.amax)

theorem shardVerdictTo_congr {c c' : Chip} (hi : c'.image = c.image) (hw : c'.wake = c.wake) (t tensor shard step : Nat) (v : ShardStep) :
    shardVerdictTo c' t tensor shard step v = shardVerdictTo c t tensor shard step v := by
  simp only [shardVerdictTo, chipTo, chipNo_congr hi hw, stepRootOf_congr hi]

/-- The verdict sent to the step root, and the step's verdict timer started. -/
def closeReported (c : Chip) (t tensor shard step : Nat) (v : ShardStep) : Chip :=
  startVerdictTimer (emit c (shardVerdictTo c t tensor shard step v)) t step

theorem closeShard_eq {c : Chip} {now : Nat} {i : ShardInfo} {t tensor shard step : Nat} {fault : Option Nat} {v : ShardStep}
    (hv : closeVerdict c now i t tensor shard step fault = v) :
    ∃ atDeadline, closeShard c now i t tensor shard step fault =
      queueUpdate
        (closeReported (closeReplied (closeCounted (closeRecorded c t tensor shard step v) t v atDeadline fault) i t tensor shard step v)
          t tensor shard step v)
        t tensor shard step := by
  subst hv
  exact ⟨_, rfl⟩

theorem quiet_closeCode (c : Chip) (t code : Nat) : Quiet t c (closeCode c t code) :=
  ((quiet_countCode c t code).trans (quiet_countTen _ t 28 1)).trans (quiet_hitFault _ t code none)

theorem quiet_closeCounted (c : Chip) (t : Nat) (v : ShardStep) (atDeadline : Bool) (fault : Option Nat) :
    Quiet t c (closeCounted c t v atDeadline fault) := by
  have hpoison (c : Chip) : Quiet t c (if v.accPoison then closeCode c t 0x21 else c) := by
    split
    · exact quiet_closeCode c t 0x21
    · exact .refl t c
  have hfault (c : Chip) : Quiet t c (match fault with | some code => closeCode c t code | none => c) := by
    cases fault with
    | none => exact .refl t c
    | some code => exact quiet_closeCode c t code
  exact ((((quiet_countTen c t 16 1).trans (quiet_countTen _ t 17 _)).trans (quiet_countTen _ t 18 _)).trans (quiet_countTen _ t 20 _)).trans
    ((hpoison _).trans (hfault _))

theorem closeRecorded_record (c : Chip) (t tensor shard step : Nat) (v : ShardStep) :
    SameButSources v (stepOf (shardOf (ten (closeRecorded c t tensor shard step v) t) tensor shard) step) := by
  rw [closeRecorded, ten_modTen_self, shardOf_modShard_self]
  have h := freeBits_sameButSources (setStep (shardOf (ten c t) tensor shard) step v) step
  rwa [stepOf_setStep_self] at h

theorem settled_closeReplied (c : Chip) (i : ShardInfo) (t tensor shard step : Nat) (v : ShardStep) :
    Settled t tensor shard step c (closeReplied c i t tensor shard step v) :=
  forEach_rel (Settled.refl t tensor shard step) Settled.trans (fun c s _ => settled_settle c i t tensor shard step s true) c

theorem closeReported_record (c : Chip) (t tensor shard step : Nat) (v : ShardStep) :
    stepOf (shardOf (ten (closeReported c t tensor shard step v) t) tensor shard) step =
      stepOf (shardOf (ten c t) tensor shard) step :=
  (quiet_startVerdictTimer _ t step).stepOf_eq tensor shard step

theorem tenantFrame_closeReported (c : Chip) (t tensor shard step : Nat) (v : ShardStep) :
    TenantFrame t c (closeReported c t tensor shard step v) :=
  tenantFrame_trans (tenantFrame_emit c t _) (quiet_startVerdictTimer _ t step).frame

/-- The SHARD_VERDICT goes to the step root at once (R12, R210). -/
theorem closeReported_sends (c : Chip) (t tensor shard step : Nat) (v : ShardStep) :
    shardVerdictTo c t tensor shard step v ∈ (closeReported c t tensor shard step v).outbox := by
  rw [closeReported, (quiet_startVerdictTimer _ t step).outbox]
  exact List.mem_append_right _ List.mem_cons_self

/-- A shard's update is only queued: its record says that the stage is under way, and its tasks wait on their clusters. -/
theorem queueUpdate_queues {c : Chip} {t tensor shard step : Nat} {i : ShardInfo} (h : shardInfo c t tensor shard = some i) :
    Quiet t (modTen c t (fun x => modShardStep x tensor shard step (fun r => { r with update := .running, tilesDone := [], direct := false })))
      (queueUpdate c t tensor shard step) := by
  unfold queueUpdate
  rw [h]
  exact quiet_forEach (fun c _ => quiet_queueTask c t _ _) _ _

/-- What closing a shard leaves: its tenant's alone to change, the verdict recorded with the update under way, the SHARD_VERDICT sent. -/
theorem closeShard_closes {c : Chip} {now : Nat} {i : ShardInfo} {t tensor shard step : Nat} {fault : Option Nat} {v : ShardStep}
    (hi : shardInfo c t tensor shard = some i) (hv : closeVerdict c now i t tensor shard step fault = v) :
    TenantFrame t c (closeShard c now i t tensor shard step fault) ∧
    (∃ l, stepOf (shardOf (ten (closeShard c now i t tensor shard step fault) t) tensor shard) step =
      { v with sources := l, update := .running, tilesDone := [], direct := false }) ∧
    shardVerdictTo c t tensor shard step v ∈ (closeShard c now i t tensor shard step fault).outbox := by
  obtain ⟨atDeadline, heq⟩ := closeShard_eq hv
  rw [heq]
  generalize hc₁ : closeRecorded c t tensor shard step v = c₁
  generalize hc₂ : closeCounted c₁ t v atDeadline fault = c₂
  generalize hc₃ : closeReplied c₂ i t tensor shard step v = c₃
  have hrecorded : SameButSources v (stepOf (shardOf (ten c₁ t) tensor shard) step) := hc₁ ▸ closeRecorded_record c t tensor shard step v
  have hcounted : Quiet t c₁ c₂ := hc₂ ▸ quiet_closeCounted c₁ t v atDeadline fault
  have hreplied : Settled t tensor shard step c₂ c₃ := hc₃ ▸ settled_closeReplied c₂ i t tensor shard step v
  have hframe : TenantFrame t c c₃ :=
    tenantFrame_trans (tenantFrame_trans (hc₁ ▸ tenantFrame_modTen c t _) hcounted.frame) hreplied.frame
  have hreported := tenantFrame_trans hframe (tenantFrame_closeReported c₃ t tensor shard step v)
  obtain ⟨-, hwake, -, -, himage, -⟩ := hframe
  have himage₄ : (closeReported c₃ t tensor shard step v).image = c.image := himage
  have hqueued := queueUpdate_queues (step := step) ((shardInfo_congr himage₄ t tensor shard).trans hi)
  have hrecord : SameButSources v (stepOf (shardOf (ten (closeReported c₃ t tensor shard step v) t) tensor shard) step) := by
    rw [closeReported_record]
    rw [← hcounted.stepOf_eq] at hrecorded
    exact hrecorded.trans hreplied.record
  refine ⟨tenantFrame_trans (tenantFrame_trans hreported (tenantFrame_modTen _ t _)) hqueued.frame, ?_, ?_⟩
  · obtain ⟨l, hl⟩ := hrecord
    refine ⟨l, ?_⟩
    rw [hqueued.stepOf_eq, stepOf_modTen_modShardStep, hl]
  · rw [hqueued.outbox, ← shardVerdictTo_congr himage hwake]
    exact closeReported_sends c₃ t tensor shard step v

/-! ## SHARD_CLOSE -/

/-- SHARD_CLOSE waits for every accepted frame to be added (R205). -/
theorem execShardClose_addsWait {c : Pos} {r : ShardStepRef} {s : State}
    (h : addsWait (getChip s c) r.tenant.val r.tensor r.shard r.step = true) : execShardClose c r s = .next s := by
  unfold execShardClose
  dsimp only
  split
  · rfl
  · rw [h, Bool.or_true, if_pos rfl]

/-- The closing instant of a shard has come and its CLOSE tasks have run, or run whole at once (log entry 10). -/
def ClosesNow (k : Chip) (now : Nat) (i : ShardInfo) (t tensor shard step : Nat) : Prop :=
  let p := stepOf (shardOf (ten k t) tensor shard) step
  let us := closeTasks k now i t tensor shard step
  (p.closing = true ∧ closeRuns k t tensor shard step = false) ∨
  (p.closing = false ∧ closeDue i shard p = true ∧ slotsWhere k (fun b => us.any (taskSlot b)) = [] ∧ (closeAll us k).isSome = true)

/-- SHARD_CLOSE does the work of closing on the chip as its CLOSE tasks leave it. -/
theorem execShardClose_closesNow {c : Pos} {r : ShardStepRef} {s : State} {i : ShardInfo} {k : Chip} {p : ShardStep} (hk : k = getChip s c)
    (hi : shardInfo k r.tenant.val r.tensor r.shard = some i) (hruns : coreRuns k = true)
    (hp : p = stepOf (shardOf (ten k r.tenant.val) r.tensor r.shard) r.step) (hopen : p.closed = false)
    (hunresolved : resolvedBy (ten k r.tenant.val) r.step = false) (hany : anyAccepted p = true)
    (hadded : addsWait k r.tenant.val r.tensor r.shard r.step = false)
    (hcloses : ClosesNow k s.tray.now i r.tenant.val r.tensor r.shard r.step) :
    ∃ k' fault, Quiet r.tenant.val k k' ∧
      execShardClose c r s = .next (setChip s c (closeShard k' s.tray.now i r.tenant.val r.tensor r.shard r.step fault)) := by
  unfold execShardClose
  unfold ClosesNow at hcloses
  simp only [← hk, hi, ← hp, hruns, hopen, hunresolved, hany, hadded, Bool.not_true, Bool.or_false, Bool.false_eq_true, if_false] at hcloses ⊢
  obtain ⟨hclosing, hrun⟩ | ⟨hclosing, hdue, hslots, hall⟩ := hcloses
  · refine ⟨k, none, .refl _ k, ?_⟩
    simp only [hclosing, if_true, closeBehind_of_not_closeRuns hrun, hrun, Bool.false_eq_true, if_false]
  · obtain ⟨k', hk'⟩ := Option.isSome_iff_exists.1 hall
    refine ⟨k', (closeTasks k s.tray.now i r.tenant.val r.tensor r.shard r.step).findSome? (wholeFault k),
      quiet_closeAll (closeTasks_tenant k _ i _ _ _ _) hk', ?_⟩
    simp only [hclosing, hdue, hslots, hk', Bool.not_true, Bool.false_eq_true, if_false, List.isEmpty_nil]

/-! ## SHARD_DEADLINE -/

/-- What the expiry writes into the record (R203, R82). -/
def expired (c : Chip) (t tensor shard step : Nat) (p : ShardStep) : ShardStep :=
  { p with deadline := .expired, timely := waitingGrads c t tensor shard step, autumnDue := decide (c.wake.season = .autumn) }

/-- A running deadline expires where no pool of the tenant is full and the closing instant has not come (R204). -/
theorem execShardDeadline_expires {c : Pos} {r : ShardStepRef} {s : State} {i : ShardInfo} {p : ShardStep}
    (hi : shardInfo (getChip s c) r.tenant.val r.tensor r.shard = some i) (hruns : coreRuns (getChip s c) = true)
    (hpool : tenantPoolFull (getChip s c) r.tenant.val = false)
    (hp : p = stepOf (shardOf (ten (getChip s c) r.tenant.val) r.tensor r.shard) r.step) (hrunning : p.deadline = .running)
    (hopen : p.closed = false) (hdue : closeDue i r.shard p = false) :
    execShardDeadline c r s = .next (setChip s c (waitQuorum
      (modTen (getChip s c) r.tenant.val (fun x => modShardStep x r.tensor r.shard r.step
        (expired (getChip s c) r.tenant.val r.tensor r.shard r.step))) i r.tenant.val r.tensor r.shard r.step)) := by
  unfold execShardDeadline
  simp only [hi, ← hp, hruns, hpool, hrunning, hopen, hdue, decide_true, Bool.not_false, Bool.and_true, if_true]
  rfl

/-- Once a deadline has expired without N contributors, the closing instant comes with the frames that were on time taken, and quorum or
Autumn (R82, R205). -/
theorem closeDue_expired {i : ShardInfo} {shard : Nat} {p : ShardStep} (h : closeDue i shard p = false) (c : Chip) (t tensor step : Nat) :
    closeDue i shard (expired c t tensor shard step p) =
      ((waitingGrads c t tensor shard step).isEmpty &&
        (decide (quorumOf i.group ≤ (arrivedSources i shard p).length) || decide (c.wake.season = .autumn))) := by
  have hall : decide (i.group.expected ≤ (arrivedSources i shard p).length) = false := by
    unfold closeDue at h
    exact (Bool.or_eq_false_iff.1 h).1
  have hsources : arrivedSources i shard (expired c t tensor shard step p) = arrivedSources i shard p := rfl
  unfold closeDue
  dsimp only
  rw [hsources, hall]
  simp [expired]

/-- Whether a shard begins to wait for its quorum (R205, R366). -/
def beginsWait (i : ShardInfo) (shard : Nat) (p : ShardStep) : Bool :=
  decide (p.deadline = .expired) && p.timely.isEmpty && !p.waited && !p.closed && !closeDue i shard p

/-- At the expiry it does just where no frame was on time, quorum is missing, it is not Autumn and it has not waited before. -/
theorem beginsWait_expired {i : ShardInfo} {shard : Nat} {p : ShardStep} (hdue : closeDue i shard p = false) (hopen : p.closed = false)
    (c : Chip) (t tensor step : Nat) :
    beginsWait i shard (expired c t tensor shard step p) = true ↔
      waitingGrads c t tensor shard step = [] ∧ p.waited = false ∧ (arrivedSources i shard p).length < quorumOf i.group ∧
        c.wake.season ≠ .autumn := by
  rw [beginsWait, closeDue_expired hdue]
  cases hw : waitingGrads c t tensor shard step with
  | nil => simp [expired, hw, hopen]
  | cons f l => simp [expired, hw]

theorem waitQuorum_of_not_beginsWait {c : Chip} {i : ShardInfo} {t tensor shard step : Nat}
    (h : beginsWait i shard (stepOf (shardOf (ten c t) tensor shard) step) = false) : waitQuorum c i t tensor shard step = c := by
  unfold beginsWait at h
  unfold waitQuorum
  dsimp only
  rw [h, if_neg Bool.false_ne_true]

theorem waitQuorum_of_beginsWait {c : Chip} {i : ShardInfo} {t tensor shard step : Nat}
    (h : beginsWait i shard (stepOf (shardOf (ten c t) tensor shard) step) = true) :
    waitQuorum c i t tensor shard step =
      startVerdictTimer (modTen c t (fun x => modShardStep x tensor shard step (fun r => { r with waited := true }))) t step := by
  unfold beginsWait at h
  unfold waitQuorum
  dsimp only
  rw [h, if_pos rfl]

theorem startVerdictTimer_timer (c : Chip) (t step : Nat) : (stepRec (ten (startVerdictTimer c t step) t) step).timer ≠ .idle := by
  rw [startVerdictTimer, ten_modTen_self, stepRec_modStepRec_self]
  split
  · nofun
  · assumption

theorem waitQuorum_keeps (c : Chip) (i : ShardInfo) (t tensor shard step : Nat) :
    TenantFrame t c (waitQuorum c i t tensor shard step) ∧ (waitQuorum c i t tensor shard step).outbox = c.outbox := by
  cases h : beginsWait i shard (stepOf (shardOf (ten c t) tensor shard) step) with
  | false =>
    rw [waitQuorum_of_not_beginsWait h]
    exact ⟨tenantFrame_refl t c, rfl⟩
  | true =>
    rw [waitQuorum_of_beginsWait h]
    exact ⟨tenantFrame_trans (tenantFrame_modTen c t _) (quiet_startVerdictTimer _ t step).frame, rfl⟩

/-! ## O53 -/

/-- Settles O53. The deadline: the record is written, and waitQuorum acts just where no frame was on time, quorum is missing and it is not
Autumn. The close: SHARD_CLOSE comes down to closeShard on the chip that the CLOSE tasks leave, whose record and outbox closeShard_closes gives. -/
theorem shardsClose : Obligations.ShardsClose := by
  unfold Obligations.ShardsClose
  refine ⟨?_, fun s c r h => execShardClose_addsWait h, ?_⟩
  · intro s c r i p q w hi hruns hpool hp hrunning hopen hdue hw hq
    refine ⟨_, execShardDeadline_expires hi hruns hpool hp hrunning hopen hdue, onlyChip_setChip s c _, ?_⟩
    rw [getChip_setChip_self]
    generalize hk₁ : modTen (getChip s c) r.tenant.val (fun x => modShardStep x r.tensor r.shard r.step
      (expired (getChip s c) r.tenant.val r.tensor r.shard r.step)) = k₁
    have hframe : TenantFrame r.tenant.val (getChip s c) k₁ := hk₁ ▸ tenantFrame_modTen _ _ _
    have hbox : k₁.outbox = (getChip s c).outbox := hk₁ ▸ rfl
    have hq' : q = expired (getChip s c) r.tenant.val r.tensor r.shard r.step p := by rw [hq, hw]; rfl
    have hrecord : stepOf (shardOf (ten k₁ r.tenant.val) r.tensor r.shard) r.step = q := by
      rw [← hk₁, stepOf_modTen_modShardStep, ← hp, hq']
    have hbegins := beginsWait_expired hdue hopen (getChip s c) r.tenant.val r.tensor r.step
    rw [← hq', ← hw, ← hrecord] at hbegins
    obtain ⟨hwaitFrame, hwaitBox⟩ := waitQuorum_keeps k₁ i r.tenant.val r.tensor r.shard r.step
    refine ⟨tenantFrame_trans hframe hwaitFrame, hwaitBox.trans hbox, fun hno => ?_, fun hnone hbelow hseason hwaited => ?_⟩
    · have hstays : ¬ (w = [] ∧ p.waited = false ∧ (arrivedSources i r.shard p).length < quorumOf i.group ∧
          (getChip s c).wake.season ≠ .autumn) := by
        rintro ⟨hnone, -, hbelow, hseason⟩
        obtain hne | hquorum | hautumn := hno
        · exact hne hnone
        · exact Nat.not_le.2 hbelow hquorum
        · exact hseason hautumn
      rw [waitQuorum_of_not_beginsWait (Bool.eq_false_iff.2 (mt hbegins.1 hstays)), hrecord]
    · rw [waitQuorum_of_beginsWait (hbegins.2 ⟨hnone, hwaited, hbelow, hseason⟩)]
      refine ⟨?_, startVerdictTimer_timer _ _ _⟩
      rw [(quiet_startVerdictTimer _ _ _).stepOf_eq, stepOf_modTen_modShardStep, hrecord]
  · intro s c r i k p us hk hi hruns hp hopen hunresolved hany hadded hus hcloses
    obtain ⟨k', fault, hquiet, hexec⟩ := execShardClose_closesNow hk hi hruns hp hopen hunresolved hany hadded (by
      unfold ClosesNow
      rw [← hp, ← hus]
      exact hcloses)
    have hp' : stepOf (shardOf (ten k' r.tenant.val) r.tensor r.shard) r.step = p := (hquiet.stepOf_eq _ _ _).trans hp.symm
    obtain ⟨-, hwake, -, -, himage, -⟩ := hquiet.frame
    obtain ⟨hframe, ⟨l, hrecord⟩, hsent⟩ :=
      closeShard_closes (now := s.tray.now) (step := r.step) (fault := fault)
        ((shardInfo_congr himage r.tenant.val r.tensor r.shard).trans hi) rfl
    rw [closeVerdict, hp'] at hrecord hsent
    rw [shardVerdictTo_congr himage hwake] at hsent
    obtain ⟨-, hwake', -, hports, -, hothers⟩ := tenantFrame_trans hquiet.frame hframe
    refine ⟨_, _, hexec, onlyChip_setChip s c _, rfl, ?_⟩
    rw [getChip_setChip_self, hrecord]
    refine ⟨rfl, rfl, rfl, rfl, rfl, fun hpoison => ?_, hsent, hothers, hwake', hports⟩
    simp [judge, hpoison]

end Sys2Proof.Machine
end

section
/-!
PROOFS. The refutation of O48 (ReadsAreAnswered). Its PULL clause keeps every other tenant as it is, for every state. A state is plain data,
and nothing keeps a chip's table of slice lines from naming one line for two tenants. On such a chip the line that makes room for a PULL's read
(R303) is chosen by one entry and evicted by the other, whose tenant's record of the shard then changes.
-/
namespace Sys2Proof.Machine.TwiceHeld

/-- The optimizer group of the one tensor: RULE 0, FP32, one contributor. -/
def group : GroupRec :=
  { rule := 0, drop := false, skipStep := false, global := false, allowM8 := false, m1Fmt := 0, m2Fmt := 0, computeFmt := 0,
    margin := 0, expected := 1, quorum := 256, lrSched := 0, wdSched := 0xFF, deadline := 1000, clip := 0#32, beta1 := 0#32,
    beta2 := 0#32, epsilon := 0x33800000#32, recipe := 0 }

/-- A PARAM tensor of one element in one shard, homed on chip 0. -/
def tensor : TensorRec :=
  { id := 0, mask := false, group := 0, rank := 1, axis := 0, shards := 1, dims := [1, 0, 0, 0], homeStart := 0, stride := 1,
    keepP16 := 0 }

def catalogue : Catalogue := { groups := [group], scheds := [], tensors := [tensor], sites := [], regions := [], bytes := [] }

/-- An image of one tray with one tenant, no recipe and no binding. -/
def image : Image :=
  { generation := 7#32, xSize := 1, ySize := 1, wrapX := false, wrapY := false, etherType := 0x88B5#16,
    tenants := [{ present := true, strictDead := false, fallbackM8 := false, fallbackShadow := false, minShare := 1, stepRoot := 0,
                  shadowShift := 4, lsInit := 0, cleanSteps := 2000, seed := 0#64, globalClip := 0#32, verdictTimeout := 65000,
                  fallbackLimit := 0, bytes := [] }],
    catalogues := [(0, catalogue)], bind := [], recipes := [], bytes := [] }

/-- The shard, FILLED with 1.0 and the state of step 4. -/
def shard : Shard := { Shard.reset with fill := .filled, stateStep := 4, arrays := [(0, [(2, 0x80#8), (3, 0x3F#8)])] }

/-- T0, running, its latest resolved step 4. -/
def tenant : TenantCtx :=
  { TenantCtx.reset with loaded := true, state := .running, committed := some 4, resolved := some 4, shards := [((0, 0), shard)] }

/-- A clean line of tensor state that a tenant holds in a slice. -/
def lineFor (t : Nat) : SliceLine :=
  { tenant := t, kind := .tensor 0 0 0, valid := fullMask, dirty := 0#128, data := 0#1024, hint := 0, stamp := 0, poison := false,
    dir := .i, sharers := [] }

/-- A line in the slice and the set of the shard's only line (R302). -/
def victim : Nat := 131104

/-- A chip in Summer. Its table of slice lines names `victim` for tenant 1 and again, as often as T0 has ways, for T0: a read by the key
finds tenant 1's entry, while T0's set counts as full. -/
def chip : Chip :=
  { Chip.reset with
    wake := { Wake.reset with season := .summer, entered := true, phase := .done, fromOff := false, hbm := .running },
    image := some image, tenants := [(0, tenant)],
    lines := (victim, lineFor 1) :: List.replicate 16 (victim, lineFor 0) }

/-- A host's PULL of the shard's master for step 4. -/
def pullFrame : RxFrame :=
  { frame := mkFrame { version := 1, type := tyPull, tenant := 0, vc := 1, flags := 0, tensor := 0, shard := 0, step := 4, source := 0, seq := 0,
                       offset := 0, count := 0, format := 0, aux := 0, dest := 0, tag := 0#32 } [],
    port := 24, vc := 1#2, tagTenant := 0#3, flits := flitsOf 0, route := none }

/-- The tray with that chip at position 0. -/
def state : State := setChip State.reset 0 chip

theorem pull_served : ServedRequest state 0 pullFrame tyPull chip := by
  have hgate : linksOn (getChip state 0) = true ∧ waitsBehind (getChip state 0) pullFrame = false ∧ (rxHead pullFrame).type = tyPull ∧
      trailerFails pullFrame = false ∧ badHeader pullFrame = none ∧ pullFrame.vc = 1#2 ∧ tenantExists chip (rxHead pullFrame).tenant = true := by
    decide +kernel
  have hdest : destInside chip (rxHead pullFrame).dest = true ∧ (rxHead pullFrame).dest = chipNo chip := by decide +kernel
  have hserve : wipeCode chip = none ∧ stoppingFault chip = none ∧ awaitsReset (ten chip (rxHead pullFrame).tenant) = false ∧
      (ten chip (rxHead pullFrame).tenant).fault = 0 ∧ chip.wake.season ≠ .autumn := by decide +kernel
  obtain ⟨hlinks, hfirst, htype, htrailer, hheader, hvc, hexists⟩ := hgate
  exact ⟨rfl, hlinks, hfirst, htype, htrailer, hheader, hvc, hexists, fun _ => hdest, nofun, hserve⟩

/-- The PULL's one task runs at once (log entry 10). -/
theorem pull_runsAtOnce :
    RunsAtOnce chip (frameTask chip 4 pullFrame (rxHead pullFrame).offset (pullCount 1 (rxHead pullFrame)) state.tray.now) := by
  unfold RunsAtOnce
  decide +kernel

/-- Making room for the read line evicts `victim`, and the eviction writes the shards of tenant 1, whose entry the key finds. -/
theorem pull_changes_tenant_one : ten (getChip (hostCommand tyPull takePull 0 pullFrame state) 0) 1 ≠ ten chip 1 := by
  decide +kernel

end Sys2Proof.Machine.TwiceHeld

namespace Sys2Proof.Machine

open TwiceHeld

/-- A PULL is a host request that takePull serves. -/
theorem exec_pull (c : Pos) (f : RxFrame) (s : State) : exec (.pull c f) s = .next (hostCommand tyPull takePull c f s) := rfl

/-- Refutes O48: served on a chip whose table of slice lines names one line for tenant 1 and for T0, a PULL of T0 evicts that line by tenant 1's
entry and changes tenant 1. -/
theorem not_readsAreAnswered : ¬ Obligations.ReadsAreAnswered := by
  unfold Obligations.ReadsAreAnswered
  rintro ⟨-, -, -, hpull⟩
  have hserved := hpull state 0 pullFrame chip tensor group shard pull_served (by decide +kernel) (by decide +kernel)
    (by decide +kernel) (by decide +kernel) (by decide +kernel) (by decide +kernel) (by decide +kernel) (by decide +kernel) rfl
  obtain ⟨t, hexec, -, hframe, -⟩ := hserved.2 { group := group, m8 := false, n := 1 } [(0, 0, 1)] (by decide +kernel)
    (by decide +kernel) (by decide +kernel) (by decide +kernel) pull_runsAtOnce
  obtain ⟨-, -, -, -, -, hothers, -⟩ := hframe
  rw [exec_pull, Host.Outcome.next.injEq] at hexec
  subst hexec
  exact pull_changes_tenant_one (hothers 1 (by decide +kernel))

end Sys2Proof.Machine
end

section
/-!
PROOFS. Rules of the tray keeper's operations: rails and their order, the fans, chips without power; and what each leaves alone.
-/
namespace Sys2Proof.Machine

/-! ## Rails (R27) -/

theorem railOf_congr {y z : Tray} (h : y.rails = z.rails) (r : Rail) : railOf y r = railOf z r := by
  rw [railOf, railOf, h]

@[simp] theorem railOf_setRail_self (y : Tray) (r : Rail) (v : RailState) : railOf (setRail y r v) r = v := tabGet_tabSet_self _ _ _ _

theorem railOf_setRail_ne (y : Tray) {r q : Rail} (v : RailState) (h : q ≠ r) : railOf (setRail y r v) q = railOf y q :=
  tabGet_tabSet_ne _ _ _ _ _ h

theorem raiseNext_of_down {y : Tray} {r : Rail} (rest : List Rail) (h : railOf y r = .down) :
    raiseNext (r :: rest) y = setRail y r .rising := by
  simp only [raiseNext, h]

theorem raiseNext_of_up {y : Tray} {r : Rail} (rest : List Rail) (h : railOf y r = .up) : raiseNext (r :: rest) y = raiseNext rest y := by
  simp only [raiseNext, h]

/-- Rails in regulation are passed over. -/
theorem raiseNext_append_of_up {y : Tray} (before rest : List Rail) (h : ∀ q ∈ before, railOf y q = .up) :
    raiseNext (before ++ rest) y = raiseNext rest y := by
  induction before with
  | nil => rfl
  | cons r before ih =>
    rw [List.cons_append, raiseNext_of_up _ (h r List.mem_cons_self)]
    exact ih fun q hq => h q (List.mem_cons_of_mem _ hq)

/-- One rail of a keeper has come into regulation and the next one rises; the others stand as they did. -/
def RailFollowed (y z : Tray) (r n : Rail) : Prop :=
  railOf z r = .up ∧ railOf z n = .rising ∧ ∀ q, q ≠ r → q ≠ n → railOf z q = railOf y q

theorem railFollowed_setRail (y : Tray) {r n : Rail} (h : n ≠ r) : RailFollowed y (setRail (setRail y r .up) n .rising) r n :=
  ⟨(railOf_setRail_ne _ _ h.symm).trans (railOf_setRail_self y r _), railOf_setRail_self _ n _,
    fun _ hr hn => (railOf_setRail_ne _ _ hn).trans (railOf_setRail_ne _ _ hr)⟩

theorem RailFollowed.congr {x y z : Tray} {r n : Rail} (h : RailFollowed x y r n) (hrails : z.rails = y.rails) : RailFollowed x z r n := by
  obtain ⟨hr, hn, hother⟩ := h
  exact ⟨(railOf_congr hrails r).trans hr, (railOf_congr hrails n).trans hn,
    fun q hqr hqn => (railOf_congr hrails q).trans (hother q hqr hqn)⟩

/-! ## The fans (R36) -/

@[simp] theorem refreshFans_pending (s : State) : (refreshFans s).pending = s.pending := rfl
@[simp] theorem refreshFans_chips (s : State) : (refreshFans s).chips = s.chips := rfl

@[simp] theorem getChip_refreshFans (s : State) (p : Pos) : getChip (refreshFans s) p = getChip s p := getChip_modTray s _ p

/-- Setting the fans changes no rail. -/
@[simp] theorem railOf_refreshFans (s : State) (r : Rail) : railOf (refreshFans s).tray r = railOf s.tray r := rfl

theorem anyChip_iff (s : State) (f : Chip → Bool) : anyChip s f = true ↔ ∃ p, f (getChip s p) = true := by
  constructor
  · intro h
    simp only [anyChip, Bool.or_eq_true] at h
    obtain ((h | h) | h) | h := h
    · exact ⟨0, h⟩
    · exact ⟨1, h⟩
    · exact ⟨2, h⟩
    · exact ⟨3, h⟩
  · rintro ⟨p, hp⟩
    simp only [anyChip, Bool.or_eq_true]
    match p with
    | 0 => exact .inl (.inl (.inl hp))
    | 1 => exact .inl (.inl (.inr hp))
    | 2 => exact .inl (.inr hp)
    | 3 => exact .inr hp

theorem fansWhole_eq_false_iff (y : Tray) :
    fansWhole y = false ↔ ∃ f ∈ y.fans, f.2.present = false ∨ f.2.slow0 = true ∨ f.2.slow1 = true := by
  rw [fansWhole, List.all_eq_false]
  refine exists_congr fun f => and_congr_right fun _ => ?_
  rw [Bool.not_eq_true, Bool.and_eq_false_iff, Bool.and_eq_false_iff, Bool.not_eq_false', Bool.not_eq_false', or_assoc]

/-- Setting the fans gives them the duty of R36, from whatever state with the same duty it is seen. -/
theorem dutyRule_refreshFans {s₀ s : State} (hnum : s.tray.fanDutyNum = s₀.tray.fanDutyNum) (hden : s.tray.fanDutyDen = s₀.tray.fanDutyDen) :
    DutyRule s₀ (refreshFans s) := by
  have hcold : (anyChip s (fun c => c.wake.cold) && (s.tray.thermistors.map (·.2)).all (fun t => decide (t < 60))) = true ↔
      (∃ p, (getChip (refreshFans s) p).wake.cold = true) ∧ ∀ x ∈ (refreshFans s).tray.thermistors, x.2 < 60 := by
    rw [Bool.and_eq_true, anyChip_iff]
    simp only [getChip_refreshFans, List.all_map, List.all_eq_true, Function.comp_apply, decide_eq_true_eq]
    rfl
  have hfans : (!fansWhole s.tray) = true ↔
      ∃ f ∈ (refreshFans s).tray.fans, f.2.present = false ∨ f.2.slow0 = true ∨ f.2.slow1 = true := by
    rw [Bool.not_eq_true']
    exact fansWhole_eq_false_iff s.tray
  unfold DutyRule
  rw [← ite_congr (propext hcold) (fun _ => rfl) (fun _ => rfl), ← ite_congr (propext hfans) (fun _ => rfl) (fun _ => rfl), ← hnum, ← hden]
  rfl

/-! ## Chips without power (R25) -/

@[simp] theorem getChip_chipsOff (s : State) (p : Pos) : getChip (chipsOff s) p = chipOff (getChip s p) := getChip_mapChips s _ p

end Sys2Proof.Machine
end

section
/-!
PROOFS. O6 (ResetIsTheTrayOff) and O10 (PowerComesAndGoes): the tray Off, feed reports, the start from Off and the loss of all power.
-/
namespace Sys2Proof.Machine

theorem getChip_reset (p : Pos) : getChip State.reset p = Chip.reset := by
  match p with
  | 0 => rfl
  | 1 => rfl
  | 2 => rfl
  | 3 => rfl

/-- Settles O6: the keeper's fields are those of Tray.reset, each chip is Chip.reset. -/
theorem resetIsTheTrayOff : Obligations.ResetIsTheTrayOff := by
  unfold Obligations.ResetIsTheTrayOff
  refine ⟨rfl, rfl, rfl, fun _ => rfl, rfl, rfl, rfl, fun p => ?_⟩
  rw [getChip_reset]
  exact ⟨rfl, rfl, rfl, rfl, rfl⟩

theorem exec_feedPresent {s : State} (h : railOf s.tray .vkeep ≠ .down) (f : Feed) :
    exec (.feedPresent f) s = .next (modTray s (fun y => setFeed y f true)) := if_neg h

theorem exec_feedAbsent {s : State} (h : railOf s.tray .vkeep ≠ .down) (f : Feed) :
    exec (.feedAbsent f) s = .next (modTray s (fun y => setFeed y f false)) := if_neg h

/-- Settles O10. -/
theorem powerComesAndGoes : Obligations.PowerComesAndGoes := by
  unfold Obligations.PowerComesAndGoes
  refine ⟨fun s hup => ?_, fun s f lid hdown => ?_, fun s => ?_⟩
  · exact ⟨exec_feedPresent hup .a, exec_feedPresent hup .b, exec_feedAbsent hup .a, exec_feedAbsent hup .b⟩
  · exact ⟨_, if_pos hdown, ⟨rfl, rfl⟩, railOf_setRail_self _ _ _, rfl, rfl, rfl, rfl, fun r hr => railOf_setRail_ne _ _ hr, rfl⟩
  · refine ⟨_, rfl, rfl, fun _ => rfl, rfl, rfl, rfl, rfl, fun p => ?_⟩
    rw [getChip_chipsOff, getChip_modTray]
    exact ⟨rfl, rfl, rfl, rfl, rfl⟩

end Sys2Proof.Machine
end

section
/-!
PROOFS. O11 (RailsRiseInOrder) and O12 (RailFaultAndRecovery): the order of Table 2-2, the five rails of Spring, and a rail out of its band.
-/
namespace Sys2Proof.Machine

/-! ## RAIL_IN_REGULATION -/

theorem exec_railInRegulation_of_rising {s : State} {r : Rail} (h : railOf s.tray r = .rising) :
    exec (.railInRegulation r) s = .next (afterRail (modTray s (fun y => setRail y r .up)) r) := if_pos h

/-- Outside a rail fault the rails of Table 2-2 up to VDDH are each followed by the next; only VKEEP's also grants a flash that is asked for. -/
theorem afterRail_follows {s : State} {r n : Rail}
    (hrn : (r, n) ∈ [(Rail.vkeep, Rail.vbus), (.vbus, .vaon), (.vaon, .vret), (.vret, .vpp), (.vpp, .vddh), (.vddh, .vddq)])
    (hfault : s.tray.railFault = false) :
    n ≠ r ∧ (afterRail s r).chips = s.chips ∧ (afterRail s r).pending = s.pending ∧
      (afterRail s r).tray.rails = (raiseNext [n] s.tray).rails := by
  simp only [List.mem_cons, Prod.mk.injEq, List.not_mem_nil, or_false] at hrn
  obtain ⟨rfl, rfl⟩ | ⟨rfl, rfl⟩ | ⟨rfl, rfl⟩ | ⟨rfl, rfl⟩ | ⟨rfl, rfl⟩ | ⟨rfl, rfl⟩ := hrn
  case inl =>
    refine ⟨by decide, ?_⟩
    simp only [afterRail, hfault, Bool.false_and, Bool.false_eq_true, if_false]
    split <;> exact ⟨rfl, rfl, rfl⟩
  all_goals
    refine ⟨by decide, ?_⟩
    simp only [afterRail, hfault, Bool.false_and, Bool.false_eq_true, if_false]
    exact ⟨rfl, rfl, rfl⟩

/-- In a preparation, outside a rail fault, the five rails of Spring but the last are each followed by the next. -/
theorem afterRail_prepares {s : State} {r n : Rail}
    (hrn : (r, n) ∈ [(Rail.vcore, Rail.vsram), (.vsram, .vser), (.vser, .vserh), (.vserh, .vcage)])
    (hfault : s.tray.railFault = false) (hprep : s.tray.prep = true) :
    n ≠ r ∧ r ∉ springRails.takeWhile (fun q => decide (q ≠ r)) ∧ afterRail s r = modTray s (raiseNext springRails) ∧
      ∃ rest, springRails = springRails.takeWhile (fun q => decide (q ≠ r)) ++ r :: n :: rest := by
  simp only [List.mem_cons, Prod.mk.injEq, List.not_mem_nil, or_false] at hrn
  obtain ⟨rfl, rfl⟩ | ⟨rfl, rfl⟩ | ⟨rfl, rfl⟩ | ⟨rfl, rfl⟩ := hrn <;>
    exact ⟨by decide, by decide, by simp [afterRail, hfault, hprep], _, rfl⟩

/-- While a rail fault is held, no rail but VKEEP is followed by another. -/
theorem afterRail_of_railFault {s : State} {r : Rail} (hr : r ≠ .vkeep) (hfault : s.tray.railFault = true) : afterRail s r = s := by
  simp [afterRail, hfault, hr]

/-- After VDDQ the chips are powered up and the keeper begins forwarding. -/
theorem afterRail_vddq {s : State} (hfault : s.tray.railFault = false) :
    afterRail s .vddq = modTray (mapChips s (fun _ c => powerUpChip c)) (fun y => { y with forwarding := true }) := by
  simp [afterRail, hfault]

/-- Settles O11. Each clause is the rail's own rise to regulation followed by what afterRail does for it. -/
theorem railsRiseInOrder : Obligations.RailsRiseInOrder := by
  unfold Obligations.RailsRiseInOrder
  refine ⟨fun s r n hrn hfault hrising hdown => ?_, fun s r n hrn hfault hprep hrising hdown hbefore => ?_,
    fun s r hr hfault hrising => ?_, fun s r hr => if_neg hr, fun s hfault hrising => ?_⟩
  · obtain ⟨hne, hchips, hpending, hrails⟩ := afterRail_follows (s := modTray s (fun y => setRail y r .up)) hrn hfault
    have hnext : raiseNext [n] (setRail s.tray r .up) = setRail (setRail s.tray r .up) n .rising :=
      raiseNext_of_down _ ((railOf_setRail_ne _ _ hne).trans hdown)
    have hfollowed := (railFollowed_setRail s.tray hne).congr (hrails.trans (congrArg Tray.rails hnext))
    exact ⟨_, exec_railInRegulation_of_rising hrising, hchips, hpending, hfollowed⟩
  · obtain ⟨hne, hnot, hafter, rest, hsplit⟩ := afterRail_prepares (s := modTray s (fun y => setRail y r .up)) hrn hfault hprep
    have hups : ∀ q ∈ springRails.takeWhile (fun q => decide (q ≠ r)), railOf (setRail s.tray r .up) q = .up := fun q hq =>
      (railOf_setRail_ne _ _ (ne_of_mem_of_not_mem hq hnot)).trans (hbefore q hq)
    have hnext : raiseNext springRails (setRail s.tray r .up) = setRail (setRail s.tray r .up) n .rising := by
      rw [hsplit, raiseNext_append_of_up _ _ hups, raiseNext_of_up _ (railOf_setRail_self _ r _),
        raiseNext_of_down _ ((railOf_setRail_ne _ _ hne).trans hdown)]
    refine ⟨_, (exec_railInRegulation_of_rising hrising).trans (congrArg _ hafter), ⟨rfl, rfl⟩, ?_⟩
    exact (railFollowed_setRail s.tray hne).congr (congrArg Tray.rails hnext)
  · exact ⟨_, (exec_railInRegulation_of_rising hrising).trans (congrArg _ (afterRail_of_railFault hr hfault)), ⟨rfl, rfl⟩,
      railOf_setRail_self _ r _, fun q hq => railOf_setRail_ne _ _ hq⟩
  · refine ⟨_, (exec_railInRegulation_of_rising hrising).trans (congrArg _ (afterRail_vddq hfault)), rfl, railOf_setRail_self _ _ _,
      fun p => ?_⟩
    rw [getChip_modTray, getChip_mapChips, getChip_modTray]
    exact ⟨rfl, rfl, rfl, rfl, rfl⟩

/-! ## RAIL_OUT_OF_BAND and RAIL_FAULT_RECOVERY -/

/-- Settles O12. Of the rails only VKEEP and VBUS are still listed; at recovery the first one raised is VAON. -/
theorem railFaultAndRecovery : Obligations.RailFaultAndRecovery := by
  unfold Obligations.RailFaultAndRecovery
  refine ⟨fun s r hup => ?_, fun s hfault hpins hvbus hvaon => ?_, fun s h => ?_⟩
  · refine ⟨_, if_pos hup, rfl, rfl, rfl, rfl, fun q hbus hkeep => ?_, rfl, rfl, fun p => ?_⟩
    · rw [railOf_refreshFans, railOf, modTray_tray, tabGet, if_neg (Ne.symm hkeep), tabGet, if_neg (Ne.symm hbus), tabGet_nil]
    · rw [getChip_refreshFans, getChip_modTray, getChip_chipsOff]
      exact ⟨rfl, rfl, rfl, rfl, rfl⟩
  · have hgo : (s.tray.railFault && decide (s.tray.seasonPins = 0#2) && decide (railOf s.tray .vbus = .up)) = true := by
      simp [hfault, hpins, hvbus]
    have hrails : (raiseNext [.vaon] s.tray).rails = (setRail s.tray .vaon .rising).rails :=
      congrArg Tray.rails (raiseNext_of_down _ hvaon)
    exact ⟨_, if_pos hgo, ⟨rfl, rfl⟩, rfl, (railOf_congr hrails _).trans (railOf_setRail_self _ _ _),
      fun q hq => (railOf_congr hrails q).trans (railOf_setRail_ne _ _ hq)⟩
  · refine if_neg fun hgo => ?_
    simp only [Bool.and_eq_true, decide_eq_true_eq] at hgo
    obtain ⟨⟨-, hpins⟩, hvbus⟩ := hgo
    exact h.elim (fun hne => hne hpins) (fun hne => hne hvbus)

end Sys2Proof.Machine
end

section
/-!
PROOFS. O16 (SeasonPinsAreDebounced) and O18 (SpringIsPreparedFirst): the SEASON pins and the start of the Spring preparation.
-/
namespace Sys2Proof.Machine

/-- A code that has not been taken yet is taken up once the keeper forwards (R32). -/
theorem exec_seasonForward {s : State} (hforwards : s.tray.forwarding = true) (huntaken : s.tray.pinTaken = false) :
    exec .seasonForward s = .next (takeCode (modTray s (fun y => { y with pinTaken := true })) s.tray.seasonPins) :=
  if_pos (by simp [hforwards, huntaken])

/-- A code taken up in a preparation is held (R28). -/
theorem takeCode_of_prep {s : State} (h : s.tray.prep = true) (code : BitVec 2) :
    takeCode s code = modTray s (fun y => { y with held := y.held ++ [code] }) := if_pos h

/-- 01 with a chip in Winter begins a preparation; its rails rise at once unless the keeper still waits for Winter (R28, log entry 58). -/
theorem takeCode_spring {s : State} (hprep : s.tray.prep = false) {p : Pos} (hwinter : (getChip s p).wake.season = .winter) :
    takeCode s 1#2 = modTray s (fun y =>
      if y.winterWait then { y with prep := true, strapsDelivered := false }
      else raiseNext springRails { y with prep := true, strapsDelivered := false }) := by
  have hany : anyChip s (fun c => decide (c.wake.season = .winter)) = true := (anyChip_iff s _).2 ⟨p, decide_eq_true hwinter⟩
  rw [takeCode, hprep, if_neg Bool.false_ne_true, hany, decide_eq_true rfl, if_pos (by decide)]

/-- With the five rails down and no Winter to wait for, the first of them rises. -/
theorem takeCode_spring_raises {s : State} (hprep : s.tray.prep = false) {p : Pos} (hwinter : (getChip s p).wake.season = .winter)
    (hwait : s.tray.winterWait = false) (hdown : ∀ r ∈ springRails, railOf s.tray r = .down) :
    takeCode s 1#2 = modTray s (fun y => setRail { y with prep := true, strapsDelivered := false } .vcore .rising) := by
  rw [takeCode_spring hprep hwinter]
  refine congrArg (fun y => ({ s with tray := y } : State)) ?_
  exact (if_neg (by simp [hwait])).trans (raiseNext_of_down _ (hdown .vcore (by decide)))

/-- Settles O16. -/
theorem seasonPinsAreDebounced : Obligations.SeasonPinsAreDebounced := by
  unfold Obligations.SeasonPinsAreDebounced
  refine ⟨fun s code hcode => if_neg hcode, fun s htaken => if_neg (by simp [htaken]), fun s hforwards huntaken hprep => ?_⟩
  rw [exec_seasonForward hforwards huntaken, takeCode_of_prep (by exact hprep)]
  rfl

/-- Settles O18. -/
theorem springIsPreparedFirst : Obligations.SpringIsPreparedFirst := by
  unfold Obligations.SpringIsPreparedFirst
  refine ⟨fun s hforwards huntaken hprep hwait hpins hwinter hdown => ?_, fun s hforwards huntaken hprep hwait hpins hwinter => ?_⟩
  all_goals
    have hexec := exec_seasonForward hforwards huntaken
    rw [hpins] at hexec
  · rw [takeCode_spring_raises (p := 0) (by exact hprep) (by rw [getChip_modTray]; exact hwinter) (by exact hwait) (by exact hdown)] at hexec
    exact ⟨_, hexec, ⟨rfl, rfl⟩, rfl, rfl, railOf_setRail_self _ _ _, fun r hr => railOf_setRail_ne _ _ hr⟩
  · rw [hexec, takeCode_spring (p := 0) (by exact hprep) (by rw [getChip_modTray]; exact hwinter)]
    simp only [modTray, hwait, if_true]

end Sys2Proof.Machine
end

section
/-!
PROOFS. O14 (FlashGrants): when the flash is granted and when the grant ends (R40, R92).
-/
namespace Sys2Proof.Machine

/-- Settles O14. Each clause picks a branch of its command: a request with or without a read under way, a release with or without a load
that waits. -/
theorem flashGrants : Obligations.FlashGrants := by
  unfold Obligations.FlashGrants
  refine ⟨fun s hup hread => ?_, fun s hup hread => ?_, fun s hdue hreq hread => ?_, fun s hidle => ?_, fun s hwait => ?_⟩
  · have hread' : reading { s.tray with flashReq := true } = false := hread
    refine (if_pos hup).trans ?_
    simp only [modTray, hread', Bool.false_eq_true, if_false, grantFlash]
  · have hread' : reading { s.tray with flashReq := true } = true := hread
    refine (if_pos hup).trans ?_
    simp only [modTray, hread', if_true]
  · exact if_pos (by simp [hdue, hreq, hread])
  · have hread : reading s.tray = false := by simp [reading, hidle]
    show execFlashRelease s = _
    simp only [execFlashRelease, modTray, hread, hidle, Bool.and_false, reduceCtorEq, if_false]
  · show execFlashRelease s = _
    simp only [execFlashRelease, modTray, hwait, if_true]

end Sys2Proof.Machine
end

section
/-!
PROOFS. O5 (OnlyFlashSequencesCanStop): every command but a flash sequence answers a next state.
-/
namespace Sys2Proof.Machine

/-- The machine goes on to a next state. -/
def Completes (o : Host.Outcome State Fault Refusal) : Prop := ∃ t, o = .next t

theorem completes_next (t : State) : Completes (.next t) := ⟨t, rfl⟩

theorem completes_ite {p : Prop} [Decidable p] {a b : Host.Outcome State Fault Refusal} (ha : Completes a) (hb : Completes b) :
    Completes (if p then a else b) := by
  split
  · exact ha
  · exact hb

/-- A command that acts under one condition. -/
theorem completes_guard {p : Prop} [Decidable p] (t u : State) :
    Completes (if p then .next t else .next u) := completes_ite (completes_next t) (completes_next u)

/-! ## Commands that act by cases -/

theorem completes_wipeClearDone (c : Pos) (s : State) : Completes (exec (.wipeClearDone c) s) := by
  change Completes (execWipeClearDone c s)
  unfold execWipeClearDone
  split
  · exact completes_guard _ _
  · exact completes_next _

theorem completes_retentionSwitchTimer (c : Pos) (s : State) : Completes (exec (.retentionSwitchTimer c) s) := by
  change Completes (execRetentionSwitchTimer c s)
  unfold execRetentionSwitchTimer
  split
  · exact completes_guard _ _
  · exact completes_next _

/-- A port that failed trains again from the step that its failure names. -/
theorem completes_retrainTimer (c : Pos) (p : PortNo) (s : State) : Completes (exec (.retrainTimer c p) s) := by
  refine completes_ite ?_ (completes_next _)
  split <;> exact completes_next _

theorem completes_vc0CreditTimeout (c : Pos) (p : PortNo) (s : State) : Completes (exec (.vc0CreditTimeout c p) s) := by
  change Completes (execVc0CreditTimeout c p s)
  unfold execVc0CreditTimeout
  dsimp only
  split
  · exact completes_guard _ _
  · exact completes_next _

theorem completes_ethernetFrameSend (c : Pos) (p : PortNo) (s : State) : Completes (exec (.ethernetFrameSend c p) s) := by
  change Completes (execEthernetFrameSend c p s)
  unfold execEthernetFrameSend
  dsimp only
  split <;> exact completes_next _

/-- VC0's head frame goes first where there is one that may begin. -/
theorem completes_frameSend (c : Pos) (p : PortNo) (s : State) : Completes (exec (.frameSend c p) s) := by
  refine completes_ite (completes_next _) ?_
  split
  · exact completes_guard _ _
  · exact completes_next _

theorem completes_frameForward (c : Pos) (s : State) : Completes (exec (.frameForward c) s) := by
  change Completes (execFrameForward c s)
  unfold execFrameForward
  dsimp only
  split
  · exact completes_guard _ _
  · exact completes_next _

/-- VC0 is one queue; on VC1 and VC2 the deficit round-robin names a tenant's. -/
theorem completes_ingressDispatch (c : Pos) (p : PortNo) (vc : BitVec 2) (s : State) : Completes (exec (.ingressDispatch c p vc) s) := by
  refine completes_ite (completes_next _) (completes_ite ?_ ?_)
  · split <;> exact completes_next _
  · dsimp only
    split
    · exact completes_next _
    · split <;> exact completes_next _

/-- From a host the frame meets the arrival gate; from a chip it is passed on or counted. -/
theorem completes_unknownFrameType (c : Pos) (f : RxFrame) (s : State) : Completes (exec (.unknownFrameType c f) s) := by
  refine completes_ite ?_ (completes_next _)
  split
  · split <;> exact completes_next _
  · exact completes_next _

/-- Without a collision it is the frame's own command; with one it is a retry, or ends the acceptance. -/
theorem completes_ledgerCollisionRetry (c : Pos) (f : RxFrame) (collides : Bool) (s : State) :
    Completes (exec (.ledgerCollisionRetry c f collides) s) :=
  completes_ite (completes_ite (completes_next _) (completes_next _)) (completes_ite (completes_guard _ _) (completes_next _))

theorem completes_shardDeadline (c : Pos) (r : ShardStepRef) (s : State) : Completes (exec (.shardDeadline c r) s) := by
  change Completes (execShardDeadline c r s)
  unfold execShardDeadline
  dsimp only
  split
  · exact completes_next _
  · exact completes_guard _ _

/-- A close waits, is behind its tasks already, is not due, is halted at a breakpoint, or runs its tasks at once. -/
theorem completes_shardClose (c : Pos) (r : ShardStepRef) (s : State) : Completes (exec (.shardClose c r) s) := by
  change Completes (execShardClose c r s)
  unfold execShardClose
  dsimp only
  split
  · exact completes_next _
  · refine completes_ite (completes_next _) (completes_ite (completes_next _) (completes_ite (completes_next _)
      (completes_ite (completes_next _) ?_)))
    split <;> exact completes_next _

theorem completes_updateStageEnd (c : Pos) (r : ShardStepRef) (s : State) : Completes (exec (.updateStageEnd c r) s) := by
  change Completes (execUpdateStageEnd c r s)
  unfold execUpdateStageEnd
  dsimp only
  split
  · exact completes_next _
  · exact completes_guard _ _

/-- The running task's stage ends, or the next task's in its prologue. -/
theorem completes_stageEnd (c : Pos) (k : ClusterNo) (s : State) : Completes (exec (.stageEnd c k) s) := by
  refine completes_ite (completes_next _) ?_
  split
  · refine completes_ite (completes_guard _ _) ?_
    split
    · exact completes_ite (completes_guard _ _) (completes_next _)
    · exact completes_next _
  · exact completes_next _

theorem completes_stageBoundExceeded (c : Pos) (k : ClusterNo) (s : State) : Completes (exec (.stageBoundExceeded c k) s) := by
  refine completes_ite (completes_next _) ?_
  split
  · exact completes_ite (completes_next _) (completes_guard _ _)
  · exact completes_next _

theorem completes_streamRequestIssue (c : Pos) (k : ClusterNo) (desc : Fin 32) (s : State) :
    Completes (exec (.streamRequestIssue c k desc) s) := by
  refine completes_ite (completes_next _) ?_
  split <;> exact completes_next _

/-- Data returns to the running task's stream, or else to the next task's. -/
theorem completes_readDataReturn (c : Pos) (k : ClusterNo) (desc : Fin 32) (s : State) :
    Completes (exec (.readDataReturn c k desc) s) := by
  refine completes_ite (completes_next _) ?_
  split
  · exact completes_next _
  · split <;> exact completes_next _

/-- A write is accepted from a stream, or else from the short path. -/
theorem completes_writeAccept (c : Pos) (k : ClusterNo) (desc : Fin 32) (s : State) : Completes (exec (.writeAccept c k desc) s) := by
  refine completes_ite (completes_next _) ?_
  split
  · exact completes_next _
  · split <;> exact completes_next _

/-- A line that is missed fills with what its kind holds. -/
theorem completes_lineFill (c : Pos) (line : Nat) (s : State) : Completes (exec (.lineFill c line) s) := by
  change Completes (execLineFill c line s)
  unfold execLineFill
  dsimp only
  split
  · exact completes_next _
  · refine completes_ite (completes_next _) ?_
    split <;> exact completes_next _

/-- The keeper's TAP and a chip's take the instruction each in their own way. -/
theorem completes_idcode (d : TapDevice) (s : State) : Completes (exec (.idcode d) s) := by
  cases d <;> exact completes_next _

theorem completes_samplePreload (d : TapDevice) (cells : BitVec 38) (s : State) : Completes (exec (.samplePreload d cells) s) := by
  cases d <;> exact completes_next _

/-! ## O5 -/

/-- The model's two checks that a flash sequence stays inside the device are one. -/
theorem flashOpInside_eq_ok (op : FlashOp) : flashOpInside op = op.ok := by
  cases op <;> rfl

theorem exec_flashProgramEraseSequence (op : FlashOp) (s : State) :
    exec (.flashProgramEraseSequence op) s =
      if (pinsOf s).flashGnt = true then
        if op.ok = true then .next (modTray s (fun y => applyFlashOp y op)) else .fault .outsideFlash
      else .next s := by
  rw [← flashOpInside_eq_ok]
  rfl

/-- Every command but a flash sequence answers a next state. -/
theorem exec_completes {i : Instr} (s : State) (h : ∀ op, i ≠ .flashProgramEraseSequence op) : Completes (exec i s) := by
  cases i with
  | trayPowerLoss | tenrstAssert _ | tenrstRelease _ | tenrstInWinter _ | vaultError _ | flashRelease | fanFailure _ _
  | hello _ _ _ | helloAck _ _ _ _ | credit _ _ _ | nak _ _ _ | wireUnitCrcFail _ _ | grad _ _ | init _ _ | pull _ _
  | stashPut _ _ | stashGet _ _ | maskGet _ _ | scaleGet _ _ | statGet _ _ | index _ _ | reduce _ _ | shardVerdict _ _
  | verdict _ _ | tenantDown _ _ | syncOp _ _ | syncAck _ _ | tapReset | extest _ _ | clamp _ | highz _ | dbgStatus _ | dbgTask _
  | halt _ _ | resume _ _ | stepOneStage _ _ | stepNCycles _ _ | dbgBreakSet _ _ | dbgBreakClear _ _ | lcAdvance _ _
  | tamperRelease | lidClose => exact completes_next _
  | feedPresent _ | feedAbsent _ | trayStart _ _ | railInRegulation _ | seasonPinChange _ | seasonForward | strapSetDelivery _ _
  | corePllLocked _ _ | sramClearDone _ | keyDrawTimeout _ | coldStartEnd _ _ | heatingTimeout _ | flashGrantWaitTimeout
  | imageBankReadDone _ | imageOutcomeTimeout _ | autumnNoStepInFlight _ | autumnWritebackDone _ | winterReportTimeout
  | railOutOfBand _ | railFaultRecovery | strapResense _ | tenantResetEraseDone _ _ | tenantResetComplete _ _
  | deferredTenantDown _ _ | tamperAssert | lidOpen | voltageGlitch _ _ | clockGlitch _ _ | flashRequest | flashGrantAfterRead
  | thermistorReading _ _ | cageModuleInsert _ _ | hotThreshold _ _ | governorStepDown _ _ | governorStepUp _ _
  | thermalShutdown _ _ | lanesLocked _ _ | pcsLocked _ _ | unitsDelineated _ _ | helloTimer _ _ | trainingTimeout _ _
  | dataFlit _ _ _ | unknownControlFlit _ _ _ | replayTimeout _ _ | creditSend _ _ _ | portDown _ _ | meshPeerLost _ _
  | torusDirectionLost _ _ | commitBarrier _ _ _ | verdictTimeout _ _ _ | gatherTimeout _ _ _ | taskStart _ _ | stageStart _ _
  | deadLineInvalidate _ _ | eccUncorrectable _ _ | bypass _ _ | stepCyclesExpire _ _ | dbgMemRead _ _ | dbgMemWrite _ _
  | keyDrawDone _ _ => exact completes_guard _ _
  | springReceived _ | imageHeaderRead | winterReached _ | macFrameReceive _ _ _ => exact completes_ite (completes_guard _ _) (completes_next _)
  | hbmTrainingDone _ _ => exact completes_ite (completes_ite (completes_guard _ _) (completes_next _)) (completes_next _)
  | bankCheckReport => exact completes_ite (completes_ite (completes_next _) (completes_guard _ _)) (completes_next _)
  | wipeClearDone c => exact completes_wipeClearDone c s
  | retentionSwitchTimer c => exact completes_retentionSwitchTimer c s
  | retrainTimer c p => exact completes_retrainTimer c p s
  | vc0CreditTimeout c p => exact completes_vc0CreditTimeout c p s
  | ethernetFrameSend c p => exact completes_ethernetFrameSend c p s
  | frameSend c p => exact completes_frameSend c p s
  | frameForward c => exact completes_frameForward c s
  | ingressDispatch c p vc => exact completes_ingressDispatch c p vc s
  | unknownFrameType c f => exact completes_unknownFrameType c f s
  | ledgerCollisionRetry c f collides => exact completes_ledgerCollisionRetry c f collides s
  | shardDeadline c r => exact completes_shardDeadline c r s
  | shardClose c r => exact completes_shardClose c r s
  | updateStageEnd c r => exact completes_updateStageEnd c r s
  | stageEnd c k => exact completes_stageEnd c k s
  | stageBoundExceeded c k => exact completes_stageBoundExceeded c k s
  | streamRequestIssue c k desc => exact completes_streamRequestIssue c k desc s
  | readDataReturn c k desc => exact completes_readDataReturn c k desc s
  | writeAccept c k desc => exact completes_writeAccept c k desc s
  | lineFill c line => exact completes_lineFill c line s
  | idcode d => exact completes_idcode d s
  | samplePreload d cells => exact completes_samplePreload d cells s
  | flashProgramEraseSequence op => exact absurd rfl (h op)

/-- Settles O5. A flash sequence meets its two conditions one after the other. -/
theorem onlyFlashSequencesCanStop : Obligations.OnlyFlashSequencesCanStop := by
  unfold Obligations.OnlyFlashSequencesCanStop
  refine ⟨fun i s h => exec_completes s h, fun op s => ?_⟩
  rw [exec_flashProgramEraseSequence]
  cases hgnt : (pinsOf s).flashGnt with
  | false => simp
  | true => cases hok : op.ok <;> simp

end Sys2Proof.Machine
end

section
/-!
PROOFS. O15 (FlashSequencesWriteTheirBytes): what a memory reads as after a run of writes or an erasure, and the flash sequences (R41, R91).
-/
namespace Sys2Proof.Machine

/-! ## Runs of a memory -/

/-- After a run of writes each address of the run reads as its value, every other one as before. -/
theorem memGet_memWrite {α : Type} [DecidableEq α] (d : α) (vs : List α) {m : Mem α} (h : Memory.wf d m = true) (a x : Nat) :
    memGet d (memWrite d m a vs) x = if hx : a ≤ x ∧ x - a < vs.length then vs[x - a]'hx.2 else memGet d m x := by
  induction vs generalizing m a with
  | nil => rw [dif_neg (by simp)]; rfl
  | cons v vs ih =>
    rw [memWrite, ih (wf_memSet d h a v) (a + 1)]
    by_cases hx : x = a
    · subst hx
      rw [dif_neg (by omega), dif_pos (by simp), memGet_memSet_self d h]
      simp
    · rw [memGet_memSet_ne d m a x v hx]
      by_cases hrun : a + 1 ≤ x ∧ x - (a + 1) < vs.length
      · obtain ⟨n, rfl⟩ : ∃ n, x = a + 1 + n := ⟨x - (a + 1), by omega⟩
        have hn : a + 1 + n - a = n + 1 := by omega
        have hrun' : a ≤ a + 1 + n ∧ a + 1 + n - a < (v :: vs).length := by
          rw [List.length_cons]
          omega
        rw [dif_pos hrun, dif_pos hrun']
        simp [hn]
      · rw [dif_neg hrun, dif_neg (by rw [List.length_cons]; omega)]

/-- Dropped addresses read as the unlisted value, the others as before. -/
theorem memGet_memDrop {α : Type} (d : α) (p : Nat → Bool) (m : Mem α) (x : Nat) :
    memGet d (memDrop p m) x = if p x then d else memGet d m x := by
  induction m with
  | nil => simp [memDrop, memGet]
  | cons e m ih =>
    obtain ⟨b, v⟩ := e
    by_cases hbx : b = x
    · subst hbx
      by_cases hp : p b
      · simp only [memDrop, hp, if_true, ih]
      · simp only [memDrop, memGet, hp, if_true, if_false, Bool.false_eq_true]
    · by_cases hp : p b
      · simp only [memDrop, memGet, hp, hbx, if_true, if_false, ih]
      · simp only [memDrop, memGet, hp, hbx, if_false, ih, Bool.false_eq_true]

theorem memGet_memErase {α : Type} (d : α) (a n : Nat) (m : Mem α) (x : Nat) :
    memGet d (memErase a n m) x = if a ≤ x ∧ x < a + n then d else memGet d m x := by
  simp only [memErase, memGet_memDrop, Bool.and_eq_true, decide_eq_true_eq]

/-! ## The sequences -/

/-- A sequence inside the flash under a grant takes effect. -/
theorem exec_flashProgramEraseSequence_granted {s : State} {op : FlashOp} (hgnt : (pinsOf s).flashGnt = true) (hok : op.ok = true) :
    exec (.flashProgramEraseSequence op) s = .next (modTray s (fun y => applyFlashOp y op)) := by
  rw [exec_flashProgramEraseSequence, if_pos hgnt, if_pos hok]

/-- Settles O15. -/
theorem flashSequencesWriteTheirBytes : Obligations.FlashSequencesWriteTheirBytes := by
  unfold Obligations.FlashSequencesWriteTheirBytes
  refine ⟨fun s a bs hgnt hinside hwf => ?_, fun s a n hgnt hinside hwf => ?_, fun s v hgnt => ?_, fun s op hgnt => ?_⟩
  · exact ⟨_, exec_flashProgramEraseSequence_granted hgnt (decide_eq_true hinside), ⟨rfl, rfl⟩, memGet_memWrite _ bs hwf.1 a, rfl⟩
  · exact ⟨_, exec_flashProgramEraseSequence_granted hgnt (decide_eq_true hinside), ⟨rfl, rfl⟩, memGet_memErase _ a n _⟩
  · exact exec_flashProgramEraseSequence_granted hgnt rfl
  · rw [exec_flashProgramEraseSequence, if_neg (by simp [hgnt])]

end Sys2Proof.Machine
end

section
/-!
PROOFS. O13 (FansAndCagesFollowTheirReadings): thermistors and fan modules (R36, R62), and the modules of cages (R38).
-/
namespace Sys2Proof.Machine

/-! ## Readings and fan modules -/

/-- An entry that a key finds is listed. -/
theorem mem_of_tabFind {κ α : Type} [DecidableEq κ] {l : Tab κ α} {k : κ} {v : α} (h : tabFind l k = some v) : (k, v) ∈ l := by
  induction l with
  | nil => cases h
  | cons e l ih =>
    obtain ⟨k', v'⟩ := e
    by_cases hk : k' = k
    · rw [tabFind, if_pos hk, Option.some.injEq] at h
      rw [hk, h]
      exact List.mem_cons_self
    · rw [tabFind, if_neg hk] at h
      exact List.mem_cons_of_mem _ (ih h)

/-- A slow rotor or an absent module leaves its module not whole. -/
theorem failFan_not_whole (m : FanModule) {f : FanFault} (h : (∃ b, f = .rotor b) ∨ f = .absent) :
    (failFan m f).present = false ∨ (failFan m f).slow0 = true ∨ (failFan m f).slow1 = true := by
  obtain ⟨b, rfl⟩ | rfl := h
  · cases b
    · exact .inr (.inl rfl)
    · exact .inr (.inr rfl)
  · exact .inl rfl

/-- With no chip asserting COLD_n, a module that is not whole takes the fans to 100 % (R36). -/
theorem full_duty_of_dutyRule {s t : State} (h : DutyRule s t) (hcold : ∀ p, (getChip t p).wake.cold = false)
    {f : Fin 6 × FanModule} (hf : f ∈ t.tray.fans) (hbroken : f.2.present = false ∨ f.2.slow0 = true ∨ f.2.slow1 = true) :
    t.tray.fanDutyNum = 100 ∧ t.tray.fanDutyDen = 1 := by
  have hwarm : ¬ ((∃ p, (getChip t p).wake.cold = true) ∧ ∀ x ∈ t.tray.thermistors, x.2 < 60) := by
    rintro ⟨⟨p, hp⟩, -⟩
    rw [hcold p] at hp
    cases hp
  rw [DutyRule, if_neg hwarm, if_pos ⟨f, hf, hbroken⟩] at h
  exact Prod.mk.inj h

/-! ## One chip -/

theorem onlyChip_refl (c : Pos) (s : State) : OnlyChip c s s := ⟨rfl, rfl, fun _ _ => rfl⟩

theorem onlyChip_trans {c : Pos} {s t u : State} (h : OnlyChip c s t) (g : OnlyChip c t u) : OnlyChip c s u := by
  obtain ⟨hpending, htray, hchips⟩ := h
  obtain ⟨gpending, gtray, gchips⟩ := g
  exact ⟨gpending.trans hpending, gtray.trans htray, fun p hp => (gchips p hp).trans (hchips p hp)⟩

theorem onlyChip_modChip (s : State) (c : Pos) (f : Chip → Chip) : OnlyChip c s (modChip s c f) := onlyChip_setChip s c _

theorem onlyChip_foldl {α : Type} {c : Pos} {f : State → α → State} (h : ∀ s x, OnlyChip c s (f s x)) (l : List α) (s : State) :
    OnlyChip c s (l.foldl f s) := by
  induction l generalizing s with
  | nil => exact onlyChip_refl c s
  | cons x l ih => exact onlyChip_trans (h s x) (ih (f s x))

/-! ## The ports of a cage (R38, R43) -/

/-- What settleCage does to one of the cage's ports: it begins to train, stays down, or goes down. -/
def settlePort (pos : Pos) (s : State) (p : PortNo) : State :=
  if portEnabled s pos p then modChip s pos (fun c => openPort c p)
  else if (portOf (getChip s pos) p).step = .down then s
  else losePort s pos p

/-- A cage's ports on the chip at a position. -/
def cagePorts (g : Fin 40) (pos : Pos) : List PortNo := (List.finRange 64).filter (fun p => decide (cageOfPort pos p = some g))

theorem mem_cagePorts {g : Fin 40} {pos : Pos} {p : PortNo} : p ∈ cagePorts g pos ↔ cageOfPort pos p = some g := by
  simp [cagePorts]

/-- A port's cage is on the port's chip. -/
theorem cageChip_of_cageOfPort {pos : Pos} {p : PortNo} {g : Fin 40} (h : cageOfPort pos p = some g) : cageChip g = pos := by
  have hfound := List.find?_some h
  simp only [Bool.and_eq_true, decide_eq_true_eq] at hfound
  exact hfound.1.1

theorem cagePorts_of_ne {g : Fin 40} {pos : Pos} (h : pos ≠ cageChip g) : cagePorts g pos = [] :=
  List.eq_nil_iff_forall_not_mem.2 fun _ hp => h (cageChip_of_cageOfPort (mem_cagePorts.1 hp)).symm

/-- Settling a cage settles its ports, which are on one chip. -/
theorem settleCage_eq (s : State) (g : Fin 40) : settleCage s g = (cagePorts g (cageChip g)).foldl (settlePort (cageChip g)) s := by
  have hall : settleCage s g = [0, 1, 2, 3].foldl (fun s pos => (cagePorts g pos).foldl (settlePort pos) s) s := rfl
  have hother : ∀ pos, pos ≠ cageChip g → cagePorts g pos = [] := fun pos => cagePorts_of_ne
  rw [hall]
  generalize cageChip g = c at hother ⊢
  match c with
  | 0 => simp [hother 1, hother 2, hother 3]
  | 1 => simp [hother 0, hother 2, hother 3]
  | 2 => simp [hother 0, hother 1, hother 3]
  | 3 => simp [hother 0, hother 1, hother 2]

theorem onlyChip_settlePort (pos : Pos) (s : State) (p : PortNo) : OnlyChip pos s (settlePort pos s p) := by
  unfold settlePort
  split
  · exact onlyChip_modChip s pos _
  · split
    · exact onlyChip_refl pos s
    · exact onlyChip_modChip s pos _

/-- A module of more than 5 W keeps the ports of its cage from training. -/
theorem portEnabled_of_over {s : State} {pos : Pos} {p : PortNo} {g : Fin 40} (hcage : cageOfPort pos p = some g)
    (hpresent : (tabGet .reset s.tray.cages g).present = true) (hover : 5000 < (tabGet .reset s.tray.cages g).milliwatts) :
    portEnabled s pos p = false := by
  simp [portEnabled, cageEnabled, hcage, hpresent, hover]

/-- The frames of one port going back leaves the other ports as they are. -/
theorem portOf_returnFrames_ne (c : Chip) {p q : PortNo} (h : q ≠ p) : portOf (returnFrames c p) q = portOf c q := by
  have hports : (returnFrames c p).ports = (modPort c p (fun x => { x with unacked := [], egress := [], outDeficit := [] })).ports := by
    unfold returnFrames
    dsimp only
    split <;> rfl
  rw [portOf, hports]
  exact portOf_modPort_ne c p q _ h

/-- A port that may not train is down once it is settled, and a port that was down stays so. -/
theorem settlePort_down {pos : Pos} {s : State} {p q : PortNo} (hoff : portEnabled s pos p = false)
    (h : q = p ∨ (portOf (getChip s pos) q).step = .down) : (portOf (getChip (settlePort pos s p) pos) q).step = .down := by
  unfold settlePort
  rw [hoff, if_neg Bool.false_ne_true]
  split
  case isTrue hdown =>
    obtain rfl | h := h
    · exact hdown
    · exact h
  case isFalse hnot =>
    rw [losePort, hoff, getChip_modChip_self]
    by_cases hq : q = p
    · rw [hq, portOf_modPort_self]
      rfl
    · rw [portOf_modPort_ne _ _ _ _ hq, portOf_returnFrames_ne _ hq]
      exact h.resolve_left hq

/-- Under a module of more than 5 W every port of the cage that is settled is down. -/
theorem settlePorts_down {pos : Pos} {g : Fin 40} {l : List PortNo} (hl : ∀ p ∈ l, cageOfPort pos p = some g) {s : State}
    (hpresent : (tabGet .reset s.tray.cages g).present = true) (hover : 5000 < (tabGet .reset s.tray.cages g).milliwatts) {q : PortNo}
    (h : q ∈ l ∨ (portOf (getChip s pos) q).step = .down) : (portOf (getChip (l.foldl (settlePort pos) s) pos) q).step = .down := by
  induction l generalizing s with
  | nil => exact h.resolve_left List.not_mem_nil
  | cons p l ih =>
    have hoff : portEnabled s pos p = false := portEnabled_of_over (hl p List.mem_cons_self) hpresent hover
    obtain ⟨-, htray, -⟩ := onlyChip_settlePort pos s p
    refine ih (fun p hp => hl p (List.mem_cons_of_mem _ hp)) (htray ▸ hpresent) (htray ▸ hover) ?_
    obtain hq | hdown := h
    · obtain rfl | hq := List.mem_cons.1 hq
      · exact .inr (settlePort_down hoff (.inl rfl))
      · exact .inl hq
    · exact .inr (settlePort_down hoff (.inr hdown))

/-! ## CAGE_MODULE_INSERT -/

/-- The record of a module of a power class in a power mode. -/
def insertedCage (mw : Nat) (high : Bool) : Cage := { present := true, milliwatts := mw, highPower := high }

/-- The keeper with a cage's record written. -/
def putCage (s : State) (g : Fin 40) (x : Cage) : State := modTray s (fun y => { y with cages := tabSet y.cages g x })

theorem exec_cageModuleInsert_powered {s : State} (h : railOf s.tray .vcage = .up) (g : Fin 40) (mw : Nat) :
    exec (.cageModuleInsert g mw) s =
      .next (settleCage (putCage s g (insertedCage mw (cageHighPower s g mw))) g) := if_pos h

theorem exec_cageModuleInsert_unpowered {s : State} (h : railOf s.tray .vcage ≠ .up) (g : Fin 40) (mw : Nat) :
    exec (.cageModuleInsert g mw) s = .next (putCage s g (insertedCage mw false)) := if_neg h

/-- High power goes to a module of 5 W or less in a cage whose ports are not strapped off (R38). -/
theorem cageHighPower_iff (s : State) (g : Fin 40) (mw : Nat) :
    cageHighPower s g mw = true ↔
      mw ≤ 5000 ∧ strappedMode (getChip s (cageChip g)).wake.latched (Fin.ofNat 64 (cagePort g)) ≠ .off := by
  simp only [cageHighPower, Bool.and_eq_true, decide_eq_true_eq]

/-- What an insertion writes into the keeper's record of its cage, and of no other. -/
theorem cages_putCage (s : State) (g : Fin 40) (x : Cage) :
    tabGet Cage.reset (putCage s g x).tray.cages g = x ∧
      ∀ h, h ≠ g → tabGet Cage.reset (putCage s g x).tray.cages h = tabGet Cage.reset s.tray.cages h :=
  ⟨tabGet_tabSet_self _ _ g x, fun h hne => tabGet_tabSet_ne _ _ g h x hne⟩

/-- Settles O13. The duty is dutyRule_refreshFans; a module that is inserted is read while the cages have power, and then its ports are settled. -/
theorem fansAndCagesFollowTheirReadings : Obligations.FansAndCagesFollowTheirReadings := by
  unfold Obligations.FansAndCagesFollowTheirReadings
  refine ⟨fun s n v hup => ?_, fun s m f => ?_, fun s g mw => ?_⟩
  · exact ⟨_, if_pos hup, ⟨rfl, rfl⟩, tabFind_tabSet_self _ n _, fun m hm => tabFind_tabSet_ne _ n m _ hm, rfl, dutyRule_refreshFans rfl rfl⟩
  · refine ⟨_, rfl, ⟨rfl, rfl⟩, tabFind_tabSet_self _ m _, fun n hn => tabFind_tabSet_ne _ m n _ hn, rfl, dutyRule_refreshFans rfl rfl,
      fun hcold hf => ?_⟩
    refine full_duty_of_dutyRule (s := s) (dutyRule_refreshFans rfl rfl) (fun p => ?_) (mem_of_tabFind (tabFind_tabSet_self _ m _))
      (failFan_not_whole _ hf)
    rw [getChip_refreshFans, getChip_modTray]
    exact hcold p
  · by_cases hup : railOf s.tray .vcage = .up
    · refine ⟨_, exec_cageModuleInsert_powered hup g mw, ?_⟩
      obtain ⟨hself, hothers⟩ := cages_putCage s g (insertedCage mw (cageHighPower s g mw))
      rw [settleCage_eq]
      obtain ⟨hpending, htray, hchips⟩ :=
        onlyChip_foldl (onlyChip_settlePort (cageChip g)) (cagePorts g (cageChip g))
          (putCage s g (insertedCage mw (cageHighPower s g mw)))
      rw [htray, hself]
      refine ⟨hpending, fun p hp => (hchips p hp).trans (getChip_modTray s _ p), rfl, rfl,
        fun hhigh => ⟨((cageHighPower_iff s g mw).1 hhigh).1, hup⟩, fun _ hmw hmode => (cageHighPower_iff s g mw).2 ⟨hmw, hmode⟩,
        fun _ hover p hp => ?_, hothers⟩
      exact settlePorts_down (fun p hp => mem_cagePorts.1 hp) (by rw [hself]; rfl) (by rw [hself]; exact hover) (.inl (mem_cagePorts.2 hp))
    · obtain ⟨hself, hothers⟩ := cages_putCage s g (insertedCage mw false)
      refine ⟨_, exec_cageModuleInsert_unpowered hup g mw, rfl, fun p _ => getChip_modTray s _ p, ?_⟩
      rw [hself]
      exact ⟨rfl, rfl, nofun, fun h => absurd h hup, fun h => absurd h hup, hothers⟩

end Sys2Proof.Machine
end

section
/-!
PROOFS. O21 (WinterIsReported): the last report of Winter, and a report that does not come (R28, R29, R67, R70).
-/
namespace Sys2Proof.Machine

theorem allChips_iff (s : State) (f : Chip → Bool) : allChips s f = true ↔ ∀ p, f (getChip s p) = true := by
  constructor
  · intro h p
    simp only [allChips, Bool.and_eq_true] at h
    obtain ⟨⟨⟨ha, hb⟩, hc⟩, hd⟩ := h
    match p with
    | 0 => exact ha
    | 1 => exact hb
    | 2 => exact hc
    | 3 => exact hd
  · intro h
    simp only [allChips, Bool.and_eq_true]
    exact ⟨⟨⟨h 0, h 1⟩, h 2⟩, h 3⟩

/-! ## The five rails go -/

theorem railOf_takeDown {l : List Rail} {y : Tray} {r : Rail} (h : r ∈ l ∨ railOf y r = .down) :
    railOf (l.foldl (fun y r => setRail y r .down) y) r = .down := by
  induction l generalizing y with
  | nil => exact h.resolve_left List.not_mem_nil
  | cons q l ih =>
    refine ih ?_
    by_cases hq : r = q
    · exact .inr (by rw [hq, railOf_setRail_self])
    · exact h.imp (fun hr => (List.mem_cons.1 hr).resolve_left hq) (fun hdown => (railOf_setRail_ne _ _ hq).trans hdown)

@[simp] theorem getChip_removeSpringRails (s : State) (p : Pos) : getChip (removeSpringRails s) p = getChip s p :=
  (getChip_refreshFans _ p).trans (getChip_modTray s _ p)

/-- With no preparation under way the rails go, the clock stops, and the keeper waits no longer (R28). -/
theorem removeSpringRails_idle {s : State} (h : s.tray.prep = false) :
    (removeSpringRails s).pending = s.pending ∧ (removeSpringRails s).tray.winterWait = false ∧
      (removeSpringRails s).tray.refClock = false ∧ (removeSpringRails s).tray.winterFault = s.tray.winterFault ∧
      ∀ r ∈ springRails, railOf (removeSpringRails s).tray r = .down := by
  have htray : removeSpringRails s = refreshFans (modTray s (fun y =>
      { springRails.foldl (fun y r => setRail y r .down) y with refClock := false, winterWait := false, load := .reset })) :=
    congrArg (fun y => refreshFans { s with tray := y }) (if_neg (by rw [Bool.not_eq_true]; exact h))
  rw [htray]
  exact ⟨rfl, rfl, rfl, rfl, fun r hr => railOf_takeDown (.inl hr)⟩

/-! ## A chip's report -/

/-- The report ends what a chip held, and says whether its context is valid (R67, R70). -/
theorem reportWinter_reports (c : Chip) (valid : Bool) :
    (reportWinter c valid).wake.season = .winter ∧ (reportWinter c valid).wake.winterReported = true ∧
      (reportWinter c valid).wake.ctxValid = valid ∧ (reportWinter c valid).wake.hbm = hbmToWinter c.wake.hbm ∧
      (reportWinter c valid).outbox = [] ∧ (reportWinter c valid).inbox = [] ∧
      (reportWinter c valid).occurrences = c.occurrences :=
  ⟨rfl, rfl, rfl, rfl, rfl, rfl, rfl⟩

/-- The report of the last chip on its way to Winter, its replies sent, also ends the keeper's wait. -/
theorem exec_winterReached_last {s : State} {c : Pos} (hwait : s.tray.winterWait = true) (hwinter : ∀ p, (getChip s p).wake.season = .winter)
    (hunreported : (getChip s c).wake.winterReported = false) (hothers : ∀ p, p ≠ c → (getChip s p).wake.winterReported = true)
    (hsent : (getChip s c).wake.answering = false) :
    exec (.winterReached c) s = .next (removeSpringRails (setChip s c
      (reportWinter (getChip s c) ((getChip s c).wake.drained && !wipedHere (getChip s c))))) := by
  have hmay : (awaitsWinter (getChip s c) && !((getChip s c).wake.answering && repliesWait (getChip s c))) = true := by
    simp [awaitsWinter, hwinter c, hunreported, hsent]
  generalize hk : reportWinter (getChip s c) ((getChip s c).wake.drained && !wipedHere (getChip s c)) = k
  have hall : allChips (setChip s c k) (fun c => decide (c.wake.season = .winter) && c.wake.winterReported) = true := by
    refine (allChips_iff _ _).2 fun p => ?_
    by_cases hp : p = c
    · obtain ⟨hseason, hreported, -⟩ := reportWinter_reports (getChip s c) ((getChip s c).wake.drained && !wipedHere (getChip s c))
      rw [hp, getChip_setChip_self, ← hk, hseason, hreported]
      rfl
    · rw [getChip_setChip_ne s c p k hp, hwinter p, hothers p hp]
      rfl
  refine (if_pos hmay).trans ?_
  rw [hk]
  exact if_pos (by rw [setChip_tray, hwait, hall]; rfl)

/-- What the timeout does to a chip: one that has not reported loses its context, and every one records 0x65 (R29). -/
def missedWinter (c : Chip) : Chip :=
  recordFault (if decide (c.wake.season = .winter) && c.wake.winterReported then c else reportWinter c false) 0x65 none

theorem exec_winterReportTimeout {s : State} (h : s.tray.winterWait = true) :
    exec .winterReportTimeout s = .next (removeSpringRails (modTray (mapChips s (fun _ c => missedWinter c))
      (fun y => { y with winterFault := true }))) := if_pos h

/-- A code that is recorded is counted. -/
theorem occurrences_recordFault (c : Chip) (code : Nat) (p : Option PortNo) :
    tabGet 0 (recordFault c code p).occurrences code = tabGet 0 c.occurrences code + 1 := tabGet_tabSet_self _ _ _ _

theorem missedWinter_of_reported {c : Chip} (hwinter : c.wake.season = .winter) (hreported : c.wake.winterReported = true) :
    missedWinter c = recordFault c 0x65 none := by
  simp [missedWinter, hwinter, hreported]

theorem missedWinter_of_unreported {c : Chip} (h : (decide (c.wake.season = .winter) && c.wake.winterReported) = false) :
    missedWinter c = recordFault (reportWinter c false) 0x65 none := by
  simp [missedWinter, h]

/-- Settles O21. -/
theorem winterIsReported : Obligations.WinterIsReported := by
  unfold Obligations.WinterIsReported
  refine ⟨fun s c hwait hprep hwinter hunreported hothers hdrained hsent hwipe hfaults hphase hhbm => ?_, fun s hwait hprep => ?_⟩
  · have hclean : wipedHere (getChip s c) = false := by simp [wipedHere, hwipe, hfaults, hphase]
    have hexec := exec_winterReached_last hwait hwinter hunreported hothers hsent
    rw [hdrained, hclean] at hexec
    obtain ⟨hpending, hwaits, hclock, -, hrails⟩ := removeSpringRails_idle (s := setChip s c (reportWinter (getChip s c) true)) hprep
    obtain ⟨-, hreported, hvalid, hself, hout, hin, -⟩ := reportWinter_reports (getChip s c) true
    refine ⟨_, hexec, hpending, hwaits, hclock, hrails, ?_⟩
    simp only [Bool.not_false, Bool.and_true, getChip_removeSpringRails, getChip_setChip_self]
    refine ⟨hvalid, ?_, hreported, hout, hin, fun p hp => getChip_setChip_ne s c p _ hp⟩
    rw [hself, hhbm]
    rfl
  · obtain ⟨hpending, hwaits, hclock, hfault, hrails⟩ := removeSpringRails_idle
      (s := modTray (mapChips s (fun _ c => missedWinter c)) (fun y => { y with winterFault := true })) hprep
    refine ⟨_, exec_winterReportTimeout hwait, hpending, hwaits, hfault, hclock, hrails, fun p => ?_⟩
    rw [getChip_removeSpringRails, getChip_modTray, getChip_mapChips]
    generalize getChip s p = c
    cases hc : decide (c.wake.season = .winter) && c.wake.winterReported with
    | true =>
      rw [Bool.and_eq_true, decide_eq_true_eq] at hc
      obtain ⟨hwinter, hreported⟩ := hc
      rw [missedWinter_of_reported hwinter hreported]
      exact ⟨occurrences_recordFault c _ _, fun h => absurd (h.symm.trans hreported) Bool.false_ne_true, fun _ _ => rfl⟩
    | false =>
      obtain ⟨-, -, hvalid, -, -, -, hcounted⟩ := reportWinter_reports c false
      rw [missedWinter_of_unreported hc]
      refine ⟨by rw [occurrences_recordFault, hcounted], fun _ => hvalid, fun hwinter hreported => ?_⟩
      simp [hwinter, hreported] at hc

end Sys2Proof.Machine
end

section
/-!
PROOFS. O33 (TamperAndLidWipeTheTray): a wipe source at one chip (Table 21-4) and at all four (R39, R384).
-/
namespace Sys2Proof.Machine

/-! ## Answers leave a wiped chip as it is -/

/-- What sending answers on behalf of tenants leaves alone: everything that a wipe looks at. -/
structure SameBody (k k' : Chip) : Prop where
  wake : k'.wake = k.wake
  faults : k'.faults = k.faults
  clusters : k'.clusters = k.clusters
  lines : k'.lines = k.lines
  hbm : k'.hbm = k.hbm
  vault : k'.vault = k.vault
  fuses : k'.fuses = k.fuses
  wipe : k'.wipe = k.wipe
  image : k'.image = k.image

theorem SameBody.refl (k : Chip) : SameBody k k := ⟨rfl, rfl, rfl, rfl, rfl, rfl, rfl, rfl, rfl⟩

theorem SameBody.trans {a b c : Chip} (h : SameBody a b) (g : SameBody b c) : SameBody a c :=
  ⟨g.wake.trans h.wake, g.faults.trans h.faults, g.clusters.trans h.clusters, g.lines.trans h.lines, g.hbm.trans h.hbm,
    g.vault.trans h.vault, g.fuses.trans h.fuses, g.wipe.trans h.wipe, g.image.trans h.image⟩

theorem sameBody_emit (c : Chip) (f : TxFrame) : SameBody c (emit c f) := ⟨rfl, rfl, rfl, rfl, rfl, rfl, rfl, rfl, rfl⟩

theorem sameBody_modTen (c : Chip) (t : Nat) (f : TenantCtx → TenantCtx) : SameBody c (modTen c t f) :=
  ⟨rfl, rfl, rfl, rfl, rfl, rfl, rfl, rfl, rfl⟩

theorem sameBody_countTen (c : Chip) (t i n : Nat) : SameBody c (countTen c t i n) := by
  unfold countTen
  split
  · exact sameBody_modTen c t _
  · exact .refl c

theorem sameBody_sendFault (c : Chip) (f : RxFrame) (code : Nat) : SameBody c (sendFault c f code) :=
  (sameBody_emit c _).trans (sameBody_countTen _ _ 13 1)

theorem sameBody_forEach {α : Type} {f : Chip → α → Chip} (h : ∀ c x, SameBody c (f c x)) (l : List α) (c : Chip) :
    SameBody c (forEach c l f) :=
  forEach_rel .refl .trans (fun c x _ => h c x) c

/-! ## Dropped frames -/

theorem sameBody_freeDispatched (c : Chip) (f : RxFrame) : SameBody c (freeDispatched c f) := by
  unfold freeDispatched
  dsimp only
  split
  · exact ⟨rfl, rfl, rfl, rfl, rfl, rfl, rfl, rfl, rfl⟩
  · exact .refl c

theorem sameBody_dropQueued (c : Chip) (p : RxFrame → Bool) : SameBody c (dropQueued c p) :=
  SameBody.trans (b := { c with ports := tabMap (fun _ q => dropIngress p q) c.ports, inbox := c.inbox.filter (fun f => !p f) })
    ⟨rfl, rfl, rfl, rfl, rfl, rfl, rfl, rfl, rfl⟩ (sameBody_forEach sameBody_freeDispatched _ _)

/-! ## Tasks that end -/

/-- The next task of a cluster that stays where the tasks `p` end. -/
theorem dropTasks_next (p : Task → Bool) {x : Cluster} {r : RunTask} (h : (dropTasks p x).next = some r) : p r.task = false := by
  cases hnext : x.next with
  | none => simp [dropTasks, hnext] at h
  | some n =>
    cases hp : p n.task with
    | true => simp [dropTasks, hnext, hp] at h
    | false =>
      simp only [dropTasks, hnext, hp, Bool.false_eq_true, if_false, Option.ite_none_left_eq_some, Option.some.injEq] at h
      rw [← h.2]
      exact hp

/-- The task that runs where the tasks `p` have ended: the one that ran, or the next one in the place of one that ended. -/
theorem dropTasks_run (p : Task → Bool) {x : Cluster} {r : RunTask} (h : (dropTasks p x).run = some r) : p r.task = false := by
  cases hrun : x.run with
  | none => simp [dropTasks, hrun] at h
  | some a =>
    cases hp : p a.task with
    | false =>
      simp only [dropTasks, hrun, hp, Bool.false_eq_true, if_false] at h
      rw [← Option.some.inj h]
      exact hp
    | true =>
      cases hnext : x.next with
      | none => simp [dropTasks, hrun, hp, hnext] at h
      | some n =>
        cases hq : p n.task with
        | true => simp [dropTasks, hrun, hp, hnext, hq] at h
        | false =>
          simp only [dropTasks, hrun, hp, hnext, hq, if_true, Bool.false_eq_true, if_false, Option.map_some, Option.some.injEq] at h
          rw [← h]
          exact hq

theorem dropTasks_queue (p : Task → Bool) (x : Cluster) : ∀ v ∈ (dropTasks p x).queue, p v = false := fun v hv => by
  simpa using (List.mem_filter.1 hv).2

/-- Where every task ends, a cluster holds none. -/
theorem dropTasks_all (x : Cluster) :
    (dropTasks (fun _ => true) x).queue = [] ∧ (dropTasks (fun _ => true) x).run = none ∧ (dropTasks (fun _ => true) x).next = none :=
  ⟨List.eq_nil_iff_forall_not_mem.2 fun v hv => Bool.false_ne_true (dropTasks_queue _ x v hv).symm,
    Option.eq_none_iff_forall_ne_some.2 fun _ hr => Bool.false_ne_true (dropTasks_run (fun _ => true) hr).symm,
    Option.eq_none_iff_forall_ne_some.2 fun _ hr => Bool.false_ne_true (dropTasks_next (fun _ => true) hr).symm⟩

/-! ## A wipe at one chip -/

/-- The chip as a wipe leaves its vault, memory, tasks, caches and tenants, before its queued frames are dropped and its held PULLs answered. -/
def wipedBody (c : Chip) (code : Nat) : Chip :=
  let a := emptyCaches (endTasks { c with
    vault := { c.vault with keys := [], hbmRefused := true }, hbm := [], candidate := none,
    wipe := some { codes := [code], inWinter := decide (c.wake.season = .winter), retentionOpen := decide (c.wake.season = .winter) } }
    (fun _ => true))
  { a with tenants := tabMap (fun _ x => { dropWork x with resetPhase := .none }) a.tenants }

/-- After that only the wake record changes, and not its season: frames are dropped and PULLs answered (Table 21-4). -/
theorem beginWipe_keeps (c : Chip) (code : Nat) :
    SameBody { wipedBody c code with wake := (beginWipe c code).wake } (beginWipe c code) ∧
      (beginWipe c code).wake.season = c.wake.season := by
  obtain ⟨d, f, hdropped, hseason, hanswered⟩ : ∃ d f, SameBody (wipedBody c code) d ∧ (∀ w : Wake, (f w).season = w.season) ∧
      SameBody (modWake d f) (beginWipe c code) := by
    refine ⟨_, _, ?_, ?_, sameBody_forEach (fun c f => sameBody_sendFault c f code) _ _⟩
    · exact sameBody_dropQueued (wipedBody c code) _
    · exact fun _ => rfl
  refine ⟨⟨rfl, hanswered.faults.trans hdropped.faults, hanswered.clusters.trans hdropped.clusters, hanswered.lines.trans hdropped.lines,
    hanswered.hbm.trans hdropped.hbm, hanswered.vault.trans hdropped.vault, hanswered.fuses.trans hdropped.fuses,
    hanswered.wipe.trans hdropped.wipe, hanswered.image.trans hdropped.image⟩, ?_⟩
  rw [hanswered.wake, modWake_wake, hseason, hdropped.wake]
  rfl

/-- On a chip with power a source begins a wipe, or adds its code to the one under way (R384, R387). -/
theorem wipeReaches_startWipe (code : Nat) {c : Chip} (hpower : c.wake.season ≠ .off) : WipeReaches code c (startWipe c code) := by
  unfold startWipe
  rw [if_neg hpower]
  refine ⟨fun hnone => ?_, fun w hw => ?_⟩
  · obtain ⟨hbody, hseason⟩ := beginWipe_keeps c code
    rw [hnone]
    refine ⟨congrArg _ hbody.wipe, congrArg Vault.keys hbody.vault, congrArg Vault.hbmRefused hbody.vault, hbody.hbm, hbody.lines, ?_,
      hseason, hbody.fuses, hbody.faults⟩
    intro q x hx
    have hx' : tabFind (tabMap (fun _ k => { k with l1 := [] }) (tabMap (fun _ k => dropTasks (fun _ => true) k) c.clusters)) q = some x :=
      (congrArg (fun l => tabFind l q) hbody.clusters).symm.trans hx
    rw [tabFind_tabMap, tabFind_tabMap, Option.map_map, Option.map_eq_some_iff] at hx'
    obtain ⟨y, -, rfl⟩ := hx'
    obtain ⟨hqueue, hrun, hnext⟩ := dropTasks_all y
    exact ⟨hqueue, hrun, hnext, rfl⟩
  · rw [hw]

/-- A chip without power is not reached. -/
theorem startWipe_off {c : Chip} (h : c.wake.season = .off) (code : Nat) : startWipe c code = c := if_pos h

/-! ## A wipe of the tray -/

theorem getChip_wipeChip_self (s : State) (p : Pos) (code : Nat) : getChip (wipeChip s p code) p = startWipe (getChip s p) code := by
  unfold wipeChip
  dsimp only
  split <;> simp

theorem getChip_wipeChip_ne (s : State) {p q : Pos} (h : q ≠ p) (code : Nat) : getChip (wipeChip s p code) q = getChip s q := by
  unfold wipeChip
  dsimp only
  split <;> simp [getChip_modChip_ne, h]

/-- A wipe writes the fans' duty and the image load of the keeper, not its pins, lid or flash. -/
theorem wipeChip_keeps (s : State) (p : Pos) (code : Nat) :
    (wipeChip s p code).pending = s.pending ∧ (wipeChip s p code).tray.tamperLow = s.tray.tamperLow ∧
      (wipeChip s p code).tray.lidOpen = s.tray.lidOpen ∧ (wipeChip s p code).tray.flash = s.tray.flash := by
  unfold wipeChip
  dsimp only
  split <;> exact ⟨rfl, rfl, rfl, rfl⟩

theorem wipeAll_eq (s : State) (code : Nat) :
    wipeAll s code = wipeChip (wipeChip (wipeChip (wipeChip s 0 code) 1 code) 2 code) 3 code := rfl

theorem getChip_wipeAll (s : State) (code : Nat) (p : Pos) : getChip (wipeAll s code) p = startWipe (getChip s p) code := by
  rw [wipeAll_eq]
  match p with
  | 0 => rw [getChip_wipeChip_ne _ (by decide), getChip_wipeChip_ne _ (by decide), getChip_wipeChip_ne _ (by decide), getChip_wipeChip_self]
  | 1 => rw [getChip_wipeChip_ne _ (by decide), getChip_wipeChip_ne _ (by decide), getChip_wipeChip_self, getChip_wipeChip_ne _ (by decide)]
  | 2 => rw [getChip_wipeChip_ne _ (by decide), getChip_wipeChip_self, getChip_wipeChip_ne _ (by decide), getChip_wipeChip_ne _ (by decide)]
  | 3 => rw [getChip_wipeChip_self, getChip_wipeChip_ne _ (by decide), getChip_wipeChip_ne _ (by decide), getChip_wipeChip_ne _ (by decide)]

theorem wipeAll_keeps (s : State) (code : Nat) :
    (wipeAll s code).pending = s.pending ∧ (wipeAll s code).tray.tamperLow = s.tray.tamperLow ∧
      (wipeAll s code).tray.lidOpen = s.tray.lidOpen ∧ (wipeAll s code).tray.flash = s.tray.flash := by
  rw [wipeAll_eq]
  simp only [wipeChip_keeps, and_self]

/-- A wipe of the tray reaches every chip with power and leaves the others as they are. -/
theorem wipeAll_reaches (s : State) (code : Nat) (p : Pos) :
    ((getChip s p).wake.season ≠ .off → WipeReaches code (getChip s p) (getChip (wipeAll s code) p)) ∧
      ((getChip s p).wake.season = .off → getChip (wipeAll s code) p = getChip s p) := by
  rw [getChip_wipeAll]
  exact ⟨wipeReaches_startWipe code, fun h => startWipe_off h code⟩

/-! ## O33 -/

/-- Settles O33. -/
theorem tamperAndLidWipeTheTray : Obligations.TamperAndLidWipeTheTray := by
  unfold Obligations.TamperAndLidWipeTheTray
  refine ⟨fun s hhigh => ?_, fun s hlow => if_pos hlow, fun s hup hclosed => ?_, fun s hdown => if_neg (by simp [hdown]), fun _ => rfl,
    fun _ => rfl⟩
  · obtain ⟨hpending, hpin, -, hflash⟩ := wipeAll_keeps (modTray s (fun y => { y with tamperLow := true })) 0x70
    refine ⟨_, if_neg (by simp [hhigh]), hpending, hpin, hflash, fun p => ?_⟩
    rw [← getChip_modTray s (fun y => { y with tamperLow := true }) p]
    exact wipeAll_reaches _ 0x70 p
  · obtain ⟨hpending, -, hlid, hflash⟩ := wipeAll_keeps (modTray s (fun y => { y with lidOpen := true })) 0x71
    refine ⟨_, if_pos (by simp [hup, hclosed]), hpending, hlid, hflash, fun p => ?_⟩
    rw [← getChip_modTray s (fun y => { y with lidOpen := true }) p]
    exact wipeAll_reaches _ 0x71 p

end Sys2Proof.Machine
end

section
/-!
PROOFS. O30 (TenantResetBeginsOnAllChips): TENRST_n at one chip, by the season it stands in (R71, R133, Table 7-3 steps 2 to 4).
-/
namespace Sys2Proof.Machine

/-! ## Answers leave a tenant's record but its counters -/

/-- Answers change a chip's outbox and its tenants' counters. -/
structure Answered (k k' : Chip) : Prop where
  body : SameBody k k'
  tenants : ∀ n, ∃ l, ten k' n = { ten k n with counters := l }

theorem Answered.refl (k : Chip) : Answered k k := ⟨.refl k, fun n => ⟨(ten k n).counters, rfl⟩⟩

theorem Answered.trans {a b c : Chip} (h : Answered a b) (g : Answered b c) : Answered a c := by
  refine ⟨h.body.trans g.body, fun n => ?_⟩
  obtain ⟨l, hl⟩ := h.tenants n
  obtain ⟨m, hm⟩ := g.tenants n
  exact ⟨m, by rw [hm, hl]⟩

theorem answered_emit (c : Chip) (f : TxFrame) : Answered c (emit c f) := ⟨sameBody_emit c f, fun n => ⟨(ten c n).counters, rfl⟩⟩

theorem answered_countTen (c : Chip) (t i n : Nat) : Answered c (countTen c t i n) := by
  refine ⟨sameBody_countTen c t i n, fun m => ?_⟩
  unfold countTen
  split
  · by_cases hm : m = t
    · rw [hm, ten_modTen_self]
      exact ⟨_, rfl⟩
    · rw [ten_modTen_ne _ _ _ _ hm]
      exact ⟨_, rfl⟩
  · exact ⟨_, rfl⟩

theorem answered_sendDone (c : Chip) (f : RxFrame) (d : DoneInfo) : Answered c (sendDone c f d) := by
  unfold sendDone
  dsimp only
  split
  · exact answered_emit c _
  · exact (answered_emit c _).trans (answered_countTen _ _ _ 1)

theorem tenantFrame_sendDone (c : Chip) (f : RxFrame) (d : DoneInfo) : TenantFrame (rxHead f).tenant c (sendDone c f d) := by
  unfold sendDone
  dsimp only
  split
  · exact tenantFrame_emit c _ _
  · exact tenantFrame_trans (tenantFrame_emit c _ _) (quiet_countTen _ _ _ 1).frame

theorem answered_sendTenantDown (c : Chip) (t : Nat) : Answered c (sendTenantDown c t) :=
  forEach_rel .refl .trans (fun c _ _ => answered_emit c _) c

theorem tenantFrame_sendTenantDown (c : Chip) (t u : Nat) : TenantFrame u c (sendTenantDown c t) :=
  forEach_rel (tenantFrame_refl u) tenantFrame_trans (fun c _ _ => tenantFrame_emit c u _) c

/-! ## Queued frames -/

theorem queuedFrames_named {c : Chip} {p : RxFrame → Bool} {f : RxFrame} (h : f ∈ queuedFrames c p) : p f = true := by
  obtain h | h := List.mem_append.1 h
  · obtain ⟨q, -, hq⟩ := List.mem_flatMap.1 h
    exact (List.mem_filter.1 hq).2
  · exact (List.mem_filter.1 h).2

theorem tenant_of_queuedHere {c : Chip} {t : Nat} {f : RxFrame} (h : queuedHere c t f = true) : (rxHead f).tenant = t :=
  of_decide_eq_true (Bool.and_eq_true_iff.1 h).1

theorem freeDispatched_tenants (c : Chip) (f : RxFrame) : (freeDispatched c f).tenants = c.tenants := by
  unfold freeDispatched
  dsimp only
  split <;> rfl

theorem dropQueued_tenants (c : Chip) (p : RxFrame → Bool) : (dropQueued c p).tenants = c.tenants :=
  forEach_rel (R := fun a b => b.tenants = a.tenants) (fun _ => rfl) (fun h g => g.trans h) (fun c f _ => freeDispatched_tenants c f) _

theorem sameBody_dropTenantFrames (c : Chip) (t : Nat) : SameBody c (dropTenantFrames c t) :=
  (sameBody_dropQueued c _).trans (sameBody_countTen _ t 32 _)

theorem ten_dropTenantFrames_ne (c : Chip) {t n : Nat} (h : n ≠ t) : ten (dropTenantFrames c t) n = ten c n := by
  obtain ⟨-, -, -, -, -, hothers⟩ := (quiet_countTen (dropQueued c (queuedHere c t)) t 32
    ((queuedFrames c (queuedHere c t)).filter isChipFrame).length).frame
  exact (hothers n h).trans (by rw [ten, ten, dropQueued_tenants])

/-! ## What the steps of a reset leave alone -/

@[simp] theorem endTasks_wake (c : Chip) (p : Task → Bool) : (endTasks c p).wake = c.wake := rfl
@[simp] theorem endTasks_vault (c : Chip) (p : Task → Bool) : (endTasks c p).vault = c.vault := rfl
@[simp] theorem ten_endTasks (c : Chip) (p : Task → Bool) (n : Nat) : ten (endTasks c p) n = ten c n := rfl

theorem tabFind_endTasks {c : Chip} {p : Task → Bool} {k : ClusterNo} {x : Cluster} (h : tabFind (endTasks c p).clusters k = some x) :
    ∃ y, x = dropTasks p y := by
  obtain ⟨y, -, rfl⟩ := Option.map_eq_some_iff.1 ((tabFind_tabMap _ _ k).symm.trans h)
  exact ⟨y, rfl⟩

@[simp] theorem discardOn_wake (c : Chip) (t : Nat) : (discardOn c t).wake = c.wake := rfl
@[simp] theorem discardOn_vault (c : Chip) (t : Nat) : (discardOn c t).vault = c.vault := rfl
@[simp] theorem discardOn_clusters (c : Chip) (t : Nat) : (discardOn c t).clusters = c.clusters := rfl

theorem ten_discardOn_ne (c : Chip) {t n : Nat} (h : n ≠ t) : ten (discardOn c t) n = ten c n := ten_modTen_ne _ t n _ h

@[simp] theorem dropTenantLines_wake (c : Chip) (t : Nat) : (dropTenantLines c t).wake = c.wake := rfl
@[simp] theorem dropTenantLines_vault (c : Chip) (t : Nat) : (dropTenantLines c t).vault = c.vault := rfl
@[simp] theorem ten_dropTenantLines (c : Chip) (t n : Nat) : ten (dropTenantLines c t) n = ten c n := rfl

theorem lines_dropTenantLines (c : Chip) (t : Nat) : ∀ l ∈ (dropTenantLines c t).lines, l.2.tenant ≠ t := fun l hl => by
  simpa using (List.mem_filter.1 hl).2

/-- Dropping cache lines ends no task. -/
theorem tabFind_dropTenantLines {c : Chip} {t : Nat} {k : ClusterNo} {x : Cluster} (h : tabFind (dropTenantLines c t).clusters k = some x) :
    ∃ y, tabFind c.clusters k = some y ∧ x.queue = y.queue ∧ x.run = y.run ∧ x.next = y.next := by
  obtain ⟨y, hy, rfl⟩ := Option.map_eq_some_iff.1 ((tabFind_tabMap _ _ k).symm.trans h)
  exact ⟨y, hy, rfl, rfl, rfl⟩

/-! ## Steps 2 to 4 of Table 7-3 -/

/-- The record of a tenant as its reset begins: no PULL held, resetting, erasing. -/
def resetTenant (x : TenantCtx) : TenantCtx := { x with heldPulls := [], state := .resetting, resetPhase := .erasing }

/-- The chip with t's tasks and queued frames gone. -/
def resetTasks (c : Chip) (t : Nat) : Chip := dropTenantFrames (endTasks c (fun k => decide (k.tenant = t))) t

/-- The chip with t's pending state, held PULLs and cache lines gone too, before its answers are sent. -/
def resetBody (c : Chip) (t : Nat) : Chip := dropTenantLines (modTen (discardOn (resetTasks c t) t) t resetTenant) t

/-- The requests that a reset of t answers: its queued host requests and its held PULLs. -/
def resetAnswers (c : Chip) (t : Nat) : List RxFrame :=
  (queuedFrames c (queuedHere c t)).filter (fun f => isHostRequest (rxHead f).type) ++ (ten c t).heldPulls

theorem resetNow_eq (c : Chip) (t : Nat) : resetNow c t =
    sendTenantDown (forEach (resetBody c t) (resetAnswers c t) (fun c f => sendDone c f (doneInfo stTenantReset 0))) t := rfl

theorem answered_resetNow (c : Chip) (t : Nat) : Answered (resetBody c t) (resetNow c t) :=
  (forEach_rel .refl .trans (fun c f _ => answered_sendDone c f _) _).trans (answered_sendTenantDown _ t)

/-- Where the held PULLs are t's own, every answer is t's. -/
theorem tenantFrame_resetNow {c : Chip} {t : Nat} (h : ∀ f ∈ (ten c t).heldPulls, (rxHead f).tenant = t) :
    TenantFrame t (resetBody c t) (resetNow c t) := by
  refine tenantFrame_trans (forEach_rel (tenantFrame_refl t) tenantFrame_trans (fun c' f hf => ?_) _) (tenantFrame_sendTenantDown _ t t)
  have htenant : (rxHead f).tenant = t := by
    obtain hf | hf := List.mem_append.1 hf
    · exact tenant_of_queuedHere (queuedFrames_named (List.mem_filter.1 hf).1)
    · exact h f hf
  exact htenant ▸ tenantFrame_sendDone c' f _

theorem resetBody_wake (c : Chip) (t : Nat) : (resetBody c t).wake = c.wake := by
  simp [resetBody, resetTasks, (sameBody_dropTenantFrames _ t).wake]

theorem resetBody_vault (c : Chip) (t : Nat) : (resetBody c t).vault = c.vault := by
  simp [resetBody, resetTasks, (sameBody_dropTenantFrames _ t).vault]

theorem ten_resetBody_ne (c : Chip) {t n : Nat} (h : n ≠ t) : ten (resetBody c t) n = ten c n := by
  rw [resetBody, ten_dropTenantLines, ten_modTen_ne _ _ _ _ h, ten_discardOn_ne _ h, resetTasks, ten_dropTenantFrames_ne _ h, ten_endTasks]

theorem ten_resetBody_self (c : Chip) (t : Nat) : ten (resetBody c t) t = resetTenant (ten (discardOn (resetTasks c t) t) t) := by
  rw [resetBody, ten_dropTenantLines, ten_modTen_self]

/-- No cluster holds a task of t. -/
theorem resetBody_clusters (c : Chip) (t : Nat) {k : ClusterNo} {x : Cluster} (h : tabFind (resetBody c t).clusters k = some x) :
    (∀ v ∈ x.queue, v.tenant ≠ t) ∧ (∀ r, x.run = some r → r.task.tenant ≠ t) ∧ ∀ r, x.next = some r → r.task.tenant ≠ t := by
  obtain ⟨y, hy, hqueue, hrun, hnext⟩ := tabFind_dropTenantLines h
  rw [modTen_clusters, discardOn_clusters, resetTasks, (sameBody_dropTenantFrames _ t).clusters] at hy
  obtain ⟨z, rfl⟩ := tabFind_endTasks hy
  rw [hqueue, hrun, hnext]
  exact ⟨fun v hv => of_decide_eq_false (dropTasks_queue _ z v hv),
    fun r hr => of_decide_eq_false (dropTasks_run (fun k => decide (k.tenant = t)) hr),
    fun r hr => of_decide_eq_false (dropTasks_next (fun k => decide (k.tenant = t)) hr)⟩

/-! ## A pin at one chip -/

@[simp] theorem drawKey_wake (c : Chip) (t : Nat) : (drawKey c t).wake = c.wake := rfl
@[simp] theorem ten_drawKey (c : Chip) (t n : Nat) : ten (drawKey c t) n = ten c n := rfl

@[simp] theorem winterReset_wake (c : Chip) (t : Nat) : (winterReset c t).wake = c.wake := rfl

theorem ten_winterReset_self (c : Chip) (t : Nat) :
    ten (winterReset c t) t = { ten c t with winterMark := true, downDue := true, resetPhase := .none } := by
  rw [winterReset, ten_modTen_self, ten_drawKey]

theorem ten_winterReset_ne (c : Chip) {t n : Nat} (h : n ≠ t) : ten (winterReset c t) n = ten c n := by
  rw [winterReset, ten_modTen_ne _ _ _ _ h, ten_drawKey]

/-- In an unfinished Spring the reset is only noted: the erasing waits for the load. -/
def noteReset (x : TenantCtx) : TenantCtx := { x with resetPhase := .erasing, state := .resetting, downDue := true }

/-- What the pin does at a chip: nothing, a reset in Winter, a reset at once, or a reset noted for the load. -/
theorem pinReset_cases (c : Chip) (t : Nat) :
    pinReset c t = c ∨
      tenantExists c t = true ∧
        (c.wake.season = .winter ∧ pinReset c t = winterReset c t ∨
          coreUp c = true ∧ c.wake.phase = .done ∧ pinReset c t = resetNow c t ∨
          coreUp c = true ∧ c.wake.phase ≠ .done ∧ pinReset c t = modTen c t noteReset) := by
  unfold pinReset
  split
  case isTrue hwinter =>
    split
    case isTrue hmay => exact .inr ⟨(Bool.and_eq_true_iff.1 hmay).1, .inl ⟨hwinter, rfl⟩⟩
    case isFalse => exact .inl rfl
  case isFalse hnot =>
    unfold resetChip
    split
    · exact .inl rfl
    case isFalse hruns =>
      simp only [Bool.or_eq_true, not_or, Bool.not_eq_true', Bool.not_eq_false] at hruns
      obtain ⟨⟨⟨⟨hexists, hup⟩, -⟩, -⟩, -⟩ := hruns
      split
      case isTrue hdone => exact .inr ⟨hexists, .inr (.inl ⟨hup, hdone, rfl⟩)⟩
      case isFalse hdone => exact .inr ⟨hexists, .inr (.inr ⟨hup, hdone, rfl⟩)⟩

theorem pinReset_winter {c : Chip} {t : Nat} (hexists : tenantExists c t = true) (hwinter : c.wake.season = .winter) (hwipe : c.wipe = none) :
    pinReset c t = winterReset c t := by
  simp [pinReset, hexists, hwinter, hwipe]

/-- On a chip that runs, holds no wipe code and is not resetting t already. -/
theorem pinReset_running {c : Chip} {t : Nat} (hexists : tenantExists c t = true) (hruns : coreRuns c = true) (hwipe : wipeCode c = none)
    (hphase : (ten c t).resetPhase = .none) :
    pinReset c t = if c.wake.phase = .done then resetNow c t else modTen c t noteReset := by
  rw [coreRuns, Bool.and_eq_true, Bool.not_eq_true'] at hruns
  obtain ⟨hup, hstopped⟩ := hruns
  have hnot : c.wake.season ≠ .winter := fun h => by simp [coreUp, h] at hup
  rw [pinReset, if_neg hnot, resetChip, if_neg (by simp [hexists, hup, hstopped, hwipe, hphase])]
  rfl

theorem pinReset_wake (c : Chip) (t : Nat) : (pinReset c t).wake = c.wake := by
  obtain h | ⟨-, ⟨-, h⟩ | ⟨-, -, h⟩ | ⟨-, -, h⟩⟩ := pinReset_cases c t
  · rw [h]
  · rw [h, winterReset_wake]
  · rw [h, (answered_resetNow c t).body.wake, resetBody_wake]
  · rw [h, modTen_wake]

theorem ten_pinReset_ne {c : Chip} {t n : Nat} (hpulls : ∀ f ∈ (ten c t).heldPulls, (rxHead f).tenant = t) (hn : n ≠ t) :
    ten (pinReset c t) n = ten c n := by
  obtain h | ⟨-, ⟨-, h⟩ | ⟨-, -, h⟩ | ⟨-, -, h⟩⟩ := pinReset_cases c t
  · rw [h]
  · rw [h, ten_winterReset_ne c hn]
  · obtain ⟨-, -, -, -, -, hothers⟩ := tenantFrame_resetNow hpulls
    rw [h, hothers n hn, ten_resetBody_ne c hn]
  · rw [h, ten_modTen_ne _ _ _ _ hn]

theorem pinReset_absent {c : Chip} {t : Nat} (habsent : tenantExists c t = false) : pinReset c t = c :=
  (pinReset_cases c t).resolve_right fun h => Bool.false_ne_true (habsent.symm.trans h.1)

/-- A reset at once leaves t resetting and erasing, with no PULL held, line or task of its own, and the vault as it was. -/
theorem resetNow_resets (c : Chip) (t : Nat) :
    (ten (resetNow c t) t).state = .resetting ∧ (ten (resetNow c t) t).resetPhase = .erasing ∧ (resetNow c t).vault = c.vault ∧
      (ten (resetNow c t) t).heldPulls = [] ∧ (∀ l ∈ (resetNow c t).lines, l.2.tenant ≠ t) ∧
      ∀ k x, tabFind (resetNow c t).clusters k = some x → (∀ v ∈ x.queue, v.tenant ≠ t) ∧
        (∀ r, x.run = some r → r.task.tenant ≠ t) ∧ ∀ r, x.next = some r → r.task.tenant ≠ t := by
  have hanswered := answered_resetNow c t
  obtain ⟨l, htenant⟩ := hanswered.tenants t
  rw [ten_resetBody_self] at htenant
  rw [htenant, hanswered.body.vault, resetBody_vault, hanswered.body.lines, hanswered.body.clusters]
  exact ⟨rfl, rfl, rfl, rfl, lines_dropTenantLines _ t, fun k x => resetBody_clusters c t⟩

/-! ## O30 -/

/-- A pin that is high goes low, and every chip answers it. -/
theorem exec_tenrstAssert_high {s : State} {t : Tenant} (h : s.tray.tenrstLow.getLsbD t.val = false) :
    exec (.tenrstAssert t) s =
      .next (mapChips (modTray s (fun y => { y with tenrstLow := y.tenrstLow ||| pinBit t })) (fun _ c => pinReset c t.val)) :=
  congrArg Host.Outcome.next (if_neg fun hlow => Bool.false_ne_true (h.symm.trans hlow))

theorem exec_tenrstAssert_low {s : State} {t : Tenant} (h : s.tray.tenrstLow.getLsbD t.val = true) : exec (.tenrstAssert t) s = .next s :=
  congrArg Host.Outcome.next (if_pos h)

/-- Settles O30. Each chip answers the pin by pinReset; on one that runs, the reset is at once when Spring is done and noted before. -/
theorem tenantResetBeginsOnAllChips : Obligations.TenantResetBeginsOnAllChips := by
  unfold Obligations.TenantResetBeginsOnAllChips
  refine ⟨fun s t hhigh => ?_, fun s t hlow => exec_tenrstAssert_low hlow, fun _ _ => rfl⟩
  refine ⟨_, exec_tenrstAssert_high hhigh, rfl, rfl, fun p => ?_⟩
  rw [getChip_mapChips, getChip_modTray]
  generalize getChip s p = c
  refine ⟨pinReset_wake c t, fun hpulls n hn => ten_pinReset_ne hpulls hn, pinReset_absent, fun hexists hruns hwipe hphase => ?_,
    fun hexists hwinter hwipe => ?_⟩
  · rw [pinReset_running hexists hruns hwipe hphase]
    split
    case isTrue hdone =>
      obtain ⟨hstate, herasing, hvault, hpulls, hlines, hclusters⟩ := resetNow_resets c t
      exact ⟨hstate, herasing, hvault, fun _ => ⟨hpulls, hlines, hclusters⟩, fun hnot => absurd hdone hnot⟩
    case isFalse hnot =>
      rw [ten_modTen_self]
      exact ⟨rfl, rfl, rfl, fun hdone => absurd hdone hnot, fun _ => rfl⟩
  · rw [pinReset_winter hexists hwinter hwipe, ten_winterReset_self]
    exact ⟨rfl, rfl⟩

end Sys2Proof.Machine
end

section
/-!
PROOFS. Rules about a code that fails Spring (R55): what its breakpoints leave alone (R402), what is held of it, and every port down.
-/
namespace Sys2Proof.Machine

/-! ## Breakpoints of a code -/

/-- Halts and the hits of breakpoints: a chip that differs in its clusters and its debug state. -/
def SameButHalts (k k' : Chip) : Prop := ∃ l d, k' = { k with clusters := l, dbg := d }

theorem SameButHalts.refl (k : Chip) : SameButHalts k k := ⟨k.clusters, k.dbg, rfl⟩

theorem SameButHalts.trans {a b c : Chip} (h : SameButHalts a b) (g : SameButHalts b c) : SameButHalts a c := by
  obtain ⟨l, d, rfl⟩ := h
  obtain ⟨m, e, rfl⟩ := g
  exact ⟨m, e, rfl⟩

theorem sameButHalts_noteHit (c : Chip) (slot : Nat) (k : ClusterNo) : SameButHalts c (noteHit c slot k) := ⟨c.clusters, _, rfl⟩

theorem sameButHalts_haltCluster (c : Chip) (k : ClusterNo) : SameButHalts c (haltCluster c k) := ⟨_, c.dbg, rfl⟩

theorem sameButHalts_haltAll (c : Chip) : SameButHalts c (haltAll c) := forEach_rel .refl .trans (fun c k _ => sameButHalts_haltCluster c k) c

/-- A code at chip or tray level that hits breakpoint slots halts every cluster for each. -/
theorem sameButHalts_hitFault (c : Chip) (code : Nat) : SameButHalts c (hitFault c code none) := by
  unfold hitFault
  split
  · exact forEach_rel .refl .trans (fun c i _ => (sameButHalts_noteHit c i _).trans (sameButHalts_haltAll _)) c
  · exact .refl c

/-! ## Spring fails on a chip (R55) -/

/-- Besides halts and hits, the code is recorded and Spring has failed. -/
theorem springFault_eq (c : Chip) (code : Nat) :
    ∃ l d, springFault c code = { failSpring (recordFault c code none) with clusters := l, dbg := d } := sameButHalts_hitFault _ code

theorem springFault_wake (c : Chip) (code : Nat) : (springFault c code).wake = { c.wake with phase := .failed, entered := false } := by
  obtain ⟨l, d, h⟩ := springFault_eq c code
  rw [h]
  rfl

theorem springFault_faults (c : Chip) (code : Nat) : (springFault c code).faults = (recordFault c code none).faults := by
  obtain ⟨l, d, h⟩ := springFault_eq c code
  rw [h]
  rfl

/-- A failed Spring leaves the image in force, the tenants, the vault and HBM as they are. -/
theorem springFault_keeps (c : Chip) (code : Nat) :
    (springFault c code).image = c.image ∧ (springFault c code).tenants = c.tenants ∧ (springFault c code).vault = c.vault ∧
      (springFault c code).hbm = c.hbm := by
  obtain ⟨l, d, h⟩ := springFault_eq c code
  rw [h]
  exact ⟨rfl, rfl, rfl, rfl⟩

/-! ## What a chip holds (R372) -/

/-- While the list is not full an entry replaces one of its own code and port, or joins the list. -/
theorem listFault_cases {l : List FaultRec} {f : FaultRec} (h : l.length < 16) :
    listFault l f = l ++ [f] ∨
      (∃ x ∈ l, x.code = f.code ∧ x.port = f.port) ∧
        listFault l f = l.map (fun x => if x.code = f.code && x.port = f.port then f else x) := by
  unfold listFault
  split
  case isTrue hlisted => exact .inr ⟨by simpa using hlisted, rfl⟩
  case isFalse => exact .inl rfl

theorem length_listFault_le {l : List FaultRec} {f : FaultRec} (h : l.length < 16) : (listFault l f).length ≤ l.length + 1 := by
  obtain hadded | ⟨-, hreplaced⟩ := listFault_cases (f := f) h
  · exact Nat.le_of_eq (by rw [hadded, List.length_append, List.length_singleton])
  · rw [hreplaced, List.length_map]
    exact Nat.le_succ _

theorem holdsFault_iff (c : Chip) (code : Nat) : holdsFault c code = true ↔ ∃ f ∈ c.faults, f.code = code ∧ f.reportedOnly = false := by
  simp [holdsFault]

theorem mem_listFault_self {l : List FaultRec} {f : FaultRec} (h : l.length < 16) : f ∈ listFault l f := by
  obtain hadded | ⟨⟨x, hx, hcode, hport⟩, hreplaced⟩ := listFault_cases (f := f) h
  · rw [hadded]
    exact List.mem_append_right _ (List.mem_singleton_self f)
  · rw [hreplaced]
    exact List.mem_map.2 ⟨x, hx, if_pos (by simp [hcode, hport])⟩

/-- What was listed stays, or the new entry stands for it. -/
theorem mem_listFault_of_mem {l : List FaultRec} {f x : FaultRec} (h : l.length < 16) (hx : x ∈ l) :
    x ∈ listFault l f ∨ x.code = f.code := by
  obtain hadded | ⟨-, hreplaced⟩ := listFault_cases (f := f) h
  · rw [hadded]
    exact .inl (List.mem_append_left _ hx)
  · rw [hreplaced]
    by_cases hcode : x.code = f.code
    · exact .inr hcode
    · exact .inl (List.mem_map.2 ⟨x, hx, if_neg (by simp [hcode])⟩)

theorem holdsFault_springFault_self {c : Chip} (h : c.faults.length < 16) (code : Nat) : holdsFault (springFault c code) code = true := by
  rw [holdsFault_iff, springFault_faults]
  exact ⟨_, mem_listFault_self h, rfl, rfl⟩

/-- A code that is held stays held as another, or the same, is recorded. -/
theorem holdsFault_springFault_of_holds {c : Chip} (h : c.faults.length < 16) {code : Nat} (hheld : holdsFault c code = true) (n : Nat) :
    holdsFault (springFault c n) code = true := by
  obtain ⟨x, hx, hcode, hreal⟩ := (holdsFault_iff c code).1 hheld
  rcases mem_listFault_of_mem (f := { code := n, level := faultLevel n, port := none, reportedOnly := false }) h hx with hstays | hsame
  · rw [holdsFault_iff, springFault_faults]
    exact ⟨x, hstays, hcode, hreal⟩
  · rw [← hcode, hsame]
    exact holdsFault_springFault_self h n

theorem length_springFault_le {c : Chip} (h : c.faults.length < 16) (code : Nat) :
    (springFault c code).faults.length ≤ c.faults.length + 1 := by
  rw [springFault_faults]
  exact length_listFault_le h

/-! ## Every port down -/

theorem portOf_allPortsOff_step (c : Chip) (p : PortNo) : (portOf (allPortsOff c) p).step = .down := by
  have hport : portOf (allPortsOff c) p = ((tabFind c.ports p).map portOff).getD .reset := by
    rw [portOf, tabGet_eq_find]
    exact congrArg (Option.getD · Port.reset) (tabFind_tabMap (fun _ x => portOff x) c.ports p)
  rw [hport]
  cases tabFind c.ports p <;> rfl

end Sys2Proof.Machine
end

section
/-!
PROOFS. O19 (StrapsAreLatchedAndChecked) and O20 (ResenseObservesOnly): the straps that a chip latches and checks as Spring is prepared
(R53, R55, R63), and the ones that it observes later (R54).
-/
namespace Sys2Proof.Machine

/-! ## The codes of the strap checks -/

/-- A stable CHIPPOS that is not the chip's place (R63). -/
def misplacedStrap (set : StrapSet) (pos : Pos) : Bool := set.chippos.any (fun v => decide (v.toNat ≠ pos.val))

/-- A code, where it is raised. -/
def codeIf (raised : Bool) (code : Nat) : List Nat := if raised then [code] else []

theorem length_codeIf_le (raised : Bool) (code : Nat) : (codeIf raised code).length ≤ 1 := by
  cases raised <;> simp [codeIf]

/-- The codes that the checks of one chip raise, in their order. -/
def strapCodes (set : StrapSet) (pos : Pos) (unstable : Bool) : List Nat :=
  codeIf (reservedStrap set) 0x50 ++ codeIf unstable 0x51 ++ codeIf (misplacedStrap set pos) 0x52

theorem reserved_mem_strapCodes {set : StrapSet} (h : reservedStrap set = true) (pos : Pos) (unstable : Bool) :
    0x50 ∈ strapCodes set pos unstable := by
  simp [strapCodes, codeIf, h]

theorem unstable_mem_strapCodes (set : StrapSet) (pos : Pos) : 0x51 ∈ strapCodes set pos true := by
  simp [strapCodes, codeIf]

theorem misplaced_mem_strapCodes {set : StrapSet} {v : BitVec 2} {pos : Pos} (h : set.chippos = some v) (hne : v.toNat ≠ pos.val)
    (unstable : Bool) : 0x52 ∈ strapCodes set pos unstable := by
  simp [strapCodes, codeIf, misplacedStrap, h, hne]

theorem length_strapCodes_le (set : StrapSet) (pos : Pos) (unstable : Bool) : (strapCodes set pos unstable).length ≤ 3 := by
  have hreserved := length_codeIf_le (reservedStrap set) 0x50
  have hunstable := length_codeIf_le unstable 0x51
  have hmisplaced := length_codeIf_le (misplacedStrap set pos) 0x52
  rw [strapCodes, List.length_append, List.length_append]
  omega

/-- Raising codes one after the other changes no strap, season, image or tenant. -/
structure StrapsKept (k k' : Chip) : Prop where
  latched : k'.wake.latched = k.wake.latched
  season : k'.wake.season = k.wake.season
  image : k'.image = k.image
  tenants : k'.tenants = k.tenants

theorem StrapsKept.refl (k : Chip) : StrapsKept k k := ⟨rfl, rfl, rfl, rfl⟩

theorem StrapsKept.trans {a b c : Chip} (h : StrapsKept a b) (g : StrapsKept b c) : StrapsKept a c :=
  ⟨g.latched.trans h.latched, g.season.trans h.season, g.image.trans h.image, g.tenants.trans h.tenants⟩

theorem strapsKept_springFault (c : Chip) (code : Nat) : StrapsKept c (springFault c code) := by
  obtain ⟨himage, htenants, -, -⟩ := springFault_keeps c code
  exact ⟨by rw [springFault_wake], by rw [springFault_wake], himage, htenants⟩

theorem strapsKept_springFaults (c : Chip) (codes : List Nat) : StrapsKept c (forEach c codes springFault) :=
  forEach_rel .refl .trans (fun c code _ => strapsKept_springFault c code) c

/-- While the list has room, every code raised is held and Spring has failed. -/
theorem springFaults_held {codes : List Nat} {c : Chip} (hroom : c.faults.length + codes.length ≤ 16) {code : Nat}
    (h : code ∈ codes ∨ c.wake.phase = .failed ∧ holdsFault c code = true) :
    (forEach c codes springFault).wake.phase = .failed ∧ holdsFault (forEach c codes springFault) code = true := by
  induction codes generalizing c with
  | nil => exact h.resolve_left List.not_mem_nil
  | cons n codes ih =>
    rw [List.length_cons] at hroom
    have hlength := length_springFault_le (c := c) (by omega) n
    refine ih (by omega) ?_
    rw [List.mem_cons, or_assoc] at h
    obtain rfl | hrest | ⟨-, hheld⟩ := h
    · exact .inr ⟨by rw [springFault_wake], holdsFault_springFault_self (by omega) code⟩
    · exact .inl hrest
    · exact .inr ⟨by rw [springFault_wake], holdsFault_springFault_of_holds (by omega) hheld n⟩

/-- The checks raise their codes against the straps that stand latched. -/
theorem checkStraps_eq (c : Chip) (pos : Pos) (unstable : Bool) :
    checkStraps c pos unstable = forEach c (strapCodes c.wake.latched pos unstable) springFault := by
  have hif : ∀ (b : Bool) (k : Chip) (code : Nat), (if b then springFault k code else k) = forEach k (codeIf b code) springFault :=
    fun b k code => by cases b <;> rfl
  have happend : ∀ (k : Chip) (l m : List Nat), forEach k (l ++ m) springFault = forEach (forEach k l springFault) m springFault :=
    fun k l m => List.foldl_append
  simp only [checkStraps, strapCodes, hif, happend, (strapsKept_springFaults _ _).latched, misplacedStrap]
  cases c.wake.latched.chippos with
  | none => rfl
  | some v => by_cases hplace : v.toNat = pos.val <;> simp [codeIf, forEach, hplace]

/-! ## STRAP_SET_DELIVERY -/

/-- A chip that held nothing latches the set and stands where it stood (R53). -/
theorem latchStraps_latches {c : Chip} (h : c.faults = []) (set : StrapSet) :
    (latchStraps c set false).wake.latched = set ∧ (latchStraps c set false).wake.season = c.wake.season ∧
      (latchStraps c set false).image = c.image ∧ (latchStraps c set false).tenants = c.tenants ∧
      (latchStraps c set false).faults = [] := by
  refine ⟨rfl, rfl, rfl, rfl, ?_⟩
  show c.faults.filter _ = []
  rw [h, List.filter_nil]

/-- The set that each chip latches: the tray's, with its own CHIPPOS. -/
def deliveredSet (r : StrapReadings) (pos : ChipposReadings) (p : Pos) : StrapSet := senseStraps r (posReading pos p)

/-- Whether a strap of any chip is unstable. -/
def anyUnstable (r : StrapReadings) (pos : ChipposReadings) : Bool :=
  unstableStrap (deliveredSet r pos 0) || unstableStrap (deliveredSet r pos 1) || unstableStrap (deliveredSet r pos 2) ||
    unstableStrap (deliveredSet r pos 3)

theorem anyUnstable_of_unstable {r : StrapReadings} {pos : ChipposReadings} {q : Pos}
    (h : unstableStrap (deliveredSet r pos q) = true) : anyUnstable r pos = true := by
  simp only [anyUnstable, Bool.or_eq_true]
  match q with
  | 0 => exact .inl (.inl (.inl h))
  | 1 => exact .inl (.inl (.inr h))
  | 2 => exact .inl (.inr h)
  | 3 => exact .inr h

/-- A chip after the delivery: the set latched and its codes raised. -/
def delivered (r : StrapReadings) (pos : ChipposReadings) (p : Pos) (c : Chip) : Chip :=
  checkStraps (latchStraps c (deliveredSet r pos p) false) p (anyUnstable r pos)

/-- In a preparation whose clock does not run yet, with no 0x64 due, each chip in Winter latches and checks, and Spring waits. -/
theorem exec_strapSetDelivery {s : State} (hprep : s.tray.prep = true) (hwait : s.tray.winterWait = false)
    (hundelivered : s.tray.strapsDelivered = false) (hclock : s.tray.refClock = false) (hdue : s.tray.railCodeDue = false)
    (r : StrapReadings) (pos : ChipposReadings) :
    exec (.strapSetDelivery r pos) s = .next (modTray (mapChips s (fun p c =>
      if decide (c.wake.season = .winter) && !c.wake.stopped then delivered r pos p c else c))
        (fun y => { y with strapsDelivered := true, railCodeDue := false })) := by
  refine (if_pos (by simp [hprep, hwait, hundelivered])).trans (congrArg _ ?_)
  rw [hdue]
  exact if_neg (by simp [hclock])

/-- Every code of the checks is held on the chip, and its Spring has failed (R55). -/
theorem delivered_holds {r : StrapReadings} {pos : ChipposReadings} {p : Pos} {c : Chip} (h : c.faults = []) {code : Nat}
    (hcode : code ∈ strapCodes (deliveredSet r pos p) p (anyUnstable r pos)) :
    (delivered r pos p c).wake.phase = .failed ∧ holdsFault (delivered r pos p c) code = true := by
  obtain ⟨hlatched, -, -, -, hfaults⟩ := latchStraps_latches h (deliveredSet r pos p)
  rw [delivered, checkStraps_eq, hlatched]
  refine springFaults_held ?_ (.inl hcode)
  have hlength := length_strapCodes_le (deliveredSet r pos p) p (anyUnstable r pos)
  rw [hfaults, List.length_nil]
  omega

/-- Settles O19. Each chip raises the codes of its checks one after the other; the list, empty before, has room for all three. -/
theorem strapsAreLatchedAndChecked : Obligations.StrapsAreLatchedAndChecked := by
  unfold Obligations.StrapsAreLatchedAndChecked
  intro s r pos hprep hwait hundelivered hclock hdue hchips
  refine ⟨_, exec_strapSetDelivery hprep hwait hundelivered hclock hdue r pos, rfl, by rw [modTray_tray, mapChips_tray, ← hdue], fun p => ?_⟩
  obtain ⟨hwinter, hstopped, hfaults⟩ := hchips p
  rw [getChip_modTray, getChip_mapChips, if_pos (by simp [hwinter, hstopped])]
  obtain ⟨hlatched, hseason, himage, htenants, -⟩ := latchStraps_latches hfaults (deliveredSet r pos p)
  have hkept : StrapsKept (latchStraps (getChip s p) (deliveredSet r pos p) false) (delivered r pos p (getChip s p)) := by
    rw [delivered, checkStraps_eq]
    exact strapsKept_springFaults _ _
  refine ⟨hkept.latched.trans hlatched, (hkept.season.trans hseason).trans hwinter, hkept.image.trans himage, hkept.tenants.trans htenants,
    fun ⟨q, hq⟩ => delivered_holds hfaults ?_, fun hreserved => delivered_holds hfaults (reserved_mem_strapCodes hreserved p _),
    fun v hv hne => delivered_holds hfaults (misplaced_mem_strapCodes hv hne _)⟩
  rw [anyUnstable_of_unstable hq]
  exact unstable_mem_strapCodes _ p

/-! ## STRAP_RESENSE -/

/-- What a re-sense does to a chip in Summer, Autumn or Winter: codes observed, unstable straps counted (R54). -/
def resensed (r : StrapReadings) (c : Chip) : Chip :=
  countDev (modWake c (fun w => { w with observed := observeStraps w.observed (senseStraps r none), sensed := true })) 148
    (unstableCount (senseStraps r none))

theorem exec_strapResense {s : State} (hforwards : s.tray.forwarding = true) (hprep : s.tray.prep = false) (r : StrapReadings) :
    exec (.strapResense r) s = .next (mapChips s (fun _ c =>
      if c.wake.season = .winter || c.wake.season = .summer || c.wake.season = .autumn then resensed r c else c)) :=
  if_pos (by simp [hforwards, hprep])

theorem counters_countDev_self (c : Chip) (i n : Nat) :
    tabGet 0 (countDev c i n).counters i = satAdd64 (tabGet 0 c.counters i) n := tabGet_tabSet_self _ _ _ _

/-- Settles O20. -/
theorem resenseObservesOnly : Obligations.ResenseObservesOnly := by
  unfold Obligations.ResenseObservesOnly
  intro s r hforwards hprep hseasons
  refine ⟨_, exec_strapResense hforwards hprep r, rfl, rfl, fun p => ?_⟩
  rw [getChip_mapChips, if_pos (by simpa [or_assoc] using hseasons p)]
  exact ⟨rfl, rfl, rfl, counters_countDev_self _ 148 _, rfl, rfl⟩

end Sys2Proof.Machine
end

section
/-!
PROOFS. O27 (HbmThenTheImageLoad): the end of HBM training, the start of the image load, and a flash grant that is held too long
(Table 4-4 step 5, R55, R92, R93, R101).
-/
namespace Sys2Proof.Machine

/-! ## A Spring that fails with its ports -/

theorem holdsFault_allPortsOff (c : Chip) (code : Nat) : holdsFault (allPortsOff c) code = holdsFault c code := rfl

/-- On a chip whose Spring fails with its ports, every port is down and the vault and HBM stay; the code is held if the list has room. -/
theorem springFault_allPortsOff (c : Chip) (code : Nat) :
    (allPortsOff (springFault c code)).wake.phase = .failed ∧
      (c.faults.length < 16 → holdsFault (allPortsOff (springFault c code)) code = true) ∧
      (∀ p, (portOf (allPortsOff (springFault c code)) p).step = .down) ∧
      (allPortsOff (springFault c code)).vault = c.vault ∧ (allPortsOff (springFault c code)).hbm = c.hbm := by
  obtain ⟨-, -, hvault, hhbm⟩ := springFault_keeps c code
  refine ⟨congrArg Wake.phase (springFault_wake c code), fun h => ?_, portOf_allPortsOff_step _, hvault, hhbm⟩
  rw [holdsFault_allPortsOff]
  exact holdsFault_springFault_self h code

/-- A chip whose Spring has neither completed nor failed. -/
def springOpen (c : Chip) : Bool :=
  decide (c.wake.season = .spring) && decide (c.wake.phase ≠ .done) && decide (c.wake.phase ≠ .failed)

theorem springOpen_iff (c : Chip) :
    springOpen c = true ↔ c.wake.season = .spring ∧ c.wake.phase ≠ .done ∧ c.wake.phase ≠ .failed := by
  simp [springOpen, and_assoc]

/-- Failing every Spring that is open drops the load. -/
theorem failAll_eq (s : State) (code : Nat) :
    failAll s code = modTray (mapChips s (fun _ c => if springOpen c then allPortsOff (springFault c code) else c))
      (fun y => { y with load := .reset }) := rfl

theorem getChip_failAll (s : State) (code : Nat) (p : Pos) :
    getChip (failAll s code) p = if springOpen (getChip s p) then allPortsOff (springFault (getChip s p) code) else getChip s p := by
  rw [failAll_eq, getChip_modTray, getChip_mapChips]

/-! ## HBM_TRAINING_DONE -/

theorem atPhase_iff (c : Chip) (p : SpringPhase) : atPhase c p = true ↔ c.wake.season = .spring ∧ c.wake.phase = p := by
  simp [atPhase]

theorem meshTrained_of_group_down {c : Chip} {g : Nat} (hg : g < 3) (h : upPorts c g = []) : meshTrained c = false := by
  rw [meshTrained, List.all_eq_false]
  exact ⟨g, by simp; omega, by simp [h]⟩

/-- The chip as step 6 begins. -/
def enterImageStep (c : Chip) : Chip := modWake c (fun w => { w with phase := .image, hbm := .running })

theorem exec_hbmTrainingDone_failed {s : State} {c : Pos} (h : atPhase (getChip s c) .hbm = true) :
    exec (.hbmTrainingDone c false) s = .next (modChip s c (fun k => allPortsOff (springFault k 0x24))) := if_pos h

theorem exec_hbmTrainingDone_ok (s : State) (c : Pos) :
    exec (.hbmTrainingDone c true) s =
      if atPhase (getChip s c) .hbm then
        if meshTrained (getChip s c) then
          .next (if c = 0 then startLoad (modChip s c enterImageStep) else modChip s c enterImageStep)
        else .next s
      else .next s := rfl

theorem exec_hbmTrainingDone_trained {s : State} {c : Pos} (h : atPhase (getChip s c) .hbm = true)
    (hmesh : meshTrained (getChip s c) = true) :
    exec (.hbmTrainingDone c true) s =
      .next (if c = 0 then startLoad (modChip s c enterImageStep) else modChip s c enterImageStep) := by
  rw [exec_hbmTrainingDone_ok, if_pos h, if_pos hmesh]

/-- Until the mesh has trained, step 5 goes on. -/
theorem exec_hbmTrainingDone_untrained {s : State} {c : Pos} (hmesh : meshTrained (getChip s c) = false) :
    exec (.hbmTrainingDone c true) s = .next s := by
  rw [exec_hbmTrainingDone_ok, hmesh, if_neg Bool.false_ne_true, ite_self]

/-- Settles O27. Where Spring fails, each chip is left by springFault_allPortsOff; at chip A step 6 also starts the load. -/
theorem hbmThenTheImageLoad : Obligations.HbmThenTheImageLoad := by
  unfold Obligations.HbmThenTheImageLoad
  refine ⟨fun s c hseason hphase hroom => ?_, fun s hseason hphase hmesh => ?_, fun s c hne hseason hphase hmesh => ?_,
    fun s c ⟨g, hg, hdown⟩ => exec_hbmTrainingDone_untrained (meshTrained_of_group_down hg hdown), fun s hwait => ?_⟩
  · obtain ⟨hfailed, hheld, hports, hvault, hhbm⟩ := springFault_allPortsOff (getChip s c) 0x24
    refine ⟨_, exec_hbmTrainingDone_failed ((atPhase_iff _ _).2 ⟨hseason, hphase⟩), onlyChip_modChip s c _, ?_⟩
    rw [getChip_modChip_self]
    exact ⟨hfailed, hheld hroom, hports, hvault, hhbm⟩
  · refine ⟨_, exec_hbmTrainingDone_trained ((atPhase_iff _ _).2 ⟨hseason, hphase⟩) hmesh, ⟨rfl, fun p hp => ?_⟩, ?_,
      rfl, rfl, ?_, rfl, rfl, rfl⟩
    · exact (getChip_modTray _ _ p).trans (getChip_modChip_ne s 0 p _ hp)
    · exact (getChip_modTray _ _ 0).trans (getChip_modChip_self s 0 _)
    · exact decide_eq_true_iff
  · rw [exec_hbmTrainingDone_trained ((atPhase_iff _ _).2 ⟨hseason, hphase⟩) hmesh, if_neg hne]
    rfl
  · refine ⟨_, if_pos hwait, rfl, rfl, fun p => ?_⟩
    rw [getChip_failAll]
    refine ⟨fun hopen => ?_, fun hended => if_neg fun hopen => ?_⟩
    · obtain ⟨hfailed, hheld, hports, hvault, -⟩ := springFault_allPortsOff (getChip s p) 0x54
      rw [if_pos ((springOpen_iff _).2 hopen)]
      exact ⟨hfailed, hheld, hports, hvault⟩
    · obtain ⟨hspring, hdone, hfailed⟩ := (springOpen_iff _).1 hopen
      obtain hnot | hphase | hphase := hended
      · exact hnot hspring
      · exact hdone hphase
      · exact hfailed hphase

end Sys2Proof.Machine
end

section
/-!
PROOFS. Rules about what leaves the flash as it is: the keeper's own work, an image load, a wipe, one chip's ports and frames, the debug port.
-/
namespace Sys2Proof.Machine

/-! ## What leaves the flash as it is -/

/-- The flash holds what it held. -/
def SameFlash (s t : State) : Prop := t.tray.flash = s.tray.flash

theorem SameFlash.refl (s : State) : SameFlash s s := rfl

theorem SameFlash.trans {s t u : State} (h : SameFlash s t) (g : SameFlash t u) : SameFlash s u := Eq.trans g h

theorem SameFlash.flashWf {s t : State} (h : SameFlash s t) (hwf : FlashWf s) : FlashWf t := by
  rw [FlashWf, h]
  exact hwf

theorem sameFlash_ite {p : Prop} [Decidable p] {s t u : State} (ht : SameFlash s t) (hu : SameFlash s u) :
    SameFlash s (if p then t else u) := by
  split
  · exact ht
  · exact hu

theorem sameFlash_foldl {α : Type} {f : State → α → State} (h : ∀ s x, SameFlash s (f s x)) (l : List α) (s : State) :
    SameFlash s (l.foldl f s) := by
  induction l generalizing s with
  | nil => exact .refl s
  | cons x l ih => exact (h s x).trans (ih _)

theorem sameFlash_of_onlyChip {c : Pos} {s t : State} (h : OnlyChip c s t) : SameFlash s t := by
  obtain ⟨-, htray, -⟩ := h
  exact congrArg Tray.flash htray

theorem sameFlash_setChip (s : State) (c : Pos) (k : Chip) : SameFlash s (setChip s c k) := rfl

/-- The keeper may change in everything but its flash. -/
theorem sameFlash_modTray (s : State) {f : Tray → Tray} (h : ∀ y, (f y).flash = y.flash) : SameFlash s (modTray s f) := h s.tray

/-- Whatever next state an outcome is, its flash holds what it held. -/
def KeepsFlash (s : State) (o : Host.Outcome State Fault Refusal) : Prop := ∀ t, o = .next t → SameFlash s t

theorem keepsFlash_next {s t : State} (h : SameFlash s t) : KeepsFlash s (.next t) := fun _ hu => by
  cases hu
  exact h

theorem keepsFlash_ite {p : Prop} [Decidable p] {s : State} {a b : Host.Outcome State Fault Refusal} (ha : KeepsFlash s a)
    (hb : KeepsFlash s b) : KeepsFlash s (if p then a else b) := by
  split
  · exact ha
  · exact hb

/-- A command that acts under one condition. -/
theorem keepsFlash_guard {p : Prop} [Decidable p] {s t u : State} (ht : SameFlash s t) (hu : SameFlash s u) :
    KeepsFlash s (if p then .next t else .next u) := keepsFlash_ite (keepsFlash_next ht) (keepsFlash_next hu)

/-! ## The tray keeper -/

theorem flash_raiseNext (l : List Rail) (y : Tray) : (raiseNext l y).flash = y.flash := by
  induction l with
  | nil => rfl
  | cons r l ih =>
    rw [raiseNext]
    split
    · exact ih
    · rfl
    · rfl

theorem sameFlash_removeSpringRails (s : State) : SameFlash s (removeSpringRails s) := by
  change (ite _ (raiseNext _ _) _ : Tray).flash = _
  split
  · exact flash_raiseNext _ _
  · rfl

theorem sameFlash_takeCode (s : State) (code : BitVec 2) : SameFlash s (takeCode s code) := by
  refine sameFlash_ite rfl (sameFlash_ite ?_ rfl)
  change (ite _ _ (raiseNext _ _) : Tray).flash = _
  split
  · rfl
  · exact flash_raiseNext _ _

theorem sameFlash_takeHeld (s : State) : SameFlash s (takeHeld s) :=
  SameFlash.trans (t := modTray s (fun y => { y with held := [] })) rfl (sameFlash_foldl sameFlash_takeCode _ _)

theorem sameFlash_springForward (s : State) : SameFlash s (springForward s) := by
  refine sameFlash_ite (SameFlash.trans ?_ (sameFlash_takeHeld _)) (.refl s)
  rfl

theorem sameFlash_afterRail (s : State) (r : Rail) : SameFlash s (afterRail s r) := by
  refine sameFlash_ite (.refl s) ?_
  have hraise : ∀ l, SameFlash s (modTray s (raiseNext l)) := fun l => flash_raiseNext l s.tray
  cases r with
  | vkeep => exact sameFlash_ite (hraise [.vbus]) (hraise [.vbus])
  | vbus => exact hraise [.vaon]
  | vaon => exact hraise [.vret]
  | vret => exact hraise [.vpp]
  | vpp => exact hraise [.vddh]
  | vddh => exact hraise [.vddq]
  | vddq => rfl
  | vcage => exact SameFlash.trans (by rfl) (sameFlash_springForward _)
  | vcore | vsram | vser | vserh => exact sameFlash_ite (hraise springRails) (.refl s)

theorem sameFlash_wipeChip (s : State) (p : Pos) (code : Nat) : SameFlash s (wipeChip s p code) := by
  obtain ⟨-, -, -, hflash⟩ := wipeChip_keeps s p code
  exact hflash

theorem sameFlash_wipeAll (s : State) (code : Nat) : SameFlash s (wipeAll s code) := by
  obtain ⟨-, -, -, hflash⟩ := wipeAll_keeps s code
  exact hflash

theorem sameFlash_bankFailed (s : State) : SameFlash s (bankFailed s) := sameFlash_ite rfl rfl

/-! ## One chip's ports and frames -/

theorem onlyChip_ite {p : Prop} [Decidable p] {c : Pos} {s t u : State} (ht : OnlyChip c s t) (hu : OnlyChip c s u) :
    OnlyChip c s (if p then t else u) := by
  split
  · exact ht
  · exact hu

/-- A chip takes the image of the bank, or does nothing. -/
theorem onlyChip_acceptImage (s : State) (p : Pos) : OnlyChip p s (acceptImage s p) := by
  unfold acceptImage
  dsimp only
  split
  · exact onlyChip_refl p s
  · exact onlyChip_ite (onlyChip_trans (onlyChip_setChip s p _) (onlyChip_modChip _ p _))
      (onlyChip_trans (onlyChip_setChip s p _) (onlyChip_modChip _ p _))

theorem onlyChip_losePort (s : State) (c : Pos) (p : PortNo) : OnlyChip c s (losePort s c p) := onlyChip_modChip s c _

theorem onlyChip_resendFrom (s : State) (c : Pos) (p : PortNo) (i : Nat) : OnlyChip c s (resendFrom s c p i) :=
  onlyChip_ite (onlyChip_trans (onlyChip_modChip s c _) (onlyChip_losePort _ c p)) (onlyChip_setChip s c _)

theorem onlyChip_rxNak (s : State) (c : Pos) (p : PortNo) (content : BitVec 256) : OnlyChip c s (rxNak s c p content) :=
  onlyChip_ite (onlyChip_resendFrom s c p _) (onlyChip_refl c s)

theorem onlyChip_rxBadUnit (s : State) (c : Pos) (p : PortNo) : OnlyChip c s (rxBadUnit s c p) :=
  onlyChip_ite (onlyChip_refl c s) (onlyChip_trans (onlyChip_modChip s c _)
    (onlyChip_ite (onlyChip_losePort _ c p) (onlyChip_ite (onlyChip_modChip _ c _) (onlyChip_refl c _))))

theorem onlyChip_rxUnit (s : State) (c : Pos) (p : PortNo) (raw : BitVec 320) (rtt : Nat) : OnlyChip c s (rxUnit s c p raw rtt) := by
  refine onlyChip_ite (onlyChip_rxBadUnit s c p) (onlyChip_trans (onlyChip_modChip s c (fun k => goodUnit k p)) ?_)
  dsimp only
  split
  · exact onlyChip_refl c _
  · exact onlyChip_modChip _ c _
  · split
    · exact onlyChip_modChip _ c _
    · exact onlyChip_rxNak _ c p _
    · exact onlyChip_modChip _ c _
    · exact onlyChip_modChip _ c _
    · exact onlyChip_modChip _ c _

theorem sameFlash_settleCage (s : State) (g : Fin 40) : SameFlash s (settleCage s g) := by
  rw [settleCage_eq]
  exact sameFlash_of_onlyChip (onlyChip_foldl (onlyChip_settlePort _) _ s)

theorem onlyChip_hostCommand (type : Nat) (serve : Nat → Chip → RxFrame → Chip) (c : Pos) (f : RxFrame) (s : State) :
    OnlyChip c s (hostCommand type serve c f s) := by
  refine onlyChip_ite ?_ (onlyChip_refl c s)
  split
  · exact onlyChip_setChip s c _
  · split <;> exact onlyChip_setChip s c _

theorem onlyChip_chipCommand (type : Nat) (serve : Nat → Chip → RxFrame → Chip) (c : Pos) (f : RxFrame) (s : State) :
    OnlyChip c s (chipCommand type serve c f s) := by
  refine onlyChip_ite ?_ (onlyChip_refl c s)
  split
  · split <;> exact onlyChip_setChip s c _
  · exact onlyChip_ite (onlyChip_setChip s c _) (onlyChip_ite (onlyChip_setChip s c _)
      (onlyChip_ite (onlyChip_setChip s c _) (onlyChip_setChip s c _)))

theorem onlyChip_keepInPool {c : Pos} {s t : State} (h : OnlyChip c s t) (f : RxFrame) : OnlyChip c s (keepInPool c f s t) :=
  onlyChip_ite (onlyChip_trans h (onlyChip_setChip t c _)) h

/-! ## The debug port -/

theorem sameFlash_chipInstr {run : State → Pos → Chip → State} {s : State} (h : ∀ p c, SameFlash s (run s p c)) (ok : Chip → Bool)
    (op : BitVec 8) (p : Pos) : SameFlash s (chipInstr ok op run s p) :=
  sameFlash_ite (.refl s) (sameFlash_ite (h p _) rfl)

theorem sameFlash_tapInstr {run : State → Pos → Chip → State} {s : State} (h : ∀ p c, SameFlash s (run s p c)) (ok : Chip → Bool)
    (op : BitVec 8) (d : TapDevice) : SameFlash s (tapInstr ok op run d s) := by
  cases d with
  | keeper => exact sameFlash_ite rfl rfl
  | chip p => exact sameFlash_chipInstr h ok op p

theorem sameFlash_resetTap (s : State) (d : TapDevice) : SameFlash s (resetTap s d) := by
  cases d <;> exact sameFlash_ite rfl rfl

theorem sameFlash_debugCtrl (op : Nat) (d : TapDevice) (ctrl : BitVec 32) (s : State) : SameFlash s (debugCtrl op d ctrl s) :=
  sameFlash_ite (sameFlash_tapInstr (by exact fun _ _ => rfl) _ _ d) (.refl s)

theorem sameFlash_writeSlot (d : TapDevice) (reg : BitVec 96) (b : BreakSlot) (s : State) : SameFlash s (writeSlot d reg b s) :=
  sameFlash_tapInstr (by exact fun _ _ => rfl) _ _ d

end Sys2Proof.Machine
end

section
/-!
PROOFS. O8 (StepKeepsTheFlashForm): only a flash sequence writes the flash, and one that stays inside the device keeps its form (R41, R89, R91).
-/
namespace Sys2Proof.Machine

/-! ## The entries of a memory -/

/-- A write lists no address but its own anew. -/
theorem mem_memSet {α : Type} [DecidableEq α] {d : α} {m : Mem α} {a : Nat} {v : α} {x : Nat × α} (h : x ∈ memSet d m a v) :
    x ∈ m ∨ x.1 = a := by
  induction m with
  | nil =>
    rw [memSet] at h
    split at h
    · exact absurd h List.not_mem_nil
    · exact .inr (congrArg Prod.fst (List.mem_singleton.1 h))
  | cons p m ih =>
    obtain ⟨b, w⟩ := p
    rw [memSet] at h
    split at h
    · split at h
      · exact .inl h
      · exact (List.mem_cons.1 h).symm.imp_right (congrArg Prod.fst)
    · split at h
      · split at h
        · exact .inl (List.mem_cons_of_mem _ h)
        · exact (List.mem_cons.1 h).symm.imp (List.mem_cons_of_mem _) (congrArg Prod.fst)
      · obtain rfl | h := List.mem_cons.1 h
        · exact .inl List.mem_cons_self
        · exact (ih h).imp_left (List.mem_cons_of_mem _)

/-- A run of writes lists no address beyond its end anew. -/
theorem mem_memWrite {α : Type} [DecidableEq α] {d : α} {vs : List α} {m : Mem α} {a : Nat} {x : Nat × α}
    (h : x ∈ memWrite d m a vs) : x ∈ m ∨ x.1 < a + vs.length := by
  induction vs generalizing m a with
  | nil => exact .inl h
  | cons v vs ih =>
    rw [List.length_cons]
    obtain h | hlt := ih h
    · exact (mem_memSet h).imp_right (by omega)
    · exact .inr (by omega)

/-! ## A flash sequence -/

/-- Programming and erasing inside the device keep the form; another configuration writes no byte. -/
theorem flashWf_applyFlashOp {s : State} (h : FlashWf s) {op : FlashOp} (hok : op.ok = true) :
    FlashWf (modTray s (fun y => applyFlashOp y op)) := by
  obtain ⟨hform, hinside⟩ := h
  cases op with
  | program a bs =>
    have hend : a + bs.length ≤ 67108864 := of_decide_eq_true hok
    exact ⟨wf_memWrite _ bs hform a, fun x hx => (mem_memWrite hx).elim (hinside x) fun hlt => Nat.lt_of_lt_of_le hlt hend⟩
  | erase a n => exact ⟨wf_memErase _ a n hform, fun x hx => hinside x (memDrop_mem _ _ x hx).1⟩
  | configure v => exact ⟨hform, hinside⟩

theorem flashWf_flashProgramEraseSequence {s t : State} (h : FlashWf s) {op : FlashOp}
    (hexec : exec (.flashProgramEraseSequence op) s = .next t) : FlashWf t := by
  rw [exec_flashProgramEraseSequence] at hexec
  split at hexec
  · split at hexec
    case isTrue hok =>
      cases hexec
      exact flashWf_applyFlashOp h hok
    case isFalse => cases hexec
  · cases hexec
    exact h

/-! ## Commands that act by cases -/

theorem keepsFlash_flashRequest (s : State) : KeepsFlash s (exec .flashRequest s) := by
  refine keepsFlash_guard ?_ rfl
  change (ite _ _ _ : Tray).flash = _
  split <;> rfl

theorem keepsFlash_flashRelease (s : State) : KeepsFlash s (exec .flashRelease s) := by
  refine keepsFlash_next ?_
  change (ite _ _ _ : Tray).flash = _
  split <;> rfl

/-- A bank is failed, or accepted on the chips one after the other. -/
theorem keepsFlash_bankCheckReport (s : State) : KeepsFlash s (exec .bankCheckReport s) := by
  have haccept : ∀ s p, SameFlash s (acceptImage s p) := fun s p => sameFlash_of_onlyChip (onlyChip_acceptImage s p)
  have haccepted : SameFlash s (acceptImage (acceptImage (acceptImage (acceptImage s 0) 1) 2) 3) :=
    (((haccept s 0).trans (haccept _ 1)).trans (haccept _ 2)).trans (haccept _ 3)
  exact keepsFlash_ite (keepsFlash_ite (keepsFlash_next (sameFlash_bankFailed s)) (keepsFlash_guard
    (haccepted.trans (sameFlash_modTray _ fun _ => rfl)) (.refl s))) (keepsFlash_next (.refl s))

theorem keepsFlash_ethernetFrameSend (c : Pos) (p : PortNo) (s : State) : KeepsFlash s (exec (.ethernetFrameSend c p) s) := by
  change KeepsFlash s (execEthernetFrameSend c p s)
  unfold execEthernetFrameSend
  dsimp only
  split <;> exact keepsFlash_next rfl

/-- VC0's head frame goes first; VC1 and VC2 each send a frame or none. -/
theorem keepsFlash_frameSend (c : Pos) (p : PortNo) (s : State) : KeepsFlash s (exec (.frameSend c p) s) := by
  refine keepsFlash_ite (keepsFlash_next (.refl s)) ?_
  have hlow : ∀ a b : Option Chip, SameFlash s (match a with
      | some k => setChip s c k
      | none => match b with | some k => setChip s c k | none => s) := fun a b => by
    cases a <;> cases b <;> rfl
  split
  · exact keepsFlash_guard rfl (hlow _ _)
  · exact keepsFlash_next (hlow _ _)

theorem keepsFlash_macFrameReceive (c : Pos) (p : PortNo) (m : MacFrame) (s : State) :
    KeepsFlash s (exec (.macFrameReceive c p m) s) := by
  refine keepsFlash_ite (keepsFlash_guard ?_ rfl) (keepsFlash_next (.refl s))
  exact sameFlash_of_onlyChip (onlyChip_trans (onlyChip_modChip s c _) (onlyChip_foldl (fun s u => onlyChip_rxUnit s c p u _) _ _))

theorem keepsFlash_ingressDispatch (c : Pos) (p : PortNo) (vc : BitVec 2) (s : State) :
    KeepsFlash s (exec (.ingressDispatch c p vc) s) := by
  refine keepsFlash_ite (keepsFlash_next (.refl s)) (keepsFlash_ite ?_ ?_)
  · split <;> exact keepsFlash_next rfl
  · dsimp only
    split
    · exact keepsFlash_next (.refl s)
    · split <;> exact keepsFlash_next rfl

theorem keepsFlash_unknownFrameType (c : Pos) (f : RxFrame) (s : State) : KeepsFlash s (exec (.unknownFrameType c f) s) := by
  refine keepsFlash_ite ?_ (keepsFlash_next (.refl s))
  split
  · split <;> exact keepsFlash_next rfl
  · exact keepsFlash_next rfl

theorem keepsFlash_grad (c : Pos) (f : RxFrame) (s : State) : KeepsFlash s (exec (.grad c f) s) :=
  keepsFlash_next (sameFlash_of_onlyChip (onlyChip_keepInPool (onlyChip_hostCommand _ _ c f s) f))

theorem keepsFlash_reduce (c : Pos) (f : RxFrame) (s : State) : KeepsFlash s (exec (.reduce c f) s) :=
  keepsFlash_next (sameFlash_of_onlyChip (onlyChip_keepInPool (onlyChip_chipCommand _ _ c f s) f))

/-- Without a collision it is the frame's own command. -/
theorem keepsFlash_ledgerCollisionRetry (c : Pos) (f : RxFrame) (collides : Bool) (s : State) :
    KeepsFlash s (exec (.ledgerCollisionRetry c f collides) s) :=
  keepsFlash_ite (keepsFlash_ite (keepsFlash_reduce c f s) (keepsFlash_grad c f s))
    (keepsFlash_ite (keepsFlash_guard rfl rfl) (keepsFlash_next (.refl s)))

theorem keepsFlash_shardClose (c : Pos) (r : ShardStepRef) (s : State) : KeepsFlash s (exec (.shardClose c r) s) := by
  change KeepsFlash s (execShardClose c r s)
  unfold execShardClose
  dsimp only
  split
  · exact keepsFlash_next (.refl s)
  · refine keepsFlash_ite (keepsFlash_next (.refl s)) (keepsFlash_ite (keepsFlash_next rfl) (keepsFlash_ite (keepsFlash_next (.refl s))
      (keepsFlash_ite (keepsFlash_next rfl) ?_)))
    split <;> exact keepsFlash_next rfl

theorem keepsFlash_stageEnd (c : Pos) (k : ClusterNo) (s : State) : KeepsFlash s (exec (.stageEnd c k) s) := by
  refine keepsFlash_ite (keepsFlash_next (.refl s)) ?_
  split
  · refine keepsFlash_ite (keepsFlash_guard rfl rfl) ?_
    split
    · exact keepsFlash_ite (keepsFlash_guard rfl rfl) (keepsFlash_next (.refl s))
    · exact keepsFlash_next (.refl s)
  · exact keepsFlash_next (.refl s)

theorem keepsFlash_stageBoundExceeded (c : Pos) (k : ClusterNo) (s : State) : KeepsFlash s (exec (.stageBoundExceeded c k) s) := by
  refine keepsFlash_ite (keepsFlash_next (.refl s)) ?_
  split
  · exact keepsFlash_ite (keepsFlash_next rfl) (keepsFlash_guard rfl rfl)
  · exact keepsFlash_next (.refl s)

theorem keepsFlash_lineFill (c : Pos) (line : Nat) (s : State) : KeepsFlash s (exec (.lineFill c line) s) := by
  change KeepsFlash s (execLineFill c line s)
  unfold execLineFill
  dsimp only
  split
  · exact keepsFlash_next (.refl s)
  · refine keepsFlash_ite (keepsFlash_next (.refl s)) ?_
    split <;> exact keepsFlash_next rfl

theorem keepsFlash_dbgMemWrite (d : TapDevice) (reg : BitVec 128) (s : State) : KeepsFlash s (exec (.dbgMemWrite d reg) s) := by
  refine keepsFlash_guard (.refl s) (sameFlash_tapInstr (fun _ _ => ?_) _ _ d)
  dsimp only
  split <;> rfl

theorem keepsFlash_lcAdvance (d : TapDevice) (reg : BitVec 32) (s : State) : KeepsFlash s (exec (.lcAdvance d reg) s) :=
  keepsFlash_next (sameFlash_tapInstr (fun p _ => sameFlash_ite ((sameFlash_setChip s p _).trans (sameFlash_wipeChip _ p _))
    (sameFlash_setChip s p _)) _ _ d)

/-! ## The commands -/

/-- Every command but a flash sequence leaves the flash as it is. -/
theorem exec_keepsFlash {i : Instr} (s : State) (h : ∀ op, i ≠ .flashProgramEraseSequence op) : KeepsFlash s (exec i s) := by
  cases i with
  | trayPowerLoss | tenrstRelease _ | fanFailure _ _ | hello _ _ _ | helloAck _ _ _ _ | credit _ _ _ | tamperRelease | lidClose =>
    exact keepsFlash_next rfl
  | feedPresent f | feedAbsent f => cases f <;> exact keepsFlash_guard rfl rfl
  | trayStart _ _ | seasonPinChange _ | corePllLocked _ _ | sramClearDone _ | keyDrawDone _ _ | coldStartEnd _ _ | heatingTimeout _
  | flashGrantWaitTimeout | imageBankReadDone _ | imageOutcomeTimeout _ | autumnNoStepInFlight _ | autumnWritebackDone _
  | railOutOfBand _ | strapResense _ | tenantResetEraseDone _ _ | tenantResetComplete _ _ | deferredTenantDown _ _
  | flashGrantAfterRead | thermistorReading _ _ | hotThreshold _ _ | governorStepDown _ _ | governorStepUp _ _ | lanesLocked _ _
  | pcsLocked _ _ | unitsDelineated _ _ | helloTimer _ _ | trainingTimeout _ _ | unknownControlFlit _ _ _ | creditSend _ _ _
  | portDown _ _ | torusDirectionLost _ _ | commitBarrier _ _ _ | verdictTimeout _ _ _ | gatherTimeout _ _ _ | taskStart _ _
  | stageStart _ _ | deadLineInvalidate _ _ | eccUncorrectable _ _ | stepCyclesExpire _ _ => exact keepsFlash_guard rfl rfl
  | railInRegulation r =>
    have hset : SameFlash s (modTray s (fun y => setRail y r .up)) := rfl
    exact keepsFlash_guard (hset.trans (sameFlash_afterRail _ r)) (.refl s)
  | railFaultRecovery => exact keepsFlash_guard (flash_raiseNext _ _) (.refl s)
  | seasonForward =>
    have htaken : SameFlash s (modTray s (fun y => { y with pinTaken := true })) := rfl
    exact keepsFlash_guard (htaken.trans (sameFlash_takeCode _ _)) (.refl s)
  | strapSetDelivery _ _ => exact keepsFlash_guard (SameFlash.trans (by rfl) (sameFlash_springForward _)) (.refl s)
  | springReceived _ => exact keepsFlash_ite (keepsFlash_guard rfl rfl) (keepsFlash_next (.refl s))
  | hbmTrainingDone _ _ =>
    exact keepsFlash_ite (keepsFlash_ite (keepsFlash_guard (sameFlash_ite rfl rfl) (.refl s)) (keepsFlash_next rfl))
      (keepsFlash_next (.refl s))
  | imageHeaderRead => exact keepsFlash_ite (keepsFlash_guard rfl (sameFlash_bankFailed s)) (keepsFlash_next (.refl s))
  | bankCheckReport => exact keepsFlash_bankCheckReport s
  | winterReached c =>
    exact keepsFlash_ite (keepsFlash_guard ((sameFlash_setChip s c _).trans (sameFlash_removeSpringRails _)) (sameFlash_setChip s c _))
      (keepsFlash_next (.refl s))
  | winterReportTimeout => exact keepsFlash_guard (SameFlash.trans (by rfl) (sameFlash_removeSpringRails _)) (.refl s)
  | thermalShutdown _ _ | meshPeerLost _ _ => exact keepsFlash_guard (sameFlash_ite rfl rfl) (.refl s)
  | tenrstAssert _ | tenrstInWinter _ => exact keepsFlash_next (sameFlash_ite rfl rfl)
  | tamperAssert =>
    have hpin : SameFlash s (modTray s (fun y => { y with tamperLow := true })) := rfl
    exact keepsFlash_guard (.refl s) (hpin.trans (sameFlash_wipeAll _ _))
  | lidOpen =>
    have hlid : SameFlash s (modTray s (fun y => { y with lidOpen := true })) := rfl
    exact keepsFlash_guard (hlid.trans (sameFlash_wipeAll _ _)) hlid
  | voltageGlitch c _ | clockGlitch c _ | keyDrawTimeout c => exact keepsFlash_guard (sameFlash_wipeChip s c _) (.refl s)
  | vaultError c => exact keepsFlash_next (sameFlash_wipeChip s c _)
  | wipeClearDone _ | retentionSwitchTimer _ | vc0CreditTimeout _ _ | frameForward _ =>
    dsimp only [exec, execWipeClearDone, execRetentionSwitchTimer, execVc0CreditTimeout, execFrameForward]
    split
    · exact keepsFlash_guard rfl rfl
    · exact keepsFlash_next (.refl s)
  | shardDeadline _ _ | updateStageEnd _ _ =>
    dsimp only [exec, execShardDeadline, execUpdateStageEnd]
    split
    · exact keepsFlash_next (.refl s)
    · exact keepsFlash_guard rfl rfl
  | streamRequestIssue _ _ _ =>
    refine keepsFlash_ite (keepsFlash_next (.refl s)) ?_
    split <;> exact keepsFlash_next rfl
  | readDataReturn _ _ _ | writeAccept _ _ _ =>
    refine keepsFlash_ite (keepsFlash_next (.refl s)) ?_
    split
    · exact keepsFlash_next rfl
    · split <;> exact keepsFlash_next rfl
  | retrainTimer _ _ =>
    refine keepsFlash_ite ?_ (keepsFlash_next (.refl s))
    split <;> exact keepsFlash_next rfl
  | idcode d | samplePreload d _ =>
    cases d with
    | keeper => exact keepsFlash_next (sameFlash_ite rfl rfl)
    | chip p => exact keepsFlash_next (sameFlash_chipInstr (by exact fun _ _ => rfl) _ _ p)
  | flashRequest => exact keepsFlash_flashRequest s
  | flashRelease => exact keepsFlash_flashRelease s
  | cageModuleInsert g _ => exact keepsFlash_guard (SameFlash.trans (by rfl) (sameFlash_settleCage _ g)) rfl
  | dataFlit c p _ => exact keepsFlash_guard (sameFlash_of_onlyChip (onlyChip_rxUnit s c p _ _)) (.refl s)
  | nak c p content =>
    exact keepsFlash_next (sameFlash_of_onlyChip (onlyChip_trans (onlyChip_modChip s c _) (onlyChip_rxNak _ c p content)))
  | wireUnitCrcFail c p => exact keepsFlash_next (sameFlash_of_onlyChip (onlyChip_rxBadUnit s c p))
  | replayTimeout c p => exact keepsFlash_guard (sameFlash_of_onlyChip (onlyChip_resendFrom s c p _)) (.refl s)
  | macFrameReceive c p m => exact keepsFlash_macFrameReceive c p m s
  | ethernetFrameSend c p => exact keepsFlash_ethernetFrameSend c p s
  | frameSend c p => exact keepsFlash_frameSend c p s
  | ingressDispatch c p vc => exact keepsFlash_ingressDispatch c p vc s
  | grad c f => exact keepsFlash_grad c f s
  | reduce c f => exact keepsFlash_reduce c f s
  | init c f | pull c f | stashPut c f | stashGet c f | maskGet c f | scaleGet c f | statGet c f | index c f =>
    exact keepsFlash_next (sameFlash_of_onlyChip (onlyChip_hostCommand _ _ c f s))
  | shardVerdict c f | verdict c f | tenantDown c f | syncOp c f | syncAck c f =>
    exact keepsFlash_next (sameFlash_of_onlyChip (onlyChip_chipCommand _ _ c f s))
  | unknownFrameType c f => exact keepsFlash_unknownFrameType c f s
  | ledgerCollisionRetry c f collides => exact keepsFlash_ledgerCollisionRetry c f collides s
  | shardClose c r => exact keepsFlash_shardClose c r s
  | stageEnd c k => exact keepsFlash_stageEnd c k s
  | stageBoundExceeded c k => exact keepsFlash_stageBoundExceeded c k s
  | lineFill c line => exact keepsFlash_lineFill c line s
  | tapReset => exact keepsFlash_next (sameFlash_foldl sameFlash_resetTap _ s)
  | bypass d _ | dbgMemRead d _ => exact keepsFlash_guard (.refl s) (sameFlash_tapInstr (by exact fun _ _ => rfl) _ _ d)
  | extest d _ | clamp d | highz d | dbgStatus d | dbgTask d =>
    exact keepsFlash_next (sameFlash_tapInstr (by exact fun _ _ => rfl) _ _ d)
  | halt d ctrl | resume d ctrl | stepOneStage d ctrl | stepNCycles d ctrl => exact keepsFlash_next (sameFlash_debugCtrl _ d ctrl s)
  | dbgBreakSet d reg => exact keepsFlash_next (sameFlash_ite (sameFlash_writeSlot d reg _ s) (.refl s))
  | dbgBreakClear d reg => exact keepsFlash_next (sameFlash_ite (.refl s) (sameFlash_writeSlot d reg _ s))
  | dbgMemWrite d reg => exact keepsFlash_dbgMemWrite d reg s
  | lcAdvance d reg => exact keepsFlash_lcAdvance d reg s
  | flashProgramEraseSequence op => exact absurd rfl (h op)

/-- Settles O8. A flash sequence keeps the form; every other command, and a core cycle, leaves the flash as it is. -/
theorem stepKeepsTheFlashForm : Obligations.StepKeepsTheFlashForm := by
  unfold Obligations.StepKeepsTheFlashForm
  intro s t hwf hstep
  rw [step] at hstep
  split at hstep
  case h_1 =>
    cases hstep
    exact SameFlash.flashWf (s := s) rfl hwf
  case h_2 i rest _ =>
    by_cases hop : ∃ op, i = .flashProgramEraseSequence op
    · obtain ⟨op, rfl⟩ := hop
      exact flashWf_flashProgramEraseSequence (s := { s with pending := rest }) hwf hstep
    · exact (exec_keepsFlash { s with pending := rest } (fun op h => hop ⟨op, h⟩) t hstep).flashWf hwf

end Sys2Proof.Machine
end

section
/-!
PROOFS. Rules of an image bank that fails (R102): the code and the bank noted on a chip, and what the other chips and the keeper keep.
-/
namespace Sys2Proof.Machine

/-! ## What a Spring leaves on record -/

/-- A code that is recorded counts as no other. -/
theorem occurrences_recordFault_ne (c : Chip) {code n : Nat} (p : Option PortNo) (h : n ≠ code) :
    tabGet 0 (recordFault c code p).occurrences n = tabGet 0 c.occurrences n := tabGet_tabSet_ne _ _ _ _ _ h

theorem springFault_occurrences (c : Chip) (code : Nat) :
    (springFault c code).occurrences = (recordFault c code none).occurrences := by
  obtain ⟨l, d, h⟩ := springFault_eq c code
  rw [h]
  rfl

/-- A Spring under way is open. -/
theorem springOpen_of_springRuns {c : Chip} (h : springRuns c = true) : springOpen c = true := by
  rw [springOpen_iff]
  simp only [springRuns, Bool.or_eq_true, atPhase_iff] at h
  obtain (((((⟨hseason, hphase⟩ | ⟨hseason, hphase⟩) | ⟨hseason, hphase⟩) | ⟨hseason, hphase⟩) | ⟨hseason, hphase⟩) |
    ⟨hseason, hphase⟩) := h
  all_goals exact ⟨hseason, by simp [hphase], by simp [hphase]⟩

theorem springOpen_congr {c c' : Chip} (hseason : c'.wake.season = c.wake.season) (hphase : c'.wake.phase = c.wake.phase) :
    springOpen c' = springOpen c := by
  simp only [springOpen, hseason, hphase]

/-! ## A bank noted on a chip -/

/-- Besides halts and hits, 0x55 is recorded, the bank is noted, and what was read of the image is dropped. -/
theorem noteBank_eq (c : Chip) (bank : Bool) :
    ∃ l d, noteBank c bank = { recordFault c 0x55 none with
      wake := { c.wake with failedBank := some bank }, candidate := none, clusters := l, dbg := d } := by
  obtain ⟨l, d, h⟩ := sameButHalts_hitFault (recordFault c 0x55 none) 0x55
  exact ⟨l, d, by rw [noteBank, opFault, h]; rfl⟩

theorem noteBank_wake (c : Chip) (bank : Bool) : (noteBank c bank).wake = { c.wake with failedBank := some bank } := by
  obtain ⟨l, d, h⟩ := noteBank_eq c bank
  rw [h]

theorem noteBank_keeps (c : Chip) (bank : Bool) :
    (noteBank c bank).image = c.image ∧ (noteBank c bank).tenants = c.tenants ∧ (noteBank c bank).ports = c.ports := by
  obtain ⟨l, d, h⟩ := noteBank_eq c bank
  rw [h]
  exact ⟨rfl, rfl, rfl⟩

theorem noteBank_records (c : Chip) (bank : Bool) :
    (noteBank c bank).faults = (recordFault c 0x55 none).faults ∧
      (noteBank c bank).occurrences = (recordFault c 0x55 none).occurrences := by
  obtain ⟨l, d, h⟩ := noteBank_eq c bank
  rw [h]
  exact ⟨rfl, rfl⟩

theorem length_noteBank_le {c : Chip} (h : c.faults.length < 16) (bank : Bool) :
    (noteBank c bank).faults.length ≤ c.faults.length + 1 := by
  obtain ⟨hfaults, -⟩ := noteBank_records c bank
  rw [hfaults]
  exact length_listFault_le h

/-! ## A bank that fails -/

/-- What a failed bank leaves on a chip before the other bank is turned to. -/
def noteIfRunning (bank : Bool) (c : Chip) : Chip := if springRuns c then noteBank c bank else c

theorem noteIfRunning_of_runs {c : Chip} (h : springRuns c = true) (bank : Bool) : noteIfRunning bank c = noteBank c bank := if_pos h

theorem noteIfRunning_of_not {c : Chip} (h : springRuns c = false) (bank : Bool) : noteIfRunning bank c = c := if_neg (by simp [h])

theorem noteIfRunning_keeps (bank : Bool) (c : Chip) :
    (noteIfRunning bank c).image = c.image ∧ (noteIfRunning bank c).tenants = c.tenants := by
  unfold noteIfRunning
  split
  · obtain ⟨himage, htenants, -⟩ := noteBank_keeps c bank
    exact ⟨himage, htenants⟩
  · exact ⟨rfl, rfl⟩

/-- The first bank to fail is followed by the other one. -/
theorem bankFailed_first {s : State} (h : s.tray.load.otherFailed = false) :
    bankFailed s = modTray (mapChips s (fun _ c => noteIfRunning s.tray.load.bank c))
      (fun y => { y with load := { phase := .header, bank := !s.tray.load.bank, otherFailed := true, reports := [] } }) :=
  if_neg (by simp [h])

/-- With both failed, every Spring that is open fails. -/
theorem bankFailed_second {s : State} (h : s.tray.load.otherFailed = true) :
    bankFailed s = failAll (mapChips s (fun _ c => noteIfRunning s.tray.load.bank c)) 0x56 := if_pos h

theorem getChip_bankFailed_first {s : State} (h : s.tray.load.otherFailed = false) (p : Pos) :
    getChip (bankFailed s) p = noteIfRunning s.tray.load.bank (getChip s p) := by
  rw [bankFailed_first h, getChip_modTray, getChip_mapChips]

theorem bankFailed_second_image {s : State} (h : s.tray.load.otherFailed = true) (p : Pos) :
    (getChip (bankFailed s) p).image = (getChip s p).image := by
  obtain ⟨himage, -⟩ := noteIfRunning_keeps s.tray.load.bank (getChip s p)
  rw [bankFailed_second h, getChip_failAll, getChip_mapChips]
  split
  · obtain ⟨hkept, -⟩ := springFault_keeps (noteIfRunning s.tray.load.bank (getChip s p)) 0x56
    exact hkept.trans himage
  · exact himage

/-- On a chip whose Spring is under way the second failure fails it with 0x56, held where the list has room for both codes. -/
theorem bankFailed_second_runs {s : State} (h : s.tray.load.otherFailed = true) {p : Pos} (hruns : springRuns (getChip s p) = true) :
    (getChip (bankFailed s) p).wake.phase = .failed ∧
      tabGet 0 (getChip (bankFailed s) p).occurrences 0x56 = tabGet 0 (getChip s p).occurrences 0x56 + 1 ∧
      ((getChip s p).faults.length < 15 → holdsFault (getChip (bankFailed s) p) 0x56 = true) := by
  have hopen : springOpen (noteBank (getChip s p) s.tray.load.bank) = true := by
    rw [springOpen_congr (c := getChip s p) (by rw [noteBank_wake]) (by rw [noteBank_wake])]
    exact springOpen_of_springRuns hruns
  rw [bankFailed_second h, getChip_failAll, getChip_mapChips, noteIfRunning_of_runs hruns, if_pos hopen]
  obtain ⟨hfailed, hheld, -⟩ := springFault_allPortsOff (noteBank (getChip s p) s.tray.load.bank) 0x56
  refine ⟨hfailed, ?_, fun hroom => hheld ?_⟩
  · obtain ⟨-, hnoted⟩ := noteBank_records (getChip s p) s.tray.load.bank
    calc tabGet 0 (springFault (noteBank (getChip s p) s.tray.load.bank) 0x56).occurrences 0x56
        = tabGet 0 (noteBank (getChip s p) s.tray.load.bank).occurrences 0x56 + 1 := by
          rw [springFault_occurrences, occurrences_recordFault]
      _ = tabGet 0 (getChip s p).occurrences 0x56 + 1 := by rw [hnoted, occurrences_recordFault_ne _ _ (by decide)]
  · have hlength := length_noteBank_le (c := getChip s p) (by omega) s.tray.load.bank
    omega

end Sys2Proof.Machine
end

section
/-!
PROOFS. O28 (ImageBanksAreTried): the header of a bank, a header that fails its checks, and a chip without an outcome in time (R55, R91, R96,
R102, R104).
-/
namespace Sys2Proof.Machine

/-- Chip A at step 6 checks the header that it has read. -/
theorem exec_imageHeaderRead {s : State} (hheader : s.tray.load.phase = .header) (hseason : (getChip s 0).wake.season = .spring)
    (hphase : (getChip s 0).wake.phase = .image) :
    exec .imageHeaderRead s =
      if headerOk (bankBytes s.tray.flash s.tray.load.bank 128) && !s.tray.flashConfigAltered then
        .next (modTray s (fun y => { y with load := { y.load with phase := .body } }))
      else .next (bankFailed s) :=
  if_pos (by rw [(atPhase_iff _ _).2 ⟨hseason, hphase⟩, hheader]; rfl)

theorem exec_imageHeaderRead_failed {s : State} (hheader : s.tray.load.phase = .header)
    (hseason : (getChip s 0).wake.season = .spring) (hphase : (getChip s 0).wake.phase = .image)
    (hbad : headerOk (bankBytes s.tray.flash s.tray.load.bank 128) = false ∨ s.tray.flashConfigAltered = true) :
    exec .imageHeaderRead s = .next (bankFailed s) := by
  have hfails : (headerOk (bankBytes s.tray.flash s.tray.load.bank 128) && !s.tray.flashConfigAltered) = false := by
    obtain hheaderBad | haltered := hbad
    · rw [hheaderBad, Bool.false_and]
    · rw [haltered, Bool.not_true, Bool.and_false]
  rw [exec_imageHeaderRead hheader hseason hphase, hfails, if_neg Bool.false_ne_true]

/-- Settles O28. A header that fails is a failure of its bank; a chip without an outcome fails its own Spring alone. -/
theorem imageBanksAreTried : Obligations.ImageBanksAreTried := by
  unfold Obligations.ImageBanksAreTried
  refine ⟨fun s hheader hseason hphase hok halter => ?_, fun s hheader hseason hphase hbad hfirst => ?_,
    fun s hheader hseason hphase hbad hsecond => ?_, fun s c hne hseason hphase hroom => ?_, fun s => rfl⟩
  · exact (exec_imageHeaderRead hheader hseason hphase).trans (if_pos (by rw [hok, halter]; rfl))
  · refine ⟨_, exec_imageHeaderRead_failed hheader hseason hphase hbad, ?_, ?_, fun p => ?_⟩
    · rw [bankFailed_first hfirst]
      rfl
    · rw [bankFailed_first hfirst]
      rfl
    · rw [getChip_bankFailed_first hfirst]
      refine ⟨fun hruns => ?_, fun hnot => noteIfRunning_of_not hnot _⟩
      obtain ⟨-, htenants, hports⟩ := noteBank_keeps (getChip s p) s.tray.load.bank
      obtain ⟨-, hcounted⟩ := noteBank_records (getChip s p) s.tray.load.bank
      rw [noteIfRunning_of_runs hruns, hcounted]
      exact ⟨noteBank_wake _ _, occurrences_recordFault _ _ _, htenants, hports⟩
  · refine ⟨_, exec_imageHeaderRead_failed hheader hseason hphase hbad, ?_, ?_, fun p hruns => bankFailed_second_runs hsecond hruns⟩
    · rw [bankFailed_second hsecond]
      rfl
    · rw [bankFailed_second hsecond]
      rfl
  · have hmay : (decide (c ≠ 0) && atPhase (getChip s c) .image) = true := by
      rw [(atPhase_iff _ _).2 ⟨hseason, hphase⟩, decide_eq_true hne]
      rfl
    obtain ⟨hfailed, hheld, hports, -, -⟩ := springFault_allPortsOff (getChip s c) 0x59
    refine ⟨_, if_pos hmay, onlyChip_modChip s c _, ?_⟩
    rw [failAt, getChip_modChip_self]
    exact ⟨hfailed, congrArg Wake.entered (springFault_wake _ _), hheld hroom, hports⟩

end Sys2Proof.Machine
end

section
/-!
PROOFS. Rules of an image that is taken (Table 5-4 step 8): loading the tenants and opening the ports change neither the image nor, but for
the reference of the next Spring, the wake record.
-/
namespace Sys2Proof.Machine

/-! ## Loading a tenant -/

/-- The image in force and the wake record are as they were. -/
structure ImageKept (k k' : Chip) : Prop where
  image : k'.image = k.image
  wake : k'.wake = k.wake

theorem ImageKept.refl (k : Chip) : ImageKept k k := ⟨rfl, rfl⟩

theorem ImageKept.trans {a b c : Chip} (h : ImageKept a b) (g : ImageKept b c) : ImageKept a c :=
  ⟨g.image.trans h.image, g.wake.trans h.wake⟩

theorem imageKept_modTen (c : Chip) (t : Nat) (f : TenantCtx → TenantCtx) : ImageKept c (modTen c t f) := ⟨rfl, rfl⟩

theorem imageKept_setTen (c : Chip) (t : Nat) (x : TenantCtx) : ImageKept c (setTen c t x) := ⟨rfl, rfl⟩

theorem imageKept_countCode (c : Chip) (code : Nat) : ImageKept c (countCode c code) := ⟨rfl, rfl⟩

theorem imageKept_forEach {α : Type} {f : Chip → α → Chip} (h : ∀ c x, ImageKept c (f c x)) (l : List α) (c : Chip) :
    ImageKept c (forEach c l f) :=
  forEach_rel .refl .trans (fun c x _ => h c x) c

theorem imageKept_hitFault (c : Chip) (code : Nat) : ImageKept c (hitFault c code none) := by
  obtain ⟨l, d, h⟩ := sameButHalts_hitFault c code
  rw [h]
  exact ⟨rfl, rfl⟩

theorem imageKept_ite {p : Prop} [Decidable p] {a b c : Chip} (hb : ImageKept a b) (hc : ImageKept a c) :
    ImageKept a (if p then b else c) := by
  split
  · exact hb
  · exact hc

theorem imageKept_restoreLanes (c : Chip) (t : Nat) : ImageKept c (restoreLanes c t) := by
  unfold restoreLanes
  dsimp only
  split <;> exact ⟨rfl, rfl⟩

theorem imageKept_keepTenant (c : Chip) (t : Nat) : ImageKept c (keepTenant c t) :=
  (imageKept_setTen c t _).trans (imageKept_restoreLanes _ t)

theorem imageKept_faultTenantLoad (c : Chip) (t code : Nat) (kept : Bool) : ImageKept c (faultTenantLoad c t code kept) :=
  (imageKept_ite (p := kept = true) (imageKept_restoreLanes c t) (imageKept_setTen c t _)).trans
    (((imageKept_countCode _ code).trans (imageKept_modTen _ t _)).trans (imageKept_hitFault _ code))

theorem imageKept_loadEmpty (c : Chip) (t : Nat) (wasReset downDue : Bool) : ImageKept c (loadEmpty c t wasReset downDue) := by
  unfold loadEmpty
  split
  · exact (imageKept_modTen c t _).trans (imageKept_faultTenantLoad _ t _ false)
  · exact ⟨rfl, rfl⟩

theorem imageKept_loadAbsent (c : Chip) (t : Nat) : ImageKept c (loadAbsent c t) := by
  unfold loadAbsent
  dsimp only
  split
  · exact imageKept_ite ⟨rfl, rfl⟩ ⟨rfl, rfl⟩
  · exact ⟨rfl, rfl⟩

theorem imageKept_drawKey (c : Chip) (t : Nat) : ImageKept c (drawKey c t) := ⟨rfl, rfl⟩

theorem imageKept_zeroTenantSram (c : Chip) (t : Nat) : ImageKept c (zeroTenantSram c t) := ⟨rfl, rfl⟩

/-- A slot is absent, kept, or loaded as an empty tenant, with a key drawn where it needs one. -/
theorem imageKept_loadSlot (c : Chip) (t : Nat) (fresh keep pinLow : Bool) : ImageKept c (loadSlot c t fresh keep pinLow) := by
  refine imageKept_ite (imageKept_loadAbsent c t) (imageKept_ite ?_ ?_)
  · split
    · exact imageKept_faultTenantLoad c t _ true
    · exact imageKept_keepTenant c t
  · have hempty : ∀ (b : Bool) (wasReset downDue : Bool),
        ImageKept c (loadEmpty (zeroTenantSram (if b then drawKey c t else c) t) t wasReset downDue) := fun _ _ _ =>
      ((imageKept_ite (imageKept_drawKey c t) (.refl c)).trans (imageKept_zeroTenantSram _ t)).trans (imageKept_loadEmpty _ t _ _)
    exact imageKept_ite ((hempty _ _ _).trans (imageKept_modTen _ t _)) (hempty _ _ _)

/-- Loading every tenant is a run over the slots, and then the reference of the next Spring. -/
theorem loadTenants_eq (c : Chip) (low : BitVec 8) :
    ∃ (b : Wake → Bool) (f : Chip → Nat → Chip), (∀ k t, ImageKept k (f k t)) ∧ loadTenants c low =
      modWake (forEach (modWake c (fun w => { w with coldBegun := b w })) (List.range 8) f)
        (fun w => { w with prevLatched := w.latched, prevGeneration := w.generation }) := by
  refine ⟨_, _, ?_, rfl⟩
  exact fun k t => imageKept_loadSlot k t _ _ _

theorem loadTenants_keeps (c : Chip) (low : BitVec 8) :
    (loadTenants c low).image = c.image ∧
      ∃ b, (loadTenants c low).wake =
        { c.wake with coldBegun := b, prevLatched := c.wake.latched, prevGeneration := c.wake.generation } := by
  obtain ⟨b, f, hslot, hload⟩ := loadTenants_eq c low
  have hkept := imageKept_forEach hslot (List.range 8) (modWake c (fun w => { w with coldBegun := b w }))
  rw [hload]
  exact ⟨hkept.image, b c.wake, by rw [modWake_wake, hkept.wake, modWake_wake]⟩

/-! ## The end of Spring -/

/-- With no 11 recorded, Spring ends where it stands. -/
theorem finishSpring_spring {c : Chip} (h : c.wake.summerDue = false) :
    finishSpring c = modWake c (fun w => { w with phase := .done, entered := true }) := if_neg (by simp [h])

theorem imageKept_openPorts (s : State) (p : Pos) : ImageKept (getChip s p) (getChip (openPorts s p) p) := by
  rw [openPorts, getChip_modChip_self]
  exact forEach_rel .refl .trans (fun _ _ _ => ⟨rfl, rfl⟩) _

theorem placeOk_congr {c c' : Chip} (himage : c'.image = c.image) (hlatched : c'.wake.latched = c.wake.latched) :
    placeOk c' = placeOk c := by
  simp only [placeOk, himage, hlatched]

/-! ## A chip that takes an image -/

/-- A chip as the image of a bank is in force on it, with the other bank's failure on record where there was one (R102, R103). -/
def takeImage (s : State) (i : Image) (k : Chip) : Chip :=
  let k := if s.tray.load.otherFailed && k.wake.failedBank.isNone then noteBank k (!s.tray.load.bank) else k
  modWake { k with image := some i, candidate := none } (fun w => { w with generation := i.generation, bank := s.tray.load.bank })

theorem takeImage_takes (s : State) (i : Image) (k : Chip) :
    (takeImage s i k).image = some i ∧ (takeImage s i k).tenants = k.tenants ∧
      (∃ b, (takeImage s i k).wake = { k.wake with failedBank := b, generation := i.generation, bank := s.tray.load.bank }) ∧
      (k.faults.length < 15 → (takeImage s i k).faults.length < 16) := by
  unfold takeImage
  dsimp only
  split
  · obtain ⟨-, htenants, -⟩ := noteBank_keeps k (!s.tray.load.bank)
    refine ⟨rfl, htenants, ⟨some !s.tray.load.bank, ?_⟩, fun hroom => ?_⟩
    · rw [modWake_wake, noteBank_wake]
    · have hlength := length_noteBank_le (c := k) (by omega) (!s.tray.load.bank)
      exact Nat.lt_of_le_of_lt hlength (by omega)
  · exact ⟨rfl, rfl, ⟨k.wake.failedBank, rfl⟩, fun hroom => Nat.lt_succ_of_lt hroom⟩

theorem acceptImage_eq {s : State} {p : Pos} {i : Image} (hat : atPhase (getChip s p) .image = true)
    (hparsed : (getChip s p).candidate = some i) :
    acceptImage s p =
      if placeOk (takeImage s i (getChip s p)) then
        openPorts (setChip s p (finishSpring (loadTenants (takeImage s i (getChip s p)) s.tray.tenrstLow))) p
      else failAt (setChip s p (takeImage s i (getChip s p))) p 0x58 := by
  unfold acceptImage takeImage
  dsimp only
  rw [if_pos hat, hparsed]

/-- A chip with no 11 recorded that has taken the image loads its tenants and is at the end of its Spring. -/
theorem acceptImage_done (s : State) (p : Pos) {k : Chip} (hsummer : k.wake.summerDue = false) (low : BitVec 8) :
    (getChip (openPorts (setChip s p (finishSpring (loadTenants k low))) p) p).image = k.image ∧
      ∃ b, (getChip (openPorts (setChip s p (finishSpring (loadTenants k low))) p) p).wake =
        { k.wake with coldBegun := b, prevLatched := k.wake.latched, prevGeneration := k.wake.generation, phase := .done, entered := true } := by
  obtain ⟨himage, b, hwake⟩ := loadTenants_keeps k low
  generalize loadTenants k low = n at himage hwake ⊢
  have hkept := imageKept_openPorts (setChip s p (finishSpring n)) p
  rw [getChip_setChip_self, finishSpring_spring (by rw [hwake]; exact hsummer)] at hkept
  rw [finishSpring_spring (by rw [hwake]; exact hsummer)]
  exact ⟨hkept.image.trans himage, b, by rw [hkept.wake, modWake_wake, hwake]⟩

/-- What the acceptance of an image from a bank makes of a chip whose Spring stays in Spring. -/
structure Accepts (i : Image) (bank : Bool) (k k' : Chip) : Prop where
  image : k'.image = some i
  generation : k'.wake.generation = i.generation
  bank : k'.wake.bank = bank
  season : k'.wake.season = .spring
  placed : placeOk { k with image := some i } = true → k'.wake.phase = .done ∧ k'.wake.entered = true
  misplaced : placeOk { k with image := some i } = false →
    k'.wake.phase = .failed ∧ (k.faults.length < 15 → holdsFault k' 0x58 = true) ∧ k'.tenants = k.tenants

theorem accepts_acceptImage {s : State} {p : Pos} {i : Image} (hparsed : (getChip s p).candidate = some i)
    (hseason : (getChip s p).wake.season = .spring) (hphase : (getChip s p).wake.phase = .image)
    (hsummer : (getChip s p).wake.summerDue = false) :
    Accepts i s.tray.load.bank (getChip s p) (getChip (acceptImage s p) p) := by
  rw [acceptImage_eq ((atPhase_iff _ _).2 ⟨hseason, hphase⟩) hparsed]
  obtain ⟨himage, htenants, ⟨b, hwake⟩, hroom⟩ := takeImage_takes s i (getChip s p)
  have hplace : placeOk (takeImage s i (getChip s p)) = placeOk { getChip s p with image := some i } :=
    placeOk_congr himage (by rw [hwake])
  rw [hplace]
  generalize takeImage s i (getChip s p) = m at himage htenants hwake hroom ⊢
  cases hok : placeOk { getChip s p with image := some i } with
  | true =>
    obtain ⟨hsame, n, hend⟩ := acceptImage_done s p (k := m) (by rw [hwake]; exact hsummer) s.tray.tenrstLow
    rw [if_pos rfl]
    generalize getChip (openPorts _ p) p = e at hsame hend ⊢
    rw [hwake] at hend
    exact ⟨hsame.trans himage, by rw [hend], by rw [hend], by rw [hend]; exact hseason, fun _ => ⟨by rw [hend], by rw [hend]⟩,
      fun h => absurd (hok.symm.trans h) (by decide)⟩
  | false =>
    rw [if_neg Bool.false_ne_true, failAt, getChip_modChip_self, getChip_setChip_self]
    obtain ⟨hfailed, hheld, -⟩ := springFault_allPortsOff m 0x58
    obtain ⟨hsame, hkept, -, -⟩ := springFault_keeps m 0x58
    have hend := springFault_wake m 0x58
    rw [hwake] at hend
    exact ⟨hsame.trans himage, congrArg Wake.generation hend, congrArg Wake.bank hend, (congrArg Wake.season hend).trans hseason,
      fun h => absurd (hok.symm.trans h) (by decide), fun _ => ⟨hfailed, fun hfew => hheld (hroom hfew), hkept.trans htenants⟩⟩

end Sys2Proof.Machine
end

section
/-!
PROOFS. O29 (ImageIsAcceptedByAllFour): a chip's own checks of a bank, and what the four reports lead to (Table 5-4 steps 4 to 8, R102,
R103, R105).
-/
namespace Sys2Proof.Machine

/-! ## The four chips one after the other -/

/-- Operations on other chips leave a chip as it is. -/
theorem getChip_foldl_onlyChip_notMem {f : State → Pos → State} (h : ∀ s p, OnlyChip p s (f s p)) {l : List Pos} {p : Pos}
    (hp : p ∉ l) (s : State) : getChip (l.foldl f s) p = getChip s p := by
  induction l generalizing s with
  | nil => rfl
  | cons q l ih =>
    rw [List.mem_cons, not_or] at hp
    obtain ⟨hpq, hpl⟩ := hp
    obtain ⟨-, -, hothers⟩ := h s q
    exact (ih hpl (f s q)).trans (hothers p hpq)

/-- Where each of a run of operations changes one chip of its own, each finds its chip and the keeper as they were at the start, and
leaves its chip as it is at the end. -/
theorem getChip_foldl_onlyChip {f : State → Pos → State} (h : ∀ s p, OnlyChip p s (f s p)) {l : List Pos} (hl : l.Nodup) {p : Pos}
    (hp : p ∈ l) (s : State) :
    ∃ s', s'.tray = s.tray ∧ getChip s' p = getChip s p ∧ getChip (l.foldl f s) p = getChip (f s' p) p := by
  induction l generalizing s with
  | nil => exact absurd hp List.not_mem_nil
  | cons q l ih =>
    obtain ⟨hq, hl⟩ := List.nodup_cons.1 hl
    by_cases hpq : p = q
    · subst hpq
      exact ⟨s, rfl, rfl, getChip_foldl_onlyChip_notMem h hq (f s p)⟩
    · obtain ⟨-, htray, hothers⟩ := h s q
      obtain ⟨s', htray', hchip', hend⟩ := ih hl ((List.mem_cons.1 hp).resolve_left hpq) (f s q)
      exact ⟨s', htray'.trans htray, hchip'.trans (hothers p hpq), hend⟩

theorem foldl_onlyChip_keeps {f : State → Pos → State} (h : ∀ s p, OnlyChip p s (f s p)) (l : List Pos) (s : State) :
    (l.foldl f s).pending = s.pending ∧ (l.foldl f s).tray = s.tray := by
  induction l generalizing s with
  | nil => exact ⟨rfl, rfl⟩
  | cons p l ih =>
    obtain ⟨hpending, htray, -⟩ := h s p
    obtain ⟨ihpending, ihtray⟩ := ih (f s p)
    exact ⟨ihpending.trans hpending, ihtray.trans htray⟩

/-! ## The commands -/

theorem exec_imageBankReadDone {s : State} {c : Pos} (hbody : s.tray.load.phase = .body) (hseason : (getChip s c).wake.season = .spring)
    (hphase : (getChip s c).wake.phase = .image) (hnone : tabFind s.tray.load.reports c = none) {img : Option Image}
    (himg : parseImage (bankBytes s.tray.flash s.tray.load.bank (imageLength s.tray.flash s.tray.load.bank)) = img) :
    exec (.imageBankReadDone c) s = .next (modTray (setChip s c { getChip s c with candidate := img })
      (fun y => { y with load := { y.load with reports := tabSet y.load.reports c img.isSome } })) := by
  subst himg
  exact if_pos (by rw [hbody, (atPhase_iff _ _).2 ⟨hseason, hphase⟩, hnone]; rfl)

theorem acceptInTurn_eq (s : State) :
    acceptImage (acceptImage (acceptImage (acceptImage s 0) 1) 2) 3 = [0, 1, 2, 3].foldl acceptImage s := by
  simp only [List.foldl_cons, List.foldl_nil]

/-- With four good reports the chips take the image one after the other. -/
theorem exec_bankCheckReport_good {s : State} (hbody : s.tray.load.phase = .body) (hfour : s.tray.load.reports.length = 4)
    (hgood : ∀ r ∈ s.tray.load.reports, r.2 = true) :
    exec .bankCheckReport s = .next (modTray ([0, 1, 2, 3].foldl acceptImage s)
      (fun y => { y with flashOctal := false, load := .reset })) := by
  rw [← acceptInTurn_eq]
  refine (if_pos hbody).trans ((if_neg ?_).trans (if_pos hfour))
  simpa using hgood

/-- One bad report fails the bank. -/
theorem exec_bankCheckReport_bad {s : State} (hbody : s.tray.load.phase = .body) (hbad : ∃ r ∈ s.tray.load.reports, r.2 = false) :
    exec .bankCheckReport s = .next (bankFailed s) := by
  refine (if_pos hbody).trans (if_pos ?_)
  simpa using hbad

/-- Settles O29. Each chip takes the image in its turn, from the state in which the others before it have left it and the keeper alone. -/
theorem imageIsAcceptedByAllFour : Obligations.ImageIsAcceptedByAllFour := by
  unfold Obligations.ImageIsAcceptedByAllFour
  refine ⟨fun s c hbody hseason hphase hnone => ?_, fun s i hbody hfour hgood hchips => ?_,
    fun s hbody hbad => ⟨fun hfirst => ?_, fun hsecond => ?_⟩⟩
  · refine ⟨_, exec_imageBankReadDone hbody hseason hphase hnone rfl, ⟨rfl, fun p hp => ?_⟩, ?_, tabFind_tabSet_self _ c _,
      fun d hd => tabFind_tabSet_ne _ c d _ hd, rfl⟩
    · rw [getChip_modTray, getChip_setChip_ne s c p _ hp]
    · rw [getChip_modTray, getChip_setChip_self]
  · obtain ⟨hpending, htray⟩ := foldl_onlyChip_keeps onlyChip_acceptImage [0, 1, 2, 3] s
    refine ⟨_, exec_bankCheckReport_good hbody hfour hgood, (modTray_pending _ _).trans hpending, by rw [modTray_tray, htray], fun p => ?_⟩
    have hall : ∀ p : Pos, p ∈ [0, 1, 2, 3] := by decide
    obtain ⟨s', hsame, hchip, hend⟩ := getChip_foldl_onlyChip onlyChip_acceptImage (by decide) (hall p) s
    obtain ⟨hparsed, hseason, hphase, hsummer⟩ := hchips p
    rw [← hchip] at hparsed hseason hphase hsummer
    have haccepts := accepts_acceptImage hparsed hseason hphase hsummer
    rw [hsame, hchip, ← hend] at haccepts
    rw [getChip_modTray]
    exact ⟨haccepts.image, haccepts.generation, haccepts.bank, haccepts.season, haccepts.placed, haccepts.misplaced⟩
  · refine ⟨_, exec_bankCheckReport_bad hbody hbad, ?_, ?_, fun p => ?_⟩
    · rw [bankFailed_first hfirst]
      rfl
    · rw [bankFailed_first hfirst]
      rfl
    · obtain ⟨himage, htenants⟩ := noteIfRunning_keeps s.tray.load.bank (getChip s p)
      rw [getChip_bankFailed_first hfirst]
      refine ⟨himage, htenants, fun hruns => ?_⟩
      rw [noteIfRunning_of_runs hruns, noteBank_wake]
  · refine ⟨_, exec_bankCheckReport_bad hbody hbad, ?_, ?_, fun p => ⟨bankFailed_second_image hsecond p, fun hruns => ?_⟩⟩
    · rw [bankFailed_second hsecond]
      rfl
    · rw [bankFailed_second hsecond]
      rfl
    · obtain ⟨hfailed, -, hheld⟩ := bankFailed_second_runs hsecond hruns
      exact ⟨hfailed, hheld⟩

end Sys2Proof.Machine
end

section
/-!
PROOFS. O31 (TenantResetCompletesAndIsTold): step 7 of Table 7-3, and the TENANT_DOWN that a reset owes (R132 to R135).
-/
namespace Sys2Proof.Machine

/-! ## Step 7 of Table 7-3 -/

/-- A tenant's record as its reset ends: its faults are cleared but for that of a failed load. -/
def endReset (x : TenantCtx) : TenantCtx :=
  let fault := if x.loaded then 0 else x.fault
  { x with resetPhase := .none, fault := fault, state := if fault = 0 then .running else .faulted }

theorem endReset_loaded {x : TenantCtx} (h : x.loaded = true) : endReset x = { x with resetPhase := .none, fault := 0, state := .running } := by
  simp [endReset, h]

theorem endReset_unloaded {x : TenantCtx} (h : x.loaded = false) (hfault : x.fault ≠ 0) :
    endReset x = { x with resetPhase := .none, state := .faulted } := by
  simp [endReset, h, hfault]

theorem exec_tenantResetComplete_high {s : State} {c : Pos} {t : Tenant} (hloaded : (ten (getChip s c) t.val).resetPhase = .loaded)
    (hhigh : s.tray.tenrstLow.getLsbD t.val = false) :
    exec (.tenantResetComplete c t) s = .next (modChip s c (fun k => modTen k t.val endReset)) :=
  if_pos (by rw [hloaded, hhigh]; rfl)

theorem exec_tenantResetComplete_low {s : State} {t : Tenant} (h : s.tray.tenrstLow.getLsbD t.val = true) (c : Pos) :
    exec (.tenantResetComplete c t) s = .next s :=
  if_neg (by rw [h, Bool.not_true, Bool.and_false]; exact Bool.false_ne_true)

/-! ## TENANT_DOWN to the peers -/

/-- The TENANT_DOWN of a reset to one peer. -/
def tenantDownTo (c : Chip) (t n : Nat) : TxFrame := chipTo c n (chipHdr tyTenantDown t 0 n) (downPayload c)

/-- Telling the peers puts one frame for each behind the frames that wait to be sent, and changes nothing else. -/
theorem sendTenantDown_eq (c : Chip) (t : Nat) :
    sendTenantDown c t = { c with outbox := c.outbox ++ (peerChips c t).map (tenantDownTo c t) } := by
  have hsent : ∀ (l : List Nat) (o : List TxFrame),
      forEach { c with outbox := o } l (fun c n => sendChip c n (chipHdr tyTenantDown t 0 n) (downPayload c)) =
        { c with outbox := o ++ l.map (tenantDownTo c t) } := by
    intro l
    induction l with
    | nil => exact fun o => by rw [List.map_nil, List.append_nil]; rfl
    | cons n l ih => exact fun o => (ih (o ++ [tenantDownTo c t n])).trans (by rw [List.map_cons, List.append_assoc, List.singleton_append])
  exact hsent (peerChips c t) c.outbox

theorem exec_deferredTenantDown_due {s : State} {c : Pos} {t : Tenant} (hdone : (getChip s c).wake.phase = .done)
    (hlinks : linksOn (getChip s c) = true) (hdue : (ten (getChip s c) t.val).downDue = true) (hreached : peersReached (getChip s c) t.val = true) :
    exec (.deferredTenantDown c t) s =
      .next (setChip s c (modTen (sendTenantDown (getChip s c) t.val) t.val (fun x => { x with downDue := false }))) :=
  if_pos (by simp [hdone, hlinks, hdue, hreached])

theorem exec_deferredTenantDown_none {s : State} {c : Pos} {t : Tenant} (h : (ten (getChip s c) t.val).downDue = false) :
    exec (.deferredTenantDown c t) s = .next s :=
  if_neg (by simp [h])

/-! ## O31 -/

/-- Settles O31. Step 7 changes t's record by endReset and nothing else; a TENANT_DOWN owed adds one frame for each peer. -/
theorem tenantResetCompletesAndIsTold : Obligations.TenantResetCompletesAndIsTold := by
  unfold Obligations.TenantResetCompletesAndIsTold
  refine ⟨fun s c t hloaded hhigh => ?_, fun s c t hlow => exec_tenantResetComplete_low hlow c, fun s c t hdone hlinks hdue hreached => ?_,
    fun s c t hnone => exec_deferredTenantDown_none hnone⟩
  · refine ⟨_, exec_tenantResetComplete_high hloaded hhigh, onlyChip_modChip s c _, ?_⟩
    rw [getChip_modChip_self, ten_modTen_self]
    exact ⟨endReset_loaded, endReset_unloaded, fun n hn => ten_modTen_ne _ _ n _ hn, rfl, rfl, rfl⟩
  · refine ⟨_, exec_deferredTenantDown_due hdone hlinks hdue hreached, onlyChip_setChip s c _, ?_⟩
    rw [getChip_setChip_self, ten_modTen_self, sendTenantDown_eq]
    exact ⟨rfl, rfl, fun n hn => ten_modTen_ne _ _ n _ hn, rfl, rfl, rfl⟩

end Sys2Proof.Machine
end

section
/-!
PROOFS. The refutation of O55 (TenantLevelCodesFaultOneTenant). Its last clause speaks of tenantFault with any code. Fault containment answers the
tenant's held PULLs from committed state (R19, R131), and a PULL that meets poison there counts the poison's own code, 0x21 or 0x22 (Table 16-6).
Raised with that very code, tenantFault counts it twice.
-/
namespace Sys2Proof.Machine.PoisonedPull

/-- T0 of TwiceHeld, with poison in its shard's master and a PULL of it held. -/
def tenant : TenantCtx :=
  { TwiceHeld.tenant with
    heldPulls := [TwiceHeld.pullFrame], shards := [((0, 0), { TwiceHeld.shard with poison := [(0, 0, false)] })] }

def chip : Chip := { TwiceHeld.chip with tenants := [(0, tenant)], lines := [] }

/-- T0 runs, with no fault and no reset. -/
theorem tenant_runs : (ten chip 0).fault = 0 ∧ (ten chip 0).resetPhase = .none ∧ (ten chip 0).loaded = true := by decide +kernel

/-- The code raised is counted, and once more as the PULL's reply ends with it. -/
theorem occurrences_tenantFault : tabGet 0 chip.occurrences 0x21 = 0 ∧ tabGet 0 (tenantFault chip 0 0x21).occurrences 0x21 = 2 := by
  decide +kernel

end Sys2Proof.Machine.PoisonedPull

namespace Sys2Proof.Machine

open PoisonedPull

/-- Refutes O55: 0x21 raised at a tenant that holds a PULL of a poisoned array is counted twice, not once. -/
theorem not_tenantLevelCodesFaultOneTenant : ¬ Obligations.TenantLevelCodesFaultOneTenant := by
  unfold Obligations.TenantLevelCodesFaultOneTenant
  rintro ⟨-, -, -, hfaults⟩
  obtain ⟨hfault, hreset, hloaded⟩ := tenant_runs
  obtain ⟨-, -, -, -, hcounted, -⟩ := hfaults chip 0 0x21 _ hfault (by decide) hreset hloaded rfl
  obtain ⟨hbefore, hafter⟩ := occurrences_tenantFault
  omega

end Sys2Proof.Machine
end

section
/-!
PROOFS. Rules about what a cluster finds as a task starts there (R295, R296): L1 emptied, scratchpad zeroed, the task's first stage to come.
-/
namespace Sys2Proof.Machine

/-! ## Clusters and caches -/

/-- Work on clusters and slice lines: a chip that differs in those alone. -/
def SameButCaches (k k' : Chip) : Prop := ∃ cl li, k' = { k with clusters := cl, lines := li }

theorem SameButCaches.refl (k : Chip) : SameButCaches k k := ⟨k.clusters, k.lines, rfl⟩

theorem SameButCaches.trans {a b c : Chip} (h : SameButCaches a b) (g : SameButCaches b c) : SameButCaches a c := by
  obtain ⟨_, _, rfl⟩ := h
  obtain ⟨cl, li, rfl⟩ := g
  exact ⟨cl, li, rfl⟩

theorem SameButCaches.frame {k k' : Chip} (h : SameButCaches k k') (t : Nat) : TenantFrame t k k' := by
  obtain ⟨_, _, rfl⟩ := h
  exact ⟨rfl, rfl, rfl, rfl, rfl, fun _ _ => rfl⟩

theorem SameButCaches.tenants {k k' : Chip} (h : SameButCaches k k') : k'.tenants = k.tenants := by
  obtain ⟨_, _, rfl⟩ := h
  rfl

theorem sameButCaches_modCluster (c : Chip) (k : ClusterNo) (f : Cluster → Cluster) : SameButCaches c (modCluster c k f) := ⟨_, c.lines, rfl⟩

theorem sameButCaches_modLine (c : Chip) (line : Nat) (f : SliceLine → SliceLine) : SameButCaches c (modLine c line f) := by
  unfold modLine
  split
  · exact ⟨c.clusters, _, rfl⟩
  · exact .refl c

theorem sameButCaches_pullDirty (c : Chip) (line : Nat) (k : ClusterNo) : SameButCaches c (pullDirty c line k) := by
  unfold pullDirty
  split
  · split
    · exact sameButCaches_modLine c line _
    · exact .refl c
  · exact .refl c

theorem sameButCaches_dropL1 (c : Chip) (line : Nat) (k : ClusterNo) : SameButCaches c (dropL1 c line k) :=
  (sameButCaches_modCluster c k _).trans (sameButCaches_modLine _ line _)

theorem sameButCaches_emptyL1 (c : Chip) (k : ClusterNo) : SameButCaches c (emptyL1 c k) :=
  forEach_rel .refl .trans (fun c n _ => (sameButCaches_pullDirty c n k).trans (sameButCaches_dropL1 _ n k)) c

theorem sameButCaches_enterCluster (c : Chip) (k : ClusterNo) (u : Task) : SameButCaches c (enterCluster c k u) := by
  unfold enterCluster
  split
  · exact sameButCaches_modCluster c k _
  · exact (sameButCaches_emptyL1 c k).trans (sameButCaches_modCluster _ k _)

/-! ## One cluster -/

theorem clusterOf_congr {c c' : Chip} (h : c'.clusters = c.clusters) (k : ClusterNo) : clusterOf c' k = clusterOf c k := by
  simp only [clusterOf, h]

theorem modLine_clusters (c : Chip) (line : Nat) (f : SliceLine → SliceLine) : (modLine c line f).clusters = c.clusters := by
  unfold modLine
  split <;> rfl

theorem pullDirty_clusters (c : Chip) (line : Nat) (k : ClusterNo) : (pullDirty c line k).clusters = c.clusters := by
  unfold pullDirty
  split
  · split
    · exact modLine_clusters c line _
    · rfl
  · rfl

theorem clusterOf_dropL1_self (c : Chip) (line : Nat) (k : ClusterNo) :
    clusterOf (dropL1 c line k) k = { clusterOf c k with l1 := tabErase (clusterOf c k).l1 line } :=
  (clusterOf_congr (modLine_clusters _ line _) k).trans (clusterOf_modCluster_self c k _)

theorem mem_tabErase {κ α : Type} [DecidableEq κ] {l : Tab κ α} {k : κ} {p : κ × α} (h : p ∈ tabErase l k) : p ∈ l ∧ p.1 ≠ k := by
  induction l with
  | nil => exact absurd h List.not_mem_nil
  | cons q l ih =>
    rw [tabErase] at h
    split at h
    · exact ⟨List.mem_cons_of_mem _ (ih h).1, (ih h).2⟩
    case isFalse hne =>
      obtain rfl | h := List.mem_cons.1 h
      · exact ⟨List.mem_cons_self, hne⟩
      · exact ⟨List.mem_cons_of_mem _ (ih h).1, (ih h).2⟩

/-- Erasing every key of a table leaves nothing. -/
theorem foldl_tabErase_eq_nil {κ α : Type} [DecidableEq κ] {ks : List κ} {l : Tab κ α} (h : ∀ p ∈ l, p.1 ∈ ks) : ks.foldl tabErase l = [] := by
  induction ks generalizing l with
  | nil => exact List.eq_nil_iff_forall_not_mem.2 fun p hp => List.not_mem_nil (h p hp)
  | cons k ks ih =>
    refine ih fun p hp => ?_
    obtain ⟨hmem, hne⟩ := mem_tabErase hp
    exact (List.mem_cons.1 (h p hmem)).resolve_left hne

theorem clusterOf_emptyL1 (c : Chip) (k : ClusterNo) : clusterOf (emptyL1 c k) k = { clusterOf c k with l1 := [] } := by
  have hdropped : ∀ (ns : List Nat) (c : Chip),
      clusterOf (ns.foldl (fun c n => dropL1 (pullDirty c n k) n k) c) k =
        { clusterOf c k with l1 := ns.foldl tabErase (clusterOf c k).l1 } := by
    intro ns
    induction ns with
    | nil => exact fun c => rfl
    | cons n ns ih =>
      intro c
      rw [List.foldl_cons, ih, clusterOf_dropL1_self, clusterOf_congr (pullDirty_clusters c n k), List.foldl_cons]
  rw [emptyL1, hdropped, foldl_tabErase_eq_nil fun p hp => List.mem_map_of_mem hp]

/-- A cluster that a task has entered: L1 empty after a change of split (R295), scratchpad zero after another tenant's task (R296). -/
def entered (x : Cluster) (u : Task) : Cluster :=
  { x with l1 := if x.lastL1 = u.l1 then x.l1 else [], lastL1 := u.l1, lastTenant := some u.tenant,
           scratch := if x.lastTenant = some u.tenant then x.scratch else [],
           scratchPoison := if x.lastTenant = some u.tenant then x.scratchPoison else [] }

theorem clusterOf_enterCluster (c : Chip) (k : ClusterNo) (u : Task) : clusterOf (enterCluster c k u) k = entered (clusterOf c k) u := by
  rw [enterCluster, clusterOf_modCluster_self]
  by_cases hl1 : (clusterOf c k).lastL1 = u.l1
  · simp only [if_pos hl1, entered, decide_eq_true_eq, ite_not]
  · simp only [if_neg hl1, clusterOf_emptyL1, entered, decide_eq_true_eq, ite_not]

/-! ## The tenant of a task that starts -/

/-- A wait that is noted marks steps of the task's tenant. -/
theorem ten_noteWait (now : Nat) (c : Chip) (u : Task) :
    ∃ l, ten (noteWait now c u) u.tenant = { ten c u.tenant with steps := l } :=
  ⟨_, ten_modTen_self c u.tenant _⟩

theorem tenantExists_congr {c c' : Chip} (h : c'.wake = c.wake) (t : Nat) : tenantExists c' t = tenantExists c t := by
  have hshares : sharesOf c' = sharesOf c := by simp only [sharesOf, h]
  exact congrArg (fun l : List Nat => decide (t < l.length)) hshares

theorem ten_countTen_self {c : Chip} {t : Nat} (h : tenantExists c t = true) (i n : Nat) :
    ten (countTen c t i n) t =
      { ten c t with counters := tabSet (ten c t).counters i (satAdd64 (tabGet 0 (ten c t).counters i) n) } := by
  rw [countTen, if_pos h, ten_modTen_self]

theorem countTen_clusters (c : Chip) (t i n : Nat) : (countTen c t i n).clusters = c.clusters := (sameBody_countTen c t i n).clusters

/-- A tenant one of whose tasks has started: the task is counted, and marks may stand on its steps. -/
def CountedRun (x x' : TenantCtx) : Prop :=
  ∃ l, x' = { x with steps := l, counters := tabSet x.counters 27 (satAdd64 (tabGet 0 x.counters 27) 1) }

theorem CountedRun.counter {x x' : TenantCtx} (h : CountedRun x x') : tabGet 0 x'.counters 27 = satAdd64 (tabGet 0 x.counters 27) 1 := by
  obtain ⟨l, rfl⟩ := h
  exact tabGet_tabSet_self _ _ _ _

/-! ## A task takes its place -/

theorem freshRun_congr {c c' : Chip} (h : c'.image = c.image) (u : Task) (p : Bool) : freshRun c' u p = freshRun c u p := by
  simp only [freshRun, noLoadsFrom, recipeAt, h]

/-- A cluster on which a task of its queue has its first stage to come. -/
def begun (c : Chip) (x : Cluster) (u : Task) : Cluster :=
  { entered { x with queue := x.queue.erase u } u with run := some (freshRun c u false), prologueDue := false }

theorem clusterOf_placeTask (c : Chip) (now : Nat) (k : ClusterNo) (u : Task) :
    clusterOf (placeTask c now k u) k = begun c (clusterOf c k) u := by
  rw [placeTask, clusterOf_modCluster_self, clusterOf_congr (countTen_clusters _ _ _ _), clusterOf_enterCluster, noteWait,
    clusterOf_congr (modTen_clusters _ _ _), clusterOf_modCluster_self, freshRun_congr (modTen_image _ _ _)]
  rfl

theorem tenantFrame_placeTask (c : Chip) (now : Nat) (k : ClusterNo) (u : Task) : TenantFrame u.tenant c (placeTask c now k u) := by
  generalize hw : noteWait now (modCluster c k (fun x => { x with queue := x.queue.erase u })) u = w
  have hwait : TenantFrame u.tenant c w :=
    hw ▸ tenantFrame_trans ((sameButCaches_modCluster c k _).frame u.tenant) (tenantFrame_modTen _ u.tenant _)
  have henter := tenantFrame_trans hwait ((sameButCaches_enterCluster w k u).frame u.tenant)
  have hcount := tenantFrame_trans henter (quiet_countTen (enterCluster w k u) u.tenant 27 1).frame
  rw [placeTask, hw]
  exact tenantFrame_trans hcount ((sameButCaches_modCluster _ k _).frame u.tenant)

theorem countedRun_placeTask {c : Chip} {u : Task} (h : tenantExists c u.tenant = true) (now : Nat) (k : ClusterNo) :
    CountedRun (ten c u.tenant) (ten (placeTask c now k u) u.tenant) := by
  generalize hw : noteWait now (modCluster c k (fun x => { x with queue := x.queue.erase u })) u = w
  have hentered := sameButCaches_enterCluster w k u
  obtain ⟨-, hwake, -⟩ := hentered.frame u.tenant
  have hexists : tenantExists (enterCluster w k u) u.tenant = true := by
    rw [tenantExists_congr hwake, ← hw]
    exact h
  have hten : ten (enterCluster w k u) u.tenant = ten w u.tenant := by simp only [ten, hentered.tenants]
  have hplace : ten (placeTask c now k u) u.tenant = ten (countTen (enterCluster w k u) u.tenant 27 1) u.tenant := by
    rw [← hw]
    rfl
  obtain ⟨l, hl⟩ := ten_noteWait now (modCluster c k (fun x => { x with queue := x.queue.erase u })) u
  rw [hw] at hl
  exact ⟨l, by rw [hplace, ten_countTen_self hexists, hten, hl]; rfl⟩

/-! ## The fault that a task meets does not depend on its start -/

theorem arrayInfoOf_congr {c c' : Chip} {t : Nat} (himage : c'.image = c.image) (hm8 : (ten c' t).m8 = (ten c t).m8) (tensor shard : Nat) :
    arrayInfoOf c' t tensor shard = arrayInfoOf c t tensor shard := by
  simp only [arrayInfoOf, groupOfTensor, elemsOf, catOf, himage, hm8]

theorem layoutOf_congr {c c' : Chip} {t : Nat} (himage : c'.image = c.image) (hwake : c'.wake = c.wake) (hm8 : (ten c' t).m8 = (ten c t).m8)
    (hshift : (ten c' t).shadowShift = (ten c t).shadowShift) : layoutOf c' t = layoutOf c t := by
  simp only [layoutOf, arrayRuns, homedShards, torusOf, chipNo, trayOf, posOf, regionBaseOf, regionSizeOf, shareBase, shareOf, sharesOf,
    arrayInfoOf_congr himage hm8, catOf, himage, hwake, hshift]

theorem addressFault_congr {c c' : Chip} {u : Task} (himage : c'.image = c.image) (hwake : c'.wake = c.wake)
    (hm8 : (ten c' u.tenant).m8 = (ten c u.tenant).m8) (hshift : (ten c' u.tenant).shadowShift = (ten c u.tenant).shadowShift)
    (d : DescRec) (l : List Nat) : addressFault c' u d l = addressFault c u d l := by
  have hsite (a : Nat) : inSite c' u a = inSite c u a := by simp only [inSite, siteOf, catOf, himage]
  have hattr (k : ExtentKind) : extentAttr c' u.tenant k = extentAttr c u.tenant k := by
    simp only [extentAttr, regionAttr, catOf, himage]
  have hmap (a : Nat) : mapAddress c' u.tenant a = mapAddress c u.tenant a := by
    simp only [mapAddress, layoutOf_congr himage hwake hm8 hshift, hattr]
  have hspace : spaceBytes c' u d = spaceBytes c u d := by simp only [spaceBytes, arrayInfoOf_congr himage hm8]
  simp only [addressFault, funext hsite, hmap, hspace]

theorem denseAddresses_congr {c c' : Chip} {u : Task} (himage : c'.image = c.image) (hm8 : (ten c' u.tenant).m8 = (ten c u.tenant).m8)
    (d : DescRec) : denseAddresses c' u d = denseAddresses c u d := by
  have hfmt : descFmt c' u d = descFmt c u d := by simp only [descFmt, arrayInfoOf_congr himage hm8]
  have helem : descElem c' u d = descElem c u d := by simp only [descElem, hfmt]
  have htotal : descTotal c' u d = descTotal c u d := by
    simp only [descTotal, descAt, recipeAt, himage, arrayInfoOf_congr himage hm8, hfmt, helem]
  have hdense (p : Nat) : denseAt c' u d p = denseAt c u d p := by simp only [denseAt, descBase, hfmt, helem]
  simp only [denseAddresses, htotal, funext hdense]

theorem wholeFault_congr {c c' : Chip} {u : Task} (himage : c'.image = c.image) (hwake : c'.wake = c.wake)
    (hm8 : (ten c' u.tenant).m8 = (ten c u.tenant).m8) (hshift : (ten c' u.tenant).shadowShift = (ten c u.tenant).shadowShift) :
    wholeFault c' u = wholeFault c u := by
  have hfits : recipeFits c' u.recipe = recipeFits c u.recipe := by simp only [recipeFits, recipeAt, himage]
  have hstreams : taskStreams c' u = taskStreams c u := by simp only [taskStreams, recipeAt, himage]
  simp only [wholeFault, hfits, hstreams, addressFault_congr himage hwake hm8 hshift, denseAddresses_congr himage hm8]

/-- A task in its place meets the fault that it would have met before. -/
theorem wholeFault_placeTask {c : Chip} {u : Task} (h : tenantExists c u.tenant = true) (now : Nat) (k : ClusterNo) :
    wholeFault (placeTask c now k u) u = wholeFault c u := by
  obtain ⟨-, hwake, -, -, himage, -⟩ := tenantFrame_placeTask c now k u
  obtain ⟨l, hten⟩ := countedRun_placeTask h now k
  exact wholeFault_congr himage hwake (by rw [hten]) (by rw [hten])

end Sys2Proof.Machine
end

section
/-!
PROOFS. TASK_START (R128, R295, R296, R329, R330): what a task that is chosen does to its cluster, running stage by stage, whole, or as the next
one beside the running task.
-/
namespace Sys2Proof.Machine

/-! ## Charging a cluster -/

/-- Rounds and charges: nothing differs but deficits, and on the other clusters nothing that is asked here. -/
structure Charged (j : ClusterNo) (k k' : Chip) : Prop where
  chip : ∃ cl, k' = { k with clusters := cl }
  cluster : ∃ d, clusterOf k' j = { clusterOf k j with deficit := d }

theorem Charged.refl (j : ClusterNo) (k : Chip) : Charged j k k := ⟨⟨k.clusters, rfl⟩, (clusterOf k j).deficit, rfl⟩

theorem Charged.trans {j : ClusterNo} {a b c : Chip} (h : Charged j a b) (g : Charged j b c) : Charged j a c := by
  obtain ⟨⟨_, rfl⟩, d, hd⟩ := h
  obtain ⟨⟨cl, rfl⟩, e, he⟩ := g
  exact ⟨⟨cl, rfl⟩, e, by rw [he, hd]⟩

theorem Charged.caches {j : ClusterNo} {k k' : Chip} (h : Charged j k k') : SameButCaches k k' := by
  obtain ⟨⟨cl, rfl⟩, -⟩ := h
  exact ⟨cl, k.lines, rfl⟩

theorem Charged.image {j : ClusterNo} {k k' : Chip} (h : Charged j k k') : k'.image = k.image := by
  obtain ⟨⟨cl, rfl⟩, -⟩ := h
  rfl

theorem charged_chargeStage (c : Chip) (j : ClusterNo) (t bound : Nat) : Charged j c (chargeStage c j t bound) :=
  ⟨⟨_, rfl⟩, _, clusterOf_modCluster_self c j _⟩

theorem charged_addRounds (c : Chip) (j : ClusterNo) (n : Nat) : Charged j c (setCluster c j (addRounds c n (clusterOf c j))) :=
  ⟨⟨_, rfl⟩, _, clusterOf_setCluster_self c j _⟩

theorem charged_chargeAll (c : Chip) (j : ClusterNo) (u : Task) : Charged j c (chargeAll c j u) :=
  forEach_rel (.refl j) .trans (fun c _ _ => charged_chargeStage c j u.tenant _) c

/-- Deficits do not say whether a task may run whole. -/
theorem Charged.startsWhole_eq {j : ClusterNo} {k k' : Chip} (h : Charged j k k') (u : Task) :
    startsWhole k' (clusterOf k' j) u = startsWhole k (clusterOf k j) u := by
  obtain ⟨⟨cl, rfl⟩, d, hd⟩ := h
  rw [hd]
  rfl

theorem Charged.wholeFault_eq {j : ClusterNo} {k k' : Chip} (h : Charged j k k') (u : Task) : wholeFault k' u = wholeFault k u := by
  obtain ⟨⟨cl, rfl⟩, -⟩ := h
  rfl

theorem Charged.tenantExists_eq {j : ClusterNo} {k k' : Chip} (h : Charged j k k') (t : Nat) : tenantExists k' t = tenantExists k t := by
  obtain ⟨⟨cl, rfl⟩, -⟩ := h
  rfl

theorem Charged.ten_eq {j : ClusterNo} {k k' : Chip} (h : Charged j k k') (t : Nat) : ten k' t = ten k t := by
  obtain ⟨⟨cl, rfl⟩, -⟩ := h
  rfl

/-! ## The task that is chosen -/

/-- On an idle cluster, the chosen task begins after the rounds of quanta that its charge needs. -/
theorem exec_taskStart_idle {s : State} {c : Pos} {j : ClusterNo} {u : Task} {q : Tab Nat Nat} (hruns : coreRuns (getChip s c) = true)
    (hgoes : (clusterOf (getChip s c) j).halted = false) (hidle : (clusterOf (getChip s c) j).run = none)
    (hnext : nextTask (getChip s c) (clusterOf (getChip s c) j) u.tenant = some u)
    (hserve : drrServe (cycleQuantum (getChip s c)) (fun n => tabGet 0 (clusterOf (getChip s c) j).deficit n)
      (taskHeads (getChip s c) (clusterOf (getChip s c) j)) = some (u.tenant, q)) :
    ∃ k₀, Charged j (getChip s c) k₀ ∧ exec (.taskStart c j) s = .next (setChip s c (beginTask k₀ s.tray.now j u)) := by
  generalize hk : getChip s c = k at hruns hgoes hidle hnext hserve ⊢
  refine ⟨_, charged_addRounds k j (drrRounds (cycleQuantum k) (fun n => tabGet 0 (clusterOf k j).deficit n) (taskHeads k (clusterOf k j))), ?_⟩
  have hstart : exec (.taskStart c j) s = .next (setChip s c (startTask k s.tray.now j)) :=
    hk ▸ if_pos (by rw [hk, hruns, hgoes]; rfl)
  rw [hstart, startTask]
  simp only [hidle, hserve, hnext]

theorem beginTask_staged {c : Chip} {j : ClusterNo} {u : Task} (hstaged : startsWhole c (clusterOf c j) u = false)
    (hfits : recipeFits c u.recipe = true) (now : Nat) : beginTask c now j u = placeTask c now j u := by
  have hplaced : recipeFits (placeTask c now j u) u.recipe = true := by
    obtain ⟨-, -, -, -, himage, -⟩ := tenantFrame_placeTask c now j u
    simpa only [recipeFits, recipeAt, himage] using hfits
  simp [beginTask, hstaged, hplaced]

theorem beginTask_whole {c : Chip} {j : ClusterNo} {u : Task} (hwhole : startsWhole c (clusterOf c j) u = true)
    (hpasses : (clusterOf c j).passed = true ∨ slotsWhere c (fun b => taskSlot b u) = []) (hexists : tenantExists c u.tenant = true)
    (hfault : wholeFault c u = none) (now : Nat) : beginTask c now j u = endWhole (placeTask (chargeAll c j u) now j u) j u := by
  have hcharged := charged_chargeAll c j u
  have hplaced : wholeFault (placeTask (chargeAll c j u) now j u) u = none := by
    rw [wholeFault_placeTask ((hcharged.tenantExists_eq _).trans hexists), hcharged.wholeFault_eq, hfault]
  obtain hpassed | hnone := hpasses
  · simp [beginTask, hwhole, hplaced, hpassed]
  · simp [beginTask, hwhole, hplaced, hnone]

/-! ## A task that starts stage by stage -/

/-- What a task that has its first stage to come has done to its cluster and its chip. -/
structure Begun (k k' : Chip) (j : ClusterNo) (u : Task) : Prop where
  cluster : ∃ d, clusterOf k' j = begun k { clusterOf k j with deficit := d } u
  tenant : CountedRun (ten k u.tenant) (ten k' u.tenant)
  frame : TenantFrame u.tenant k k'

theorem begun_placeTask {k k₀ : Chip} {j : ClusterNo} {u : Task} (hcharged : Charged j k k₀) (hexists : tenantExists k u.tenant = true)
    (now : Nat) : Begun k (placeTask k₀ now j u) j u := by
  obtain ⟨d, hd⟩ := hcharged.cluster
  refine ⟨⟨d, ?_⟩, ?_, tenantFrame_trans (hcharged.caches.frame _) (tenantFrame_placeTask k₀ now j u)⟩
  · rw [clusterOf_placeTask, hd]
    simp only [begun, freshRun_congr hcharged.image]
  · rw [← hcharged.ten_eq]
    exact countedRun_placeTask ((hcharged.tenantExists_eq _).trans hexists) now j

/-! ## A task that runs whole -/

/-- The chip on which a task that ran whole has left its cluster, before the work it is part of goes on. -/
def leftWhole (c : Chip) (j : ClusterNo) (u : Task) : Chip :=
  modCluster c j (fun x => dropDeficits
    { payWhole c u x with run := none, passed := false, completion := some { task := u, deadReuse := false } })

theorem endWhole_eq (c : Chip) (j : ClusterNo) (u : Task) : endWhole c j u = endWork (leftWhole c j u) u := rfl

/-- A task that ran whole has left its cluster's queue, is counted, and leaves the cluster idle. -/
theorem leftWhole_leaves {k k₀ : Chip} {j : ClusterNo} {u : Task} (hbegun : Begun k k₀ j u) :
    (clusterOf (leftWhole k₀ j u) j).run = none ∧ (clusterOf (leftWhole k₀ j u) j).queue = (clusterOf k j).queue.erase u ∧
      (clusterOf (leftWhole k₀ j u) j).completion = some { task := u, deadReuse := false } ∧
      tabGet 0 (ten (leftWhole k₀ j u) u.tenant).counters 27 = satAdd64 (tabGet 0 (ten k u.tenant).counters 27) 1 := by
  obtain ⟨d, hd⟩ := hbegun.cluster
  refine ⟨?_, ?_, ?_, hbegun.tenant.counter⟩ <;> rw [leftWhole, clusterOf_modCluster_self]
  · rfl
  · rw [hd]
    rfl
  · rfl

/-! ## The next task beside the running one -/

theorem exec_taskStart_beside {s : State} {c : Pos} {j : ClusterNo} {r : RunTask} {u : Task} (hruns : coreRuns (getChip s c) = true)
    (hgoes : (clusterOf (getChip s c) j).halted = false) (hrun : (clusterOf (getChip s c) j).run = some r)
    (hnext : nextTask (getChip s c) (clusterOf (getChip s c) j) r.task.tenant = some u)
    (hmay : mayPrologue (getChip s c) (clusterOf (getChip s c) j) r u = true) :
    exec (.taskStart c j) s = .next (setChip s c (beginNext (getChip s c) s.tray.now j u)) := by
  refine (if_pos (by rw [hruns, hgoes]; rfl)).trans ?_
  rw [startTask]
  simp only [hrun, hnext, if_pos hmay]

theorem clusterOf_beginNext (c : Chip) (now : Nat) (j : ClusterNo) (u : Task) :
    clusterOf (beginNext c now j u) j =
      { clusterOf c j with queue := (clusterOf c j).queue.erase u, next := some (freshRun c u true) } := by
  rw [beginNext, clusterOf_congr (countTen_clusters _ _ _ _), noteWait, clusterOf_congr (modTen_clusters _ _ _), clusterOf_modCluster_self]

theorem tenantFrame_beginNext (c : Chip) (now : Nat) (j : ClusterNo) (u : Task) : TenantFrame u.tenant c (beginNext c now j u) := by
  generalize hw : noteWait now (modCluster c j (fun x => { x with queue := x.queue.erase u, next := some (freshRun c u true) })) u = w
  have hwait : TenantFrame u.tenant c w :=
    hw ▸ tenantFrame_trans ((sameButCaches_modCluster c j _).frame u.tenant) (tenantFrame_modTen _ u.tenant _)
  rw [beginNext, hw]
  exact tenantFrame_trans hwait (quiet_countTen w u.tenant 27 1).frame

/-! ## A halted cluster -/

theorem exec_taskStart_halted {s : State} {c : Pos} {j : ClusterNo} (h : (clusterOf (getChip s c) j).halted = true) :
    exec (.taskStart c j) s = .next s :=
  if_neg (by rw [h, Bool.not_true, Bool.and_false]; exact Bool.false_ne_true)

end Sys2Proof.Machine
end

section
/-!
PROOFS. Rules about a task that runs on a cluster: what moving handles, buffers and streams leaves of it, and that work on cache lines leaves every
running task as it is.
-/
namespace Sys2Proof.Machine

/-! ## A run's stage -/

/-- The same task in the same stage: streams, queues, buffers and what it waits for may differ. -/
structure SameStage (r r' : RunTask) : Prop where
  task : r'.task = r.task
  stage : r'.stage = r.stage
  active : r'.active = r.active
  count : r'.count = r.count
  deadReuse : r'.deadReuse = r.deadReuse

theorem SameStage.refl (r : RunTask) : SameStage r r := ⟨rfl, rfl, rfl, rfl, rfl⟩

theorem SameStage.trans {a b c : RunTask} (h : SameStage a b) (g : SameStage b c) : SameStage a c :=
  ⟨g.task.trans h.task, g.stage.trans h.stage, g.active.trans h.active, g.count.trans h.count, g.deadReuse.trans h.deadReuse⟩

theorem sameStage_foldl {α : Type} {f : RunTask → α → RunTask} (h : ∀ r x, SameStage r (f r x)) (l : List α) (r : RunTask) :
    SameStage r (l.foldl f r) := by
  induction l generalizing r with
  | nil => exact .refl r
  | cons x l ih => exact (h r x).trans (ih (f r x))

theorem sameStage_setStream (r : RunTask) (i : Nat) (x : Stream) : SameStage r (setStream r i x) := ⟨rfl, rfl, rfl, rfl, rfl⟩

theorem sameStage_takeIn {c : Chip} {r r' : RunTask} {i : Nat} {a : StageIn} (h : takeIn c r i = some (a, r')) : SameStage r r' := by
  unfold takeIn at h
  dsimp only at h
  split at h
  · cases h
    exact .refl r
  · split at h
    · obtain ⟨p, -, hp⟩ := Option.map_eq_some_iff.1 h
      cases hp
      exact .refl r
    · split at h
      · cases h
      · split at h
        · split at h
          · cases h
            exact ⟨rfl, rfl, rfl, rfl, rfl⟩
          · cases h
        · cases h

/-- Taking the inputs of a stage takes handles out of their queues. -/
theorem sameStage_takeIns {c : Chip} {is : List Nat} {r r' : RunTask} {l : List StageIn} (h : takeIns c is r = some (l, r')) : SameStage r r' := by
  induction is generalizing r l with
  | nil =>
    cases h
    exact .refl _
  | cons i is ih =>
    rw [takeIns] at h
    split at h
    · cases h
    case h_2 hin =>
      split at h
      · cases h
      case h_2 hins =>
        cases h
        exact (sameStage_takeIn hin).trans (ih hins)

theorem sameStage_fillOut (c : Chip) (r : RunTask) (o : Nat × List Byte) : SameStage r (fillOut c r o) := by
  unfold fillOut
  split
  · dsimp only
    split
    · exact .refl r
    · exact ⟨rfl, rfl, rfl, rfl, rfl⟩
  · exact .refl r

theorem sameStage_pushOuts (c : Chip) (r : RunTask) : SameStage r (pushOuts c r) := by
  refine SameStage.trans (b := { r with outs := [] }) ⟨rfl, rfl, rfl, rfl, rfl⟩ (sameStage_foldl (fun r h => ?_) r.outs _)
  split
  · split
    · exact sameStage_setStream r _ _
    · exact ⟨rfl, rfl, rfl, rfl, rfl⟩
  · exact .refl r

theorem sameStage_releaseIns (r : RunTask) : SameStage r (releaseIns r) := by
  refine SameStage.trans (b := { r with consumed := [] }) ⟨rfl, rfl, rfl, rfl, rfl⟩ (sameStage_foldl (fun r i => ?_) r.consumed _)
  split
  · exact sameStage_setStream r _ _
  · exact .refl r

/-! ## Streams that a stage issues -/

/-- One stream issued, where its descriptor exists. -/
def issueOne (c : Chip) (r : RunTask) (i : Nat) : RunTask :=
  match descAt c r.task i with
  | some d => { setStream r i { freshStream c r.task d with stamp := r.stamps } with stamps := r.stamps + 1 }
  | none => r

theorem issueStreams_eq (c : Chip) (r : RunTask) (outs : List Nat) : issueStreams c r outs = outs.foldl (issueOne c) r := rfl

theorem sameStage_issueOne (c : Chip) (r : RunTask) (i : Nat) : SameStage r (issueOne c r i) := by
  unfold issueOne
  split
  · exact ⟨rfl, rfl, rfl, rfl, rfl⟩
  · exact .refl r

theorem sameStage_issueStreams (c : Chip) (r : RunTask) (outs : List Nat) : SameStage r (issueStreams c r outs) :=
  sameStage_foldl (sameStage_issueOne c) outs r

/-- A descriptor's stream stands just issued. -/
def Issued (c : Chip) (t : Task) (r : RunTask) (i : Nat) : Prop :=
  ∀ d, descAt c t i = some d → ∃ m, streamAt r i = some { freshStream c t d with stamp := m }

theorem issued_issueOne_self (c : Chip) (r : RunTask) (i : Nat) : Issued c r.task (issueOne c r i) i := by
  intro d hd
  simp only [issueOne, hd]
  exact ⟨r.stamps, tabFind_tabSet_self _ _ _⟩

theorem Issued.issueOne {c : Chip} {r : RunTask} {i : Nat} (h : Issued c r.task r i) (o : Nat) :
    Issued c r.task (issueOne c r o) i := by
  by_cases ho : i = o
  · exact ho ▸ issued_issueOne_self c r i
  · intro d hd
    obtain ⟨m, hm⟩ := h d hd
    refine ⟨m, ?_⟩
    unfold Machine.issueOne
    split
    · exact (tabFind_tabSet_ne _ _ _ _ ho).trans hm
    · exact hm

/-- Each stream that a stage names stands issued, and the ones issued before stay. -/
theorem issued_issueStreams {c : Chip} {outs : List Nat} {r : RunTask} {i : Nat} (h : i ∈ outs ∨ Issued c r.task r i) :
    Issued c r.task (issueStreams c r outs) i := by
  rw [issueStreams_eq]
  induction outs generalizing r with
  | nil => exact h.resolve_left List.not_mem_nil
  | cons o outs ih =>
    have htask := (sameStage_issueOne c r o).task
    rw [List.foldl_cons, ← htask]
    refine ih ?_
    rw [htask]
    obtain hmem | hissued := h
    · obtain rfl | hmem := List.mem_cons.1 hmem
      · exact .inr (issued_issueOne_self c r i)
      · exact .inl hmem
    · exact .inr (hissued.issueOne o)

/-! ## Work on cache lines -/

/-- Every cluster goes on running what it runs. -/
def RunsKept (k k' : Chip) : Prop := ∀ j, (clusterOf k' j).run = (clusterOf k j).run

theorem RunsKept.refl (k : Chip) : RunsKept k k := fun _ => rfl

theorem RunsKept.trans {a b c : Chip} (h : RunsKept a b) (g : RunsKept b c) : RunsKept a c := fun j => (g j).trans (h j)

theorem runsKept_of_clusters {k k' : Chip} (h : k'.clusters = k.clusters) : RunsKept k k' := fun j => by rw [clusterOf_congr h]

theorem runsKept_modCluster (c : Chip) (k : ClusterNo) {f : Cluster → Cluster} (h : ∀ x, (f x).run = x.run) : RunsKept c (modCluster c k f) := by
  intro j
  by_cases hj : j = k
  · rw [hj, clusterOf_modCluster_self, h]
  · rw [clusterOf_modCluster_ne c k j f hj]

theorem runsKept_foldl {α : Type} {f : Chip → α → Chip} (h : ∀ c x, RunsKept c (f c x)) (l : List α) (c : Chip) : RunsKept c (l.foldl f c) :=
  forEach_rel .refl .trans (fun c x _ => h c x) c

theorem runsKept_modLine (c : Chip) (line : Nat) (f : SliceLine → SliceLine) : RunsKept c (modLine c line f) :=
  runsKept_of_clusters (modLine_clusters c line f)

theorem runsKept_pullDirty (c : Chip) (line : Nat) (k : ClusterNo) : RunsKept c (pullDirty c line k) :=
  runsKept_of_clusters (pullDirty_clusters c line k)

theorem runsKept_dropL1 (c : Chip) (line : Nat) (k : ClusterNo) : RunsKept c (dropL1 c line k) :=
  (runsKept_modCluster c k (f := fun x => { x with l1 := tabErase x.l1 line }) fun _ => rfl).trans (runsKept_modLine _ line _)

theorem runsKept_recallLine (c : Chip) (line : Nat) : RunsKept c (recallLine c line) :=
  runsKept_foldl (fun c k => (runsKept_pullDirty c line k).trans (runsKept_dropL1 _ line k)) _ c

theorem writeBackLine_clusters (c : Chip) (line : Nat) : (writeBackLine c line).clusters = c.clusters := by
  unfold writeBackLine
  split
  · rfl
  · split
    · rfl
    · split <;> rfl
    · rfl

theorem runsKept_writeBackLine (c : Chip) (line : Nat) : RunsKept c (writeBackLine c line) := runsKept_of_clusters (writeBackLine_clusters c line)

theorem runsKept_evictLine (c : Chip) (line : Nat) : RunsKept c (evictLine c line) := by
  refine ((runsKept_recallLine c line).trans (runsKept_writeBackLine _ line)).trans (runsKept_of_clusters ?_)
  unfold evictLine
  dsimp only
  split
  · split <;> rfl
  · rfl

theorem runsKept_dropDead (c : Chip) (line : Nat) : RunsKept c (dropDead c line) :=
  (runsKept_foldl (fun c k => runsKept_dropL1 c line k) (holdersOf c line) c).trans (runsKept_of_clusters rfl)

theorem spillAcc_clusters (c : Chip) (key : Nat) : (spillAcc c key).1.clusters = c.clusters := by
  unfold spillAcc
  split
  · rfl
  · split
    · dsimp only
      split <;> rfl
    · rfl

theorem runsKept_makeRoom (c : Chip) (t line : Nat) : RunsKept c (makeRoom c t line).1 := by
  unfold makeRoom
  split
  · exact .refl c
  · dsimp only
    split
    · exact runsKept_dropDead c _
    · split
      · exact runsKept_evictLine c _
      · split
        · exact runsKept_of_clusters (spillAcc_clusters c _)
        · exact .refl c

/-- A line that is absent is filled once a way is had for it. -/
theorem runsKept_fillWay (c : Chip) (t line : Nat) (l : SliceLine) :
    RunsKept c (if (makeRoom c t line).2 then setLine (makeRoom c t line).1 line l else (makeRoom c t line).1) := by
  split
  · exact (runsKept_makeRoom c t line).trans (runsKept_of_clusters rfl)
  · exact runsKept_makeRoom c t line

theorem runsKept_touch (c : Chip) : RunsKept c (touch c) := runsKept_of_clusters rfl

theorem runsKept_fillSlice (c : Chip) (t line hint : Nat) : RunsKept c (fillSlice c t line hint) := by
  unfold fillSlice
  refine (runsKept_touch c).trans ?_
  dsimp only
  split
  · split <;> exact runsKept_of_clusters rfl
  · exact runsKept_fillWay (touch c) t line _

theorem runsKept_putL1 (c : Chip) (k : ClusterNo) (line : Nat) (o : L1Line) : RunsKept c (putL1 c k line o) := by
  have hplace (c : Chip) : RunsKept c (modCluster c k (fun x => { x with l1 := tabSet x.l1 line o })) := runsKept_modCluster c k fun _ => rfl
  unfold putL1
  dsimp only
  split
  · exact hplace c
  · split
    · exact ((runsKept_pullDirty c _ k).trans (runsKept_dropL1 _ _ k)).trans (hplace _)
    · exact .refl c

theorem runsKept_fillL1 (c : Chip) (k : ClusterNo) (line attr : Nat) : RunsKept c (fillL1 c k line attr) := by
  have hshared (c : Chip) : RunsKept c (modLine (putL1 c k line (cleanCopy c line)) line (joinDir k)) :=
    (runsKept_putL1 c k line _).trans (runsKept_modLine _ line _)
  unfold fillL1
  dsimp only
  split
  · exact .refl c
  · split
    · split
      · exact .refl c
      · exact runsKept_putL1 c k line _
    · split
      · split
        · split
          · exact runsKept_putL1 c k line _
          · exact hshared c
        · refine (runsKept_foldl (fun c o => (runsKept_pullDirty c line o).trans (runsKept_modCluster _ o fun x => ?_)) (holdersOf c line) c).trans
            (hshared _)
          split <;> rfl
      · exact .refl c

theorem runsKept_cleanL1 (c : Chip) (line : Nat) (k : ClusterNo) : RunsKept c (rangeLine.cleanL1 c line k) :=
  runsKept_modCluster c k fun x => by split <;> rfl

theorem runsKept_rangeLine (code : Nat) (k : ClusterNo) (t : Nat) (c : Chip) (p : Nat × Nat) : RunsKept c (rangeLine code k t c p) := by
  unfold rangeLine
  dsimp only
  split
  · have hpulled := runsKept_foldl (fun c o => runsKept_pullDirty c p.1 o) (holdersOf c p.1) c
    exact (hpulled.trans (runsKept_fillSlice _ t p.1 0)).trans (runsKept_fillL1 _ k p.1 p.2)
  · split
    · split
      · exact runsKept_dropL1 c p.1 k
      · exact .refl c
    · split
      · exact (runsKept_foldl (fun c o => (runsKept_pullDirty c p.1 o).trans (runsKept_cleanL1 _ p.1 o)) _ c).trans (runsKept_writeBackLine _ p.1)
      · exact runsKept_evictLine c p.1

theorem runsKept_loadTensor (t tensor shard array hint : Nat) (c : Chip) (ns : List Nat) : RunsKept c (loadTensor t tensor shard array hint c ns) := by
  refine runsKept_foldl (fun c n => ?_) ns c
  refine (runsKept_touch c).trans ?_
  dsimp only
  split
  · exact runsKept_of_clusters rfl
  · exact runsKept_fillWay (touch c) t _ _

/-- PREFETCH, FLUSH and INVALIDATE move lines and end no task (Table 16-5). -/
theorem runsKept_runRange (code : Nat) (k : ClusterNo) (t : Task) (d : DescRec) (l : List Nat) (c : Chip) : RunsKept c (runRange code k t d l c) := by
  unfold runRange
  split
  · exact runsKept_foldl (runsKept_rangeLine code k t.tenant) _ c
  · dsimp only
    split
    · exact runsKept_loadTensor _ _ _ _ _ c _
    · exact runsKept_foldl (fun c n => runsKept_writeBackLine c _) _ c

end Sys2Proof.Machine
end

section
/-!
PROOFS. STAGE_START (R323, R341, R343, R353): a stage of the running task under way, by what its code makes it do.
-/
namespace Sys2Proof.Machine

/-! ## The cluster as a stage starts -/

/-- The chip with a stage charged to its tenant, as the stage of the running task starts. -/
def readied (c : Chip) (j : ClusterNo) (t bound : Nat) : Chip := modCluster (chargeStage c j t bound) j (fun x => { x with passed := false })

/-- A run whose stage has just started. -/
def startedRun (r : RunTask) : RunTask := { r with active := true, count := 0, waitFor := .nothing }

/-- A run stands on its cluster. -/
def putRun (c : Chip) (j : ClusterNo) (r : RunTask) : Chip := modCluster c j (fun x => putTask x false r)

theorem run_putRun (c : Chip) (j : ClusterNo) (r : RunTask) : (clusterOf (putRun c j r) j).run = some r := by
  rw [putRun, clusterOf_modCluster_self]
  rfl

theorem sameButCaches_readied (c : Chip) (j : ClusterNo) (t bound : Nat) : SameButCaches c (readied c j t bound) :=
  (sameButCaches_modCluster c j _).trans (sameButCaches_modCluster _ j _)

theorem sameButCaches_begin (c : Chip) (j : ClusterNo) (t bound : Nat) (r : RunTask) : SameButCaches c (putRun (readied c j t bound) j r) :=
  (sameButCaches_readied c j t bound).trans (sameButCaches_modCluster _ j _)

/-- What a stage's start does, by its code. -/
theorem runStart_eq (c : Chip) (j : ClusterNo) (r : RunTask) (g : StageRec) (ins : List StageIn) :
    runStart c j false r g ins =
      if isCompute g.code then startCompute (readied c j r.task.tenant g.bound) j false (startedRun r) g ins
      else if g.code ≤ 0x04 then
        putRun (readied c j r.task.tenant g.bound) j
          { issueStreams (readied c j r.task.tenant g.bound) (startedRun r) (issuedBy g) with
            loadsIssued := noLoadsFrom (readied c j r.task.tenant g.bound) r.task.recipe (r.stage + 1) }
      else if isRange g.code then rangeStage (putRun (readied c j r.task.tenant g.bound) j (startedRun r)) j (startedRun r) g
      else if g.code = 0x11 then putRun (readied c j r.task.tenant g.bound) j (startedRun r)
      else syncStage (putRun (readied c j r.task.tenant g.bound) j (startedRun r)) j r.task g := rfl

/-! ## STAGE_START that finds all it needs -/

theorem exec_stageStart_ready {s : State} {c : Pos} {j : ClusterNo} {u u₁ : RunTask} {g : StageRec} {ins : List StageIn}
    (hruns : coreRuns (getChip s c) = true) (hgoes : (clusterOf (getChip s c) j).halted = false)
    (hrun : (clusterOf (getChip s c) j).run = some u) (hnext : (clusterOf (getChip s c) j).next = none) (hidle : u.active = false)
    (hstage : stageAt (getChip s c) u.task.recipe u.stage = some g)
    (hins : takeIns (getChip s c) (if isRange g.code then [] else g.ins) u = some (ins, u₁))
    (hready : stageReady (getChip s c) (clusterOf (getChip s c) j) u₁ g = true)
    (hhits : stageHits (getChip s c) (clusterOf (getChip s c) j) u = []) :
    exec (.stageStart c j) s = .next (setChip s c (runStart (getChip s c) j false u₁ g ins)) := by
  have hquiet : stageActive (clusterOf (getChip s c) j) = false := by simp only [stageActive, hrun, hnext, hidle, Bool.or_false]
  have hturn : prologueTurn (getChip s c) (clusterOf (getChip s c) j) = none := by simp only [prologueTurn, hnext]
  refine (if_pos (by rw [hruns, hgoes, hquiet]; rfl)).trans ?_
  simp only [nextStage, hturn, hrun, startStage, hstage, hins, hready, Bool.not_true, Bool.false_eq_true, if_false, hhits, List.isEmpty_nil, if_true]

theorem exec_stageStart_halted {s : State} {c : Pos} {j : ClusterNo} (h : (clusterOf (getChip s c) j).halted = true) :
    exec (.stageStart c j) s = .next s :=
  if_neg (by rw [h, Bool.not_true, Bool.and_false, Bool.false_and]; exact Bool.false_ne_true)

/-! ## What has started -/

/-- A stage of a run is under way on its cluster, with its count at 0. -/
structure UnderWay (k' : Chip) (j : ClusterNo) (u u' : RunTask) : Prop where
  run : (clusterOf k' j).run = some u'
  active : u'.active = true
  stage : u'.stage = u.stage
  count : u'.count = 0
  task : u'.task = u.task

theorem underWay_startedRun {k' : Chip} {j : ClusterNo} {u u₁ u' : RunTask} (htaken : SameStage u u₁)
    (hrun : (clusterOf k' j).run = some u') (hsame : SameStage (startedRun u₁) u') : UnderWay k' j u u' :=
  ⟨hrun, hsame.active, hsame.stage.trans htaken.stage, hsame.count, hsame.task.trans htaken.task⟩

/-- The effect of a stage on the own chip by its code: streams issued (R323, R353), a SIGNAL applied, a WAIT joined or over (R341). -/
structure Effect (k k' : Chip) (j : ClusterNo) (t : Task) (g : StageRec) (u' : RunTask) : Prop where
  frame : isCompute g.code = false → isRange g.code = false → TenantFrame t.tenant k k'
  streams : g.code ≤ 0x04 → ∀ i ∈ issuedBy g, Issued k t u' i
  signal : g.code = 0x12 → isRemote k g = false →
    (syncObj k' (syncNumber k t.tenant g.sync)).c =
        (syncEffect (syncObj k (syncNumber k t.tenant g.sync)) g.arg (BitVec.ofNat 32 g.operand)).c ∧
      (syncObj k' (syncNumber k t.tenant g.sync)).t =
        (syncEffect (syncObj k (syncNumber k t.tenant g.sync)) g.arg (BitVec.ofNat 32 g.operand)).t
  joins : g.code = 0x13 → serialGe (syncObj k (syncNumber k t.tenant g.sync)).c (BitVec.ofNat 32 g.operand) = false →
    u'.waitFor = .reach (syncNumber k t.tenant g.sync) (BitVec.ofNat 32 g.operand) ∧
      syncObj k' (syncNumber k t.tenant g.sync) =
        { syncObj k (syncNumber k t.tenant g.sync) with
          waiters := (syncObj k (syncNumber k t.tenant g.sync)).waiters ++ [(j, BitVec.ofNat 32 g.operand)] }
  passes : g.code = 0x13 → serialGe (syncObj k (syncNumber k t.tenant g.sync)).c (BitVec.ofNat 32 g.operand) = true →
    u'.waitFor = .released ∧ k'.sync = k.sync

/-- Below SIGNAL, and past LOAD to SCATTER, a stage has no effect of its own on streams or objects. -/
theorem effect_plain {k k' : Chip} {j : ClusterNo} {t : Task} {g : StageRec} {u' : RunTask} (hpast : 0x04 < g.code) (hbelow : g.code < 0x12)
    (hframe : isCompute g.code = false → isRange g.code = false → TenantFrame t.tenant k k') : Effect k k' j t g u' :=
  ⟨hframe, fun h => by omega, fun h => by omega, fun h => by omega, fun h => by omega⟩

/-! ## LOAD to SCATTER -/

theorem begins_streams {k : Chip} {j : ClusterNo} {u u₁ : RunTask} {g : StageRec} (ins : List StageIn) (htaken : SameStage u u₁)
    (hcode : g.code ≤ 0x04) :
    ∃ u', UnderWay (runStart k j false u₁ g ins) j u u' ∧ Effect k (runStart k j false u₁ g ins) j u.task g u' := by
  have hcompute : isCompute g.code = false := by
    rw [isCompute, decide_eq_false (by omega), Bool.false_and]
  rw [runStart_eq, hcompute, if_neg Bool.false_ne_true, if_pos hcode]
  generalize hk₁ : readied k j u₁.task.tenant g.bound = k₁
  have hissued : SameStage (startedRun u₁) (issueStreams k₁ (startedRun u₁) (issuedBy g)) := sameStage_issueStreams _ _ _
  refine ⟨_, underWay_startedRun htaken (run_putRun _ _ _) ⟨hissued.task, hissued.stage, hissued.active, hissued.count, hissued.deadReuse⟩,
    fun _ _ => ?_, fun _ i hi => ?_, fun h => by omega, fun h => by omega, fun h => by omega⟩
  · exact hk₁ ▸ (sameButCaches_begin k j u₁.task.tenant g.bound _).frame _
  · have hstreams : Issued k₁ (startedRun u₁).task (issueStreams k₁ (startedRun u₁) (issuedBy g)) i := issued_issueStreams (.inl hi)
    rw [← hk₁] at hstreams
    rw [← htaken.task, ← hk₁]
    exact hstreams

/-! ## Compute stages -/

theorem usedPoison_congr {c c' : Chip} (h : c'.tenants = c.tenants) (t : Task) (code : Nat) (ins : List StageIn) :
    usedPoison c' t code ins = usedPoison c t code ins := by
  have hhist : readsBadHistory c' t code = readsBadHistory c t code := by simp only [readsBadHistory, ten, h]
  simp only [usedPoison, hhist]

theorem begins_compute {k : Chip} {j : ClusterNo} {u u₁ : RunTask} {g : StageRec} {ins : List StageIn} (htaken : SameStage u u₁)
    (hcompute : isCompute g.code = true) (hpoison : usedPoison k u.task g.code ins = 0) :
    ∃ u', UnderWay (runStart k j false u₁ g ins) j u u' ∧ Effect k (runStart k j false u₁ g ins) j u.task g u' := by
  rw [runStart_eq, if_pos hcompute]
  generalize hk₁ : readied k j u₁.task.tenant g.bound = k₁
  have hclean : usedPoison k₁ (startedRun u₁).task g.code ins = 0 := by
    rw [← hk₁, usedPoison_congr (sameButCaches_readied k j _ _).tenants, ← hpoison, ← htaken.task]
    rfl
  generalize hout : (List.zip g.outs (computeStage k₁ j (startedRun u₁).task g ins).2).foldl
    (fillOut (computeStage k₁ j (startedRun u₁).task g ins).1) (startedRun u₁) = r
  have hfilled : SameStage (startedRun u₁) r := hout ▸ sameStage_foldl (sameStage_fillOut _) _ _
  have hstart : startCompute k₁ j false (startedRun u₁) g ins =
      putRun (computeStage k₁ j (startedRun u₁).task g ins).1 j
        { r with shorts := shortsOf g (computeStage k₁ j (startedRun u₁).task g ins).2 } := by
    rw [startCompute, hclean, ← hout]
    rfl
  rw [hstart]
  have hcode : 0x05 ≤ g.code ∧ g.code ≤ 0x0D := by simpa [isCompute] using hcompute
  refine ⟨_, underWay_startedRun htaken (run_putRun _ _ _) ⟨hfilled.task, hfilled.stage, hfilled.active, hfilled.count, hfilled.deadReuse⟩,
    effect_plain (by omega) (by omega) fun hnot => ?_⟩
  exact absurd (hnot.symm.trans hcompute) Bool.false_ne_true

/-! ## PREFETCH, FLUSH, INVALIDATE -/

/-- A range stage whose range is all mapped leaves its run as it is. -/
theorem run_rangeStage {c : Chip} {j : ClusterNo} {r : RunTask} {g : StageRec}
    (hrange : ∀ d, descAt c r.task (g.ins.headD 0xFF) = some d → (rangeOf c r d).1 = none) :
    (clusterOf (rangeStage c j r g) j).run = (clusterOf c j).run := by
  unfold rangeStage
  split
  · rfl
  case h_2 d hd =>
    have hmapped := hrange d hd
    split
    case h_1 hfault =>
      rw [hfault] at hmapped
      cases hmapped
    · exact runsKept_runRange _ _ _ _ _ _ j

theorem begins_range {k : Chip} {j : ClusterNo} {u u₁ : RunTask} {g : StageRec} (ins : List StageIn) (htaken : SameStage u u₁)
    (hrange : isRange g.code = true) (hmapped : ∀ d, descAt k u.task (g.ins.headD 0xFF) = some d → (rangeOf k u₁ d).1 = none) :
    ∃ u', UnderWay (runStart k j false u₁ g ins) j u u' ∧ Effect k (runStart k j false u₁ g ins) j u.task g u' := by
  have hcode : 0x0E ≤ g.code ∧ g.code ≤ 0x10 := by simpa [isRange] using hrange
  have hcompute : isCompute g.code = false := by
    rw [isCompute, decide_eq_false (p := g.code ≤ 0x0D) (by omega), Bool.and_false]
  rw [runStart_eq, hcompute, if_neg Bool.false_ne_true, if_neg (by omega), if_pos hrange]
  have hrun := run_putRun (readied k j u₁.task.tenant g.bound) j (startedRun u₁)
  obtain ⟨cl, li, hk₁⟩ := sameButCaches_begin k j u₁.task.tenant g.bound (startedRun u₁)
  rw [hk₁] at hrun ⊢
  refine ⟨_, underWay_startedRun htaken ((run_rangeStage fun d hd => ?_).trans hrun) (.refl _),
    effect_plain (by omega) (by omega) fun _ hnot => absurd (hnot.symm.trans hrange) Bool.false_ne_true⟩
  exact hmapped d (htaken.task ▸ hd)

/-! ## FENCE -/

theorem begins_fence {k : Chip} {j : ClusterNo} {u u₁ : RunTask} {g : StageRec} (ins : List StageIn) (htaken : SameStage u u₁)
    (hcode : g.code = 0x11) :
    ∃ u', UnderWay (runStart k j false u₁ g ins) j u u' ∧ Effect k (runStart k j false u₁ g ins) j u.task g u' := by
  have hstart : runStart k j false u₁ g ins = putRun (readied k j u₁.task.tenant g.bound) j (startedRun u₁) := by
    rw [runStart_eq, hcode]
    rfl
  rw [hstart]
  exact ⟨_, underWay_startedRun htaken (run_putRun _ _ _) (.refl _),
    effect_plain (by omega) (by omega) fun _ _ => (sameButCaches_begin k j _ _ _).frame _⟩

/-! ## SIGNAL, WAIT, BARRIER -/

/-- A cluster's run goes on with the same stage, which may wait for something else. -/
def Waits (j : ClusterNo) (k k' : Chip) : Prop :=
  ∀ r, (clusterOf k j).run = some r → ∃ w, (clusterOf k' j).run = some { r with waitFor := w }

theorem Waits.refl (j : ClusterNo) (k : Chip) : Waits j k k := fun r h => ⟨r.waitFor, h⟩

theorem Waits.trans {j : ClusterNo} {a b c : Chip} (h : Waits j a b) (g : Waits j b c) : Waits j a c := by
  intro r hr
  obtain ⟨v, hv⟩ := h r hr
  obtain ⟨w, hw⟩ := g _ hv
  exact ⟨w, hw⟩

theorem waits_of_runsKept {j : ClusterNo} {k k' : Chip} (h : RunsKept k k') : Waits j k k' := fun r hr => ⟨r.waitFor, (h j).trans hr⟩

theorem run_setWait {x : Cluster} {r : RunTask} (h : x.run = some r) (w : WaitFor) : (setWait x w).run = some { r with waitFor := w } := by
  simp only [setWait, h]

theorem waits_setWait (c : Chip) (j k : ClusterNo) (w : WaitFor) : Waits j c (modCluster c k (fun x => setWait x w)) := by
  by_cases hj : j = k
  · intro r hr
    rw [← hj, clusterOf_modCluster_self]
    exact ⟨w, run_setWait hr w⟩
  · intro r hr
    rw [clusterOf_modCluster_ne c k j _ hj]
    exact ⟨r.waitFor, hr⟩

/-- Operations on objects release waiters and send frames: besides clusters, objects, the tenant's own record and the outbox, nothing differs. -/
theorem tenantFrame_setSync (c : Chip) (t n : Nat) (o : SyncObj) : TenantFrame t c (setSync c n o) := ⟨rfl, rfl, rfl, rfl, rfl, fun _ _ => rfl⟩

theorem tenantFrame_setWait (c : Chip) (t : Nat) (k : ClusterNo) (w : WaitFor) : TenantFrame t c (modCluster c k (fun x => setWait x w)) :=
  (sameButCaches_modCluster c k _).frame t

theorem waits_releaseWaiters (c : Chip) (j : ClusterNo) (n : Nat) : Waits j c (releaseWaiters c n) :=
  (waits_of_runsKept (runsKept_of_clusters (setSync_clusters c n _))).trans
    (forEach_rel (.refl j) .trans (fun c (w : ClusterNo × BitVec 32) _ => waits_setWait c j w.1 .released) _)

theorem tenantFrame_releaseWaiters (c : Chip) (t n : Nat) : TenantFrame t c (releaseWaiters c n) :=
  tenantFrame_trans (tenantFrame_setSync c t n _)
    (forEach_rel (tenantFrame_refl t) tenantFrame_trans (fun c (w : ClusterNo × BitVec 32) _ => tenantFrame_setWait c t w.1 .released) _)

theorem sync_releaseWaiters (c : Chip) (n : Nat) :
    (releaseWaiters c n).sync =
      (setSync c n { syncObj c n with waiters := (syncObj c n).waiters.filter (fun w => !serialGe (syncObj c n).c w.2) }).sync :=
  forEach_rel (R := fun a b => b.sync = a.sync) (f := fun c (w : ClusterNo × BitVec 32) => modCluster c w.1 (fun x => setWait x .released))
    (fun _ => rfl) (fun h g => g.trans h) (fun _ _ _ => rfl) _

theorem syncObj_releaseWaiters_self (c : Chip) (n : Nat) :
    syncObj (releaseWaiters c n) n =
      { syncObj c n with waiters := (syncObj c n).waiters.filter (fun w => !serialGe (syncObj c n).c w.2) } := by
  rw [syncObj, sync_releaseWaiters]
  exact syncObj_setSync_self c n _

theorem waits_applySync (c : Chip) (j : ClusterNo) (n code : Nat) (v : BitVec 32) : Waits j c (applySync c n code v) :=
  Waits.trans (waits_of_runsKept (runsKept_of_clusters (setSync_clusters c n _))) (waits_releaseWaiters _ j n)

theorem tenantFrame_applySync (c : Chip) (t n code : Nat) (v : BitVec 32) : TenantFrame t c (applySync c n code v) :=
  tenantFrame_trans (tenantFrame_setSync c t n _) (tenantFrame_releaseWaiters _ t n)

/-- An operation's effect on its object is that of Table 18-2, whatever waiters leave it. -/
theorem syncObj_applySync_self (c : Chip) (n code : Nat) (v : BitVec 32) :
    (syncObj (applySync c n code v) n).c = (syncEffect (syncObj c n) code v).c ∧
      (syncObj (applySync c n code v) n).t = (syncEffect (syncObj c n) code v).t := by
  rw [applySync, syncObj_releaseWaiters_self, syncObj_setSync_self]
  exact ⟨rfl, rfl⟩

theorem waits_waitSync (c : Chip) (j k : ClusterNo) (n : Nat) (v : BitVec 32) : Waits j c (waitSync c k n v) := by
  unfold waitSync
  dsimp only
  split
  · exact waits_setWait c j k _
  · exact Waits.trans (waits_of_runsKept (runsKept_of_clusters (setSync_clusters c n _))) (waits_setWait _ j k _)

theorem tenantFrame_waitSync (c : Chip) (t : Nat) (k : ClusterNo) (n : Nat) (v : BitVec 32) : TenantFrame t c (waitSync c k n v) := by
  unfold waitSync
  dsimp only
  split
  · exact tenantFrame_setWait c t k _
  · exact tenantFrame_trans (tenantFrame_setSync c t n _) (tenantFrame_setWait _ t k _)

theorem waits_pushSync (c : Chip) (j : ClusterNo) (t target : Nat) : Waits j c (pushSync c t target) := by
  refine waits_of_runsKept (runsKept_of_clusters ?_)
  unfold pushSync
  dsimp only
  split <;> rfl

theorem tenantFrame_pushSync (c : Chip) (t target : Nat) : TenantFrame t c (pushSync c t target) := by
  unfold pushSync
  dsimp only
  split
  · exact tenantFrame_trans (tenantFrame_modTen c t fun _ => _) (tenantFrame_emit _ t _)
  · exact tenantFrame_refl t c

theorem waits_remoteSync (c : Chip) (j k : ClusterNo) (t target code index : Nat) (v : BitVec 32) :
    Waits j c (remoteSync c k t target code index v) :=
  ((waits_of_runsKept (runsKept_of_clusters (modTen_clusters c t _))).trans (waits_setWait _ j k _)).trans (waits_pushSync _ j t target)

theorem tenantFrame_remoteSync (c : Chip) (k : ClusterNo) (t target code index : Nat) (v : BitVec 32) :
    TenantFrame t c (remoteSync c k t target code index v) :=
  tenantFrame_trans (tenantFrame_trans (tenantFrame_modTen c t _) (tenantFrame_setWait _ t k _)) (tenantFrame_pushSync _ t target)

/-- What a SIGNAL, WAIT or BARRIER on an index that the tenant has leaves of its cluster's run and of the chip. -/
theorem syncStage_keeps {c : Chip} {t : Task} {g : StageRec} (hindex : syncIndexOk c t.tenant g.sync = true) (j : ClusterNo) :
    Waits j c (syncStage c j t g) ∧ TenantFrame t.tenant c (syncStage c j t g) := by
  unfold syncStage
  dsimp only
  rw [hindex, Bool.not_true, if_neg Bool.false_ne_true]
  split
  · split
    · have hspent := runsKept_modCluster c j (f := fun x => { x with egressTokens := x.egressTokens - syncCost }) fun _ => rfl
      exact ⟨(waits_of_runsKept hspent).trans (waits_remoteSync _ j j _ _ _ _ _),
        tenantFrame_trans ((sameButCaches_modCluster c j _).frame _) (tenantFrame_remoteSync _ j _ _ _ _ _)⟩
    · exact ⟨waits_applySync c j _ _ _, tenantFrame_applySync c _ _ _ _⟩
  · split
    · exact ⟨waits_waitSync c j j _ _, tenantFrame_waitSync c _ j _ _⟩
    · exact ⟨(waits_applySync c j _ 3 _).trans (waits_waitSync _ j j _ _),
        tenantFrame_trans (tenantFrame_applySync c _ _ 3 _) (tenantFrame_waitSync _ _ j _ _)⟩

theorem syncStage_signal {c : Chip} {t : Task} {g : StageRec} (hindex : syncIndexOk c t.tenant g.sync = true) (hcode : g.code = 0x12)
    (hlocal : isRemote c g = false) (j : ClusterNo) :
    syncStage c j t g = applySync c (syncNumber c t.tenant g.sync) g.arg (BitVec.ofNat 32 g.operand) := by
  simp [syncStage, hindex, hcode, hlocal]

theorem syncStage_wait {c : Chip} {t : Task} {g : StageRec} (hindex : syncIndexOk c t.tenant g.sync = true) (hcode : g.code = 0x13)
    (j : ClusterNo) : syncStage c j t g = waitSync c j (syncNumber c t.tenant g.sync) (BitVec.ofNat 32 g.operand) := by
  simp [syncStage, hindex, hcode]

theorem waitSync_joins {c : Chip} {j : ClusterNo} {n : Nat} {v : BitVec 32} {r : RunTask} (hrun : (clusterOf c j).run = some r)
    (h : serialGe (syncObj c n).c v = false) :
    (clusterOf (waitSync c j n v) j).run = some { r with waitFor := .reach n v } ∧
      syncObj (waitSync c j n v) n = { syncObj c n with waiters := (syncObj c n).waiters ++ [(j, v)] } := by
  rw [waitSync, if_neg (by rw [h]; exact Bool.false_ne_true)]
  refine ⟨?_, syncObj_setSync_self c n _⟩
  rw [clusterOf_modCluster_self]
  exact run_setWait hrun _

theorem waitSync_passes {c : Chip} {j : ClusterNo} {n : Nat} {v : BitVec 32} {r : RunTask} (hrun : (clusterOf c j).run = some r)
    (h : serialGe (syncObj c n).c v = true) :
    (clusterOf (waitSync c j n v) j).run = some { r with waitFor := .released } ∧ (waitSync c j n v).sync = c.sync := by
  rw [waitSync, if_pos h]
  refine ⟨?_, rfl⟩
  rw [clusterOf_modCluster_self]
  exact run_setWait hrun _

theorem begins_sync {k : Chip} {j : ClusterNo} {u u₁ : RunTask} {g : StageRec} (ins : List StageIn) (htaken : SameStage u u₁)
    (hcode : 0x12 ≤ g.code) (hindex : syncIndexOk k u.task.tenant g.sync = true) :
    ∃ u', UnderWay (runStart k j false u₁ g ins) j u u' ∧ Effect k (runStart k j false u₁ g ins) j u.task g u' := by
  have hcompute : isCompute g.code = false := by
    rw [isCompute, decide_eq_false (p := g.code ≤ 0x0D) (by omega), Bool.and_false]
  have hrange : isRange g.code = false := by
    rw [isRange, decide_eq_false (p := g.code ≤ 0x10) (by omega), Bool.and_false]
  rw [runStart_eq, hcompute, if_neg Bool.false_ne_true, if_neg (by omega), hrange, if_neg Bool.false_ne_true, if_neg (by omega), htaken.task]
  have hbegin := sameButCaches_begin k j u.task.tenant g.bound (startedRun u₁)
  have hrun := run_putRun (readied k j u.task.tenant g.bound) j (startedRun u₁)
  generalize putRun (readied k j u.task.tenant g.bound) j (startedRun u₁) = k₁ at hbegin hrun ⊢
  obtain ⟨cl, li, hk₁⟩ := hbegin
  have hindex₁ : syncIndexOk k₁ u.task.tenant g.sync = true := by rw [hk₁]; exact hindex
  have hnumber : syncNumber k₁ u.task.tenant g.sync = syncNumber k u.task.tenant g.sync := by rw [hk₁]; rfl
  have hobj (n : Nat) : syncObj k₁ n = syncObj k n := by rw [hk₁]; rfl
  have hremote : isRemote k₁ g = isRemote k g := by rw [hk₁]; rfl
  have hsync : k₁.sync = k.sync := by rw [hk₁]
  have hframe₁ : TenantFrame u.task.tenant k k₁ := SameButCaches.frame ⟨cl, li, hk₁⟩ _
  obtain ⟨hwaits, hframe⟩ := syncStage_keeps hindex₁ j
  obtain ⟨w, hw⟩ := hwaits _ hrun
  refine ⟨_, underWay_startedRun htaken hw ⟨rfl, rfl, rfl, rfl, rfl⟩, fun _ _ => tenantFrame_trans hframe₁ hframe, fun h => by omega,
    fun hsignal hlocal => ?_, fun hwait hge => ?_, fun hwait hge => ?_⟩
  · rw [syncStage_signal hindex₁ hsignal (hremote.trans hlocal), hnumber]
    have heffect := syncObj_applySync_self k₁ (syncNumber k u.task.tenant g.sync) g.arg (BitVec.ofNat 32 g.operand)
    rwa [hobj] at heffect
  · rw [syncStage_wait hindex₁ hwait, hnumber] at hw ⊢
    obtain ⟨hjoined, hobject⟩ := waitSync_joins hrun (n := syncNumber k u.task.tenant g.sync) (by rw [hobj]; exact hge)
    rw [hjoined] at hw
    rw [hobject, hobj]
    exact ⟨(congrArg RunTask.waitFor (Option.some.inj hw)).symm, rfl⟩
  · rw [syncStage_wait hindex₁ hwait, hnumber] at hw ⊢
    obtain ⟨hpassed, hobjects⟩ := waitSync_passes hrun (n := syncNumber k u.task.tenant g.sync) (by rw [hobj]; exact hge)
    rw [hpassed] at hw
    exact ⟨(congrArg RunTask.waitFor (Option.some.inj hw)).symm, hobjects.trans hsync⟩

/-! ## Any stage -/

/-- A stage that finds no poison, no unmapped range and an index of its tenant is under way, with the effect of its code. -/
theorem runStart_begins {k : Chip} {j : ClusterNo} {u u₁ : RunTask} {g : StageRec} {ins : List StageIn} (htaken : SameStage u u₁)
    (hpoison : isCompute g.code = true → usedPoison k u.task g.code ins = 0)
    (hmapped : isRange g.code = true → ∀ d, descAt k u.task (g.ins.headD 0xFF) = some d → (rangeOf k u₁ d).1 = none)
    (hindex : 0x12 ≤ g.code → syncIndexOk k u.task.tenant g.sync = true) :
    ∃ u', UnderWay (runStart k j false u₁ g ins) j u u' ∧ Effect k (runStart k j false u₁ g ins) j u.task g u' := by
  by_cases hcompute : isCompute g.code = true
  · exact begins_compute htaken hcompute (hpoison hcompute)
  by_cases hrange : isRange g.code = true
  · exact begins_range ins htaken hrange (hmapped hrange)
  have hkind : g.code ≤ 0x04 ∨ g.code = 0x11 ∨ 0x12 ≤ g.code := by
    simp only [isCompute, isRange, Bool.and_eq_true, decide_eq_true_eq] at hcompute hrange
    omega
  obtain hstreams | hfence | hsync := hkind
  · exact begins_streams ins htaken hstreams
  · exact begins_fence ins htaken hfence
  · exact begins_sync ins htaken hsync (hindex hsync)

end Sys2Proof.Machine
end

section
/-!
PROOFS. Rules about a task that ends on a fault (R251, R316, R361): its cluster is left idle, and whatever its end makes of its shard's step starts
nothing and counts no other code.
-/
namespace Sys2Proof.Machine

/-! ## Work that no cluster sees -/

/-- Neither a cluster nor the count of a code changes. -/
structure SameWork (k k' : Chip) : Prop where
  clusters : k'.clusters = k.clusters
  occurrences : k'.occurrences = k.occurrences

theorem SameWork.refl (k : Chip) : SameWork k k := ⟨rfl, rfl⟩

theorem SameWork.trans {a b c : Chip} (h : SameWork a b) (g : SameWork b c) : SameWork a c :=
  ⟨g.clusters.trans h.clusters, g.occurrences.trans h.occurrences⟩

theorem sameWork_foldl {α : Type} {f : Chip → α → Chip} (h : ∀ c x, SameWork c (f c x)) (l : List α) (c : Chip) : SameWork c (l.foldl f c) :=
  forEach_rel .refl .trans (fun c x _ => h c x) c

theorem SameWork.modTen {k k' : Chip} (h : SameWork k k') (t : Nat) (f : TenantCtx → TenantCtx) : SameWork k (modTen k' t f) :=
  ⟨h.clusters, h.occurrences⟩

theorem sameWork_modTen (c : Chip) (t : Nat) (f : TenantCtx → TenantCtx) : SameWork c (modTen c t f) := ⟨rfl, rfl⟩

theorem sameWork_countTen (c : Chip) (t i n : Nat) : SameWork c (countTen c t i n) := by
  unfold countTen
  split
  · exact sameWork_modTen c t _
  · exact .refl c

theorem sameWork_sendUnprompted (c : Chip) (t source code tensor shard step : Nat) :
    SameWork c (sendUnprompted c t source code tensor shard step) := by
  unfold sendUnprompted
  split
  · exact .refl c
  · exact SameWork.trans (b := sendTo c _ _ _) ⟨rfl, rfl⟩ (sameWork_countTen _ t 13 1)

theorem sameWork_sendDone (c : Chip) (f : RxFrame) (d : DoneInfo) : SameWork c (sendDone c f d) := by
  unfold sendDone
  dsimp only
  split
  · exact ⟨rfl, rfl⟩
  · exact SameWork.trans (b := sendReply c f _ _) ⟨rfl, rfl⟩ (sameWork_countTen _ _ _ 1)

theorem sameWork_discardPending (c : Chip) (t tensor shard step : Nat) : SameWork c (discardPending c t tensor shard step) :=
  ⟨rfl, rfl⟩

theorem sameWork_abortUpdate (c : Chip) (t tensor shard step code : Nat) : SameWork c (abortUpdate c t tensor shard step code) :=
  ((sameWork_discardPending c t tensor shard step).trans (sameWork_modTen _ t _)).trans
    (sameWork_foldl (fun c s => sameWork_sendUnprompted c t s code tensor shard step) _ _)

theorem sameWork_abortCause (c : Chip) (cause : Option RxFrame) (code : Nat) : SameWork c (abortCause c cause code) := by
  unfold abortCause
  split
  · exact sameWork_sendDone c _ _
  · exact .refl c

/-! ## Lines that turn over -/

theorem sameWork_turnLine (t : Nat) (c : Chip) (l : PendLine) : SameWork c (turnLine t c l) := by
  unfold turnLine
  dsimp only
  split <;> exact ⟨rfl, rfl⟩

theorem sameWork_copyPage (a : ArrayInfo) (t tensor shard step : Nat) (c : Chip) (page : Nat) :
    SameWork c (copyPage a t tensor shard step c page) := by
  unfold copyPage
  dsimp only
  split
  · split <;> exact ⟨rfl, rfl⟩
  · exact .refl c

/-- A run-ahead's results written directly take a free way or go to HBM (R245). -/
theorem sameWork_storeTensorLine (t tensor shard array hint : Nat) (c : Chip) (n : Nat) (mask : BitVec 128) :
    SameWork c (storeTensorLine false t tensor shard array hint c n mask) := by
  unfold storeTensorLine
  dsimp only
  split
  · exact ⟨rfl, rfl⟩
  · rw [if_neg Bool.false_ne_true]
    split <;> exact ⟨rfl, rfl⟩

theorem sameWork_turnOver (a : ArrayInfo) (t tensor shard step : Nat) (c : Chip) : SameWork c (turnOver a t tensor shard step c) := by
  have hstore := fun c (p : Nat × Nat × BitVec 128) => sameWork_storeTensorLine t tensor shard p.1 0 c p.2.1 p.2.2
  unfold turnOver
  dsimp only
  refine SameWork.trans (SameWork.modTen (SameWork.trans ?_ (sameWork_foldl (sameWork_copyPage a t tensor shard step) _ _)) t _)
    (sameWork_foldl hstore _ _)
  exact (sameWork_foldl (sameWork_turnLine t) _ c).modTen t _

theorem sameWork_finishStep (c : Chip) (t tensor shard step : Nat) (rolledBack : Bool) (g : Shard → Shard) :
    SameWork c (finishStep c t tensor shard step rolledBack g) := ⟨rfl, rfl⟩

/-! ## An idle cluster stays idle -/

/-- A cluster with neither a running task nor a next one stays so, and no code is counted. -/
structure IdleKept (j : ClusterNo) (k k' : Chip) : Prop where
  occurrences : k'.occurrences = k.occurrences
  idle : (clusterOf k j).run = none ∧ (clusterOf k j).next = none → (clusterOf k' j).run = none ∧ (clusterOf k' j).next = none

theorem IdleKept.refl (j : ClusterNo) (k : Chip) : IdleKept j k k := ⟨rfl, id⟩

theorem IdleKept.trans {j : ClusterNo} {a b c : Chip} (h : IdleKept j a b) (g : IdleKept j b c) : IdleKept j a c :=
  ⟨g.occurrences.trans h.occurrences, fun hidle => g.idle (h.idle hidle)⟩

theorem SameWork.idleKept {k k' : Chip} (h : SameWork k k') (j : ClusterNo) : IdleKept j k k' :=
  ⟨h.occurrences, fun hidle => by rwa [clusterOf_congr h.clusters]⟩

theorem IdleKept.modTen {j : ClusterNo} {k k' : Chip} (h : IdleKept j k k') (t : Nat) (f : TenantCtx → TenantCtx) : IdleKept j k (modTen k' t f) :=
  ⟨h.occurrences, h.idle⟩

theorem idleKept_ite {p : Prop} [Decidable p] {j : ClusterNo} {k a b : Chip} (ha : IdleKept j k a) (hb : IdleKept j k b) :
    IdleKept j k (if p then a else b) := by
  split
  · exact ha
  · exact hb

theorem idleKept_forEach {α : Type} {j : ClusterNo} {f : Chip → α → Chip} (h : ∀ c x, IdleKept j c (f c x)) (l : List α) (c : Chip) :
    IdleKept j c (forEach c l f) :=
  forEach_rel (.refl j) .trans (fun c x _ => h c x) c

theorem idleKept_modCluster (c : Chip) (j k : ClusterNo) {f : Cluster → Cluster} (hrun : ∀ x, (f x).run = x.run)
    (hnext : ∀ x, (f x).next = x.next) : IdleKept j c (modCluster c k f) := by
  refine ⟨rfl, fun hidle => ?_⟩
  by_cases hj : j = k
  · rw [hj, clusterOf_modCluster_self, hrun, hnext]
    exact hj ▸ hidle
  · rwa [clusterOf_modCluster_ne c k j f hj]

theorem dropTasks_idle (p : Task → Bool) {x : Cluster} (h : x.run = none ∧ x.next = none) :
    (dropTasks p x).run = none ∧ (dropTasks p x).next = none := by
  obtain ⟨hrun, hnext⟩ := h
  simp [dropTasks, hrun, hnext]

theorem idleKept_endTasks (c : Chip) (j : ClusterNo) (p : Task → Bool) : IdleKept j c (endTasks c p) := by
  refine ⟨rfl, fun hidle => ?_⟩
  have hfound : tabFind (endTasks c p).clusters j = (tabFind c.clusters j).map (dropTasks p) := tabFind_tabMap _ _ _
  rw [clusterOf, tabGet_eq_find] at hidle ⊢
  rw [hfound]
  cases hfind : tabFind c.clusters j with
  | none => exact ⟨rfl, rfl⟩
  | some x =>
    rw [hfind] at hidle
    exact dropTasks_idle p hidle

theorem idleKept_queueTask (c : Chip) (j k : ClusterNo) (u : Task) : IdleKept j c (queueTask c k u) :=
  idleKept_modCluster c j k (fun _ => rfl) (fun _ => rfl)

theorem idleKept_haltCluster (c : Chip) (j k : ClusterNo) : IdleKept j c (haltCluster c k) :=
  idleKept_modCluster c j k (fun _ => rfl) (fun _ => rfl)

theorem idleKept_haltAll (c : Chip) (j : ClusterNo) : IdleKept j c (haltAll c) := idleKept_forEach (fun c k => idleKept_haltCluster c j k) _ c

theorem idleKept_hitFault (c : Chip) (j : ClusterNo) (code : Nat) (k : Option ClusterNo) : IdleKept j c (hitFault c code k) := by
  unfold hitFault
  split
  · refine idleKept_forEach (fun c i => ?_) _ c
    have hnote : SameWork c (noteHit c i (k.getD 0)) := ⟨rfl, rfl⟩
    refine (hnote.idleKept j).trans ?_
    cases k with
    | none => exact idleKept_haltAll _ j
    | some k =>
      dsimp only
      split
      · exact idleKept_haltAll _ j
      · exact idleKept_haltCluster _ j k
  · exact .refl j c

/-! ## A step that settles -/

theorem idleKept_queueUpdate (c : Chip) (j : ClusterNo) (t tensor shard step : Nat) : IdleKept j c (queueUpdate c t tensor shard step) := by
  unfold queueUpdate
  split
  · exact .refl j c
  · exact ((sameWork_modTen c t _).idleKept j).trans (idleKept_forEach (fun c _ => idleKept_queueTask c j _ _) _ _)

theorem idleKept_rerunWith (c : Chip) (j : ClusterNo) (t tensor shard step : Nat) (f : Word) : IdleKept j c (rerunWith c t tensor shard step f) := by
  unfold rerunWith
  exact (idleKept_queueUpdate _ j t tensor shard step).modTen t _

/-- The tasks of a stage end, and its pending state goes with them. -/
theorem idleKept_discard (c : Chip) (j : ClusterNo) (t tensor shard step : Nat) :
    IdleKept j c (discardPending (endTasks c (isUpdateOf t tensor shard step)) t tensor shard step) :=
  (idleKept_endTasks c j _).trans ((sameWork_discardPending _ t tensor shard step).idleKept j)

theorem idleKept_cascade (c : Chip) (j : ClusterNo) (t tensor shard step : Nat) : IdleKept j c (cascade c t tensor shard step) := by
  unfold cascade
  split
  · refine (idleKept_discard c j t tensor shard step).trans (SameWork.idleKept ?_ j)
    refine SameWork.modTen ?_ t _
    split
    · exact sameWork_modTen _ t _
    · exact SameWork.trans (sameWork_modTen _ t _) (sameWork_countTen _ t 23 1)
  · exact .refl j c

theorem idleKept_dropPending (c : Chip) (j : ClusterNo) (t tensor shard step : Nat) : IdleKept j c (dropPending c t tensor shard step) :=
  (idleKept_discard c j t tensor shard step).trans (idleKept_cascade _ j t tensor shard (step + 1))

theorem idleKept_rerunShard (c : Chip) (j : ClusterNo) (t tensor shard step : Nat) : IdleKept j c (rerunShard c t tensor shard step) := by
  unfold rerunShard
  dsimp only
  split
  · exact idleKept_ite (idleKept_ite ((IdleKept.refl j c).modTen t _) (idleKept_rerunWith c j t tensor shard step _)) (.refl j c)
  · exact .refl j c

theorem idleKept_earlyEffect (c : Chip) (j : ClusterNo) (t tensor shard step : Nat) : IdleKept j c (earlyEffect c t tensor shard step) := by
  unfold earlyEffect
  dsimp only
  split
  · split
    · split
      · exact .refl j c
      · exact (idleKept_discard c j t tensor shard step).trans ((sameWork_modTen _ t _).idleKept j)
    · split
      · exact .refl j c
      · split
        · split
          · exact (sameWork_modTen c t _).idleKept j
          · split
            · exact (idleKept_dropPending c j t tensor shard step).trans (idleKept_rerunWith _ j t tensor shard step _)
            · exact .refl j c
        · split
          · exact ((sameWork_modTen c t _).trans (sameWork_modTen _ t _)).idleKept j
          · exact ((sameWork_turnOver _ t tensor shard step c).trans (sameWork_modTen _ t _)).idleKept j
  · exact .refl j c

theorem idleKept_applyShard (c : Chip) (j : ClusterNo) (t tensor shard step : Nat) : IdleKept j c (applyShard c t tensor shard step) := by
  unfold applyShard
  dsimp only
  split
  · split
    · exact .refl j c
    · split
      · exact (idleKept_dropPending c j t tensor shard step).trans ((sameWork_finishStep _ t tensor shard step true id).idleKept j)
      · split
        · exact (sameWork_finishStep c t tensor shard step true _).idleKept j
        · split
          · exact (idleKept_dropPending c j t tensor shard step).trans (idleKept_rerunWith _ j t tensor shard step _)
          · exact ((sameWork_turnOver _ t tensor shard step c).trans (sameWork_finishStep _ t tensor shard step false _)).idleKept j
  · exact .refl j c

theorem sameWork_arrive (c : Chip) (t step : Nat) : SameWork c (arrive c t step) := by
  unfold arrive
  dsimp only
  split
  · exact .refl c
  · split <;> exact ⟨rfl, rfl⟩

theorem idleKept_settleStep (c : Chip) (j : ClusterNo) (t step : Nat) : IdleKept j c (settleStep t step c) := by
  have hreruns := idleKept_forEach (fun c (p : Nat × Nat) => idleKept_rerunShard c j t p.1 p.2 step) (homedShards c t) c
  have hearly := hreruns.trans (idleKept_forEach (fun c (p : Nat × Nat) => idleKept_earlyEffect c j t p.1 p.2 step) (homedShards c t) _)
  have happlied := hearly.trans (idleKept_forEach (fun c (p : Nat × Nat) => idleKept_applyShard c j t p.1 p.2 step) (homedShards c t) _)
  exact happlied.trans ((sameWork_arrive _ t step).idleKept j)

/-- Settling a step and the one after it starts no task. -/
theorem idleKept_settle2 (c : Chip) (j : ClusterNo) (t step : Nat) : IdleKept j c (settle2 t step c) :=
  (idleKept_settleStep c j t step).trans (idleKept_settleStep _ j t (step + 1))

theorem idleKept_afterFault (c : Chip) (j : ClusterNo) (u : Task) : IdleKept j c (afterFault u c) := by
  unfold afterFault
  split
  · exact idleKept_settle2 c j _ _
  · split
    · exact (sameWork_modTen c _ _).idleKept j
    · exact .refl j c

/-! ## A running task's end on a fault -/

/-- The chip as a running task ends on a fault: the code counted, the task gone from its cluster. -/
def faulted (c : Chip) (j : ClusterNo) (r : RunTask) (code : Nat) : Chip :=
  modCluster (leaveWaiters (countTen (countCode c code) r.task.tenant 28 1) [j]) j (withoutTask false r)

theorem faultAt_eq {c : Chip} {j : ClusterNo} {r : RunTask} (h : (clusterOf c j).run = some r) (code : Nat) :
    faultAt c j false code = afterFault r.task (hitFault
      (if r.task.kind = 12 then abortUpdate (faulted c j r code) r.task.tenant r.task.tensor r.task.shard r.task.step code
       else abortCause (faulted c j r code) r.task.cause code) code (some j)) := by
  have hat : taskAt (clusterOf c j) false = some r := h
  simp only [faultAt, taskFault, hat]
  rfl

theorem clusterOf_faulted (c : Chip) (j : ClusterNo) (r : RunTask) (code : Nat) :
    clusterOf (faulted c j r code) j = withoutTask false r (clusterOf c j) := by
  have hclusters : (leaveWaiters (countTen (countCode c code) r.task.tenant 28 1) [j]).clusters = c.clusters :=
    countTen_clusters (countCode c code) r.task.tenant 28 1
  rw [faulted, clusterOf_modCluster_self, clusterOf_congr hclusters]

theorem occurrences_faulted (c : Chip) (j : ClusterNo) (r : RunTask) (code : Nat) :
    (faulted c j r code).occurrences = (countCode c code).occurrences := (sameWork_countTen (countCode c code) r.task.tenant 28 1).occurrences

theorem idleKept_faultAt {c : Chip} {j : ClusterNo} {r : RunTask} (h : (clusterOf c j).run = some r) (code : Nat) :
    IdleKept j (faulted c j r code) (faultAt c j false code) := by
  rw [faultAt_eq h]
  refine IdleKept.trans ?_ ((idleKept_hitFault _ j code (some j)).trans (idleKept_afterFault _ j r.task))
  split
  · exact (sameWork_abortUpdate _ _ _ _ _ code).idleKept j
  · exact (sameWork_abortCause _ _ code).idleKept j

/-- A task that ends on a fault is counted under its code once, and with no next task beside it leaves its cluster idle. -/
theorem faultAt_ends {c : Chip} {j : ClusterNo} {r : RunTask} (h : (clusterOf c j).run = some r) (code : Nat) :
    tabGet 0 (faultAt c j false code).occurrences code = tabGet 0 c.occurrences code + 1 ∧
      ((clusterOf c j).next = none → (clusterOf (faultAt c j false code) j).run = none) := by
  have hkept := idleKept_faultAt h code
  refine ⟨?_, fun hnext => (hkept.idle ?_).1⟩
  · rw [hkept.occurrences, occurrences_faulted]
    exact tabGet_tabSet_self _ _ _ _
  · rw [clusterOf_faulted]
    exact ⟨by simp [withoutTask, hnext], rfl⟩

end Sys2Proof.Machine
end

section
/-!
PROOFS. STAGE_END and STAGE_BOUND_EXCEEDED (R329, R346, R360, R401), and O57: tasks start, run stage by stage, and end.
-/
namespace Sys2Proof.Machine

/-! ## STAGE_END -/

/-- A run whose stage has ended: its handles pushed, its inputs released, the next stage to come. -/
def endedRun (c : Chip) (r : RunTask) : RunTask :=
  { releaseIns (pushOuts c r) with active := false, stage := r.stage + 1, waitFor := .nothing, count := 0 }

theorem sameStage_released (c : Chip) (r : RunTask) : SameStage r (releaseIns (pushOuts c r)) :=
  (sameStage_pushOuts c r).trans (sameStage_releaseIns _)

/-- A cluster whose running task's stage has ended; a step of one stage halts it (R401). -/
def withStageOver (c : Chip) (r : RunTask) (x : Cluster) : Cluster :=
  { x with run := some (endedRun c r), prologueDue := (endedRun c r).loadsIssued, halted := x.halted || decide (x.stepMode = .stage),
           stepMode := if decide (x.stepMode = .stage) then .none else x.stepMode }

theorem clusterOf_endStage (c : Chip) (j : ClusterNo) (r : RunTask) :
    clusterOf (endStage c j false r) j = withStageOver c r (clusterOf c j) :=
  clusterOf_modCluster_self c j _

/-- A cluster that its running task has left, its work done (R330). -/
def leftCluster (r : RunTask) (x : Cluster) : Cluster :=
  dropDeficits { x with run := x.next.map (fun n => { n with prologueOnly := false }), next := none, prologueDue := false,
                        completion := some { task := r.task, deadReuse := r.deadReuse } }

theorem finishTask_goesOn {c : Chip} {j : ClusterNo} {r : RunTask} (hrun : (clusterOf c j).run = some r) (h : taskOver c r = false) :
    finishTask c j = c := by
  simp [finishTask, hrun, h]

theorem finishTask_over {c : Chip} {j : ClusterNo} {r : RunTask} (hrun : (clusterOf c j).run = some r) (h : taskOver c r = true) :
    finishTask c j =
      if r.task.kind = 12 then settle2 r.task.tenant r.task.step (noteTile (setCluster c j (leftCluster r (clusterOf c j))) r.task)
      else endWork (setCluster c j (leftCluster r (clusterOf c j))) r.task := by
  simp only [finishTask, hrun, h, Bool.not_true, Bool.false_eq_true, if_false]
  rfl

theorem taskOver_endStage (c : Chip) (j : ClusterNo) (r : RunTask) :
    taskOver (endStage c j false r) (endedRun c r) =
      (decide (stageCount c r.task.recipe ≤ r.stage + 1) && isDrained c (releaseIns (pushOuts c r))) := by
  rw [← (sameStage_released c r).task]
  rfl

theorem exec_stageEnd_ends {s : State} {c : Pos} {j : ClusterNo} {u : RunTask} (hruns : coreRuns (getChip s c) = true)
    (hgoes : (clusterOf (getChip s c) j).halted = false) (hrun : (clusterOf (getChip s c) j).run = some u) (hactive : u.active = true)
    (hover : stageOverNow (getChip s c) (clusterOf (getChip s c) j) u = true) :
    exec (.stageEnd c j) s = .next (setChip s c (finishTask (endStage (getChip s c) j false u) j)) := by
  refine (if_neg (by rw [hruns, hgoes]; exact Bool.false_ne_true)).trans ?_
  simp only [hrun, hactive, hover, if_true]

/-- A stage that is not the last ends, and its task goes on with the next. -/
theorem stageEnd_goesOn {c : Chip} {j : ClusterNo} {u : RunTask} (hmore : u.stage + 1 < stageCount c u.task.recipe) :
    finishTask (endStage c j false u) j = endStage c j false u := by
  refine finishTask_goesOn (r := endedRun c u) (by rw [clusterOf_endStage]; rfl) ?_
  rw [taskOver_endStage, decide_eq_false (by omega), Bool.false_and]

/-- The last stage of a task whose stores are accepted ends, and its task with it. -/
theorem stageEnd_finishes {c : Chip} {j : ClusterNo} {u : RunTask} (hlast : stageCount c u.task.recipe ≤ u.stage + 1)
    (hdrained : isDrained c (releaseIns (pushOuts c u)) = true) {k' : Chip}
    (hk' : k' = setCluster (endStage c j false u) j (leftCluster (endedRun c u) (withStageOver c u (clusterOf c j)))) :
    finishTask (endStage c j false u) j =
      if u.task.kind = 12 then settle2 u.task.tenant u.task.step (noteTile k' u.task) else endWork k' u.task := by
  have hover : taskOver (endStage c j false u) (endedRun c u) = true := by
    rw [taskOver_endStage, decide_eq_true hlast, hdrained]
    rfl
  have htask : (endedRun c u).task = u.task := (sameStage_released c u).task
  rw [finishTask_over (by rw [clusterOf_endStage]; rfl) hover, clusterOf_endStage, htask, hk']

theorem exec_stageEnd_halted {s : State} {c : Pos} {j : ClusterNo} (h : (clusterOf (getChip s c) j).halted = true) :
    exec (.stageEnd c j) s = .next s :=
  if_pos (by rw [h, Bool.or_true])

/-! ## STAGE_BOUND_EXCEEDED -/

theorem exec_stageBoundExceeded_ends {s : State} {c : Pos} {j : ClusterNo} {u : RunTask} (hruns : coreRuns (getChip s c) = true)
    (hgoes : (clusterOf (getChip s c) j).halted = false) (hrun : (clusterOf (getChip s c) j).run = some u)
    (hover : overBound (getChip s c) u = true) :
    exec (.stageBoundExceeded c j) s = .next (setChip s c (faultAt (getChip s c) j false (boundFault u))) := by
  refine (if_neg (by rw [hruns, hgoes]; exact Bool.false_ne_true)).trans ?_
  simp only [hrun, hover, if_true]

theorem exec_stageBoundExceeded_halted {s : State} {c : Pos} {j : ClusterNo} (h : (clusterOf (getChip s c) j).halted = true) :
    exec (.stageBoundExceeded c j) s = .next s :=
  if_pos (by rw [h, Bool.or_true])

/-! ## The obligation -/

/-- Settles O57: each command's rule, for the task chosen, the next one beside it, a halted cluster, a stage that starts, one that ends, and one at
its bound. -/
theorem tasksRunStageByStage : Obligations.TasksRunStageByStage := by
  unfold Obligations.TasksRunStageByStage
  refine ⟨?idle, ?beside, fun s c j h =>
    ⟨exec_taskStart_halted h, exec_stageStart_halted h, exec_stageEnd_halted h, exec_stageBoundExceeded_halted h⟩, ?starts, ?ends, ?bound⟩
  case idle =>
    rintro s c j u _ _ q rfl rfl hruns hgoes hidle hexists hnext hserve
    obtain ⟨k₀, hcharged, hexec⟩ := exec_taskStart_idle hruns hgoes hidle hnext hserve
    refine ⟨fun hstaged hfits => ?_, fun hwhole hpasses hfault => ?_⟩
    · have hbegun := begun_placeTask hcharged hexists s.tray.now
      obtain ⟨d, hd⟩ := hbegun.cluster
      rw [beginTask_staged ((hcharged.startsWhole_eq u).trans hstaged)
        (by simpa only [recipeFits, recipeAt, hcharged.image] using hfits)] at hexec
      refine ⟨_, hexec, onlyChip_setChip _ _ _, ?_⟩
      rw [getChip_setChip_self, hd]
      exact ⟨rfl, rfl, rfl, rfl, hbegun.tenant.counter, hbegun.frame, fun h => if_pos h, fun h => if_neg h, fun h => if_pos h,
        fun h => if_neg h⟩
    · have hpasses₀ : (clusterOf k₀ j).passed = true ∨ slotsWhere k₀ (fun b => taskSlot b u) = [] := by
        obtain ⟨⟨cl, rfl⟩, d, hd⟩ := hcharged
        rw [hd]
        exact hpasses
      rw [beginTask_whole ((hcharged.startsWhole_eq u).trans hwhole) hpasses₀ ((hcharged.tenantExists_eq _).trans hexists)
        ((hcharged.wholeFault_eq u).trans hfault), endWhole_eq] at hexec
      exact ⟨_, hexec, leftWhole_leaves (begun_placeTask (hcharged.trans (charged_chargeAll k₀ j u)) hexists s.tray.now)⟩
  case beside =>
    rintro s c j r u _ _ rfl rfl hruns hgoes hrun hnext hmay
    refine ⟨_, exec_taskStart_beside hruns hgoes hrun hnext hmay, onlyChip_setChip _ _ _, ?_⟩
    rw [getChip_setChip_self, clusterOf_beginNext]
    exact ⟨tenantFrame_beginNext _ _ j u, hrun, rfl, rfl⟩
  case starts =>
    rintro s c j _ _ u u₁ g ins n v rfl rfl hruns hgoes hrun hnext hidle hstage hins hready hhits hpoison hmapped hindex rfl rfl
    obtain ⟨u', hunder, heffect⟩ := runStart_begins (j := j) (sameStage_takeIns hins) hpoison hmapped hindex
    refine ⟨_, u', exec_stageStart_ready hruns hgoes hrun hnext hidle hstage hins hready hhits, onlyChip_setChip _ _ _, ?_⟩
    rw [getChip_setChip_self]
    exact ⟨hunder.run, hunder.active, hunder.stage, hunder.count, hunder.task, heffect.frame, fun h i d hi => heffect.streams h i hi d,
      heffect.signal, heffect.joins, heffect.passes⟩
  case ends =>
    rintro s c j _ _ u rfl rfl hruns hgoes hrun hactive hover
    have hexec := exec_stageEnd_ends hruns hgoes hrun hactive hover
    have hhalted : (withStageOver (getChip s c) u (clusterOf (getChip s c) j)).halted =
        decide ((clusterOf (getChip s c) j).stepMode = .stage) := by
      simp only [withStageOver, hgoes, Bool.false_or]
    have hsame := sameStage_released (getChip s c) u
    refine ⟨fun hmore => ?_, fun hlast hdrained => ?_⟩
    · rw [stageEnd_goesOn hmore] at hexec
      refine ⟨_, endedRun (getChip s c) u, hexec, onlyChip_setChip _ _ _, ?_⟩
      rw [getChip_setChip_self, clusterOf_endStage]
      exact ⟨rfl, rfl, rfl, rfl, rfl, rfl, hsame.task, hhalted⟩
    · rw [stageEnd_finishes hlast hdrained rfl] at hexec
      refine ⟨_, hexec, rfl, rfl, ?_⟩
      rw [clusterOf_setCluster_self]
      refine ⟨rfl, rfl, ?_, hhalted⟩
      rw [← hsame.task, ← hsame.deadReuse]
      rfl
  case bound =>
    rintro s c j _ _ u _ rfl rfl hruns hgoes hrun hover rfl
    obtain ⟨hcounted, hidle⟩ := faultAt_ends hrun (boundFault u)
    exact ⟨exec_stageBoundExceeded_ends hruns hgoes hrun hover, fun h => by simp only [boundFault, h],
      fun n v h => by simp only [boundFault, h], fun n h => by simp only [boundFault, h], hidle, hcounted⟩

end Sys2Proof.Machine
end

section
/-!
PROOFS. The refutation of O49 (InitFillsShards). Its first clause keeps every other tenant as it is, for every state. On the chip that refutes
O48, whose table of slice lines names one line for tenant 1 and again for T0, an INIT that has to make room for its line (R303, R307) evicts by
tenant 1's entry what it chose by T0's.
-/
namespace Sys2Proof.Machine.TwiceHeldInit

open TwiceHeld

/-- T0 before its first INIT: its shard is EMPTY. -/
def blank : TenantCtx := { TwiceHeld.tenant with committed := none, resolved := none, shards := [] }

/-- The chip whose slice lines name `victim` for tenant 1 and for T0, with nothing in T0's shard. -/
def blankChip : Chip := { TwiceHeld.chip with tenants := [(0, blank)] }

/-- A host's INIT of the one element of the shard's master with 1.0. -/
def initFrame : RxFrame :=
  { frame := mkFrame { version := 1, type := tyInit, tenant := 0, vc := 1, flags := 0, tensor := 0, shard := 0, step := 4, source := 0, seq := 0,
                       offset := 0, count := 1, format := 0, aux := 0, dest := 0, tag := 0#32 } [0#8, 0#8, 0x80#8, 0x3F#8],
    port := 24, vc := 1#2, tagTenant := 0#3, flits := flitsOf 4, route := none }

/-- The tray with that chip at position 0. -/
def blankState : State := setChip State.reset 0 blankChip

/-- The shard as the commands see it: one element, homed on this chip. -/
def shardOne : ShardInfo := { tensor := TwiceHeld.tensor, group := TwiceHeld.group, n := 1, stride := 32 }

theorem init_served : ServedRequest blankState 0 initFrame tyInit blankChip := by
  have hgate : linksOn (getChip blankState 0) = true ∧ waitsBehind (getChip blankState 0) initFrame = false ∧ (rxHead initFrame).type = tyInit ∧
      trailerFails initFrame = false ∧ badHeader initFrame = none ∧ initFrame.vc = 1#2 ∧
      tenantExists blankChip (rxHead initFrame).tenant = true := by
    decide +kernel
  have hdest : destInside blankChip (rxHead initFrame).dest = true ∧ (rxHead initFrame).dest = chipNo blankChip := by decide +kernel
  have hserve : wipeCode blankChip = none ∧ stoppingFault blankChip = none ∧ awaitsReset (ten blankChip (rxHead initFrame).tenant) = false ∧
      (ten blankChip (rxHead initFrame).tenant).fault = 0 ∧ blankChip.wake.season ≠ .autumn := by
    decide +kernel
  obtain ⟨hlinks, hfirst, htype, htrailer, hheader, hvc, hexists⟩ := hgate
  exact ⟨rfl, hlinks, hfirst, htype, htrailer, hheader, hvc, hexists, fun _ => hdest, nofun, hserve⟩

/-- The INIT's one task runs at once (log entry 10). -/
theorem init_runsAtOnce :
    RunsAtOnce blankChip
      (frameTask blankChip 3 initFrame (rxHead initFrame).offset (rxHead initFrame).count blankState.tray.now) := by
  unfold RunsAtOnce
  decide +kernel

/-- Making room for the written line evicts `victim`, and the eviction writes the shards of tenant 1, whose entry the key finds. -/
theorem init_changes_tenant_one : ten (getChip (hostCommand tyInit takeInit 0 initFrame blankState) 0) 1 ≠ ten blankChip 1 := by
  decide +kernel

end Sys2Proof.Machine.TwiceHeldInit

namespace Sys2Proof.Machine

open TwiceHeldInit

/-- An INIT is a host request that takeInit serves. -/
theorem exec_init (c : Pos) (f : RxFrame) (s : State) : exec (.init c f) s = .next (hostCommand tyInit takeInit c f s) := rfl

/-- Refutes O49: served on a chip whose table of slice lines names one line for tenant 1 and for T0, an INIT of T0's empty shard evicts that
line by tenant 1's entry and changes tenant 1. -/
theorem not_initFillsShards : ¬ Obligations.InitFillsShards := by
  unfold Obligations.InitFillsShards
  rintro ⟨hinit, -⟩
  obtain ⟨t, hexec, -, ⟨-, -, -, -, -, hothers, -⟩, -⟩ :=
    hinit blankState 0 initFrame blankChip shardOne (shardOf (ten blankChip 0) 0 0) init_served (by decide +kernel) (by decide +kernel)
      (by decide +kernel) (by decide +kernel) (by decide +kernel) (by decide +kernel) init_runsAtOnce (by decide +kernel)
  rw [exec_init, Host.Outcome.next.injEq] at hexec
  subst hexec
  exact init_changes_tenant_one (hothers 1 (by decide +kernel))

end Sys2Proof.Machine
end

section
/-!
PROOFS. What the commands of host requests share: a request that passes its checks (Table 9-4) is served, and the tasks of its frame that nothing
holds run whole at once (log entry 10).
-/
namespace Sys2Proof.Machine

/-! ## The checks of a host request -/

theorem wipeCode_congr {c c' : Chip} (hwipe : c'.wipe = c.wipe) (hfaults : c'.faults = c.faults) : wipeCode c' = wipeCode c := by
  simp only [wipeCode, hwipe, hfaults]

theorem stoppingFault_congr {c c' : Chip} (hfaults : c'.faults = c.faults) : stoppingFault c' = stoppingFault c := by
  simp only [stoppingFault, hfaults]

theorem destInside_congr {c c' : Chip} (himage : c'.image = c.image) (hwake : c'.wake = c.wake) (dest : Nat) :
    destInside c' dest = destInside c dest := by
  simp only [destInside, himage, chipNo_congr himage hwake]

/-- Checks 1 to 5 pass a request for this chip (Table 9-4). -/
theorem arrivalGate_passes {c : Chip} {f : RxFrame} (hrequest : isHostRequest (rxHead f).type = true) (htrailer : trailerFails f = false)
    (hheader : badHeader f = none) (hvc : f.vc = 1#2) (hexists : tenantExists c (rxHead f).tenant = true)
    (hhost : f.route = none → destInside c (rxHead f).dest = true ∧ (rxHead f).dest = chipNo c)
    (hlink : ∀ r, f.route = some r → r.targetChip.toNat = chipNo c) : arrivalGate c f = .pass c := by
  unfold arrivalGate
  cases hroute : f.route with
  | none =>
    obtain ⟨hinside, hdest⟩ := hhost hroute
    simp [htrailer, hheader, hrequest, hvc, hexists, hdest ▸ hinside, hdest]
  | some r => simp [hlink r hroute, hvc, hexists]

/-- Checks 6 to 8 pass a request of a tenant that runs; RETRY is counted (R165). -/
theorem serveGate_passes {c : Chip} {f : RxFrame} (hwipe : wipeCode c = none) (hstop : stoppingFault c = none)
    (hreset : awaitsReset (ten c (rxHead f).tenant) = false) (hfault : (ten c (rxHead f).tenant).fault = 0)
    (hseason : c.wake.season ≠ .autumn) :
    serveGate c f = .pass (if rxFlag f flRetry then countTen c (rxHead f).tenant 14 1 else c) := by
  have hcounted : (if rxFlag f flRetry then countTen c (rxHead f).tenant 14 1 else c).wake.season ≠ .autumn := by
    split
    · rwa [(sameBody_countTen c _ 14 1).wake]
    · exact hseason
  simp [serveGate, hwipe, hstop, hreset, hfault, hcounted]

/-- Taking a frame counts RETRY and changes nothing else of the chip that the frame has left. -/
theorem answered_taken (c : Chip) (f : RxFrame) : Answered (consume c f) (taken c f true) := by
  unfold taken
  split
  · exact answered_countTen _ _ 14 1
  · exact .refl _

/-- A request that ServedRequest describes is served by its own command. -/
theorem hostCommand_served {s : State} {c : Pos} {f : RxFrame} {type : Nat} {k : Chip} (h : ServedRequest s c f type k)
    (hrequest : isHostRequest type = true) (serve : Nat → Chip → RxFrame → Chip) :
    hostCommand type serve c f s = setChip s c (serve s.tray.now k f) := by
  obtain ⟨rfl, hlinks, hfirst, rfl, htrailer, hheader, hvc, hexists, hhost, hlink, hwipe, hstop, hreset, hfault, hseason⟩ := h
  obtain ⟨hbody, htenants⟩ := answered_taken (getChip s c) f
  obtain ⟨l, hten⟩ := htenants (rxHead f).tenant
  rw [tenantExists_congr hbody.wake] at hexists
  rw [chipNo_congr hbody.image hbody.wake] at hhost hlink
  rw [destInside_congr hbody.image hbody.wake] at hhost
  rw [wipeCode_congr hbody.wipe hbody.faults] at hwipe
  rw [stoppingFault_congr hbody.faults] at hstop
  rw [hten] at hreset hfault
  rw [hbody.wake] at hseason
  unfold hostCommand
  simp only [hlinks, hfirst, decide_true, Bool.not_false, Bool.and_true, if_true,
    arrivalGate_passes hrequest htrailer hheader hvc hexists hhost hlink, serveGate_passes hwipe hstop hreset hfault hseason,
    taken, Bool.true_and]

/-! ## The tasks of a frame's work -/

/-- Every task of a frame's work is of the frame's tenant. -/
theorem workTasks_tenant (c : Chip) (t : Task) : ∀ u ∈ workTasks c t, u.tenant = t.tenant := by
  intro u hu
  obtain ⟨p, -, rfl⟩ := List.mem_map.1 hu
  rfl

/-- Two chips on which a tenant's tasks find the same clusters, recipes and tensors. -/
structure SameTasks (t : Nat) (k k' : Chip) : Prop where
  image : k'.image = k.image
  wake : k'.wake = k.wake
  clusters : k'.clusters = k.clusters
  m8 : (ten k' t).m8 = (ten k t).m8
  shift : (ten k' t).shadowShift = (ten k t).shadowShift

/-- Noting a frame's origin changes nothing that tasks look at. -/
theorem sameTasks_noteOrigin (c : Chip) (f : RxFrame) : SameTasks (rxHead f).tenant c (noteOrigin c f) :=
  ⟨rfl, rfl, rfl, by rw [noteOrigin, ten_modTen_self], by rw [noteOrigin, ten_modTen_self]⟩

theorem requestArray_congr {c c' : Chip} {q : Hdr} (himage : c'.image = c.image) (hm8 : (ten c' q.tenant).m8 = (ten c q.tenant).m8)
    (kind sel : Nat) : requestArray c' kind q sel = requestArray c kind q sel := by
  simp only [requestArray, arrayInfoOf_congr himage hm8]

theorem taskPlace_congr {c c' : Chip} (himage : c'.image = c.image) (u : Task) : taskPlace c' u = taskPlace c u := by
  simp only [taskPlace, tileOf, recipeAt, himage]

theorem stashCuts_congr {c c' : Chip} (himage : c'.image = c.image) (u : Task) (q : Hdr) : stashCuts c' u q = stashCuts c u q := by
  simp only [stashCuts, tileOf, recipeAt, siteOf, catOf, himage]

theorem descTotal_congr {c c' : Chip} {u : Task} (himage : c'.image = c.image) (hm8 : (ten c' u.tenant).m8 = (ten c u.tenant).m8)
    (d : DescRec) : descTotal c' u d = descTotal c u d := by
  simp only [descTotal, descAt, recipeAt, descElem, descFmt, himage, arrayInfoOf_congr himage hm8]

theorem sendCost_congr {c c' : Chip} {u : Task} (himage : c'.image = c.image) (total p n : Nat) :
    sendCost c' u total p n = sendCost c u total p n := by
  simp only [sendCost, frameStarts, tensorOf, groupOfTensor, catOf, himage]

theorem wholeCost_congr {c c' : Chip} {u : Task} (himage : c'.image = c.image) (hm8 : (ten c' u.tenant).m8 = (ten c u.tenant).m8)
    (op : Nat) : wholeCost c' u op = wholeCost c u op := by
  simp only [wholeCost, taskStreams, recipeAt, himage, denseAddresses_congr himage hm8, descTotal_congr himage hm8,
    sendCost_congr himage]

theorem slotsWhere_congr {c c' : Chip} (hdbg : c'.dbg = c.dbg) (p : BreakSlot → Bool) : slotsWhere c' p = slotsWhere c p := by
  simp only [slotsWhere, hdbg]

theorem canRunNow_congr {c c' : Chip} (himage : c'.image = c.image) (hclusters : c'.clusters = c.clusters) (hdbg : c'.dbg = c.dbg)
    (ts : List Task) : canRunNow c' ts = canRunNow c ts := by
  simp only [canRunNow, runsWhole, recipeAt, slotsWhere_congr hdbg, clusterOf_congr hclusters, taskPlace_congr himage, anyTask,
    hclusters, himage]

/-- The tasks of a frame's work: their arrays come from the frame's own tenant. -/
theorem workTasks_congr {c c' : Chip} {u : Task} (himage : c'.image = c.image) (hm8 : (ten c' u.tenant).m8 = (ten c u.tenant).m8)
    (hcause : ∀ f, u.cause = some f → (rxHead f).tenant = u.tenant) : workTasks c' u = workTasks c u := by
  have harrays : workArrays c' u = workArrays c u := by
    unfold workArrays
    cases hf : u.cause with
    | none => rfl
    | some f =>
      have hrequest := requestArray_congr himage (q := rxHead f) (by rw [hcause f hf]; exact hm8) 4
      simp only [arrayInfoOf_congr himage hm8, funext hrequest]
  have htile : tileOf c' u.recipe = tileOf c u.recipe := by simp only [tileOf, recipeAt, himage]
  simp only [workTasks, harrays, stashCuts_congr himage, htile]

/-! ## A task that runs whole -/

theorem modCluster_clusters_congr {c c' : Chip} (h : c'.clusters = c.clusters) (j : ClusterNo) (f : Cluster → Cluster) :
    (modCluster c' j f).clusters = (modCluster c j f).clusters := by
  simp only [modCluster, setCluster, clusterOf, h]

theorem dropL1_clusters_congr {c c' : Chip} (h : c'.clusters = c.clusters) (line : Nat) (j : ClusterNo) :
    (dropL1 c' line j).clusters = (dropL1 c line j).clusters := by
  simp only [dropL1, modLine_clusters, modCluster_clusters_congr h]

theorem emptyL1_clusters_congr {c c' : Chip} (h : c'.clusters = c.clusters) (j : ClusterNo) :
    (emptyL1 c' j).clusters = (emptyL1 c j).clusters := by
  have hdrops (ns : List Nat) : ∀ {c c' : Chip}, c'.clusters = c.clusters →
      (ns.foldl (fun c n => dropL1 (pullDirty c n j) n j) c').clusters = (ns.foldl (fun c n => dropL1 (pullDirty c n j) n j) c).clusters := by
    induction ns with
    | nil => exact fun h => h
    | cons n ns ih =>
      exact fun h => ih (dropL1_clusters_congr ((pullDirty_clusters _ n j).trans (h.trans (pullDirty_clusters _ n j).symm)) n j)
  unfold emptyL1
  rw [clusterOf_congr h]
  exact hdrops _ h

theorem enterCluster_clusters_congr {c c' : Chip} (h : c'.clusters = c.clusters) (j : ClusterNo) (u : Task) :
    (enterCluster c' j u).clusters = (enterCluster c j u).clusters := by
  unfold enterCluster
  rw [clusterOf_congr h]
  split
  · exact modCluster_clusters_congr h j _
  · exact modCluster_clusters_congr (emptyL1_clusters_congr h j) j _

/-- What the tasks of a tenant that have run whole leave of a chip: they are counted under 27, and clusters and caches may differ. Origins
may, as the frame's is noted before its tasks run. -/
structure Launched (t : Nat) (k k' : Chip) : Prop where
  frame : TenantFrame t k k'
  outbox : k'.outbox = k.outbox
  tenant : ∃ o l, ten k' t = { ten k t with origins := o, counters := l } ∧ ∀ i, i ≠ 27 → tabGet 0 l i = tabGet 0 (ten k t).counters i

theorem Launched.refl (t : Nat) (k : Chip) : Launched t k k :=
  ⟨tenantFrame_refl t k, rfl, (ten k t).origins, (ten k t).counters, rfl, fun _ _ => rfl⟩

theorem Launched.trans {t : Nat} {a b c : Chip} (h : Launched t a b) (g : Launched t b c) : Launched t a c := by
  obtain ⟨o, l, hten, hcounters⟩ := h.tenant
  obtain ⟨o', l', hten', hcounters'⟩ := g.tenant
  refine ⟨tenantFrame_trans h.frame g.frame, g.outbox.trans h.outbox, o', l', by rw [hten', hten], fun i hi => ?_⟩
  rw [hcounters' i hi, hten]
  exact hcounters i hi

theorem launched_launches (t : Nat) (c : Chip) (n : Nat) : Launched t c { c with launches := n } :=
  ⟨⟨rfl, rfl, rfl, rfl, rfl, fun _ _ => rfl⟩, rfl, (ten c t).origins, (ten c t).counters, rfl, fun _ _ => rfl⟩

theorem launched_noteOrigin (c : Chip) (f : RxFrame) : Launched (rxHead f).tenant c (noteOrigin c f) :=
  ⟨tenantFrame_modTen c _ _, rfl, _, (ten c (rxHead f).tenant).counters, ten_modTen_self c _ _, fun _ _ => rfl⟩

theorem launched_enterWhole (c : Chip) (u : Task) : Launched u.tenant c (enterWhole c u) := by
  refine ⟨(quiet_enterWhole c u).frame, (quiet_enterWhole c u).outbox, ?_⟩
  unfold enterWhole
  generalize hentered : modCluster (enterCluster c (taskPlace c u) u) (taskPlace c u) _ = c'
  have hcaches : SameButCaches c c' :=
    hentered ▸ (sameButCaches_enterCluster c (taskPlace c u) u).trans (sameButCaches_modCluster _ (taskPlace c u) _)
  have hten : ten c' u.tenant = ten c u.tenant := by simp only [ten, hcaches.tenants]
  by_cases hexists : tenantExists c' u.tenant = true
  · rw [ten_countTen_self hexists, hten]
    exact ⟨_, _, rfl, fun i hi => tabGet_tabSet_ne 0 _ 27 i _ hi⟩
  · rw [countTen, if_neg hexists, hten]
    exact ⟨_, _, rfl, fun _ _ => rfl⟩

/-- Tasks of one tenant that enter their clusters one after the other. -/
theorem launched_enterAll {t : Nat} {us : List Task} (hus : ∀ u ∈ us, u.tenant = t) {c c' : Chip} (h : enterAll us c = some c') :
    Launched t c c' := by
  induction us generalizing c with
  | nil =>
    obtain rfl := Option.some.inj h
    exact .refl t c
  | cons u us ih =>
    rw [enterAll] at h
    split at h
    · have hu : u.tenant = t := hus u List.mem_cons_self
      exact (hu ▸ launched_enterWhole c u).trans (ih (fun v hv => hus v (List.mem_cons_of_mem _ hv)) h)
    · cases h

theorem SameTasks.canPay_eq {k k' : Chip} {u : Task} (h : SameTasks u.tenant k k') (x : Cluster) : canPay k' x u = canPay k x u := by
  simp only [canPay, wholeCost_congr h.image h.m8]

/-- A task that runs whole leaves the same to the tasks after it. -/
theorem SameTasks.enterWhole {k k' : Chip} {u : Task} (h : SameTasks u.tenant k k') :
    SameTasks u.tenant (enterWhole k u) (enterWhole k' u) := by
  obtain ⟨⟨-, hwake, -, -, himage, -⟩, -, o, l, hten, -⟩ := launched_enterWhole k u
  obtain ⟨⟨-, hwake', -, -, himage', -⟩, -, o', l', hten', -⟩ := launched_enterWhole k' u
  refine ⟨by rw [himage', h.image, himage], by rw [hwake', h.wake, hwake], ?_, by rw [hten', hten]; exact h.m8, by rw [hten', hten]; exact h.shift⟩
  have hpay : payWhole k' u = payWhole k u := by
    funext x
    simp only [payWhole, wholeCost_congr h.image h.m8]
  simp only [Machine.enterWhole, countTen_clusters, taskPlace_congr h.image, hpay]
  exact modCluster_clusters_congr (enterCluster_clusters_congr h.clusters (taskPlace k u) u) _ _

theorem SameTasks.enterAll_isSome {t : Nat} {us : List Task} (hus : ∀ u ∈ us, u.tenant = t) {k k' : Chip} (h : SameTasks t k k') :
    (enterAll us k').isSome = (enterAll us k).isSome := by
  induction us generalizing k k' with
  | nil => rfl
  | cons u us ih =>
    obtain rfl : u.tenant = t := hus u List.mem_cons_self
    rw [enterAll, enterAll, taskPlace_congr h.image, clusterOf_congr h.clusters, h.canPay_eq]
    split
    · exact ih (fun v hv => hus v (List.mem_cons_of_mem _ hv)) h.enterWhole
    · rfl

/-! ## Work that runs at once -/

/-- On a chip that differs only in what tasks do not look at, work that RunsAtOnce describes runs whole as it is launched. -/
theorem launch_runsAtOnce {k k' : Chip} {u : Task} (h : RunsAtOnce k u) (hsame : SameTasks u.tenant k k') (hdbg : k'.dbg = k.dbg)
    (hcause : ∀ f, u.cause = some f → (rxHead f).tenant = u.tenant) (run : Chip → Chip) :
    ∃ k₁, Launched u.tenant k' k₁ ∧ launch k' u run = run k₁ := by
  obtain ⟨hcan, hslots, hfault, henter⟩ := h
  generalize hc : { k' with launches := k'.launches + 1 } = c
  have hsame' : SameTasks u.tenant k c := hc ▸ ⟨hsame.image, hsame.wake, hsame.clusters, hsame.m8, hsame.shift⟩
  have hdbg' : c.dbg = k.dbg := hc ▸ hdbg
  have htasks : workTasks c u = workTasks k u := workTasks_congr hsame'.image hsame'.m8 hcause
  have htenant := workTasks_tenant k u
  have hnofault : (workTasks k u).findSome? (wholeFault c) = none := List.findSome?_eq_none_iff.2 fun v hv => by
    have hv' := htenant v hv
    rw [wholeFault_congr hsame'.image hsame'.wake (by rw [hv']; exact hsame'.m8) (by rw [hv']; exact hsame'.shift)]
    exact hfault v hv
  obtain ⟨k₁, hk₁⟩ := Option.isSome_iff_exists.1 ((SameTasks.enterAll_isSome htenant hsame').trans henter)
  refine ⟨k₁, (hc ▸ launched_launches u.tenant k' _).trans (launched_enterAll htenant hk₁), ?_⟩
  simp only [launch, hc, htasks, canRunNow_congr hsame'.image hsame'.clusters hdbg', hcan, slotsWhere_congr hdbg', hslots, hnofault, hk₁,
    Bool.not_true, List.isEmpty_nil, Bool.false_eq_true, if_false]

end Sys2Proof.Machine
end

section
/-!
PROOFS. O50 (StashHoldsActivations): STASH_PUT and STASH_GET whose tasks run at once (R181, R182, R270 to R272, R276 to R278).
-/
namespace Sys2Proof.Machine

/-! ## Blocks of a slot -/

theorem storeDense_blocks (r : SiteRec) (l : Slot) (b : Nat × Nat) (bytes : List Byte) :
    (storeDense r l b bytes).blocks = tabSet l.blocks b bytes := by
  have hcharged : (chargeTable l b.1).blocks = l.blocks := by
    unfold chargeTable
    dsimp only
    split <;> rfl
  rw [← hcharged]
  rfl

/-- A SIGN1 or MXFP8 site stores a block's encoding in its own place (R276). -/
theorem storeBlocks_one {r : SiteRec} (hcodec : r.codec ≠ 0x30) (l : Slot) (b : Nat × Nat) (v : List (BitVec 16)) :
    (storeBlocks r [b] [v] l).blocks = tabSet l.blocks b (stashEncode r.codec v) := by
  simp only [storeBlocks, if_neg hcodec, storeDense_blocks]

/-! ## What a stash frame finds once its tasks have run -/

theorem siteOf_congr {c c' : Chip} (himage : c'.image = c.image) (t id : Nat) : siteOf c' t id = siteOf c t id := by
  simp only [siteOf, catOf, himage]

theorem Launched.siteOf_eq {t : Nat} {k k' : Chip} (h : Launched t k k') (id : Nat) : siteOf k' t id = siteOf k t id := by
  obtain ⟨-, -, -, -, himage, -⟩ := h.frame
  exact siteOf_congr himage t id

theorem Launched.slotOf_eq {t : Nat} {k k' : Chip} (h : Launched t k k') (site slot : Nat) :
    slotOf (ten k' t) site slot = slotOf (ten k t) site slot := by
  obtain ⟨o, l, hten, -⟩ := h.tenant
  rw [hten]
  rfl

theorem Launched.slotFits_eq {t : Nat} {k k' : Chip} (h : Launched t k k') (r : SiteRec) (old new : Slot) :
    slotFits (ten k' t) r old new = slotFits (ten k t) r old new := by
  obtain ⟨o, l, hten, -⟩ := h.tenant
  rw [hten]
  rfl

theorem Launched.counter_eq {t : Nat} {k k' : Chip} (h : Launched t k k') {i : Nat} (hi : i ≠ 27) :
    tabGet 0 (ten k' t).counters i = tabGet 0 (ten k t).counters i := by
  obtain ⟨o, l, hten, hcounters⟩ := h.tenant
  rw [hten]
  exact hcounters i hi

/-! ## Answers -/

theorem originOf_congr {c c' : Chip} (himage : c'.image = c.image) (hwake : c'.wake = c.wake) (f : RxFrame) : originOf c' f = originOf c f := by
  simp only [originOf, chipNo_congr himage hwake]

theorem doneTo_congr {c c' : Chip} (himage : c'.image = c.image) (hwake : c'.wake = c.wake) {f : RxFrame}
    (hcommitted : (ten c' (rxHead f).tenant).committed = (ten c (rxHead f).tenant).committed) (d : DoneInfo) : doneTo c' f d = doneTo c f d := by
  simp only [doneTo, answerTo, replyHdr, committedField, hcommitted, chipNo_congr himage hwake, originOf_congr himage hwake]

theorem stashReplies_congr {c c' : Chip} (himage : c'.image = c.image) (hwake : c'.wake = c.wake) (f : RxFrame) (r : SiteRec) (l : Slot)
    (runs : List (Nat × Nat)) : stashReplies c' f r l runs = stashReplies c f r l runs := by
  simp only [stashReplies, answerTo, replyHdr, chipNo_congr himage hwake, originOf_congr himage hwake]

theorem sendDone_outbox (c : Chip) (f : RxFrame) (d : DoneInfo) : (sendDone c f d).outbox = c.outbox ++ [doneTo c f d] := by
  unfold sendDone
  dsimp only
  split
  · rfl
  · exact (quiet_countTen _ _ _ 1).outbox

/-- A DONE counts its own status and no other counter. -/
theorem sendDone_counter {c : Chip} {f : RxFrame} {d : DoneInfo} {i : Nat} (hi : i ≠ d.status - 1) :
    tabGet 0 (ten (sendDone c f d) (rxHead f).tenant).counters i = tabGet 0 (ten c (rxHead f).tenant).counters i := by
  unfold sendDone
  dsimp only
  split
  · rfl
  · unfold countTen
    split
    · rw [ten_modTen_self]
      exact tabGet_tabSet_ne 0 _ _ i _ hi
    · rfl

/-! ## What serving a STASH_PUT leaves alone -/

/-- Serving a STASH_PUT: the slot that it names is now `l`, the DONEs `ds` are sent; other slots, shards, other tenants, HBM stay. -/
structure Put (f : RxFrame) (k k' : Chip) (l : Slot) (ds : List DoneInfo) : Prop where
  frame : TenantFrame (rxHead f).tenant k k'
  committed : (ten k' (rxHead f).tenant).committed = (ten k (rxHead f).tenant).committed
  shards : (ten k' (rxHead f).tenant).shards = (ten k (rxHead f).tenant).shards
  others : ∀ m n, (m, n) ≠ ((rxHead f).tensor, (rxHead f).shard) →
    slotOf (ten k' (rxHead f).tenant) m n = slotOf (ten k (rxHead f).tenant) m n
  slot : slotOf (ten k' (rxHead f).tenant) (rxHead f).tensor (rxHead f).shard = l
  outbox : k'.outbox = k.outbox ++ ds.map (doneTo k f)

theorem Put.trans {f : RxFrame} {a b c : Chip} {l l' : Slot} {ds ds' : List DoneInfo} (h : Put f a b l ds) (g : Put f b c l' ds') :
    Put f a c l' (ds ++ ds') := by
  obtain ⟨-, hwake, -, -, himage, -⟩ := h.frame
  have hdone : doneTo b f = doneTo a f := funext (doneTo_congr himage hwake h.committed)
  exact ⟨tenantFrame_trans h.frame g.frame, g.committed.trans h.committed, g.shards.trans h.shards,
    fun m n hne => (g.others m n hne).trans (h.others m n hne), g.slot,
    by rw [g.outbox, h.outbox, hdone, List.map_append, List.append_assoc]⟩

/-- The tasks of the frame leave its slot. -/
theorem Launched.put {f : RxFrame} {k k' : Chip} (h : Launched (rxHead f).tenant k k') :
    Put f k k' (slotOf (ten k (rxHead f).tenant) (rxHead f).tensor (rxHead f).shard) [] := by
  obtain ⟨o, l, hten, -⟩ := h.tenant
  refine ⟨h.frame, ?_, ?_, fun _ _ _ => ?_, ?_, by rw [h.outbox]; exact (List.append_nil _).symm⟩ <;> rw [hten] <;> rfl

theorem put_answered {f : RxFrame} {c c' : Chip} {ds : List DoneInfo} (h : Answered c c') (hframe : TenantFrame (rxHead f).tenant c c')
    (houtbox : c'.outbox = c.outbox ++ ds.map (doneTo c f)) :
    Put f c c' (slotOf (ten c (rxHead f).tenant) (rxHead f).tensor (rxHead f).shard) ds := by
  obtain ⟨l, hten⟩ := h.tenants (rxHead f).tenant
  refine ⟨hframe, ?_, ?_, fun _ _ _ => ?_, ?_, houtbox⟩ <;> rw [hten] <;> rfl

theorem put_sendDone (c : Chip) (f : RxFrame) (d : DoneInfo) :
    Put f c (sendDone c f d) (slotOf (ten c (rxHead f).tenant) (rxHead f).tensor (rxHead f).shard) [d] :=
  put_answered (answered_sendDone c f d) (tenantFrame_sendDone c f d) (sendDone_outbox c f d)

/-- A slot written, and its site's units in use. -/
def putSlot (c : Chip) (q : Hdr) (l : Slot) (used : Tab Nat Nat) : Chip :=
  setTen c q.tenant { ten c q.tenant with slots := tabSet (ten c q.tenant).slots (q.tensor, q.shard) l, stashUsed := used }

theorem put_putSlot (c : Chip) (f : RxFrame) (l : Slot) (used : Tab Nat Nat) : Put f c (putSlot c (rxHead f) l used) l [] := by
  have hten : ten (putSlot c (rxHead f) l used) (rxHead f).tenant = { ten c (rxHead f).tenant with
      slots := tabSet (ten c (rxHead f).tenant).slots ((rxHead f).tensor, (rxHead f).shard) l, stashUsed := used } := ten_setTen_self _ _ _
  refine ⟨⟨rfl, rfl, rfl, rfl, rfl, fun u hu => ten_setTen_ne c _ u _ hu⟩, ?_, ?_, fun m n hne => ?_, ?_, (List.append_nil _).symm⟩ <;>
    rw [hten]
  · exact tabGet_tabSet_ne _ _ _ _ _ hne
  · exact tabGet_tabSet_self _ _ _ _

theorem put_putSlot_sendDone (c : Chip) (f : RxFrame) (l : Slot) (used : Tab Nat Nat) (d : DoneInfo) :
    Put f c (sendDone (putSlot c (rxHead f) l used) f d) l [d] := by
  have hput := put_putSlot c f l used
  have hdone := put_sendDone (putSlot c (rxHead f) l used) f d
  rw [hput.slot] at hdone
  exact hput.trans hdone

/-! ## The tests of R272 in order -/

section
variable {c : Chip} {f : RxFrame} {r : SiteRec} {old base new : Slot} (hsite : siteOf c (rxHead f).tenant (rxHead f).tensor = some r)
  (hold : old = slotOf (ten c (rxHead f).tenant) (rxHead f).tensor (rxHead f).shard)
include hsite hold

/-- A RETRY of a block that is written is counted in its run and answered DUP. -/
theorem servePut_repeated (hrepeat : (hasFlag (rxHead f).flags flRetry && (stashBlocks r (rxHead f)).any (blockWritten old)) = true) :
    ∃ l d, Put f c (servePut c f) l [d] ∧ l.blocks = old.blocks ∧ d.status = stDup ∧ d.duplicates = old.runDups + 1 := by
  unfold servePut
  simp only [hsite, ← hold, hrepeat, if_true]
  refine ⟨_, _, put_putSlot_sendDone c f _ (ten c (rxHead f).tenant).stashUsed _, ?_, rfl, rfl⟩
  split <;> rfl

/-- A ZRL frame out of its token's order is answered RANGE (R276). -/
theorem servePut_disordered (hfresh : (hasFlag (rxHead f).flags flRetry && (stashBlocks r (rxHead f)).any (blockWritten old)) = false)
    (hbase : base = freshSlot old (rxHead f))
    (horder : (decide (r.codec = 0x30) && !zrlOrder base (stashToken (rxHead f)) (rxHead f).seq) = true) :
    ∃ d, Put f c (servePut c f) old [d] ∧ d.status = stRange := by
  unfold servePut
  simp only [hsite, ← hold, hfresh, ← hbase, horder, if_true, Bool.false_eq_true, if_false]
  exact ⟨_, hold ▸ put_sendDone c f _, rfl⟩

/-- A frame that does not fit its site's reservation is answered RANGE and counted (R278). -/
theorem servePut_overflows (hfresh : (hasFlag (rxHead f).flags flRetry && (stashBlocks r (rxHead f)).any (blockWritten old)) = false)
    (hbase : base = freshSlot old (rxHead f))
    (horder : (decide (r.codec = 0x30) && !zrlOrder base (stashToken (rxHead f)) (rxHead f).seq) = false)
    (hnew : new = storeBlocks r (stashBlocks r (rxHead f)) (putValues f) base) (hfits : slotFits (ten c (rxHead f).tenant) r old new = false)
    (hexists : tenantExists c (rxHead f).tenant = true) :
    ∃ d, Put f c (servePut c f) old [d] ∧ d.status = stRange ∧
      tabGet 0 (ten (servePut c f) (rxHead f).tenant).counters 31 = satAdd64 (tabGet 0 (ten c (rxHead f).tenant).counters 31) 1 := by
  unfold servePut
  simp only [hsite, ← hold, hfresh, ← hbase, horder, ← hnew, hfits, Bool.not_false, if_true, Bool.false_eq_true, if_false]
  refine ⟨_, hold ▸ put_answered ((answered_sendDone c f _).trans (answered_countTen _ _ 31 1))
    (tenantFrame_trans (tenantFrame_sendDone c f _) (quiet_countTen _ _ 31 1).frame)
    ((quiet_countTen _ (rxHead f).tenant 31 1).outbox.trans (sendDone_outbox c f _)), rfl, ?_⟩
  rw [ten_countTen_self ((tenantExists_congr (answered_sendDone c f _).body.wake _).trans hexists)]
  refine (tabGet_tabSet_self _ _ _ _).trans (congrArg (satAdd64 · 1) (sendDone_counter ?_))
  exact (by decide : 31 ≠ stRange - 1)

/-- Any other frame is stored, its run's count goes on, and LAST is answered OK. -/
theorem servePut_stores (hfresh : (hasFlag (rxHead f).flags flRetry && (stashBlocks r (rxHead f)).any (blockWritten old)) = false)
    (hbase : base = freshSlot old (rxHead f))
    (horder : (decide (r.codec = 0x30) && !zrlOrder base (stashToken (rxHead f)) (rxHead f).seq) = false)
    (hnew : new = storeBlocks r (stashBlocks r (rxHead f)) (putValues f) base) (hfits : slotFits (ten c (rxHead f).tenant) r old new = true) :
    ∃ l ds, Put f c (servePut c f) l ds ∧ l.blocks = new.blocks ∧ (hasFlag (rxHead f).flags flLast = false → ds = []) ∧
      (hasFlag (rxHead f).flags flLast = true → ∃ d, ds = [d] ∧ d.status = stOk) := by
  unfold servePut
  cases hlast : hasFlag (rxHead f).flags flLast <;>
    simp only [hsite, ← hold, hfresh, ← hbase, horder, ← hnew, hfits, hlast, Bool.not_true, Bool.false_eq_true, if_false, if_true]
  case false => exact ⟨_, [], put_putSlot c f _ _, rfl, fun _ => rfl, nofun⟩
  case true => exact ⟨_, _, put_putSlot_sendDone c f _ _ _, rfl, nofun, fun _ => ⟨_, rfl, rfl⟩⟩

/-- Whatever the tests find, only the slot that the frame names may change. -/
theorem servePut_puts (hexists : tenantExists c (rxHead f).tenant = true) : ∃ l ds, Put f c (servePut c f) l ds := by
  generalize hbase : freshSlot old (rxHead f) = base
  generalize hnew : storeBlocks r (stashBlocks r (rxHead f)) (putValues f) base = new
  cases hrepeat : hasFlag (rxHead f).flags flRetry && (stashBlocks r (rxHead f)).any (blockWritten old) with
  | true =>
    obtain ⟨l, d, hput, -⟩ := servePut_repeated hsite hold hrepeat
    exact ⟨l, [d], hput⟩
  | false =>
    cases horder : decide (r.codec = 0x30) && !zrlOrder base (stashToken (rxHead f)) (rxHead f).seq with
    | true =>
      obtain ⟨d, hput, -⟩ := servePut_disordered hsite hold hrepeat hbase.symm horder
      exact ⟨old, [d], hput⟩
    | false =>
      cases hfits : slotFits (ten c (rxHead f).tenant) r old new with
      | false =>
        obtain ⟨d, hput, -⟩ := servePut_overflows hsite hold hrepeat hbase.symm horder hnew.symm hfits hexists
        exact ⟨old, [d], hput⟩
      | true =>
        obtain ⟨l, ds, hput, -⟩ := servePut_stores hsite hold hrepeat hbase.symm horder hnew.symm hfits
        exact ⟨l, ds, hput⟩

end

/-! ## The replies of a STASH_GET -/

/-- What is sent for numbered pieces, the last of them marked: for the first piece, then for the others. -/
theorem map_numbered_cons {α β : Type} (g : Bool → α → β) (x : α) (l : List α) :
    (numbered (x :: l)).map (fun p => g (decide (p.1 + 1 = (x :: l).length)) p.2) =
      g l.isEmpty x :: (numbered l).map (fun p => g (decide (p.1 + 1 = l.length)) p.2) := by
  have hlast : decide (0 + 1 = (x :: l).length) = l.isEmpty := by cases l <;> simp
  rw [numbered, List.length_cons, List.range_succ_eq_map, List.zip_cons_cons, List.map_cons, ← List.length_cons, hlast, List.zip_map_left,
    List.map_map]
  simp [numbered, Function.comp_def]

/-- The STASH_DATA frame of one run of blocks, LAST set on the last one. -/
def stashReply (k : Chip) (f : RxFrame) (r : SiteRec) (l : Slot) (last : Bool) (p : Nat × Nat) : TxFrame :=
  answerTo k f
    { replyHdr k (rxHead f) tyStashData ((if last then flLast else 0) + (if (rxHead f).format = 0x01 then 0 else flCompressed)) r.codec with
      seq := p.1 % (r.channels / 32), offset := p.1 / (r.channels / 32), count := 32 * p.2, format := (rxHead f).format }
    (stashPayload r l (rxHead f).format (runBlocks r p))

theorem stashReplies_cons (k : Chip) (f : RxFrame) (r : SiteRec) (l : Slot) (p : Nat × Nat) (runs : List (Nat × Nat)) :
    stashReplies k f r l (p :: runs) = stashReply k f r l runs.isEmpty p :: stashReplies k f r l runs := by
  have hreplies (runs : List (Nat × Nat)) :
      stashReplies k f r l runs = (numbered runs).map (fun p => stashReply k f r l (decide (p.1 + 1 = runs.length)) p.2) := by
    simp only [stashReplies, stashReply, decide_eq_true_eq]
  rw [hreplies, hreplies, map_numbered_cons]

/-- A range with no poison is sent run by run (R182, R277). -/
theorem sendStash_unpoisoned {f : RxFrame} {r : SiteRec} {l : Slot} {runs : List (Nat × Nat)}
    (h : ∀ p ∈ runs, slotPoison l (runBlocks r p) = none) (c : Chip) :
    sendStash c f r l runs = { c with outbox := c.outbox ++ stashReplies c f r l runs } := by
  induction runs generalizing c with
  | nil => exact congrArg (fun o => { c with outbox := o }) (List.append_nil c.outbox).symm
  | cons p runs ih =>
    obtain ⟨b, n⟩ := p
    have hclean : slotPoison l ((upFrom b n).map (fun b => (b / (r.channels / 32), b % (r.channels / 32)))) = none :=
      h (b, n) List.mem_cons_self
    have hfirst : sendStash c f r l ((b, n) :: runs) = sendStash (emit c (stashReply c f r l runs.isEmpty (b, n))) f r l runs := by
      rw [sendStash]
      simp only [hclean]
      rfl
    rw [hfirst, ih fun p hp => h p (List.mem_cons_of_mem _ hp), stashReplies_cons, List.append_cons]
    rfl

theorem answered_outbox (c : Chip) (l : List TxFrame) : Answered c { c with outbox := l } :=
  ⟨⟨rfl, rfl, rfl, rfl, rfl, rfl, rfl, rfl, rfl⟩, fun n => ⟨(ten c n).counters, rfl⟩⟩

section
variable {c : Chip} {f : RxFrame} {r : SiteRec} {l : Slot} {runs : List (Nat × Nat)}
  (hsite : siteOf c (rxHead f).tenant (rxHead f).tensor = some r)
  (hl : l = slotOf (ten c (rxHead f).tenant) (rxHead f).tensor (rxHead f).shard)
include hsite hl

theorem serveGet_refuses {b : Nat × Nat} (hfind : (stashBlocks r (rxHead f)).find? (fun b => !blockWritten l b) = some b) :
    serveGet c f = sendDone c f (doneInfo stRange b.1) := by
  simp only [serveGet, hsite, ← hl, hfind]

theorem serveGet_sends (hfind : (stashBlocks r (rxHead f)).find? (fun b => !blockWritten l b) = none)
    (hruns : runs = cutRange (rxHead f).count (blocksPerFrame (rxHead f).format) (stashStart r (rxHead f)) ((rxHead f).count / 32))
    (hclean : ∀ p ∈ runs, slotPoison l (runBlocks r p) = none) :
    serveGet c f = { c with outbox := c.outbox ++ stashReplies c f r l runs } := by
  simp only [serveGet, hsite, ← hl, hfind, ← hruns, sendStash_unpoisoned hclean]

/-- Where no block is poisoned, a STASH_GET only sends. -/
theorem serveGet_answers
    (hruns : runs = cutRange (rxHead f).count (blocksPerFrame (rxHead f).format) (stashStart r (rxHead f)) ((rxHead f).count / 32))
    (hclean : ∀ p ∈ runs, slotPoison l (runBlocks r p) = none) :
    Answered c (serveGet c f) ∧ TenantFrame (rxHead f).tenant c (serveGet c f) := by
  cases hfind : (stashBlocks r (rxHead f)).find? (fun b => !blockWritten l b) with
  | some b =>
    rw [serveGet_refuses hsite hl hfind]
    exact ⟨answered_sendDone c f _, tenantFrame_sendDone c f _⟩
  | none =>
    rw [serveGet_sends hsite hl hfind hruns hclean]
    exact ⟨answered_outbox c _, rfl, rfl, rfl, rfl, rfl, fun _ _ => rfl⟩

end

/-! ## The two commands -/

theorem exec_stashPut (c : Pos) (f : RxFrame) (s : State) : exec (.stashPut c f) s = .next (hostCommand tyStashPut takePut c f s) := rfl

theorem exec_stashGet (c : Pos) (f : RxFrame) (s : State) : exec (.stashGet c f) s = .next (hostCommand tyStashGet takeGet c f s) := rfl

/-- A stash frame's task that nothing holds runs on the chip that has noted the frame's origin. -/
theorem launchStash_runsAtOnce {k : Chip} {f : RxFrame} {kind now : Nat}
    (h : RunsAtOnce k (frameTask k kind f (stashToken (rxHead f)) (rxHead f).count now)) (run : Chip → Chip) :
    ∃ k₁, Launched (rxHead f).tenant k k₁ ∧ launchStash now k f kind run = run k₁ := by
  obtain ⟨k₁, hlaunched, hrun⟩ := launch_runsAtOnce h (sameTasks_noteOrigin k f) rfl (fun g hg => Option.some.inj hg ▸ rfl) run
  exact ⟨k₁, (launched_noteOrigin k f).trans hlaunched, hrun⟩

theorem exec_stashPut_served {s : State} {c : Pos} {f : RxFrame} {k : Chip} {r : SiteRec} (hserved : ServedRequest s c f tyStashPut k)
    (hsite : siteOf k (rxHead f).tenant (rxHead f).tensor = some r) (hformat : (rxHead f).format = 0x01)
    (hrange : stashRangeOk r (rxHead f) = true) (hcount : (rxHead f).count ≤ 8192)
    (hruns : RunsAtOnce k (frameTask k (stashKind r.codec 5) f (stashToken (rxHead f)) (rxHead f).count s.tray.now)) :
    ∃ k₁, Launched (rxHead f).tenant k k₁ ∧ exec (.stashPut c f) s = .next (setChip s c (servePut k₁ f)) := by
  obtain ⟨k₁, hlaunched, hrun⟩ := launchStash_runsAtOnce hruns (fun c => servePut c f)
  refine ⟨k₁, hlaunched, ?_⟩
  rw [exec_stashPut, hostCommand_served hserved rfl, ← hrun]
  simp [takePut, hsite, hformat, hrange, Nat.not_lt.2 hcount]

theorem exec_stashGet_served {s : State} {c : Pos} {f : RxFrame} {k : Chip} {r : SiteRec} (hserved : ServedRequest s c f tyStashGet k)
    (hsite : siteOf k (rxHead f).tenant (rxHead f).tensor = some r) (hformat : stashFormat r.codec (rxHead f).format = true)
    (hrange : stashRangeOk r (rxHead f) = true)
    (hruns : RunsAtOnce k (frameTask k (stashKind r.codec 8) f (stashToken (rxHead f)) (rxHead f).count s.tray.now)) :
    ∃ k₁, Launched (rxHead f).tenant k k₁ ∧ exec (.stashGet c f) s = .next (setChip s c (serveGet k₁ f)) := by
  obtain ⟨k₁, hlaunched, hrun⟩ := launchStash_runsAtOnce hruns (fun c => serveGet c f)
  refine ⟨k₁, hlaunched, ?_⟩
  rw [exec_stashGet, hostCommand_served hserved rfl, ← hrun]
  simp [takeGet, hsite, hformat, hrange]

/-! ## The obligation -/

/-- Settles O50. The frame's tasks run at once and leave the slot; STASH_PUT then meets the tests of R272 one after the other, and STASH_GET
answers with RANGE or with its runs of blocks. -/
theorem stashHoldsActivations : Obligations.StashHoldsActivations := by
  unfold Obligations.StashHoldsActivations
  refine ⟨?put, fun r l b v hcodec => ?one, ?get⟩
  case one =>
    rw [storeBlocks_one hcodec]
    exact ⟨tabFind_tabSet_self _ _ _, fun b' hne => tabFind_tabSet_ne _ _ _ _ hne⟩
  case put =>
    intro s c f k r old base new hserved hsite hformat hrange hcount hruns hold hbase hnew
    obtain ⟨k₁, hlaunched, hexec⟩ := exec_stashPut_served hserved hsite hformat hrange hcount hruns
    obtain ⟨-, -, -, -, -, -, -, hexists, -⟩ := hserved
    obtain ⟨-, hwake, -⟩ := hlaunched.frame
    have hlaunch := hlaunched.put
    have hsite₁ := (hlaunched.siteOf_eq _).trans hsite
    have hold₁ := hold.trans (hlaunched.slotOf_eq _ _).symm
    have hexists₁ := (tenantExists_congr hwake _).trans hexists
    have hfits₁ := hlaunched.slotFits_eq r old new
    obtain ⟨l, ds, hput⟩ := servePut_puts hsite₁ hold₁ hexists₁
    have hall := hlaunch.trans hput
    refine ⟨_, hexec, onlyChip_setChip _ _ _, ?_⟩
    rw [getChip_setChip_self]
    refine ⟨hall.frame, hall.shards, hall.others, fun hretry hwritten => ?_, fun hnotRepeated => ?_⟩
    · obtain ⟨l, d, hput, hblocks, hdone⟩ := servePut_repeated hsite₁ hold₁ (Bool.and_eq_true_iff.2 ⟨hretry, hwritten⟩)
      exact ⟨by rw [hput.slot, hblocks], d, (hlaunch.trans hput).outbox, hdone⟩
    have hfresh := Bool.and_eq_false_iff.2 hnotRepeated
    refine ⟨fun hcodec hdisorder => ?_, fun hordered => ?_⟩
    · obtain ⟨d, hput, hdone⟩ := servePut_disordered hsite₁ hold₁ hfresh hbase (by simp [hcodec, hdisorder])
      exact ⟨hput.slot, d, (hlaunch.trans hput).outbox, hdone⟩
    have horder : (decide (r.codec = 0x30) && !zrlOrder base (stashToken (rxHead f)) (rxHead f).seq) = false := by
      simpa only [Bool.and_eq_false_iff, decide_eq_false_iff_not, Bool.not_eq_false'] using hordered
    refine ⟨fun hfits => ?_, fun hfits => ?_⟩
    · obtain ⟨d, hput, hdone, hcounted⟩ := servePut_overflows hsite₁ hold₁ hfresh hbase horder hnew (hfits₁.trans hfits) hexists₁
      exact ⟨hput.slot, ⟨d, (hlaunch.trans hput).outbox, hdone⟩, by rw [hcounted, hlaunched.counter_eq (by decide)]⟩
    · obtain ⟨l, ds, hput, hblocks, hsilent, hdone⟩ := servePut_stores hsite₁ hold₁ hfresh hbase horder hnew (hfits₁.trans hfits)
      have hsent := (hlaunch.trans hput).outbox
      refine ⟨by rw [hput.slot, hblocks], fun hlast => ?_, fun hlast => ?_⟩
      · rw [hsent, hsilent hlast]
        exact List.append_nil _
      · obtain ⟨d, rfl, hok⟩ := hdone hlast
        exact ⟨d, hsent, hok⟩
  case get =>
    intro s c f k r l runs hserved hsite hformat hrange hruns hl hcut hclean
    obtain ⟨k₁, hlaunched, hexec⟩ := exec_stashGet_served hserved hsite hformat hrange hruns
    obtain ⟨-, hwake, -, -, himage, -⟩ := hlaunched.frame
    obtain ⟨o, n, hten, -⟩ := hlaunched.tenant
    have hsite₁ := (hlaunched.siteOf_eq _).trans hsite
    have hl₁ := hl.trans (hlaunched.slotOf_eq _ _).symm
    obtain ⟨hanswered, hframe⟩ := serveGet_answers hsite₁ hl₁ hcut hclean
    obtain ⟨n', hten'⟩ := hanswered.tenants (rxHead f).tenant
    refine ⟨_, hexec, onlyChip_setChip _ _ _, ?_⟩
    rw [getChip_setChip_self]
    refine ⟨tenantFrame_trans hlaunched.frame hframe, by rw [hten', hten], by rw [hten', hten], fun hwritten => ?_, fun b hfind => ?_⟩
    · have hnone : (stashBlocks r (rxHead f)).find? (fun b => !blockWritten l b) = none :=
        List.find?_eq_none.2 fun b hb => by simp [hwritten b hb]
      rw [serveGet_sends hsite₁ hl₁ hnone hcut hclean, ← hlaunched.outbox, ← stashReplies_congr himage hwake]
    · rw [serveGet_refuses hsite₁ hl₁ hfind, sendDone_outbox, hlaunched.outbox, doneTo_congr himage hwake (by rw [hten])]

end Sys2Proof.Machine
end

section
/-!
PROOFS. Rules of a frame that stays taken: room made for accumulator lines (R303, R304, R335) and tasks that are launched leave the image in
force, the wake record and the frames to be taken as they are.
-/
namespace Sys2Proof.Machine

/-! ## InboxKept -/

/-- The image in force, the wake record and the frames to be taken are as they were. -/
structure InboxKept (k k' : Chip) : Prop where
  image : k'.image = k.image
  wake : k'.wake = k.wake
  inbox : k'.inbox = k.inbox

theorem InboxKept.refl (k : Chip) : InboxKept k k := ⟨rfl, rfl, rfl⟩

theorem InboxKept.trans {a b c : Chip} (h : InboxKept a b) (g : InboxKept b c) : InboxKept a c :=
  ⟨g.image.trans h.image, g.wake.trans h.wake, g.inbox.trans h.inbox⟩

theorem SameButCaches.inboxKept {k k' : Chip} (h : SameButCaches k k') : InboxKept k k' := by
  obtain ⟨_, _, rfl⟩ := h
  exact ⟨rfl, rfl, rfl⟩

theorem SameButHalts.inboxKept {k k' : Chip} (h : SameButHalts k k') : InboxKept k k' := by
  obtain ⟨_, _, rfl⟩ := h
  exact ⟨rfl, rfl, rfl⟩

theorem inboxKept_forEach {α : Type} {f : Chip → α → Chip} (h : ∀ c x, InboxKept c (f c x)) (l : List α) (c : Chip) :
    InboxKept c (forEach c l f) :=
  forEach_rel .refl .trans (fun c x _ => h c x) c

theorem inboxKept_modTen (c : Chip) (t : Nat) (f : TenantCtx → TenantCtx) : InboxKept c (modTen c t f) := ⟨rfl, rfl, rfl⟩

theorem inboxKept_countTen (c : Chip) (t i n : Nat) : InboxKept c (countTen c t i n) := by
  unfold countTen
  split
  · exact inboxKept_modTen c t _
  · exact .refl c

theorem inboxKept_sendDone (c : Chip) (f : RxFrame) (d : DoneInfo) : InboxKept c (sendDone c f d) := by
  unfold sendDone
  dsimp only
  split
  · exact ⟨rfl, rfl, rfl⟩
  · exact InboxKept.trans (b := sendReply c f _ _) ⟨rfl, rfl, rfl⟩ (inboxKept_countTen _ _ _ 1)

/-! ## Slice lines that go -/

theorem sameButCaches_recallLine (c : Chip) (line : Nat) : SameButCaches c (recallLine c line) :=
  forEach_rel .refl .trans (fun c k _ => (sameButCaches_pullDirty c line k).trans (sameButCaches_dropL1 _ line k)) c

theorem inboxKept_writeBackLine (c : Chip) (line : Nat) : InboxKept c (writeBackLine c line) := by
  unfold writeBackLine
  split
  · exact .refl c
  · split
    · exact ⟨rfl, rfl, rfl⟩
    · split
      · exact .refl c
      · exact ⟨rfl, rfl, rfl⟩
    · exact .refl c

theorem inboxKept_evictLine (c : Chip) (line : Nat) : InboxKept c (evictLine c line) := by
  refine ((sameButCaches_recallLine c line).inboxKept.trans (inboxKept_writeBackLine _ line)).trans ?_
  unfold evictLine
  dsimp only
  split
  · split <;> exact ⟨rfl, rfl, rfl⟩
  · exact ⟨rfl, rfl, rfl⟩

theorem inboxKept_dropDead (c : Chip) (line : Nat) : InboxKept c (dropDead c line) :=
  (inboxKept_forEach (fun c k => (sameButCaches_dropL1 c line k).inboxKept) (holdersOf c line) c).trans ⟨rfl, rfl, rfl⟩

theorem inboxKept_spillAcc (c : Chip) (key : Nat) : InboxKept c (spillAcc c key).1 := by
  unfold spillAcc
  split
  · exact .refl c
  · split
    · dsimp only
      split <;> exact ⟨rfl, rfl, rfl⟩
    · exact .refl c

theorem inboxKept_makeRoom (c : Chip) (t line : Nat) : InboxKept c (makeRoom c t line).1 := by
  unfold makeRoom
  split
  · exact .refl c
  · dsimp only
    split
    · exact inboxKept_dropDead c _
    · split
      · exact inboxKept_evictLine c _
      · split
        · exact inboxKept_spillAcc c _
        · exact .refl c

theorem inboxKept_spillLine {c c' : Chip} {t : Nat} {l : PendLine} (h : spillLine c t l = some c') : InboxKept c c' := by
  unfold spillLine at h
  dsimp only at h
  split at h
  · cases h
  · obtain rfl := Option.some.inj h
    exact ⟨rfl, rfl, rfl⟩

theorem inboxKept_takeWay (c : Chip) (t key : Nat) : InboxKept c (takeWay c t key).1 := by
  have hroom := inboxKept_makeRoom c t key
  unfold takeWay
  dsimp only
  split
  · exact hroom
  · split
    · split
      · next hspilled => exact hroom.trans (inboxKept_spillLine hspilled)
      · exact hroom
    · exact hroom

/-! ## Room for a frame's values -/

theorem inboxKept_useLine (c : Chip) (line hint : Nat) : InboxKept c (useLine c line hint) :=
  InboxKept.trans (b := touch c) ⟨rfl, rfl, rfl⟩ (sameButCaches_modLine _ line _).inboxKept

theorem inboxKept_holdAcc (t tensor shard step : Nat) (c : Chip) (n : Nat) : InboxKept c (holdAcc t tensor shard step c n).1 := by
  unfold holdAcc
  dsimp only
  split
  · exact inboxKept_useLine c _ 0
  · have hway (key : Nat) : InboxKept c (takeWay (touch c) t key).1 :=
      InboxKept.trans (b := touch c) ⟨rfl, rfl, rfl⟩ (inboxKept_takeWay _ t key)
    split
    · exact (hway _).trans ⟨rfl, rfl, rfl⟩
    · exact hway _

theorem inboxKept_queueTask (c : Chip) (k : ClusterNo) (u : Task) : InboxKept c (queueTask c k u) :=
  (sameButCaches_modCluster c k _).inboxKept

theorem inboxKept_queueUpdate (c : Chip) (t tensor shard step : Nat) : InboxKept c (queueUpdate c t tensor shard step) := by
  unfold queueUpdate
  split
  · exact .refl c
  · exact (inboxKept_modTen c t _).trans (inboxKept_forEach (fun c _ => inboxKept_queueTask c _ _) _ _)

theorem inboxKept_discardPending (c : Chip) (t tensor shard step : Nat) : InboxKept c (discardPending c t tensor shard step) :=
  ⟨rfl, rfl, rfl⟩

theorem inboxKept_restartUpdate (c : Chip) (t tensor shard step : Nat) : InboxKept c (restartUpdate c t tensor shard step) :=
  have hended : InboxKept (countTen c t 30 1) (endTasks (countTen c t 30 1) (isUpdateOf t tensor shard step)) := ⟨rfl, rfl, rfl⟩
  (((inboxKept_countTen c t 30 1).trans hended).trans (inboxKept_discardPending _ t tensor shard step)).trans
    (inboxKept_queueUpdate _ t tensor shard step)

theorem inboxKept_restartFrom (c : Chip) (t tensor shard step : Nat) : InboxKept c (restartFrom c t tensor shard step) := by
  unfold restartFrom
  dsimp only
  split
  · exact (inboxKept_restartUpdate c t tensor shard (step + 1)).trans (inboxKept_restartUpdate _ t tensor shard step)
  · exact inboxKept_restartUpdate c t tensor shard step

theorem inboxKept_reclaim (fuel t : Nat) (c : Chip) : InboxKept c (reclaim fuel t c) := by
  induction fuel generalizing c with
  | zero => exact .refl c
  | succ fuel ih =>
    rw [reclaim]
    split
    · exact .refl c
    · split
      · exact .refl c
      · exact (inboxKept_restartFrom c t _ _ _).trans (ih _)

theorem inboxKept_holdAll (t tensor shard step : Nat) (ns : List Nat) (c : Chip) : InboxKept c (holdAll t tensor shard step ns c).1 := by
  induction ns generalizing c with
  | nil => exact .refl c
  | cons n ns ih =>
    have hheld := inboxKept_holdAcc t tensor shard step c n
    rw [holdAll]
    dsimp only
    split
    · exact hheld.trans (ih _)
    · have hagain := fun fuel => (hheld.trans (inboxKept_reclaim fuel t _)).trans (inboxKept_holdAcc t tensor shard step _ n)
      split
      · exact (hagain _).trans (ih _)
      · exact hagain _

/-- Room for a frame's values in an accumulator. -/
theorem inboxKept_accRoom {c c' : Chip} {i : ShardInfo} {f : RxFrame} {step : Nat} {b : Bool} (h : accRoom c i f step = (c', b)) :
    InboxKept c c' := by
  have hroom : InboxKept c (accRoom c i f step).1 := inboxKept_holdAll _ _ _ step _ c
  rwa [h] at hroom

/-! ## Tasks that are launched -/

theorem inboxKept_hitSlots (c : Chip) (k : ClusterNo) (slots : List Nat) : InboxKept c (hitSlots c k slots) := by
  refine inboxKept_forEach (fun c i => ?_) slots c
  have hhalted (b : Bool) : InboxKept c (if b then haltAll (noteHit c i k) else haltCluster (noteHit c i k) k) := by
    split
    · exact ((sameButHalts_noteHit c i k).trans (sameButHalts_haltAll _)).inboxKept
    · exact ((sameButHalts_noteHit c i k).trans (sameButHalts_haltCluster _ k)).inboxKept
  exact (hhalted _).trans (sameButCaches_modCluster _ k _).inboxKept

theorem inboxKept_hitFault_at (c : Chip) (code : Nat) (k : ClusterNo) : InboxKept c (hitFault c code (some k)) := by
  unfold hitFault
  split
  · refine inboxKept_forEach (fun c i => ?_) _ c
    dsimp only [Option.getD_some]
    split
    · exact ((sameButHalts_noteHit c i k).trans (sameButHalts_haltAll _)).inboxKept
    · exact ((sameButHalts_noteHit c i k).trans (sameButHalts_haltCluster _ k)).inboxKept
  · exact .refl c

theorem inboxKept_launchFault (c : Chip) (u : Task) (code : Nat) : InboxKept c (launchFault c u code) := by
  have hcounted : InboxKept c (countTen (countCode c code) u.tenant 28 1) :=
    InboxKept.trans (b := countCode c code) ⟨rfl, rfl, rfl⟩ (inboxKept_countTen _ _ 28 1)
  refine (hcounted.trans ?_).trans (inboxKept_hitFault_at _ code (taskPlace c u))
  cases u.cause with
  | none => exact .refl _
  | some f => exact inboxKept_sendDone _ f (doneInfo stAborted code)

theorem inboxKept_enterWhole (c : Chip) (u : Task) : InboxKept c (enterWhole c u) :=
  ((sameButCaches_enterCluster c (taskPlace c u) u).trans (sameButCaches_modCluster _ (taskPlace c u) _)).inboxKept.trans
    (inboxKept_countTen _ u.tenant 27 1)

theorem inboxKept_enterAll {us : List Task} {c c' : Chip} (h : enterAll us c = some c') : InboxKept c c' := by
  induction us generalizing c with
  | nil =>
    obtain rfl := Option.some.inj h
    exact .refl c
  | cons u us ih =>
    rw [enterAll] at h
    split at h
    · exact (inboxKept_enterWhole c u).trans (ih h)
    · cases h

/-- Whether a frame's tasks run at once, wait or end on a fault, the inbox stays as it is. -/
theorem inboxKept_launch {run : Chip → Chip} (hrun : ∀ c, InboxKept c (run c)) (c : Chip) (u : Task) : InboxKept c (launch c u run) := by
  refine InboxKept.trans (b := { c with launches := c.launches + 1 }) ⟨rfl, rfl, rfl⟩ ?_
  unfold launch
  dsimp only
  split
  · exact inboxKept_queueTask _ _ _
  · split
    · exact (inboxKept_hitSlots _ _ _).trans (inboxKept_queueTask _ _ _)
    · split
      · exact (inboxKept_countTen _ _ 27 1).trans (inboxKept_launchFault _ _ _)
      · next hentered => exact (inboxKept_enterAll hentered).trans (hrun _)
      · exact inboxKept_queueTask _ _ _

end Sys2Proof.Machine
end

section
/-!
PROOFS. Rules of a contribution's record: what the work on a frame changes of its shard's record in its step, and the replies it sends (R174, R193,
R199, R203).
-/
namespace Sys2Proof.Machine

/-! ## Records of a shard in a step -/

@[simp] theorem sourceOf_modSource_self (r : ShardStep) (source : Nat) (g : Source → Source) :
    sourceOf (modSource r source g) source = g (sourceOf r source) := tabGet_tabSet_self _ _ _ _

/-- The record of a frame's shard in its step. -/
def recordOf (c : Chip) (q : Hdr) : ShardStep := stepOf (shardOf (ten c q.tenant) q.tensor q.shard) q.step

/-- The frames of a tenant that a chip has accepted (Table 20-3). -/
def acceptedCount (c : Chip) (t : Nat) : Nat := tabGet 0 (ten c t).counters 15

/-- A record with a frame's slot accepted on time. -/
def acceptedRecord (i : ShardInfo) (f : RxFrame) (r : ShardStep) : ShardStep :=
  modSource { r with deadline := if r.deadline = .idle then .running else r.deadline } (rxHead f).source
    (acceptSlot f (slotNo i (rxHead f) (isPiece f)) true)

/-- A record with a frame's values added to its accumulator, under RULE 7 in the rows that its source has listed. -/
def addedRecord (i : ShardInfo) (f : RxFrame) (rows : List Nat) (r : ShardStep) : ShardStep :=
  { r with acc := addValues i rows (rxHead f).offset (gradValues f) r.acc }

/-- A record with the replies of complete buckets no longer owed to a source. -/
def settledRecord (i : ShardInfo) (shard source : Nat) (r : ShardStep) : ShardStep :=
  modSource r source (fun s => { s with owed := s.owed.filter (fun g => !bucketDone i shard (sourceOf r source) g) })

/-- Changing one record of a step leaves the arrays of every shard. -/
theorem arrays_modShardStep (x : TenantCtx) (a b n : Nat) (g : ShardStep → ShardStep) (m k : Nat) :
    (shardOf (modShardStep x a b n g) m k).arrays = (shardOf x m k).arrays := by
  by_cases h : (m, k) = (a, b)
  · obtain ⟨rfl, rfl⟩ := Prod.mk.inj h
    rw [modShardStep, shardOf_modShard_self]
    rfl
  · exact congrArg Shard.arrays (tabGet_tabSet_ne _ _ _ _ _ h)

theorem record_modShardStep (x : TenantCtx) (a b n : Nat) (g : ShardStep → ShardStep) :
    stepOf (shardOf (modShardStep x a b n g) a b) n = g (stepOf (shardOf x a b) n) := by
  rw [modShardStep, shardOf_modShard_self, stepOf_modStep_self]

/-- Remembering a host writes to the tenant's records of its steps alone. -/
theorem noteHost_eq (x : TenantCtx) (step source : Nat) (first : Option Nat) : ∃ l, noteHost x step source first = { x with steps := l } := by
  unfold noteHost
  split
  · exact ⟨x.steps, rfl⟩
  · exact ⟨_, rfl⟩

/-! ## Carried -/

/-- What work on a frame's contribution leaves of its chip: besides what TenantFrame says, the frames to be taken, the latest committed step and
the arrays of shards are as they were; the frame's record is `r`, its tenant has `n` frames accepted, and `sent` stands behind what waited to be
sent. -/
structure Carried (q : Hdr) (k k' : Chip) (r : ShardStep) (n : Nat) (sent : List TxFrame) : Prop where
  frame : TenantFrame q.tenant k k'
  inbox : k'.inbox = k.inbox
  committed : (ten k' q.tenant).committed = (ten k q.tenant).committed
  arrays : ∀ a b, (shardOf (ten k' q.tenant) a b).arrays = (shardOf (ten k q.tenant) a b).arrays
  record : recordOf k' q = r
  accepted : acceptedCount k' q.tenant = n
  outbox : k'.outbox = k.outbox ++ sent

theorem Carried.refl (q : Hdr) (k : Chip) : Carried q k k (recordOf k q) (acceptedCount k q.tenant) [] :=
  ⟨tenantFrame_refl _ k, rfl, rfl, fun _ _ => rfl, rfl, rfl, (List.append_nil _).symm⟩

theorem Carried.trans {q : Hdr} {a b c : Chip} {r r' : ShardStep} {n n' : Nat} {l l' : List TxFrame} (h : Carried q a b r n l)
    (g : Carried q b c r' n' l') : Carried q a c r' n' (l ++ l') :=
  ⟨tenantFrame_trans h.frame g.frame, g.inbox.trans h.inbox, g.committed.trans h.committed, fun m k => (g.arrays m k).trans (h.arrays m k),
    g.record, g.accepted, by rw [g.outbox, h.outbox, List.append_assoc]⟩

/-- The frame's record changed, and notes on the tenant's steps. -/
theorem carried_modRecord {c : Chip} {q : Hdr} {f : TenantCtx → TenantCtx} {g : ShardStep → ShardStep}
    (h : ∃ l, f (ten c q.tenant) = { modShardStep (ten c q.tenant) q.tensor q.shard q.step g with steps := l }) :
    Carried q c (modTen c q.tenant f) (g (recordOf c q)) (acceptedCount c q.tenant) [] := by
  obtain ⟨l, hf⟩ := h
  have hten : ten (modTen c q.tenant f) q.tenant = _ := (ten_modTen_self c q.tenant f).trans hf
  refine ⟨tenantFrame_modTen c _ f, rfl, ?_, fun a b => ?_, ?_, ?_, (List.append_nil _).symm⟩
  · rw [hten]; rfl
  · rw [hten]; exact arrays_modShardStep _ _ _ _ g a b
  · rw [recordOf, hten]; exact record_modShardStep _ _ _ _ g
  · rw [acceptedCount, hten]; rfl

theorem carried_modShardStep (c : Chip) (q : Hdr) (g : ShardStep → ShardStep) :
    Carried q c (modTen c q.tenant (fun x => modShardStep x q.tensor q.shard q.step g)) (g (recordOf c q)) (acceptedCount c q.tenant) [] :=
  carried_modRecord ⟨(ten c q.tenant).steps, rfl⟩

theorem carried_startVerdictTimer (c : Chip) (q : Hdr) :
    Carried q c (startVerdictTimer c q.tenant q.step) (recordOf c q) (acceptedCount c q.tenant) [] := by
  have hten : ten (startVerdictTimer c q.tenant q.step) q.tenant = _ := ten_modTen_self c q.tenant _
  refine ⟨tenantFrame_modTen c _ _, rfl, ?_, fun a b => ?_, ?_, ?_, (List.append_nil _).symm⟩
  · rw [hten]; rfl
  · rw [hten]; rfl
  · rw [recordOf, hten]; rfl
  · rw [acceptedCount, hten]; rfl

/-- A frame counted as accepted. -/
theorem carried_countAccepted {c : Chip} {q : Hdr} (hexists : tenantExists c q.tenant = true) :
    Carried q c (countTen c q.tenant 15 1) (recordOf c q) (satAdd64 (acceptedCount c q.tenant) 1) [] := by
  have hquiet := quiet_countTen c q.tenant 15 1
  have hten := ten_countTen_self hexists 15 1
  refine ⟨hquiet.frame, (inboxKept_countTen c _ 15 1).inbox, ?_, fun a b => ?_, ?_, ?_, by rw [hquiet.outbox, List.append_nil]⟩
  · rw [hten]
  · rw [hten]; rfl
  · exact hquiet.stepOf_eq _ _ _
  · rw [acceptedCount, hten]
    exact tabGet_tabSet_self _ _ _ _

/-- Tasks that have run leave the frame's record to what they do. -/
theorem Launched.carried {q : Hdr} {k k' : Chip} (h : Launched q.tenant k k') (hinbox : k'.inbox = k.inbox) :
    Carried q k k' (recordOf k q) (acceptedCount k q.tenant) [] := by
  obtain ⟨o, l, hten, hcounters⟩ := h.tenant
  refine ⟨h.frame, hinbox, ?_, fun a b => ?_, ?_, h.counter_eq (by decide), by rw [h.outbox, List.append_nil]⟩
  · rw [hten]
  · rw [hten]; rfl
  · rw [recordOf, hten]; rfl

/-! ## Replies -/

/-- The DONE of OK for a frame of a bucket (Table 9-5). -/
def okInfo (i : ShardInfo) (src : Source) (f : RxFrame) : DoneInfo :=
  let slot := slotNo i (rxHead f) (isPiece f)
  { status := stOk, detail := 0, flags := if holdsNonfinite f then flNonfinite else 0,
    frames := if hasFlag (rxHead f).flags flLast then (bucketCount i (rxHead f).shard src (slot - (rxHead f).seq) slot).1 else 0,
    duplicates := tabGet 0 src.dups (slot - (rxHead f).seq) }

/-- The DONEs of OK for some frames of a source: none for a piece that never replies (R197). -/
def okReplies (k : Chip) (i : ShardInfo) (src : Source) (l : List RxFrame) : List TxFrame :=
  l.flatMap (fun f => if isSilent f (isPiece f) then [] else [doneTo k f (okInfo i src f)])

theorem okReplies_silent {f : RxFrame} (h : isSilent f (isPiece f) = true) (k : Chip) (i : ShardInfo) (src : Source) :
    okReplies k i src [f] = [] := by
  rw [okReplies, List.flatMap_singleton, if_pos h]

theorem okReplies_answered {f : RxFrame} (h : isSilent f (isPiece f) = false) (k : Chip) (i : ShardInfo) (src : Source) :
    okReplies k i src [f] = [doneTo k f (okInfo i src f)] := by
  rw [okReplies, List.flatMap_singleton, if_neg (by simp [h])]

/-- The chip with some frames put behind those that wait to be sent. -/
def sending (c : Chip) (l : List TxFrame) : Chip := { c with outbox := c.outbox ++ l }

theorem sending_nil (c : Chip) : sending c [] = c := by
  rw [sending, List.append_nil]

theorem sending_sending (c : Chip) (l l' : List TxFrame) : sending (sending c l) l' = sending c (l ++ l') := by
  simp only [sending, List.append_assoc]

/-- A run of operations that each send some frames, the same ones whatever waits before them, sends them all in order. -/
theorem forEach_sending {α : Type} {c : Chip} {g : Chip → α → Chip} {h : α → List TxFrame}
    (hsends : ∀ o x, g (sending c o) x = sending (sending c o) (h x)) (l : List α) : forEach c l g = sending c (l.flatMap h) := by
  have hall : ∀ o, forEach (sending c o) l g = sending c (o ++ l.flatMap h) := by
    induction l with
    | nil => exact fun o => congrArg (sending c) (List.append_nil o).symm
    | cons x l ih =>
      intro o
      rw [forEach, List.foldl_cons, hsends, sending_sending, List.flatMap_cons, ← List.append_assoc]
      exact ih (o ++ h x)
  have hfromNothing := hall []
  rwa [sending_nil, List.nil_append] at hfromNothing

theorem carried_sending (c : Chip) (q : Hdr) (l : List TxFrame) : Carried q c (sending c l) (recordOf c q) (acceptedCount c q.tenant) l :=
  ⟨⟨rfl, rfl, rfl, rfl, rfl, fun _ _ => rfl⟩, rfl, rfl, fun _ _ => rfl, rfl, rfl, rfl⟩

theorem sendBucket_ok (c : Chip) (i : ShardInfo) (src : Source) (f : RxFrame) :
    sendBucket c f i src (slotNo i (rxHead f) (isPiece f)) stOk 0 0 = sending c (okReplies c i src [f]) := by
  unfold sendBucket gradDone
  cases h : isSilent f (isPiece f) with
  | true =>
    rw [okReplies_silent h, sending_nil]
    rfl
  | false =>
    rw [okReplies_answered h, okInfo]
    simp only [Nat.zero_add]
    rfl

theorem forEach_sendBucket_ok (c : Chip) (i : ShardInfo) (src : Source) (l : List RxFrame) :
    forEach c l (fun c f => sendBucket c f i src (slotNo i (rxHead f) (isPiece f)) stOk 0 0) = sending c (okReplies c i src l) :=
  forEach_sending (fun o f => by rw [sendBucket_ok, okReplies, List.flatMap_singleton]; rfl) l

/-- Replies are the same whether they are sent before the work or after it. -/
theorem Carried.okReplies_eq {q : Hdr} {k k' : Chip} {r : ShardStep} {n : Nat} {sent : List TxFrame} (h : Carried q k k' r n sent)
    (i : ShardInfo) (src : Source) (l : List RxFrame) : okReplies k' i src l = okReplies k i src l := by
  obtain ⟨-, hwake, -, -, himage, hothers⟩ := h.frame
  have hcommitted (u : Nat) : (ten k' u).committed = (ten k u).committed := by
    by_cases hu : u = q.tenant
    · rw [hu, h.committed]
    · rw [hothers u hu]
  simp only [okReplies, doneTo_congr himage hwake (hcommitted _)]

/-- Settling sends the replies owed for the buckets that are complete (R174). -/
theorem carried_settle (c : Chip) (q : Hdr) (i : ShardInfo) (source : Nat) :
    Carried q c (settle c i q.tenant q.tensor q.shard q.step source false) (settledRecord i q.shard source (recordOf c q))
      (acceptedCount c q.tenant)
      (okReplies c i (sourceOf (recordOf c q) source)
        ((sourceOf (recordOf c q) source).owed.filter (bucketDone i q.shard (sourceOf (recordOf c q) source)))) := by
  have htaken := carried_modShardStep c q (fun r => modSource r source (fun s =>
    { s with owed := s.owed.filter (fun g => !bucketDone i q.shard (sourceOf (recordOf c q) source) g) }))
  generalize hc' : modTen c q.tenant _ = c' at htaken
  have hsettle : settle c i q.tenant q.tensor q.shard q.step source false =
      sending c' (okReplies c' i (sourceOf (recordOf c q) source)
        ((sourceOf (recordOf c q) source).owed.filter (bucketDone i q.shard (sourceOf (recordOf c q) source)))) := by
    rw [← forEach_sendBucket_ok, ← hc']
    rfl
  rw [hsettle, htaken.okReplies_eq]
  have hsent := fun l => htaken.trans (carried_sending c' q l)
  simp only [htaken.record, htaken.accepted, List.nil_append] at hsent
  exact hsent _

end Sys2Proof.Machine
end

section
/-!
PROOFS. Rules of a frame accepted on time at its home: its slot, its values added element by element, its source's replies (R174, R193, R195, R199).
-/
namespace Sys2Proof.Machine

/-! ## One binary32 addition for each element -/

/-- Outside RULE 7 the elements of a frame go to consecutive elements of the accumulator. -/
theorem addValues_cons {i : ShardInfo} (hrule : i.group.rule ≠ 7) (rows : List Nat) (o : Nat) (v : Word) (vs : List Word) (m : Mem Word) :
    addValues i rows o (v :: vs) m = addValues i rows (o + 1) vs (memSet 0#32 m o (f32Add (memGet 0#32 m o) v)) := by
  simp only [addValues, target, if_neg hrule]

/-- Each element of the run gets one binary32 addition of its value; every other element stays. -/
theorem memGet_addValues {i : ShardInfo} (hrule : i.group.rule ≠ 7) (rows : List Nat) (vs : List Word) {m : Mem Word}
    (hwf : Memory.wf 0#32 m = true) (o a : Nat) :
    memGet 0#32 (addValues i rows o vs m) a =
      if h : o ≤ a ∧ a - o < vs.length then f32Add (memGet 0#32 m a) (vs[a - o]'h.2) else memGet 0#32 m a := by
  induction vs generalizing m o with
  | nil => rw [dif_neg (by simp)]; rfl
  | cons v vs ih =>
    rw [addValues_cons hrule, ih (wf_memSet _ hwf o _)]
    by_cases ha : a = o
    · subst ha
      rw [dif_neg (by omega), dif_pos (by simp), memGet_memSet_self _ hwf]
      simp
    · rw [memGet_memSet_ne _ m o a _ ha]
      by_cases hrun : o + 1 ≤ a ∧ a - (o + 1) < vs.length
      · obtain ⟨n, rfl⟩ : ∃ n, a = o + 1 + n := ⟨a - (o + 1), by omega⟩
        have hn : o + 1 + n - o = n + 1 := by omega
        have hrun' : o ≤ o + 1 + n ∧ o + 1 + n - o < (v :: vs).length := by
          rw [List.length_cons]
          omega
        rw [dif_pos hrun, dif_pos hrun']
        simp [hn]
      · rw [dif_neg hrun, dif_neg (by rw [List.length_cons]; omega)]

theorem wf_addValues (i : ShardInfo) (rows : List Nat) (vs : List Word) {m : Mem Word} (hwf : Memory.wf 0#32 m = true) (o : Nat) :
    Memory.wf 0#32 (addValues i rows o vs m) = true := by
  induction vs generalizing m o with
  | nil => exact hwf
  | cons v vs ih => exact ih (wf_memSet _ hwf _ _) (o + 1)

/-! ## A frame accepted on time -/

theorem SameTasks.trans {t : Nat} {a b c : Chip} (h : SameTasks t a b) (g : SameTasks t b c) : SameTasks t a c :=
  ⟨g.image.trans h.image, g.wake.trans h.wake, g.clusters.trans h.clusters, g.m8.trans h.m8, g.shift.trans h.shift⟩

/-- The chip that has noted an accepted frame: its origin, its slot and its host (R20, R160, R193). -/
def noted (c : Chip) (now : Nat) (i : ShardInfo) (f : RxFrame) : Chip :=
  modTen (noteOrigin c f) (rxHead f).tenant (fun x =>
    noteHost (modShardStep x (rxHead f).tensor (rxHead f).shard (rxHead f).step (acceptedRecord i f)) (rxHead f).step (rxHead f).source (some now))

theorem carried_noted (c : Chip) (now : Nat) (i : ShardInfo) (f : RxFrame) :
    Carried (rxHead f) c (noted c now i f) (acceptedRecord i f (recordOf c (rxHead f))) (acceptedCount c (rxHead f).tenant) [] := by
  have horigin := (launched_noteOrigin c f).carried (q := rxHead f) rfl
  have hnoted := horigin.trans (carried_modRecord (q := rxHead f) (g := acceptedRecord i f)
    (f := fun x => noteHost (modShardStep x (rxHead f).tensor (rxHead f).shard (rxHead f).step (acceptedRecord i f)) (rxHead f).step
      (rxHead f).source (some now)) (noteHost_eq _ _ _ _))
  rwa [horigin.record, horigin.accepted] at hnoted

theorem sameTasks_noted (c : Chip) (now : Nat) (i : ShardInfo) (f : RxFrame) : SameTasks (rxHead f).tenant c (noted c now i f) := by
  obtain ⟨l, hl⟩ := noteHost_eq (modShardStep (ten (noteOrigin c f) (rxHead f).tenant) (rxHead f).tensor (rxHead f).shard (rxHead f).step
    (acceptedRecord i f)) (rxHead f).step (rxHead f).source (some now)
  have hten : ten (noted c now i f) (rxHead f).tenant = _ := (ten_modTen_self _ _ _).trans hl
  exact (sameTasks_noteOrigin c f).trans ⟨rfl, rfl, rfl, by rw [hten]; rfl, by rw [hten]; rfl⟩

theorem sameTasks_countTen (c : Chip) (t i n : Nat) : SameTasks t c (countTen c t i n) := by
  obtain ⟨hbody, htenants⟩ := answered_countTen c t i n
  obtain ⟨l, hten⟩ := htenants t
  exact ⟨hbody.image, hbody.wake, hbody.clusters, by rw [hten], by rw [hten]⟩

theorem frameTask_congr {c c' : Chip} {f : RxFrame} (hsame : SameTasks (rxHead f).tenant c c') (hlaunches : c'.launches = c.launches)
    (kind first count now : Nat) : frameTask c' kind f first count now = frameTask c kind f first count now := by
  simp only [frameTask, boundIndex, l1Of, recipeAt, hsame.image, hlaunches, requestArray_congr hsame.image hsame.m8]

theorem inboxKept_runAccumulate (c : Chip) (u : Task) (f : RxFrame) : InboxKept c (runAccumulate c u f) := by
  unfold runAccumulate
  dsimp only
  split
  · exact .refl c
  · exact inboxKept_modTen c _ _

/-- The ACCUMULATE task for a frame's own step adds the frame's values to the accumulator of its record (R199). -/
theorem carried_runAccumulate {c : Chip} {u : Task} {f : RxFrame} {i : ShardInfo} (htenant : u.tenant = (rxHead f).tenant)
    (htensor : u.tensor = (rxHead f).tensor) (hshard : u.shard = (rxHead f).shard) (hstep : u.step = (rxHead f).step)
    (hinfo : shardInfo c (rxHead f).tenant (rxHead f).tensor (rxHead f).shard = some i) :
    Carried (rxHead f) c (runAccumulate c u f)
      (addedRecord i f (sourceOf (recordOf c (rxHead f)) (rxHead f).source).rows (recordOf c (rxHead f)))
      (acceptedCount c (rxHead f).tenant) [] := by
  unfold runAccumulate
  simp only [htenant, htensor, hshard, hstep, hinfo]
  exact carried_modRecord (g := addedRecord i f (sourceOf (recordOf c (rxHead f)) (rxHead f).source).rows)
    ⟨(ten c (rxHead f).tenant).steps, rfl⟩

/-- Where its clusters are free the task runs at once, and nothing else comes of its launch. -/
theorem carried_launchAccumulate {k c : Chip} {now : Nat} {i : ShardInfo} {f : RxFrame}
    (hruns : RunsAtOnce k { frameTask k 0 f (rxHead f).offset (rxHead f).count now with step := (rxHead f).step })
    (hsame : SameTasks (rxHead f).tenant k c) (hdbg : c.dbg = k.dbg) (hlaunches : c.launches = k.launches)
    (hinfo : shardInfo k (rxHead f).tenant (rxHead f).tensor (rxHead f).shard = some i) :
    Carried (rxHead f) c (launchAccumulate c now f (rxHead f).step)
      (addedRecord i f (sourceOf (recordOf c (rxHead f)) (rxHead f).source).rows (recordOf c (rxHead f)))
      (acceptedCount c (rxHead f).tenant) [] := by
  rw [← frameTask_congr hsame hlaunches] at hruns
  obtain ⟨c₁, hlaunched, hrun⟩ := launch_runsAtOnce hruns hsame hdbg (fun g hg => Option.some.inj hg ▸ rfl)
    (fun c' => runAccumulate c' { frameTask c 0 f (rxHead f).offset (rxHead f).count now with step := (rxHead f).step } f)
  have hinfo₁ : shardInfo c₁ (rxHead f).tenant (rxHead f).tensor (rxHead f).shard = some i := by
    obtain ⟨-, -, -, -, himage, -⟩ := hlaunched.frame
    rw [shardInfo_congr (himage.trans hsame.image), hinfo]
  have hadds := carried_runAccumulate (c := c₁)
    (u := { frameTask c 0 f (rxHead f).offset (rxHead f).count now with step := (rxHead f).step }) rfl rfl rfl rfl hinfo₁
  rw [← hrun] at hadds
  have hinbox : (launchAccumulate c now f (rxHead f).step).inbox = c.inbox :=
    (inboxKept_launch (fun c' => inboxKept_runAccumulate c' _ f) c _).inbox
  have htasks := hlaunched.carried (q := rxHead f) (hadds.inbox.symm.trans hinbox)
  have hadded := htasks.trans hadds
  rwa [htasks.record, htasks.accepted] at hadded

/-- A record with a frame accepted and its values added. -/
def broughtRecord (i : ShardInfo) (f : RxFrame) (r : ShardStep) : ShardStep :=
  addedRecord i f (sourceOf r (rxHead f).source).rows (acceptedRecord i f r)

/-- The answers to an accepted frame's source: one at once for a frame without LAST that holds a non-finite value, and those owed for complete
buckets (R174, R199). -/
def acceptReplies (k : Chip) (i : ShardInfo) (f : RxFrame) (src : Source) : List TxFrame :=
  okReplies k i src (if holdsNonfinite f && !hasFlag (rxHead f).flags flLast then [f] else []) ++
  okReplies k i src (src.owed.filter (bucketDone i (rxHead f).shard src))

theorem rows_acceptedRecord (i : ShardInfo) (f : RxFrame) (r : ShardStep) :
    (sourceOf (acceptedRecord i f r) (rxHead f).source).rows = (sourceOf r (rxHead f).source).rows := by
  rw [acceptedRecord, sourceOf_modSource_self]
  rfl

theorem countTen_dbg_launches (c : Chip) (t i n : Nat) : (countTen c t i n).dbg = c.dbg ∧ (countTen c t i n).launches = c.launches := by
  unfold countTen
  split <;> exact ⟨rfl, rfl⟩

/-- The answer at once to a frame without LAST that holds a non-finite value (R174, R199). -/
theorem answerNonfinite_eq (c : Chip) (i : ShardInfo) (f : RxFrame) (src : Source) (b : Bool) :
    (if b then sendBucket c f i src (slotNo i (rxHead f) (isPiece f)) stOk 0 0 else c) =
      sending c (okReplies c i src (if b then [f] else [])) := by
  cases b with
  | true => exact sendBucket_ok c i src f
  | false => exact (sending_nil c).symm

/-- Accepting a frame on time: its slot is noted and counted, its task adds the values, and its source is answered. -/
theorem carried_acceptFrame {k : Chip} {now : Nat} {i : ShardInfo} {f : RxFrame} (hexists : tenantExists k (rxHead f).tenant = true)
    (hinfo : shardInfo k (rxHead f).tenant (rxHead f).tensor (rxHead f).shard = some i)
    (hruns : RunsAtOnce k { frameTask k 0 f (rxHead f).offset (rxHead f).count now with step := (rxHead f).step }) :
    Carried (rxHead f) k (acceptFrame k now i f)
      (settledRecord i (rxHead f).shard (rxHead f).source (broughtRecord i f (recordOf k (rxHead f))))
      (satAdd64 (acceptedCount k (rxHead f).tenant) 1)
      (acceptReplies k i f (sourceOf (broughtRecord i f (recordOf k (rxHead f))) (rxHead f).source)) := by
  have hnoted := carried_noted k now i f
  have hsame := (sameTasks_noted k now i f).trans (sameTasks_countTen _ (rxHead f).tenant 15 1)
  have hcounted := hnoted.trans (carried_countAccepted ((tenantExists_congr (sameTasks_noted k now i f).wake _).trans hexists))
  rw [hnoted.record, hnoted.accepted] at hcounted
  obtain ⟨hdbg, hlaunches⟩ := countTen_dbg_launches (noted k now i f) (rxHead f).tenant 15 1
  have hbrought := hcounted.trans (carried_launchAccumulate hruns hsame hdbg hlaunches hinfo)
  rw [hcounted.record, hcounted.accepted, rows_acceptedRecord] at hbrought
  change Carried _ _ _ (broughtRecord i f (recordOf k (rxHead f))) _ _ at hbrought
  generalize broughtRecord i f (recordOf k (rxHead f)) = r at hbrought ⊢
  generalize hc' : launchAccumulate _ now f (rxHead f).step = c' at hbrought
  generalize hs : (if holdsNonfinite f && !hasFlag (rxHead f).flags flLast then [f] else []) = fs
  have haccept : acceptFrame k now i f = settle (sending c' (okReplies c' i (sourceOf r (rxHead f).source) fs)) i (rxHead f).tenant
      (rxHead f).tensor (rxHead f).shard (rxHead f).step (rxHead f).source false := by
    rw [← hs, ← answerNonfinite_eq, ← hbrought.record, ← hc']
    rfl
  have hanswered := hbrought.trans (carried_sending c' (rxHead f) (okReplies c' i (sourceOf r (rxHead f).source) fs))
  have hsettled := hanswered.trans (carried_settle _ (rxHead f) i (rxHead f).source)
  rw [← haccept, hanswered.record, hanswered.accepted, hanswered.okReplies_eq, hbrought.okReplies_eq, hbrought.record, hbrought.accepted]
    at hsettled
  rwa [acceptReplies, hs]

/-! ## A frame that had arrived in time -/

theorem carried_waitQuorum (c : Chip) (i : ShardInfo) (q : Hdr) :
    ∃ b, Carried q c (waitQuorum c i q.tenant q.tensor q.shard q.step) { recordOf c q with waited := b } (acceptedCount c q.tenant) [] := by
  cases h : beginsWait i q.shard (stepOf (shardOf (ten c q.tenant) q.tensor q.shard) q.step) with
  | false =>
    rw [waitQuorum_of_not_beginsWait h]
    exact ⟨(recordOf c q).waited, .refl q c⟩
  | true =>
    rw [waitQuorum_of_beginsWait h]
    have hwaits := carried_modShardStep c q (fun r => { r with waited := true })
    have htimed := hwaits.trans (carried_startVerdictTimer _ q)
    rw [hwaits.record, hwaits.accepted] at htimed
    exact ⟨true, htimed⟩

/-- Once the last frame that had arrived by the deadline is taken, the shard may begin to wait for its quorum (R203, R205). -/
theorem carried_dropTimely (c : Chip) (i : ShardInfo) (f : RxFrame) :
    ∃ l b, Carried (rxHead f) c (dropTimely c i f) { recordOf c (rxHead f) with timely := l, waited := b }
      (acceptedCount c (rxHead f).tenant) [] := by
  unfold dropTimely
  dsimp only
  split
  · have herased := carried_modShardStep c (rxHead f) (fun r => { r with timely := r.timely.erase f })
    obtain ⟨b, hwaits⟩ := carried_waitQuorum _ i (rxHead f)
    have hdropped := herased.trans hwaits
    rw [herased.record, herased.accepted] at hdropped
    exact ⟨_, b, hdropped⟩
  · exact ⟨_, _, .refl (rxHead f) c⟩

/-! ## At the home -/

/-- A frame accepted on time at its home: its slot, its values and its source's replies are carried out on the chip with room made, and the shard
may begin to wait for its quorum. -/
theorem carried_homeGrad {k k₁ : Chip} {now : Nat} {i : ShardInfo} {f : RxFrame} (h : AcceptedOnTime k k₁ now f i)
    (hexists : tenantExists k (rxHead f).tenant = true) :
    ∃ l b, Carried (rxHead f) k₁ (homeGrad k now i f)
      { settledRecord i (rxHead f).shard (rxHead f).source (broughtRecord i f (recordOf k₁ (rxHead f))) with timely := l, waited := b }
      (satAdd64 (acceptedCount k₁ (rxHead f).tenant) 1)
      (acceptReplies k₁ i f (sourceOf (broughtRecord i f (recordOf k₁ (rxHead f))) (rxHead f).source)) := by
  obtain ⟨-, hinfo, -, -, -, -, -, -, -, hcollisions, houtcome, haccumulates, hroom, hruns⟩ := h
  have hkept := inboxKept_accRoom hroom
  rw [← tenantExists_congr hkept.wake] at hexists
  rw [← shardInfo_congr hkept.image] at hinfo
  have haccept := carried_acceptFrame hexists hinfo hruns
  have hdecide : decideGrad k now i f = acceptFrame k₁ now i f := by
    simp only [decideGrad, hcollisions, houtcome, haccumulates, hroom, Bool.not_true, Bool.false_eq_true, if_false, if_true]
  unfold homeGrad
  rw [hdecide]
  dsimp only
  split
  · exact ⟨_, _, haccept⟩
  · obtain ⟨l, b, hdropped⟩ := carried_dropTimely (acceptFrame k₁ now i f) i f
    have hall := haccept.trans hdropped
    rw [haccept.record, haccept.accepted, List.append_nil] at hall
    exact ⟨l, b, hall⟩

/-- Of the source's record the values change nothing: its slot stands behind the others, and a reply may be owed (R174, R193). -/
theorem sourceOf_broughtRecord (i : ShardInfo) (f : RxFrame) (r : ShardStep) :
    sourceOf (broughtRecord i f r) (rxHead f).source =
      acceptSlot f (slotNo i (rxHead f) (isPiece f)) true (sourceOf r (rxHead f).source) :=
  sourceOf_modSource_self _ _ _

/-- The frames that are answered (R174, R197, R199): without LAST and finite, or a silent piece, none. -/
theorem acceptReplies_quiet {k : Chip} {i : ShardInfo} {f : RxFrame} {src : Source} (hlast : hasFlag (rxHead f).flags flLast = false)
    (hfinite : holdsNonfinite f = false ∨ isSilent f (isPiece f) = true) (howed : src.owed = []) : acceptReplies k i f src = [] := by
  have hsettled : okReplies k i src (src.owed.filter (bucketDone i (rxHead f).shard src)) = [] := by rw [howed]; rfl
  rw [acceptReplies, hsettled, hlast, List.append_nil, Bool.not_false, Bool.and_true]
  cases hfinite with
  | inl h => rw [h]; rfl
  | inr h =>
    split
    · exact okReplies_silent h k i src
    · rfl

theorem acceptReplies_nonfinite {k : Chip} {i : ShardInfo} {f : RxFrame} {src : Source} (hlast : hasFlag (rxHead f).flags flLast = false)
    (hnonfinite : holdsNonfinite f = true) (hsilent : isSilent f (isPiece f) = false) (howed : src.owed = []) :
    acceptReplies k i f src = [doneTo k f (okInfo i src f)] := by
  have hsettled : okReplies k i src (src.owed.filter (bucketDone i (rxHead f).shard src)) = [] := by rw [howed]; rfl
  rw [acceptReplies, hsettled, hlast, hnonfinite, ← okReplies_answered hsilent]
  exact List.append_nil _

theorem acceptReplies_last {k : Chip} {i : ShardInfo} {f : RxFrame} {src : Source} (hlast : hasFlag (rxHead f).flags flLast = true)
    (hsilent : isSilent f (isPiece f) = false) (howed : src.owed = [f]) (hdone : bucketDone i (rxHead f).shard src f = true) :
    acceptReplies k i f src = [doneTo k f (okInfo i src f)] := by
  have hready : [f].filter (bucketDone i (rxHead f).shard src) = [f] := List.filter_cons_of_pos hdone
  rw [acceptReplies, howed, hready, hlast, Bool.not_true, Bool.and_false, ← okReplies_answered hsilent]
  rfl

theorem deadline_acceptedRecord (i : ShardInfo) (f : RxFrame) (r : ShardStep) : (acceptedRecord i f r).deadline ≠ .idle := by
  change (if r.deadline = .idle then Timer.running else r.deadline) ≠ .idle
  split
  · nofun
  · assumption

theorem owed_acceptSlot (f : RxFrame) (slot : Nat) {s : Source} (h : s.owed = []) :
    (acceptSlot f slot true s).owed = if hasFlag (rxHead f).flags flLast && !isSilent f (isPiece f) then [f] else [] := by
  simp only [acceptSlot, h, Bool.true_and, List.nil_append]

theorem sourceOf_settledRecord (i : ShardInfo) (shard source : Nat) (r : ShardStep) :
    sourceOf (settledRecord i shard source r) source = { sourceOf r source with
      owed := (sourceOf r source).owed.filter (fun g => !bucketDone i shard (sourceOf r source) g) } :=
  sourceOf_modSource_self _ _ _

theorem stepOf_eq_recordOf (c : Chip) (q : Hdr) : stepOf (shardOf (ten c q.tenant) q.tensor q.shard) q.step = recordOf c q := rfl

/-- Where the work on a frame accepted on time is carried out, its values are added, once. -/
theorem valuesAdded_of_carried {k k' : Chip} {i : ShardInfo} {f : RxFrame} {l : List RxFrame} {b : Bool}
    (h : Carried (rxHead f) k k'
      { settledRecord i (rxHead f).shard (rxHead f).source (broughtRecord i f (recordOf k (rxHead f))) with timely := l, waited := b }
      (satAdd64 (acceptedCount k (rxHead f).tenant) 1)
      (acceptReplies k i f (sourceOf (broughtRecord i f (recordOf k (rxHead f))) (rxHead f).source))) : ValuesAdded k k' f i := by
  have hrecord := h.record
  have hsent := h.outbox
  generalize hold : sourceOf (recordOf k (rxHead f)) (rxHead f).source = old
  generalize hnew : acceptSlot f (slotNo i (rxHead f) (isPiece f)) true old = new
  have hbrought : sourceOf (broughtRecord i f (recordOf k (rxHead f))) (rxHead f).source = new := by
    rw [sourceOf_broughtRecord, hold, hnew]
  obtain ⟨o, hsource⟩ : ∃ o, sourceOf (recordOf k' (rxHead f)) (rxHead f).source = { new with owed := o } := by
    rw [hrecord, ← hbrought]
    exact ⟨_, sourceOf_settledRecord i (rxHead f).shard (rxHead f).source _⟩
  have howes (h : old.owed = []) : new.owed = if hasFlag (rxHead f).flags flLast && !isSilent f (isPiece f) then [f] else [] :=
    hnew ▸ owed_acceptSlot f _ h
  rw [hbrought] at hsent
  unfold ValuesAdded
  simp only [stepOf_eq_recordOf, hold, hsource]
  refine ⟨hnew ▸ rfl, hnew ▸ Bool.or_true _, hrecord ▸ deadline_acceptedRecord i f _, hrecord ▸ rfl, ?_, h.accepted, ?_, ?_, ?_,
    h.arrays, h.frame⟩
  · rw [hrecord, ← hold]
    rfl
  · intro hlast hquiet howed
    rw [hsent, acceptReplies_quiet hlast hquiet ((howes howed).trans (by rw [hlast]; rfl)), List.append_nil]
  · intro hlast hnonfinite hsilent howed
    rw [acceptReplies_nonfinite hlast hnonfinite hsilent ((howes howed).trans (by rw [hlast]; rfl))] at hsent
    exact ⟨_, hsent, rfl, if_pos hnonfinite⟩
  · intro hlast hsilent howed hdone
    rw [acceptReplies_last hlast hsilent ((howes howed).trans (by rw [hlast, hsilent]; rfl)) hdone] at hsent
    exact ⟨_, hsent, rfl, rfl⟩

end Sys2Proof.Machine
end

section
/-!
PROOFS. O51 (GradientsAreAdded): contributions at their home, on their way there, and cut at shard boundaries (R171, R173, R189, R193, R195, R197,
R199).
-/
namespace Sys2Proof.Machine

/-! ## The two commands -/

theorem taken_inbox (c : Chip) (f : RxFrame) (b : Bool) : (taken c f b).inbox = (consume c f).inbox := by
  unfold taken
  split
  · exact (inboxKept_countTen _ _ 14 1).inbox
  · rfl

/-- A frame that its command has taken for good leaves its pool (R304). -/
theorem keepInPool_taken {s : State} {c : Pos} {f : RxFrame} {k : Chip} (h : k.inbox = (consume (getChip s c) f).inbox) :
    keepInPool c f s (setChip s c k) = setChip s c k := by
  unfold keepInPool
  dsimp only
  rw [getChip_setChip_self, isPutBack, h, if_neg (by simp)]

theorem exec_grad (c : Pos) (f : RxFrame) (s : State) : exec (.grad c f) s = .next (keepInPool c f s (hostCommand tyGrad takeGrad c f s)) := rfl

theorem exec_reduce (c : Pos) (f : RxFrame) (s : State) :
    exec (.reduce c f) s = .next (keepInPool c f s (chipCommand tyReduce takeReduce c f s)) := rfl

theorem exec_grad_served {s : State} {c : Pos} {f : RxFrame} {k : Chip} (hserved : ServedRequest s c f tyGrad k)
    (hinbox : (takeGrad s.tray.now k f).inbox = k.inbox) : exec (.grad c f) s = .next (setChip s c (takeGrad s.tray.now k f)) := by
  obtain ⟨hk, -⟩ := id hserved
  rw [exec_grad, hostCommand_served hserved rfl, keepInPool_taken]
  rw [hinbox, hk, taken_inbox]

/-- A REDUCE that its tenant is not deaf to is served with its RETRY counted (R165). -/
theorem takeReduce_consume {c : Chip} {f : RxFrame} {now : Nat} {i : ShardInfo} {k : Chip} (hk : k = taken c f true)
    (hdeaf : tenantDeaf k (ten k (rxHead f).tenant) = false) (hreset : (ten k (rxHead f).tenant).wasReset = false)
    (hparam : paramTensor k (rxHead f).tenant (rxHead f).tensor = some (i.tensor, i.group))
    (hinfo : shardInfo k (rxHead f).tenant (rxHead f).tensor (rxHead f).shard = some i)
    (hhome : homeOf k (rxHead f).tenant (rxHead f).tensor (rxHead f).shard = some (chipNo k))
    (hformat : gradFormat (rxHead f).format = true) (hsource : (rxHead f).source < i.group.expected) (hcount : 1 ≤ (rxHead f).count)
    (hwithin : (rxHead f).offset + (rxHead f).count ≤ i.n) (hrange : isPiece f = false → gradRange i.n (rxHead f) = true) :
    takeReduce now (consume c f) f = homeGrad k now i f := by
  obtain ⟨hbody, htenants⟩ := hk ▸ answered_taken c f
  obtain ⟨l, hten⟩ := htenants (rxHead f).tenant
  have hdeaf' : tenantDeaf (consume c f) (ten (consume c f) (rxHead f).tenant) = false := by
    rw [hten] at hdeaf
    simpa only [tenantDeaf, wipeCode_congr hbody.wipe hbody.faults, stoppingFault_congr hbody.faults] using hdeaf
  have hreset' : (ten (consume c f) (rxHead f).tenant).wasReset = false := by rwa [hten] at hreset
  have hcounted : (if rxFlag f flRetry then countTen (consume c f) (rxHead f).tenant 14 1 else consume c f) = k := by
    rw [hk, taken, Bool.true_and]
  have hpiece : (!isPiece f && !gradRange i.n (rxHead f)) = false := by
    cases h : isPiece f with
    | true => rfl
    | false => rw [hrange h]; rfl
  simp [takeReduce, hdeaf', hreset', hcounted, hparam, hinfo, hhome, hformat, hpiece, Nat.not_le.2 hsource, Nat.not_lt.2 hwithin,
    Nat.pos_iff_ne_zero.1 hcount]

/-- A chip frame that ServedFrame describes is served by its own command. -/
theorem chipCommand_served {s : State} {c : Pos} {f : RxFrame} {type : Nat} {k : Chip} (h : ServedFrame s c f type k)
    (serve : Nat → Chip → RxFrame → Chip) :
    chipCommand type serve c f s = setChip s c (serve s.tray.now (consume (getChip s c) f) f) := by
  obtain ⟨hk, hlinks, hfirst, htype, ⟨r, hroute, htarget⟩, hok, hexists, -⟩ := h
  have hbody : SameBody (consume (getChip s c) f) k := by
    rw [hk]
    unfold taken
    split
    · exact sameBody_countTen _ _ 14 1
    · exact .refl _
  rw [chipNo_congr hbody.image hbody.wake] at htarget
  rw [tenantExists_congr hbody.wake] at hexists
  simp [chipCommand, hlinks, hfirst, htype, hroute, htarget, hok, hexists]

theorem exec_reduce_served {s : State} {c : Pos} {f : RxFrame} {k k' : Chip} (hserved : ServedFrame s c f tyReduce k)
    (htake : takeReduce s.tray.now (consume (getChip s c) f) f = k') (hinbox : k'.inbox = k.inbox) :
    exec (.reduce c f) s = .next (setChip s c k') := by
  obtain ⟨hk, -⟩ := id hserved
  rw [exec_reduce, chipCommand_served hserved, htake, keepInPool_taken]
  rw [hinbox, hk, taken_inbox]

/-! ## Accepted on time -/

/-- A frame accepted on time is added at its home, and has left the inbox for good. -/
theorem homeGrad_adds {k k₁ : Chip} {now : Nat} {i : ShardInfo} {f : RxFrame} (h : AcceptedOnTime k k₁ now f i)
    (hexists : tenantExists k (rxHead f).tenant = true) :
    ValuesAdded k₁ (homeGrad k now i f) f i ∧ (homeGrad k now i f).inbox = k.inbox := by
  obtain ⟨l, b, hcarried⟩ := carried_homeGrad h hexists
  obtain ⟨-, -, -, -, -, -, -, -, -, -, -, -, hroom, -⟩ := h
  exact ⟨valuesAdded_of_carried hcarried, hcarried.inbox.trans (inboxKept_accRoom hroom).inbox⟩

/-- A host's frame is no piece: its PIECE flag is ignored (R165). -/
theorem isPiece_of_grad {f : RxFrame} (h : (rxHead f).type = tyGrad) : isPiece f = false := by
  rw [isPiece, h]
  rfl

section
variable {k : Chip} {now : Nat} {i : ShardInfo} {f : RxFrame}
  (hparam : paramTensor k (rxHead f).tenant (rxHead f).tensor = some (i.tensor, i.group)) (hformat : gradFormat (rxHead f).format = true)
  (hsource : (rxHead f).source < i.group.expected) (hshard : (rxHead f).shard ≠ 0xFFFF)
  (hinfo : shardInfo k (rxHead f).tenant (rxHead f).tensor (rxHead f).shard = some i) (hrange : gradRange i.n (rxHead f) = true)
include hparam hformat hsource hshard hinfo hrange

theorem takeGrad_home (hhome : homeOf k (rxHead f).tenant (rxHead f).tensor (rxHead f).shard = some (chipNo k)) :
    takeGrad now k f = homeGrad k now i f := by
  simp [takeGrad, hparam, hformat, Nat.not_le.2 hsource, hshard, hinfo, hrange, hhome]

/-- A GRAD for a shard homed elsewhere goes on to its home (R173, R189, R195). -/
theorem takeGrad_away {home : Nat} (hhome : homeOf k (rxHead f).tenant (rxHead f).tensor (rxHead f).shard = some home)
    (haway : home ≠ chipNo k) :
    takeGrad now k f = sendReduce k f { rxHead f with flags := reduceFlags (rxHead f) false false } f.frame.payload home := by
  simp [takeGrad, hparam, hformat, Nat.not_le.2 hsource, hshard, hinfo, hrange, hhome, haway]

end

/-! ## Cut at shard boundaries -/

/-- Bytes of an element that GRAD carries. -/
def elemBytes (fmt : Nat) : Nat := if fmt = 0 then 4 else 2

/-- The REDUCE that carries a piece of a whole-tensor GRAD to the home of its shard (R197). -/
def pieceTo (k : Chip) (f : RxFrame) (r : TensorRec) (p : Nat × Nat × Nat × Nat) : TxFrame :=
  { frame := mkFrame { rxHead f with
        type := tyReduce, vc := 2, aux := 0, shard := p.1, offset := p.2.1, count := p.2.2.1,
        dest := homeChip (torusOf k).1 (torusOf k).2 r p.1,
        flags := reduceFlags (rxHead f) true (decide (p.2.2.2 + p.2.2.1 = (rxHead f).count)) }
      (sliceBytes f.frame.payload (p.2.2.2 * elemBytes (rxHead f).format) (p.2.2.1 * elemBytes (rxHead f).format)),
    vc := 2#2, route := newPrefix (originOf k f).1.toNat (originOf k f).2.toNat (homeChip (torusOf k).1 (torusOf k).2 r p.1) 0x3F }

theorem pieceTo_congr {c c' : Chip} (himage : c'.image = c.image) (hwake : c'.wake = c.wake) (f : RxFrame) (r : TensorRec)
    (p : Nat × Nat × Nat × Nat) : pieceTo c' f r p = pieceTo c f r p := by
  simp only [pieceTo, torusOf, himage, originOf_congr himage hwake]

/-- The SPLIT task sends one REDUCE for each piece, in order, and does no more. -/
theorem runSplit_eq {c : Chip} {f : RxFrame} {r : TensorRec} {g : GroupRec}
    (hparam : paramTensor c (rxHead f).tenant (rxHead f).tensor = some (r, g)) :
    runSplit c f = sending c ((pieces (shardStride g.rule r) (rxHead f).count (rxHead f).offset 0 (rxHead f).count).map (pieceTo c f r)) := by
  rw [← List.flatMap_singleton' (List.map _ _), List.flatMap_map]
  have hsends := forEach_sending (c := c) (g := fun c p => emit c (pieceTo c f r p)) (h := fun p => [pieceTo c f r p]) (fun _ _ => rfl)
  rw [← hsends]
  unfold runSplit
  dsimp only
  rw [hparam]
  rfl

theorem paramTensor_congr {c c' : Chip} (himage : c'.image = c.image) (t id : Nat) : paramTensor c' t id = paramTensor c t id := by
  simp only [paramTensor, tensorOf, groupOfTensor, catOf, himage]

theorem inboxKept_runSplit (c : Chip) (f : RxFrame) : InboxKept c (runSplit c f) := by
  cases h : paramTensor c (rxHead f).tenant (rxHead f).tensor with
  | none =>
    unfold runSplit
    dsimp only
    rw [h]
    exact .refl c
  | some p =>
    rw [runSplit_eq h]
    exact ⟨rfl, rfl, rfl⟩

section
variable {k : Chip} {now : Nat} {f : RxFrame} {r : TensorRec} {g : GroupRec}
  (hparam : paramTensor k (rxHead f).tenant (rxHead f).tensor = some (r, g)) (hformat : gradFormat (rxHead f).format = true)
  (hsource : (rxHead f).source < g.expected) (hshard : (rxHead f).shard = 0xFFFF) (hrule : g.rule ≠ 7)
  (helems : tensorElems r ≤ 4294967296) (hrange : gradRange (tensorElems r) (rxHead f) = true)
include hparam hformat hsource hshard hrule helems hrange

theorem takeGrad_launches :
    takeGrad now k f = launch k (frameTask k 1 f (rxHead f).offset (rxHead f).count now) (fun c => runSplit c f) := by
  simp [takeGrad, hparam, hformat, Nat.not_le.2 hsource, hshard, hrule, Nat.not_lt.2 helems, hrange]

/-- A whole-tensor GRAD whose SPLIT task is free to run is cut and sent on. -/
theorem takeGrad_splits (hruns : RunsAtOnce k (frameTask k 1 f (rxHead f).offset (rxHead f).count now)) :
    (takeGrad now k f).inbox = k.inbox ∧ ∃ k₁, Launched (rxHead f).tenant k k₁ ∧ takeGrad now k f = sending k₁
      ((pieces (shardStride g.rule r) (rxHead f).count (rxHead f).offset 0 (rxHead f).count).map (pieceTo k f r)) := by
  rw [takeGrad_launches hparam hformat hsource hshard hrule helems hrange]
  refine ⟨(inboxKept_launch (fun c => inboxKept_runSplit c f) k _).inbox, ?_⟩
  obtain ⟨k₁, hlaunched, hrun⟩ := launch_runsAtOnce hruns ⟨rfl, rfl, rfl, rfl, rfl⟩ rfl (fun g hg => Option.some.inj hg ▸ rfl)
    (fun c => runSplit c f)
  obtain ⟨-, hwake, -, -, himage, -⟩ := hlaunched.frame
  refine ⟨k₁, hlaunched, hrun.trans ?_⟩
  rw [← funext (pieceTo_congr himage hwake f r)]
  exact runSplit_eq ((paramTensor_congr himage _ _).trans hparam)

end

/-! ## O51 -/

/-- Settles O51. At its home a contribution comes down to homeGrad on the chip with room made, which homeGrad_adds describes; elsewhere it is sent
on as it stands, or as the pieces that runSplit_eq lists. -/
theorem gradientsAreAdded : Obligations.GradientsAreAdded := by
  unfold Obligations.GradientsAreAdded
  refine ⟨?grad, ?reduce, ?away, ?split, fun i o vs m hrule hwf => ⟨wf_addValues i [] vs hwf o, memGet_addValues hrule [] vs hwf o⟩⟩
  case grad =>
    intro s c f k k₁ i hserved haccepted
    obtain ⟨hparam, hinfo, hhome, hformat, hsource, hshard, -, -, hrange, -⟩ := id haccepted
    obtain ⟨-, -, -, htype, -, -, -, hexists, -⟩ := id hserved
    obtain ⟨hadded, hinbox⟩ := homeGrad_adds haccepted hexists
    have htake := takeGrad_home (now := s.tray.now) hparam hformat hsource hshard hinfo (hrange (isPiece_of_grad htype)) hhome
    rw [← htake] at hadded hinbox
    exact ⟨_, exec_grad_served hserved hinbox, onlyChip_setChip _ _ _, by rwa [getChip_setChip_self]⟩
  case reduce =>
    intro s c f k k₁ i hserved haccepted
    obtain ⟨hparam, hinfo, hhome, hformat, hsource, -, hcount, hwithin, hrange, -⟩ := id haccepted
    obtain ⟨hk, -, -, -, -, -, hexists, hdeaf, hreset⟩ := id hserved
    obtain ⟨hadded, hinbox⟩ := homeGrad_adds haccepted hexists
    have htake := takeReduce_consume (now := s.tray.now) hk hdeaf hreset hparam hinfo hhome hformat hsource hcount hwithin hrange
    exact ⟨_, exec_reduce_served hserved htake hinbox, onlyChip_setChip _ _ _, by rwa [getChip_setChip_self]⟩
  case away =>
    intro s c f k i home hserved hparam hformat hsource hshard hinfo hrange hhome haway
    have htake := takeGrad_away (now := s.tray.now) hparam hformat hsource hshard hinfo hrange hhome haway
    rw [exec_grad_served hserved (by rw [htake]; rfl), htake]
    rfl
  case split =>
    intro s c f k r g hserved hparam hformat hsource hshard hrule helems hrange hruns
    obtain ⟨hinbox, k₁, hlaunched, htake⟩ := takeGrad_splits hparam hformat hsource hshard hrule helems hrange hruns
    obtain ⟨o, l, hten, -⟩ := hlaunched.tenant
    refine ⟨_, exec_grad_served hserved hinbox, onlyChip_setChip _ _ _, ?_⟩
    rw [getChip_setChip_self, htake]
    exact ⟨hlaunched.frame, (congrArg TenantCtx.shards hten :), congrArg (· ++ _) hlaunched.outbox⟩

end Sys2Proof.Machine
end

section
/-!
PROOFS. O52 (RowListsAndCollisions): row lists that INDEX frames bring (R230), and the write of an arrival bit that collides (R300, R301).
-/
namespace Sys2Proof.Machine

/-! ## An INDEX frame that is next in its list -/

/-- A source with the rows of its next INDEX frame on its list (R230). -/
def listedSource (f : RxFrame) (src : Source) : Source :=
  { src with rows := src.rows ++ indexRows f, indexSeqs := src.indexSeqs ++ [(rxHead f).seq], indexDone := hasFlag (rxHead f).flags flLast }

/-- A record with the rows of an INDEX frame on its source's list; the deadline runs from the first frame that is accepted (R203). -/
def listedRecord (f : RxFrame) (r : ShardStep) : ShardStep :=
  modSource { r with deadline := if r.deadline = .idle then .running else r.deadline } (rxHead f).source (listedSource f)

theorem sourceOf_listedRecord (f : RxFrame) (r : ShardStep) :
    sourceOf (listedRecord f r) (rxHead f).source = listedSource f (sourceOf r (rxHead f).source) := sourceOf_modSource_self _ _ _

/-- The chip that has taken an INDEX frame's rows: its origin, its rows and its host are noted (R20, R160, R230). -/
def listed (c : Chip) (now : Nat) (f : RxFrame) : Chip :=
  modTen (noteOrigin c f) (rxHead f).tenant (fun x =>
    noteHost (modShardStep x (rxHead f).tensor (rxHead f).shard (rxHead f).step (listedRecord f)) (rxHead f).step (rxHead f).source (some now))

theorem carried_listed (c : Chip) (now : Nat) (f : RxFrame) :
    Carried (rxHead f) c (listed c now f) (listedRecord f (recordOf c (rxHead f))) (acceptedCount c (rxHead f).tenant) [] := by
  have horigin := (launched_noteOrigin c f).carried (q := rxHead f) rfl
  have hlisted := horigin.trans (carried_modRecord (q := rxHead f) (g := listedRecord f)
    (f := fun x => noteHost (modShardStep x (rxHead f).tensor (rxHead f).shard (rxHead f).step (listedRecord f)) (rxHead f).step
      (rxHead f).source (some now)) (noteHost_eq _ _ _ _))
  rwa [horigin.record, horigin.accepted] at hlisted

/-- The DONE of a complete row list (Table 9-5). -/
def listInfo (src : Source) : DoneInfo :=
  { status := stOk, detail := 0, flags := 0, frames := src.indexSeqs.length + 1, duplicates := src.indexDups }

/-- The answer to an INDEX frame that is taken: only the LAST one has one (R230). -/
def listReplies (k : Chip) (f : RxFrame) (src : Source) : List TxFrame :=
  if hasFlag (rxHead f).flags flLast then [doneTo k f (listInfo src)] else []

theorem sendDone_ok {d : DoneInfo} (h : d.status = 0) (c : Chip) (f : RxFrame) : sendDone c f d = sending c [doneTo c f d] := by
  unfold sendDone
  exact if_pos h

section
variable {k : Chip} {now : Nat} {i : ShardInfo} {f : RxFrame} {src : Source}
  (hsrc : src = sourceOf (recordOf k (rxHead f)) (rxHead f).source)
  (hstep : beyondResolved (ten k (rxHead f).tenant) (rxHead f).step 2 = false)
  (hfilled : (shardOf (ten k (rxHead f).tenant) (rxHead f).tensor (rxHead f).shard).fill = .filled)
  (hontime : shardLate i (ten k (rxHead f).tenant) (rxHead f).tensor (rxHead f).shard (rxHead f).step = false)
  (hnew : src.indexSeqs.contains (rxHead f).seq = false) (hnext : (rxHead f).seq = src.indexSeqs.length) (hopen : src.indexDone = false)
  (hrows : rowsOk (i.n / rowElems i.tensor) src.rows.getLast? (indexRows f) = true)
include hsrc hstep hfilled hontime hnew hnext hopen hrows

/-- A frame that is next in an open list, on time, with rows that follow those before, is taken (R230). -/
theorem homeIndex_lists :
    homeIndex k now i f =
      if hasFlag (rxHead f).flags flLast then sendDone (listed k now f) f (listInfo src) else listed k now f := by
  have hsource : sourceOf (stepOf (shardOf (ten k (rxHead f).tenant) (rxHead f).tensor (rxHead f).shard) (rxHead f).step) (rxHead f).source
      = src := hsrc.symm
  have hfits : (decide ((rxHead f).seq = src.indexSeqs.length) && !src.indexDone &&
      rowsOk (i.n / rowElems i.tensor) src.rows.getLast? (indexRows f)) = true := by
    rw [hrows, hopen, decide_eq_true hnext]
    rfl
  unfold homeIndex
  simp only [hsource, hfits, hstep, hfilled, hontime, hnew, Bool.or_true, Bool.not_true, Bool.or_self, Bool.false_eq_true, ne_eq,
    not_true, if_false]
  refine ite_congr rfl (fun hlast => ?_) (fun _ => rfl)
  rw [if_pos hlast]
  rfl

theorem carried_homeIndex :
    Carried (rxHead f) k (homeIndex k now i f) (listedRecord f (recordOf k (rxHead f))) (acceptedCount k (rxHead f).tenant)
      (listReplies k f src) := by
  rw [homeIndex_lists hsrc hstep hfilled hontime hnew hnext hopen hrows, listReplies]
  have hlisted := carried_listed k now f
  split
  · obtain ⟨-, hwake, -, -, himage, -⟩ := hlisted.frame
    have hsent := hlisted.trans (carried_sending (listed k now f) (rxHead f) [doneTo k f (listInfo src)])
    rw [sendDone_ok rfl, doneTo_congr himage hwake hlisted.committed]
    rwa [hlisted.record, hlisted.accepted] at hsent
  · exact hlisted

end

theorem takeIndex_home {k : Chip} {now : Nat} {i : ShardInfo} {f : RxFrame}
    (hparam : paramTensor k (rxHead f).tenant (rxHead f).tensor = some (i.tensor, i.group)) (hrule : i.group.rule = 7)
    (hsource : (rxHead f).source < i.group.expected) (hcount : (rxHead f).count ≤ 4096)
    (hinfo : shardInfo k (rxHead f).tenant (rxHead f).tensor (rxHead f).shard = some i)
    (hhome : homeOf k (rxHead f).tenant (rxHead f).tensor (rxHead f).shard = some (chipNo k)) :
    takeIndex now k f = homeIndex k now i f := by
  simp [takeIndex, hparam, hrule, Nat.not_le.2 hsource, Nat.not_lt.2 hcount, hinfo, hhome]

theorem exec_index_served {s : State} {c : Pos} {f : RxFrame} {k : Chip} (h : ServedRequest s c f tyIndex k) :
    exec (.index c f) s = .next (setChip s c (takeIndex s.tray.now k f)) :=
  congrArg Host.Outcome.next (hostCommand_served h rfl takeIndex)

/-! ## A frame's acceptance that ends with a code -/

/-- The count of a frame's outcome touches a chip's tenants alone, and sending it the frames to be sent besides. -/
def SameButReplies (k k' : Chip) : Prop := ∃ o l, k' = { k with outbox := o, tenants := l }

theorem SameButReplies.refl (k : Chip) : SameButReplies k k := ⟨k.outbox, k.tenants, rfl⟩

theorem SameButReplies.trans {a b c : Chip} (h : SameButReplies a b) (g : SameButReplies b c) : SameButReplies a c := by
  obtain ⟨o, l, rfl⟩ := h
  obtain ⟨o', l', rfl⟩ := g
  exact ⟨o', l', rfl⟩

theorem sameButReplies_countTen (c : Chip) (t i n : Nat) : SameButReplies c (countTen c t i n) := by
  unfold countTen
  split
  · exact ⟨c.outbox, _, rfl⟩
  · exact .refl c

theorem sameButReplies_sendDone (c : Chip) (f : RxFrame) (d : DoneInfo) : SameButReplies c (sendDone c f d) := by
  unfold sendDone
  dsimp only
  split
  · exact ⟨_, c.tenants, rfl⟩
  · exact SameButReplies.trans (b := sendReply c f _ _) ⟨_, c.tenants, rfl⟩ (sameButReplies_countTen _ _ _ 1)

/-- What a chip's answer to a frame with a status leaves of it: a piece that never replies is only counted (R197). -/
structure Replied (f : RxFrame) (status detail : Nat) (k k' : Chip) : Prop where
  rest : SameButReplies k k'
  answered : Answered k k'
  outbox : isSilent f (isPiece f) = false → ∃ d, k'.outbox = k.outbox ++ [doneTo k f d] ∧ d.status = status ∧ d.detail = detail

theorem replied_gradDone (c : Chip) (f : RxFrame) (d : DoneInfo) : Replied f d.status d.detail c (gradDone c f d) := by
  unfold gradDone
  cases hsilent : isSilent f (isPiece f) with
  | true =>
    refine ⟨?_, ?_, fun h => Bool.noConfusion (hsilent.symm.trans h)⟩ <;> simp only [if_true] <;> split
    · exact .refl c
    · exact sameButReplies_countTen c _ _ 1
    · exact .refl c
    · exact answered_countTen c _ _ 1
  | false => exact ⟨sameButReplies_sendDone c f _, answered_sendDone c f _, fun _ => ⟨_, sendDone_outbox c f _, rfl, rfl⟩⟩

/-- What a frame's acceptance that ends with a code leaves of its chip: the code is counted, the frame answered ABORTED, and of the tenants
only counters change (R301, R361). -/
structure Aborted (f : RxFrame) (code : Nat) (k k' : Chip) : Prop where
  occurrences : tabGet 0 k'.occurrences code = tabGet 0 k.occurrences code + 1
  counters : k'.counters = k.counters
  inbox : k'.inbox = k.inbox
  wake : k'.wake = k.wake
  tenants : ∀ n, ∃ l, ten k' n = { ten k n with counters := l }
  outbox : isSilent f (isPiece f) = false → ∃ d, k'.outbox = k.outbox ++ [doneTo k f d] ∧ d.status = stAborted ∧ d.detail = code

theorem aborted_abortFrame (c : Chip) (f : RxFrame) (code : Nat) : Aborted f code c (abortFrame c f code) := by
  have hcount := answered_countTen (countCode c code) (rxHead f).tenant 28 1
  have hcounted := sameButReplies_countTen (countCode c code) (rxHead f).tenant 28 1
  have hunsent := (quiet_countTen (countCode c code) (rxHead f).tenant 28 1).outbox
  unfold abortFrame
  dsimp only
  generalize countTen (countCode c code) (rxHead f).tenant 28 1 = c₁ at hcount hcounted hunsent ⊢
  obtain ⟨hreplied, hanswered, hreply⟩ := replied_gradDone c₁ f (doneInfo stAborted code)
  obtain ⟨hbody, htenants⟩ := hcount.trans hanswered
  generalize gradDone c₁ f (doneInfo stAborted code) = c₂ at hreplied hreply hbody htenants ⊢
  obtain ⟨o, l, hrest⟩ := hcounted.trans hreplied
  obtain ⟨cl, d, hhalted⟩ := sameButHalts_hitFault c₂ code
  rw [hhalted]
  refine ⟨?_, (congrArg Chip.counters hrest :), (congrArg Chip.inbox hrest :), hbody.wake, htenants, fun hsilent => ?_⟩
  · exact (congrArg (fun k => tabGet 0 k.occurrences code) hrest).trans (tabGet_tabSet_self _ _ _ _)
  · obtain ⟨d, hsent, hd⟩ := hreply hsilent
    obtain ⟨m, hten⟩ := hcount.tenants (rxHead f).tenant
    have hcommitted : (ten c₁ (rxHead f).tenant).committed = (ten c (rxHead f).tenant).committed := by rw [hten]; rfl
    rw [doneTo_congr hcount.body.image hcount.body.wake hcommitted, hunsent] at hsent
    exact ⟨d, hsent, hd⟩

/-- Taking a frame for good frees its flits in its port's pool and changes nothing else (R304). -/
theorem consume_eq (c : Chip) (f : RxFrame) : ∃ l, consume c f = { c with inbox := c.inbox.erase f, ports := l } := by
  unfold consume freeDispatched
  dsimp only
  split
  · exact ⟨_, rfl⟩
  · exact ⟨c.ports, rfl⟩

/-! ## The outcome that a copy meets -/

/-- The home's outcome for a frame looks at the season and at the tenant's record, not at its counters (Table 10-1). -/
theorem homeOutcome_congr {c c' : Chip} (hwake : c'.wake = c.wake) (htenants : ∀ n, ∃ l, ten c' n = { ten c n with counters := l })
    (i : ShardInfo) (f : RxFrame) : homeOutcome c' i f = homeOutcome c i f := by
  obtain ⟨l, hten⟩ := htenants (rxHead f).tenant
  unfold homeOutcome
  dsimp only
  rw [hten, hwake]
  rfl

/-! ## LEDGER_COLLISION_RETRY -/

/-- The chip on which a frame has met its ninth collision in succession: the collision is counted, and those of the frame are forgotten. -/
def collided (k : Chip) (f : RxFrame) : Chip := { countDev k 145 1 with collisions := tabErase k.collisions f }

/-- A retry that does not collide is the frame's own command (R300). -/
theorem exec_retry_taken (s : State) (c : Pos) (f : RxFrame) :
    exec (.ledgerCollisionRetry c f false) s = if (rxHead f).type = tyReduce then exec (.reduce c f) s else exec (.grad c f) s := rfl

section
variable {s : State} {c : Pos} {f : RxFrame} (hlinks : linksOn (getChip s c) = true) (hwrites : writesBit (getChip s c) f = true)
include hlinks hwrites

/-- Up to the eighth collision in succession the frame stays, and its collisions are counted (R301). -/
theorem exec_collision_stays (hfew : tabGet 0 (getChip s c).collisions f < 8) :
    exec (.ledgerCollisionRetry c f true) s = .next (setChip s c
      { countDev (getChip s c) 145 1 with collisions := tabSet (getChip s c).collisions f (tabGet 0 (getChip s c).collisions f + 1) }) := by
  change execLedgerCollisionRetry c f true s = _
  simp [execLedgerCollisionRetry, hlinks, hwrites, Nat.add_lt_add_right hfew 1]

/-- The ninth collision in succession ends the frame's acceptance with 0x44 (R301). -/
theorem exec_collision_ends (hlast : tabGet 0 (getChip s c).collisions f = 8) :
    exec (.ledgerCollisionRetry c f true) s =
      .next (setChip s c (abortFrame (consume (collided (getChip s c) f) f) f 0x44)) := by
  change execLedgerCollisionRetry c f true s = _
  simp [execLedgerCollisionRetry, hlinks, hwrites, hlast, collided]

end

/-! ## O52 -/

/-- Settles O52. An INDEX frame comes down to homeIndex, which carried_homeIndex describes; a ninth collision to abortFrame on the chip that the frame
has left, where no record of a tenant but its counters is touched. Whether a write collides is the command's operand, the model's choice (log
entry 37). -/
theorem rowListsAndCollisions : Obligations.RowListsAndCollisions := by
  unfold Obligations.RowListsAndCollisions
  refine ⟨?index, fun s c f hlinks hwrites hfew => exec_collision_stays hlinks hwrites hfew, ?ends, fun s c f => ⟨?grad, ?reduce⟩⟩
  case index =>
    intro s c f k i hserved hparam hrule hsource hcount hinfo hhome hstep hfilled hontime src hsrc hnew hnext hopen hrows
    have hcarried := carried_homeIndex (now := s.tray.now) hsrc hstep hfilled hontime hnew hnext hopen hrows
    rw [← takeIndex_home hparam hrule hsource hcount hinfo hhome] at hcarried
    refine ⟨_, exec_index_served hserved, onlyChip_setChip _ _ _, ?_⟩
    rw [getChip_setChip_self, stepOf_eq_recordOf, hcarried.record, hcarried.outbox, listReplies]
    refine ⟨hcarried.frame, (sourceOf_listedRecord f _).trans (congrArg (listedSource f) hsrc.symm), hcarried.arrays, fun hmore => ?_,
      fun hlast => ⟨listInfo src, by rw [if_pos hlast], rfl, rfl⟩⟩
    rw [hmore]
    exact List.append_nil _
  case ends =>
    intro s c f hlinks hwrites hlast
    obtain ⟨l, htaken⟩ := consume_eq (collided (getChip s c) f) f
    have haborted := aborted_abortFrame (consume (collided (getChip s c) f) f) f 0x44
    refine ⟨_, exec_collision_ends hlinks hwrites hlast, onlyChip_setChip _ _ _, ?_⟩
    rw [getChip_setChip_self]
    generalize abortFrame _ f 0x44 = k' at haborted ⊢
    rw [htaken] at haborted
    obtain ⟨hoccurrences, hcounters, hinbox, hwake, htenants, houtbox⟩ := haborted
    refine ⟨hoccurrences, ?_, fun n => ?_, fun i => homeOutcome_congr hwake htenants i f, hinbox, houtbox⟩
    · rw [hcounters]
      exact counters_countDev_self _ 145 1
    · obtain ⟨m, hten⟩ := htenants n
      rw [hten]
      rfl
  case grad =>
    intro htype
    rw [exec_retry_taken, if_neg (by rw [htype]; decide)]
  case reduce =>
    intro htype
    rw [exec_retry_taken, if_pos htype]

end Sys2Proof.Machine
end

section
/-!
PROOFS. O4 (CoreCycleFillsBuckets): what a core cycle does to a cluster of a chip whose core runs (R326, R360, R400).
-/
namespace Sys2Proof.Machine

/-! ## A cluster's core cycle -/

/-- The three buckets gain, halted or not. -/
theorem tickCluster_buckets (p : Nat × Nat × Nat) (k : Nat) (x : Cluster) :
    (tickCluster p k x).readTokens = min 327680 (x.readTokens + p.1 * k) ∧
      (tickCluster p k x).writeTokens = min 327680 (x.writeTokens + p.2.1 * k) ∧
      (tickCluster p k x).egressTokens = min 327680 (x.egressTokens + p.2.2 * k) := by
  unfold tickCluster
  dsimp only
  split <;> exact ⟨rfl, rfl, rfl⟩

theorem tickCluster_halted (p : Nat × Nat × Nat) (k : Nat) {x : Cluster} (h : x.halted = true) :
    (tickCluster p k x).run = x.run ∧ (tickCluster p k x).next = x.next ∧ (tickCluster p k x).stepMode = x.stepMode := by
  unfold tickCluster
  dsimp only
  rw [if_pos h]
  exact ⟨rfl, rfl, rfl⟩

theorem tickCluster_run (p : Nat × Nat × Nat) (k : Nat) {x : Cluster} (h : x.halted = false) :
    (tickCluster p k x).run = x.run.map (countStage k) := by
  unfold tickCluster
  dsimp only
  rw [if_neg (by rw [h]; exact Bool.false_ne_true)]

theorem countStage_eq (k : Nat) (u : RunTask) : countStage k u = { u with count := if u.active then u.count + k else u.count } := by
  unfold countStage
  split <;> rfl

/-! ## A chip's core cycle -/

theorem getChip_tick (s : State) (p : Pos) : getChip (tick s) p = tickChip (getChip s p) := by
  rw [tick, getChip_mapChips, getChip_modTray]

theorem tickChip_clusters {c : Chip} (h : coreRuns c = true) :
    (tickChip c).clusters = tabMap (fun _ x => tickCluster (classShares c) c.wake.issueRate x) c.clusters := by
  rw [tickChip, if_pos h]

/-- Settles O4: each cluster of the chip goes through tickCluster at the shares latched from BWSPLIT. -/
theorem coreCycleFillsBuckets : Obligations.CoreCycleFillsBuckets := by
  unfold Obligations.CoreCycleFillsBuckets
  intro s p k x r w e hruns hsplit hfind
  have hshares : classShares (getChip s p) = (r, w, e) := by rw [classShares, hsplit, Option.getD_some]
  obtain ⟨hread, hwrite, hegress⟩ := tickCluster_buckets (r, w, e) (getChip s p).wake.issueRate x
  refine ⟨_, ?_, hread, hwrite, hegress, tickCluster_halted _ _, fun hgoes u hrun => ?_⟩
  · rw [getChip_tick, tickChip_clusters hruns, tabFind_tabMap, hfind, hshares, Option.map_some]
  · rw [tickCluster_run _ _ hgoes, hrun, Option.map_some, countStage_eq]

end Sys2Proof.Machine
end

section
/-!
PROOFS. STREAM_REQUEST_ISSUE (R319, R320, R326, R327): a request of the running task's stream, issued and paid for.
-/
namespace Sys2Proof.Machine

/-! ## Whose stream a command names -/

theorem onStream_run {c : Chip} {j : ClusterNo} {u : RunTask} {i : Nat} {d : DescRec} (hrun : (clusterOf c j).run = some u)
    (hdesc : descAt c u.task i = some d) (f : RunTask → DescRec → Option Chip) : onStream c j i false f = f u d := by
  have htask : taskAt (clusterOf c j) false = some u := hrun
  simp only [onStream, htask, hdesc, Option.bind_some]

theorem onStream_run_none {c : Chip} {j : ClusterNo} {u : RunTask} {i : Nat} (hrun : (clusterOf c j).run = some u)
    (hdesc : descAt c u.task i = none) (f : RunTask → DescRec → Option Chip) : onStream c j i false f = none := by
  have htask : taskAt (clusterOf c j) false = some u := hrun
  simp only [onStream, htask, hdesc, Option.bind_none]

theorem onStream_next_none {c : Chip} {j : ClusterNo} (hnext : (clusterOf c j).next = none) (i : Nat) (f : RunTask → DescRec → Option Chip) :
    onStream c j i true f = none := by
  have htask : taskAt (clusterOf c j) true = none := hnext
  simp only [onStream, htask]

theorem exec_streamRequestIssue_issues {s : State} {c : Pos} {j : ClusterNo} {i : Fin 32} {u : RunTask} {d : DescRec} {k' : Chip}
    (hruns : coreRuns (getChip s c) = true) (hgoes : (clusterOf (getChip s c) j).halted = false)
    (hrun : (clusterOf (getChip s c) j).run = some u) (hdesc : descAt (getChip s c) u.task i.val = some d)
    (hissue : issueStream (getChip s c) j false u i.val d = some k') :
    exec (.streamRequestIssue c j i) s = .next (setChip s c k') := by
  refine (if_neg (by rw [hruns, hgoes]; exact Bool.false_ne_true)).trans ?_
  simp only [issueRequest, onStream_run hrun hdesc, hissue]

/-! ## A stream's next request -/

/-- Taking a buffer to empty leaves the task in its stage. -/
theorem sameStage_takeBuffer (c : Chip) (x : Cluster) (r : RunTask) (i : Nat) (d : DescRec) : SameStage r (takeBuffer c x r i d) := by
  unfold takeBuffer
  split
  · split
    · split
      · exact ⟨rfl, rfl, rfl, rfl, rfl⟩
      · exact .refl r
    · exact .refl r
  · exact .refl r

theorem SameStage.keepsBack_eq {r r' : RunTask} (h : SameStage r r') (c : Chip) : keepsBack c r' = keepsBack c r := by
  simp only [keepsBack, activeCode, h.active, h.task, h.stage]

/-- A stream that nothing holds back issues its next request. -/
theorem issueStream_eq {c : Chip} {j : ClusterNo} {r r' : RunTask} {i : Nat} {d : DescRec} {w : Stream} {p n : Nat}
    (htaken : (if d.op = 0 then r else takeBuffer c (clusterOf c j) r i d) = r') (hstream : streamAt r' i = some w)
    (hnext : nextRequest c r' d w = (p, n)) (hsome : n ≠ 0) (hback : keepsBack c r' = false) (hstalled : isStalled c r'.task = false)
    (hbuffer : d.op = 0 → w.issued % d.buffer ≠ 0 ∨ (freeSlot c (clusterOf c j) = true ∧ freeBuffer c (clusterOf c j) r' d w = true))
    (hfault : addressFault c r'.task d (bytesAt c r' d p n) = none) :
    issueStream c j false r i d = issueAt c j false r' i d w p n (bytesAt c r' d p n) := by
  have hgo : ¬ (decide (n = 0) || keepsBack c r' || isStalled c r'.task || (decide (d.op = 0) && decide (w.issued % d.buffer = 0) &&
      !(freeSlot c (clusterOf c j) && freeBuffer c (clusterOf c j) r' d w))) = true := by
    rw [hback, hstalled]
    simpa [hsome, Classical.or_iff_not_imp_left] using hbuffer
  unfold issueStream
  dsimp only
  rw [htaken]
  simp only [hstream, hnext]
  rw [if_neg hgo, hfault]

/-! ## A request issued -/

/-- Noting misses changes the slices' miss records alone. -/
theorem noteMisses_eq (c : Chip) (j : ClusterNo) (t i : Nat) (ns : List LineNeed) : ∃ m, noteMisses c j t i ns = { c with lineMisses := m } := by
  refine forEach_rel (R := fun a b => ∃ m, b = { a with lineMisses := m }) (fun a => ⟨a.lineMisses, rfl⟩) ?_ (fun c n _ => ?_) c
  · rintro a _ _ ⟨_, rfl⟩ ⟨m, rfl⟩
    exact ⟨m, rfl⟩
  · dsimp only
    split
    · exact ⟨c.lineMisses, rfl⟩
    · exact ⟨_, rfl⟩

/-- The lines of a request that its cluster's L1 has to wait for. -/
def missedBy (c : Chip) (x : Cluster) (t : Task) (d : DescRec) (l : List Nat) : List Nat :=
  ((if d.op = 0 then needsOf c t d l else []).filter (l1Miss x)).map (·.line)

/-- A stream's request of n bytes as it goes in flight. -/
def nextInFlight (c : Chip) (x : Cluster) (t : Task) (d : DescRec) (w : Stream) (n : Nat) (l : List Nat) : Request :=
  { address := l.headD 0, bytes := n, stamp := w.stamp, serial := (touch c).lineClock, missed := missedBy c x t d l }

/-- A request of n bytes of stream w of descriptor i is in flight on a cluster, which is x but for its running task. -/
structure Issues (k k' : Chip) (j : ClusterNo) (i : Nat) (w : Stream) (n : Nat) (x : Cluster) : Prop where
  tenants : k'.tenants = k.tenants
  hbm : k'.hbm = k.hbm
  stream : ∃ u' w', clusterOf k' j = { x with run := some u' } ∧ streamAt u' i = some w' ∧ w'.issued = w.issued + n ∧
    w'.completed = w.completed ∧ w'.inFlight.length = w.inFlight.length + 1

theorem Issues.noteMisses {k k' : Chip} {j : ClusterNo} {i n : Nat} {w : Stream} {x : Cluster} (h : Issues k k' j i w n x) (t : Nat)
    (ns : List LineNeed) : Issues k (noteMisses k' j t i ns) j i w n x := by
  obtain ⟨m, hm⟩ := noteMisses_eq k' j t i ns
  obtain ⟨htenants, hhbm, hstream⟩ := h
  rw [hm]
  exact ⟨htenants, hhbm, hstream⟩

/-- A stream with one more request in flight, in a buffer newly taken where one begins. -/
def withRequest (fresh : Bool) (w : Stream) (q : Request) : Stream :=
  let s := { w with issued := w.issued + q.bytes, inFlight := w.inFlight ++ [q] }
  if fresh then withBuffers s (s.inUse + 1) else s

theorem withRequest_eq (fresh : Bool) (w : Stream) (q : Request) :
    (withRequest fresh w q).issued = w.issued + q.bytes ∧ (withRequest fresh w q).completed = w.completed ∧
      (withRequest fresh w q).inFlight.length = w.inFlight.length + 1 := by
  cases fresh <;> exact ⟨rfl, rfl, List.length_append⟩

theorem issues_request (c : Chip) (j : ClusterNo) (r : RunTask) (i : Nat) (w : Stream) (fresh : Bool) (q : Request) (op cost : Nat) :
    Issues c (modCluster (touch c) j (fun x => putTask (spend x op cost) false (setStream r i (withRequest fresh w q)))) j i w q.bytes
      (spend (clusterOf c j) op cost) :=
  ⟨rfl, rfl, _, _, clusterOf_modCluster_self (touch c) j _, tabFind_tabSet_self r.streams i _, withRequest_eq fresh w q⟩

/-- A request that its bucket and the miss registers cover is issued, and its tokens are spent (R312, R326). -/
theorem issueAt_issues {c : Chip} {j : ClusterNo} {r : RunTask} {i : Nat} {d : DescRec} {w : Stream} {p n : Nat} {l : List Nat}
    (hroom : d.op = 0 ∨ writesUpdate c r.task d = false)
    (htokens : requestCost c r.task d w p n l ≤ tokensOf (clusterOf c j) d.op)
    (hfree : registersFree (clusterOf c j) (missedBy c (clusterOf c j) r.task d l) = true) :
    ∃ k', issueAt c j false r i d w p n l = some k' ∧
      Issues c k' j i w n (spend (clusterOf c j) d.op (requestCost c r.task d w p n l)) := by
  have hgo : ¬ (decide (tokensOf (clusterOf c j) d.op < requestCost c r.task d w p n l) ||
      !registersFree (clusterOf c j) (missedBy c (clusterOf c j) r.task d l) ||
      waitsForRun c (clusterOf c j) false (orderedLines c r.task d l)) = true := by
    rw [hfree]
    simpa [waitsForRun] using htokens
  have hpending : (if d.op = 0 then some c else roomForStore c r.task d l) = some c := by
    obtain hload | hplain := hroom
    · exact if_pos hload
    · simp [roomForStore, hplain]
  refine ⟨_, ?_, (issues_request c j r i w (decide (d.op = 0) && decide (w.issued % d.buffer = 0))
    (nextInFlight c (clusterOf c j) r.task d w n l) d.op _).noteMisses r.task.tenant (if d.op = 0 then needsOf c r.task d l else [])⟩
  refine (if_neg hgo).trans ?_
  rw [hpending]
  rfl

/-! ## The short path (R320) -/

theorem exec_streamRequestIssue_short {s : State} {c : Pos} {j : ClusterNo} {i : Fin 32} {u : RunTask} {m : ShortMove} {rest : List ShortMove}
    (hruns : coreRuns (getChip s c) = true) (hgoes : (clusterOf (getChip s c) j).halted = false)
    (hrun : (clusterOf (getChip s c) j).run = some u) (hdesc : descAt (getChip s c) u.task i.val = none)
    (hnext : (clusterOf (getChip s c) j).next = none) (hshorts : u.shorts = m :: rest) (hwaits : m.issued = false)
    (hslot : freeSlot (getChip s c) (clusterOf (getChip s c) j) = true)
    (htokens : writeCost (List.range m.bytes) ≤ (clusterOf (getChip s c) j).writeTokens) :
    exec (.streamRequestIssue c j i) s = .next (setChip s c (setCluster (getChip s c) j
      { clusterOf (getChip s c) j with run := some { u with shorts := { m with issued := true } :: rest },
                                       writeTokens := (clusterOf (getChip s c) j).writeTokens - writeCost (List.range m.bytes) })) := by
  have hspan : u.shorts.span (·.issued) = ([], m :: rest) := by
    simp only [hshorts, List.span, List.span.loop, hwaits, List.reverse_nil]
  refine (if_neg (by rw [hruns, hgoes]; exact Bool.false_ne_true)).trans ?_
  simp only [issueRequest, onStream_run_none hrun hdesc, onStream_next_none hnext, issueShort, hrun, hspan, hslot, Bool.true_and,
    decide_eq_true htokens, if_true, List.nil_append]

end Sys2Proof.Machine
end

section
/-!
PROOFS. READ_DATA_RETURN (R318, R322) and WRITE_ACCEPT at the scratchpad (R317, R320, R328).
-/
namespace Sys2Proof.Machine

/-! ## What a read returns -/

theorem length_readBytes (c : Chip) (j : ClusterNo) (t : Task) (d : DescRec) (l : List Nat) : (readBytes c j t d l).2.1.length = l.length := by
  unfold readBytes
  split
  · exact List.length_map _
  · split
    · exact List.length_map _
    · split <;> exact List.length_map _

theorem readBytes_scratch {d : DescRec} (h : d.space = 0) (c : Chip) (j : ClusterNo) (t : Task) (l : List Nat) :
    (readBytes c j t d l).1 = c ∧ (readBytes c j t d l).2.1 = l.map (memGet 0#8 (clusterOf c j).scratch) := by
  rw [readBytes, if_pos h]
  exact ⟨rfl, rfl⟩

theorem onRegions_scratch {d : DescRec} (h : d.space = 0) (t : Task) : onRegions t d = false := by
  rw [onRegions, h]
  rfl

theorem noteDead_of_not_onRegions {t : Task} {d : DescRec} (h : onRegions t d = false) (c : Chip) (serial : Nat) (l : List Nat) :
    noteDead c t d serial l = c :=
  if_neg (by rw [h, Bool.false_and]; exact Bool.false_ne_true)

theorem fillBuffer_task (c : Chip) (r : RunTask) (i : Nat) (d : DescRec) (w : Stream) (bs : List Byte) (poison : Nat) :
    (fillBuffer c r i d w bs poison).task = r.task := by
  unfold fillBuffer
  dsimp only
  split
  · split <;> rfl
  · rfl

/-- The stream whose oldest request's bytes have come: they stand in its buffer unless they complete it. -/
theorem fillBuffer_stream (c : Chip) (r : RunTask) (i : Nat) (d : DescRec) (w : Stream) (bs : List Byte) (poison : Nat) :
    ∃ w', streamAt (fillBuffer c r i d w bs poison) i = some w' ∧ w'.completed = w.completed + bs.length ∧ w'.inFlight = w.inFlight.tail ∧
      (endsTransfer d w bs.length = false → w'.data = w.data ++ bs) := by
  unfold fillBuffer
  dsimp only
  split
  case isTrue hends =>
    have hno {P : Prop} (h : endsTransfer d w bs.length = false) : P := absurd (hends.symm.trans h) (by decide)
    split
    · exact ⟨_, tabFind_tabSet_self _ _ _, rfl, rfl, hno⟩
    · exact ⟨_, tabFind_tabSet_self _ _ _, rfl, rfl, hno⟩
  case isFalse => exact ⟨_, tabFind_tabSet_self _ _ _, rfl, rfl, fun _ => rfl⟩

/-! ## READ_DATA_RETURN -/

/-- The oldest read of a stream that neither waits nor touches a dead line brings its data. -/
theorem exec_readDataReturn_delivers {s : State} {c : Pos} {j : ClusterNo} {i : Fin 32} {u : RunTask} {d : DescRec} {w : Stream} {q : Request}
    {rest : List Request} {l : List Nat} (hruns : coreRuns (getChip s c) = true) (hrun : (clusterOf (getChip s c) j).run = some u)
    (hdesc : descAt (getChip s c) u.task i.val = some d) (hload : d.op = 0) (hstream : streamAt u i.val = some w)
    (hflight : w.inFlight = q :: rest) (hl : l = requestAddresses (getChip s c) u d w w.completed q.bytes)
    (hfilled : (needsOf (getChip s c) u.task d l).any (waitsForFill (getChip s c) (clusterOf (getChip s c) j)) = false)
    (hqueue : queueFull (clusterOf (getChip s c) j) d w q.bytes = false)
    (horder : mayComplete (getChip s c) u
      { desc := i.val, load := true, lines := orderedLines (getChip s c) u.task d l, stamp := q.stamp } = true)
    (hlive : rereadsDead (getChip s c) u.task d l = false) :
    exec (.readDataReturn c j i) s = .next (setChip s c (deliverData (getChip s c) j false u i.val d w q.serial l)) := by
  have hreturn : returnData (getChip s c) j false u i.val d = some (deliverData (getChip s c) j false u i.val d w q.serial l) := by
    subst hl
    simp only [returnData, hstream, hflight, hload, hfilled, hqueue, horder, hlive, ne_eq, not_true_eq_false, decide_false, Bool.or_self,
      Bool.not_true, Bool.false_and, Bool.false_eq_true, if_false]
  refine (if_neg (by rw [hruns]; exact Bool.false_ne_true)).trans ?_
  simp only [onStream_run hrun hdesc, hreturn]

/-- The oldest read of the running task's stream is complete in a chip, its bytes those of the addresses l; from the scratchpad they come without a
change elsewhere. -/
structure ReadReturned (k k' : Chip) (j : ClusterNo) (u : RunTask) (i : Nat) (d : DescRec) (w : Stream) (l : List Nat) (u' : RunTask)
    (w' : Stream) : Prop where
  run : (clusterOf k' j).run = some u'
  task : u'.task = u.task
  stream : streamAt u' i = some w'
  completed : w'.completed = w.completed + l.length
  inFlight : w'.inFlight = w.inFlight.tail
  scratch : d.space = 0 → k'.tenants = k.tenants ∧ k'.hbm = k.hbm ∧ k'.lines = k.lines ∧
    (endsTransfer d w l.length = false → w'.data = w.data ++ l.map (memGet 0#8 (clusterOf k j).scratch))

/-- Data that touch no dead line reach the running task. -/
theorem deliverData_readReturned {c : Chip} {j : ClusterNo} {u : RunTask} {i : Nat} {d : DescRec} {w : Stream} {l : List Nat} (serial : Nat)
    (hlive : rereadsDead c u.task d l = false) : ∃ u' w', ReadReturned c (deliverData c j false u i d w serial l) j u i d w l u' w' := by
  unfold deliverData
  rw [hlive]
  simp only [Bool.false_eq_true, if_false, Bool.or_false]
  obtain ⟨w', hstream, hcompleted, hrest, hdata⟩ := fillBuffer_stream (noteDead (readBytes c j u.task d l).1 u.task d serial l) u i d w
    (readBytes c j u.task d l).2.1 (readBytes c j u.task d l).2.2
  rw [length_readBytes] at hcompleted hdata
  refine ⟨_, w', congrArg Cluster.run (clusterOf_modCluster_self _ j _), fillBuffer_task .., hstream, hcompleted, hrest, fun hspace => ?_⟩
  obtain ⟨hchip, hbytes⟩ := readBytes_scratch hspace c j u.task l
  rw [noteDead_of_not_onRegions (onRegions_scratch hspace _), hchip]
  exact ⟨rfl, rfl, rfl, hbytes ▸ hdata⟩

/-! ## WRITE_ACCEPT -/

theorem afterWrite_eq (w : Stream) (n : Nat) :
    (afterWrite w n).completed = w.completed + n ∧ (afterWrite w n).inFlight = w.inFlight.tail ∧ (afterWrite w n).data = w.data.drop n := by
  unfold afterWrite
  dsimp only
  split <;> exact ⟨rfl, rfl, rfl⟩

/-- A cluster whose running task's oldest write of a stream has gone to its scratchpad. -/
def scratchWritten (x : Cluster) (u : RunTask) (i : Nat) (d : DescRec) (w : Stream) (n : Nat) (l : List Nat) : Cluster :=
  storeScratch { x with run := some (setStream u i (afterWrite w n)) } d l (w.data.take n)

/-- The oldest write of a stream to the scratchpad waits for nothing. -/
theorem acceptWrite_scratch {c : Chip} {j : ClusterNo} {u : RunTask} {i : Nat} {d : DescRec} {w : Stream} {q : Request} {rest : List Request}
    (hop : d.op = 1 ∨ d.op = 2) (hspace : d.space = 0) (hstream : streamAt u i = some w) (hflight : w.inFlight = q :: rest) :
    ∃ k', acceptWrite c j u i d = some k' ∧ k'.tenants = c.tenants ∧ k'.hbm = c.hbm ∧
      clusterOf k' j = scratchWritten (clusterOf c j) u i d w q.bytes (requestAddresses c u d w w.completed q.bytes) := by
  have hregions := onRegions_scratch hspace u.task
  have hstore : d.op ≠ 0 ∧ d.op ≠ 3 := by omega
  simp only [acceptWrite, hstream, hflight, orderedLines, mayComplete, writesReadOnly, writeBytes, hregions, hstore.1, hstore.2, hspace,
    List.isEmpty_nil, decide_false, Bool.true_or, Bool.not_true, Bool.or_self, Bool.false_and, Bool.false_eq_true, if_false, if_true]
  refine ⟨_, rfl, rfl, rfl, ?_⟩
  rw [clusterOf_modCluster_self, clusterOf_modCluster_self]
  rfl

theorem exec_writeAccept_accepts {s : State} {c : Pos} {j : ClusterNo} {i : Fin 32} {u : RunTask} {d : DescRec} {k' : Chip}
    (hruns : coreRuns (getChip s c) = true) (hrun : (clusterOf (getChip s c) j).run = some u)
    (hdesc : descAt (getChip s c) u.task i.val = some d) (haccept : acceptWrite (getChip s c) j u i.val d = some k') :
    exec (.writeAccept c j i) s = .next (setChip s c (finishTask k' j)) := by
  refine (if_neg (by rw [hruns]; exact Bool.false_ne_true)).trans ?_
  simp only [onStream_run hrun hdesc, haccept]

theorem taskOver_of_active {c : Chip} {r : RunTask} (h : r.active = true) : taskOver c r = false := by
  simp [taskOver, h]

theorem exec_writeAccept_short {s : State} {c : Pos} {j : ClusterNo} {i : Fin 32} {u : RunTask} {m : ShortMove} {rest : List ShortMove}
    (hruns : coreRuns (getChip s c) = true) (hrun : (clusterOf (getChip s c) j).run = some u)
    (hdesc : descAt (getChip s c) u.task i.val = none) (hshorts : u.shorts = m :: rest) (hissued : m.issued = true) :
    exec (.writeAccept c j i) s =
      .next (setChip s c (setCluster (getChip s c) j { clusterOf (getChip s c) j with run := some { u with shorts := rest } })) := by
  refine (if_neg (by rw [hruns]; exact Bool.false_ne_true)).trans ?_
  simp only [onStream_run_none hrun hdesc, acceptShort, hrun, hshorts, hissued, if_true]
  rfl

/-- One byte stored, not added: it stands there, and every other offset reads as before (R328). -/
theorem storeScratch_byte {x : Cluster} {d : DescRec} (hop : d.op ≠ 2) (hwf : Memory.wf 0#8 x.scratch = true) (a : Nat) (b : Byte) :
    Memory.wf 0#8 (storeScratch x d [a] [b]).scratch = true ∧ memGet 0#8 (storeScratch x d [a] [b]).scratch a = b ∧
      ∀ a', a' ≠ a → memGet 0#8 (storeScratch x d [a] [b]).scratch a' = memGet 0#8 x.scratch a' := by
  have hscratch : (storeScratch x d [a] [b]).scratch = memSet 0#8 x.scratch a b := by
    simp only [storeScratch, hop, if_false]
    rfl
  rw [hscratch]
  exact ⟨wf_memSet 0#8 hwf a b, memGet_memSet_self 0#8 hwf a b, fun a' h => memGet_memSet_ne 0#8 _ a a' b h⟩

end Sys2Proof.Machine
end

section
/-!
PROOFS. Rules about work on lines that begins and ends no HBM read (R303 to R308): the slices' miss records, the wake record, the keys and the ports
stay as they are.
-/
namespace Sys2Proof.Machine

/-! ## MissesKept -/

/-- The slices' miss records, the wake record, the keys and the ports are as they were. -/
structure MissesKept (k k' : Chip) : Prop where
  misses : k'.lineMisses = k.lineMisses
  wake : k'.wake = k.wake
  vault : k'.vault = k.vault
  ports : k'.ports = k.ports

theorem MissesKept.refl (k : Chip) : MissesKept k k := ⟨rfl, rfl, rfl, rfl⟩

theorem MissesKept.trans {a b c : Chip} (h : MissesKept a b) (g : MissesKept b c) : MissesKept a c :=
  ⟨g.misses.trans h.misses, g.wake.trans h.wake, g.vault.trans h.vault, g.ports.trans h.ports⟩

theorem SameButCaches.missesKept {k k' : Chip} (h : SameButCaches k k') : MissesKept k k' := by
  obtain ⟨_, _, rfl⟩ := h
  exact ⟨rfl, rfl, rfl, rfl⟩

theorem SameButCaches.hbm {k k' : Chip} (h : SameButCaches k k') : k'.hbm = k.hbm := by
  obtain ⟨_, _, rfl⟩ := h
  rfl

theorem sameButCaches_foldl {α : Type} {f : Chip → α → Chip} (h : ∀ c x, SameButCaches c (f c x)) (l : List α) (c : Chip) :
    SameButCaches c (l.foldl f c) :=
  forEach_rel .refl .trans (fun c x _ => h c x) c

/-! ## Room in a slice -/

theorem missesKept_touch (c : Chip) : MissesKept c (touch c) := ⟨rfl, rfl, rfl, rfl⟩

theorem missesKept_writeBackLine (c : Chip) (line : Nat) : MissesKept c (writeBackLine c line) := by
  unfold writeBackLine
  split
  · exact .refl c
  · split
    · exact ⟨rfl, rfl, rfl, rfl⟩
    · split
      · exact .refl c
      · exact ⟨rfl, rfl, rfl, rfl⟩
    · exact .refl c

theorem missesKept_evictLine (c : Chip) (line : Nat) : MissesKept c (evictLine c line) := by
  refine ((sameButCaches_recallLine c line).missesKept.trans (missesKept_writeBackLine _ line)).trans ?_
  unfold evictLine
  dsimp only
  split
  · split <;> exact ⟨rfl, rfl, rfl, rfl⟩
  · exact ⟨rfl, rfl, rfl, rfl⟩

/-- A dead line's copies dropped from every L1. -/
theorem sameButCaches_dropCopies (c : Chip) (line : Nat) : SameButCaches c ((holdersOf c line).foldl (fun c k => dropL1 c line k) c) :=
  sameButCaches_foldl (fun c k => sameButCaches_dropL1 c line k) _ c

theorem missesKept_dropDead (c : Chip) (line : Nat) : MissesKept c (dropDead c line) :=
  (sameButCaches_dropCopies c line).missesKept.trans ⟨rfl, rfl, rfl, rfl⟩

theorem missesKept_spillAcc (c : Chip) (key : Nat) : MissesKept c (spillAcc c key).1 := by
  unfold spillAcc
  split
  · exact .refl c
  · split
    · dsimp only
      split <;> exact ⟨rfl, rfl, rfl, rfl⟩
    · exact .refl c

theorem missesKept_makeRoom (c : Chip) (t line : Nat) : MissesKept c (makeRoom c t line).1 := by
  unfold makeRoom
  split
  · exact .refl c
  · dsimp only
    split
    · exact missesKept_dropDead c _
    · split
      · exact missesKept_evictLine c _
      · split
        · exact missesKept_spillAcc c _
        · exact .refl c

/-- A line that is absent is filled once a way is had for it. -/
theorem missesKept_fillWay (c : Chip) (t line : Nat) (l : SliceLine) :
    MissesKept c (if (makeRoom c t line).2 then setLine (makeRoom c t line).1 line l else (makeRoom c t line).1) := by
  split
  · exact (missesKept_makeRoom c t line).trans ⟨rfl, rfl, rfl, rfl⟩
  · exact missesKept_makeRoom c t line

theorem missesKept_fillSlice (c : Chip) (t line hint : Nat) : MissesKept c (fillSlice c t line hint) := by
  unfold fillSlice
  refine (missesKept_touch c).trans ?_
  dsimp only
  split
  · split <;> exact ⟨rfl, rfl, rfl, rfl⟩
  · exact missesKept_fillWay (touch c) t line _

theorem missesKept_loadTensor (t tensor shard array hint : Nat) (c : Chip) (ns : List Nat) :
    MissesKept c (loadTensor t tensor shard array hint c ns) := by
  refine forEach_rel .refl .trans (fun c n _ => ?_) c
  refine (missesKept_touch c).trans ?_
  dsimp only
  split
  · exact ⟨rfl, rfl, rfl, rfl⟩
  · exact missesKept_fillWay (touch c) t _ _

/-! ## L1 fills -/

theorem sameButCaches_putL1 (c : Chip) (k : ClusterNo) (line : Nat) (o : L1Line) : SameButCaches c (putL1 c k line o) := by
  unfold putL1
  dsimp only
  split
  · exact sameButCaches_modCluster c k _
  · split
    · exact ((sameButCaches_pullDirty c _ k).trans (sameButCaches_dropL1 _ _ k)).trans (sameButCaches_modCluster _ k _)
    · exact .refl c

theorem sameButCaches_fillL1 (c : Chip) (k : ClusterNo) (line attr : Nat) : SameButCaches c (fillL1 c k line attr) := by
  have hshared (c : Chip) : SameButCaches c (modLine (putL1 c k line (cleanCopy c line)) line (joinDir k)) :=
    (sameButCaches_putL1 c k line _).trans (sameButCaches_modLine _ line _)
  unfold fillL1
  dsimp only
  split
  · exact .refl c
  · split
    · split
      · exact .refl c
      · exact sameButCaches_putL1 c k line _
    · split
      · split
        · split
          · exact sameButCaches_putL1 c k line _
          · exact hshared c
        · exact (sameButCaches_foldl (fun c o => (sameButCaches_pullDirty c line o).trans (sameButCaches_modCluster _ o _))
            (holdersOf c line) c).trans (hshared _)
      · exact .refl c

theorem sameButCaches_fillCluster (line attr : Nat) (c : Chip) (k : ClusterNo) : SameButCaches c (fillCluster line attr c k) := by
  have hdropped : SameButCaches c (if attr = 1 then dropL1 c line k else c) := by
    split
    · exact sameButCaches_dropL1 c line k
    · exact .refl c
  unfold fillCluster
  dsimp only
  split
  · exact (hdropped.trans (sameButCaches_fillL1 _ k line attr)).trans (sameButCaches_modCluster _ k _)
  · exact .refl c

end Sys2Proof.Machine
end

section
/-!
PROOFS. LINE_FILL (R313), DEAD_LINE_INVALIDATE (R310) and ECC_UNCORRECTABLE (R317), and O58: what streams and cache lines do.
-/
namespace Sys2Proof.Machine

/-! ## LINE_FILL -/

/-- A chip whose slice no longer waits for a line's HBM read. -/
def withoutMiss (c : Chip) (line : Nat) : Chip := { c with lineMisses := tabErase c.lineMisses line }

/-- A region's line filled into its slice, dirty bytes of L1 owners first. -/
def filledSlice (c : Chip) (line t : Nat) : Chip := fillSlice ((holdersOf c line).foldl (fun p o => pullDirty p line o) c) t line 0

/-- A filled line sent to the clusters that wait for it. -/
def sentOn (c : Chip) (line attr : Nat) (m : Miss) : Chip := forEach c ((m.waiters.map (·.1)).eraseDups) (fillCluster line attr)

theorem sameButCaches_sentOn (c : Chip) (line attr : Nat) (m : Miss) : SameButCaches c (sentOn c line attr m) :=
  sameButCaches_foldl (sameButCaches_fillCluster line attr) _ c

theorem exec_lineFill_region {s : State} {c : Pos} {line : Nat} {m : Miss} (hruns : coreRuns (getChip s c) = true)
    (hmiss : tabFind (getChip s c).lineMisses line = some m) (hkind : m.kind = .region) :
    ∃ attr, exec (.lineFill c line) s =
      .next (setChip s c (sentOn (filledSlice (withoutMiss (getChip s c) line) line m.tenant) line attr m)) := by
  change ∃ attr, execLineFill c line s = _
  simp only [execLineFill, hmiss, hruns, hkind, Bool.not_true, Bool.false_eq_true, if_false]
  exact ⟨_, rfl⟩

/-- A fill of tensor state or of an accumulator's line (R303). -/
theorem exec_lineFill_state {s : State} {c : Pos} {line : Nat} {m : Miss} (hruns : coreRuns (getChip s c) = true)
    (hmiss : tabFind (getChip s c).lineMisses line = some m) (hkind : m.kind ≠ .region) :
    ∃ k', exec (.lineFill c line) s = .next (setChip s c k') ∧ MissesKept (withoutMiss (getChip s c) line) k' := by
  change ∃ k', execLineFill c line s = _ ∧ _
  simp only [execLineFill, hmiss, hruns, Bool.not_true, Bool.false_eq_true, if_false]
  split
  case h_1 hregion => exact absurd hregion hkind
  case h_2 => exact ⟨_, rfl, missesKept_loadTensor _ _ _ _ _ (withoutMiss (getChip s c) line) _⟩
  case h_3 => exact ⟨_, rfl, .refl _⟩

theorem missesKept_filledSlice (c : Chip) (line t : Nat) : MissesKept c (filledSlice c line t) :=
  (sameButCaches_foldl (fun c o => sameButCaches_pullDirty c line o) _ c).missesKept.trans (missesKept_fillSlice _ t line 0)

/-- A line that no cache holds and that its slice has a way for is allocated with HBM's bytes. -/
theorem filledSlice_absent {c : Chip} {line t : Nat} (hholders : holdersOf c line = []) (habsent : sliceLine c line = none)
    (hway : hasWay c t line = true) :
    filledSlice c line t =
      setLine (touch c) line (newLine (touch c) t .region 0 fullMask 0#128 (hbmLine c line) (c.hbmPoison.contains line)) := by
  have habsent' : sliceLine (touch c) line = none := habsent
  have hroom : makeRoom (touch c) t line = (touch c, true) := if_pos hway
  simp only [filledSlice, hholders, List.foldl_nil, fillSlice, habsent', hroom, if_true]
  rfl

/-- Where no cache holds the line and its slice has a way for it, it stands there as HBM holds it. -/
theorem sentOn_absent {c : Chip} {line : Nat} {m : Miss} (attr : Nat) (hholders : holdersOf c line = []) (habsent : sliceLine c line = none)
    (hway : hasWay c m.tenant line = true) :
    (sentOn (filledSlice c line m.tenant) line attr m).tenants = c.tenants ∧ (sentOn (filledSlice c line m.tenant) line attr m).hbm = c.hbm ∧
      (m.waiters = [] → ∃ l, sliceLine (sentOn (filledSlice c line m.tenant) line attr m) line = some l ∧ l.data = hbmLine c line ∧
        l.valid = fullMask ∧ l.dirty = 0#128) := by
  have hsent := sameButCaches_sentOn (filledSlice c line m.tenant) line attr m
  have hslice := filledSlice_absent hholders habsent hway
  refine ⟨by rw [hsent.tenants, hslice]; rfl, by rw [hsent.hbm, hslice]; rfl, fun hnone => ?_⟩
  rw [sentOn, hnone, hslice]
  exact ⟨_, tabFind_tabSet_self _ _ _, rfl, rfl, rfl⟩

/-! ## DEAD_LINE_INVALIDATE -/

theorem exec_deadLineInvalidate_done {s : State} {c : Pos} {line : Nat} (hruns : coreRuns (getChip s c) = true)
    (hdone : deadDone (getChip s c) line = true) : exec (.deadLineInvalidate c line) s = .next (setChip s c (dropDead (getChip s c) line)) :=
  if_pos (by rw [hruns, hdone]; rfl)

/-- A dead line is gone from its slice without a write-back, and noted as dead. -/
theorem dropDead_drops (c : Chip) (line : Nat) :
    (dropDead c line).hbm = c.hbm ∧ (dropDead c line).tenants = c.tenants ∧ sliceLine (dropDead c line) line = none ∧
      line ∈ (dropDead c line).deadLines ∧ tabFind (dropDead c line).deadDue line = none := by
  have hcopies := sameButCaches_dropCopies c line
  exact ⟨hcopies.hbm, hcopies.tenants, tabFind_tabErase_self _ _,
    List.mem_eraseDups.2 (List.mem_append_right _ List.mem_cons_self), tabFind_tabErase_self _ _⟩

/-! ## ECC_UNCORRECTABLE -/

theorem exec_eccUncorrectable {s : State} {c : Pos} (hup : coreUp (getChip s c) = true) (site : EccSite) :
    exec (.eccUncorrectable c site) s = .next (setChip s c (eccAt (getChip s c) site)) :=
  if_pos (by rw [hup, Bool.true_or])

theorem eccAt_sliceLine {c : Chip} {line : Nat} {l : SliceLine} (h : sliceLine c line = some l) (hkind : l.kind = .region) :
    eccAt c (.sliceLine line) = countDev (setLine c line { l with poison := true }) 144 1 := by
  simp only [eccAt, h, eccSlice, hkind]

theorem eccAt_hbmLine {c : Chip} {line : Nat} (hhbm : c.wake.hbm = .running) (hline : line < 0x30000000)
    (hholder : holderOf c (ownerOf c (128 * line)) line = .place) :
    eccAt c (.hbmLine line) = countDev { c with hbmPoison := withItem c.hbmPoison line } 144 1 := by
  simp only [eccAt, eccHbm, hholder]
  exact if_pos (by simp [hline, hhbm])

theorem eccAt_scratchpad {c : Chip} {j : ClusterNo} {o : Nat} (ho : o < (8 - (clusterOf c j).lastL1) * 524288) :
    eccAt c (.scratchpad j o) = modCluster c j (fun x => { x with scratchPoison := withItem x.scratchPoison (o / 8) }) :=
  if_pos ho

theorem eccAt_accumulator {c : Chip} {t : Tenant} {tensor shard step : Nat} {r : ShardStep}
    (h : tabFind (shardOf (ten c t.val) tensor shard).steps step = some r) :
    eccAt c (.accumulator t tensor shard step) = countDev (poisonAcc c t.val tensor shard step) 144 1 := by
  simp only [eccAt, h]

theorem mem_withItem {α : Type} [DecidableEq α] (l : List α) (a : α) : a ∈ withItem l a := by
  unfold withItem
  split
  case isTrue h => exact List.contains_iff_mem.1 h
  case isFalse => exact List.mem_append_right _ List.mem_cons_self

theorem stepOf_of_tabFind {h : Shard} {step : Nat} {r : ShardStep} (hfind : tabFind h.steps step = some r) : stepOf h step = r := by
  rw [stepOf, tabGet_eq_find, hfind, Option.getD_some]

/-! ## The obligation -/

/-- Settles O58, command by command: what is issued and paid for, what completes, what a fill brings, what a dead line leaves, and where poison
stands. -/
theorem streamsMoveTheirBytes : Obligations.StreamsMoveTheirBytes := by
  unfold Obligations.StreamsMoveTheirBytes
  refine ⟨?load, ?store, ?short, ?read, ?write, fun x d a b hop hwf => storeScratch_byte hop hwf a b, ?fill, ?dead, ?eccSlice, ?eccHbm,
    ?eccScratch, ?eccAcc⟩
  case load =>
    rintro s c j i _ _ u d w p n _ rfl rfl hruns hgoes hrun hdesc hload hback hstalled hstream hnext hsome hbuffer rfl hfault htokens hfree
    have hissue := issueStream_eq (if_pos hload) hstream hnext hsome hback hstalled (fun _ => hbuffer) hfault
    obtain ⟨k', hat, htenants, hhbm, u', w', hcluster, hstream', hissued, hcompleted, hflight⟩ := issueAt_issues (i := i.val) (p := p) (n := n)
      (w := w) (d := d) (.inl hload) (by simpa [requestCost, tokensOf, hload, readCost] using htokens)
      (by simpa [missedBy, hload] using hfree)
    refine ⟨_, u', w', exec_streamRequestIssue_issues hruns hgoes hrun hdesc (hissue.trans hat), onlyChip_setChip _ _ _, ?_⟩
    rw [getChip_setChip_self, hcluster]
    refine ⟨htenants, hhbm, rfl, hstream', hissued, hcompleted, hflight, ?_⟩
    simp [spend, requestCost, hload, readCost]
  case store =>
    rintro s c j i _ _ u _ d w p n _ rfl rfl hruns hgoes hrun hdesc hstore hback hstalled rfl hstream hnext hsome rfl hfault htokens hfree hplain
    have hsame := sameStage_takeBuffer (getChip s c) (clusterOf (getChip s c) j) u i.val d
    have hnotLoad : d.op ≠ 0 := by omega
    rw [← hsame.task] at hstalled hfault hplain
    have hissue := issueStream_eq (if_neg hnotLoad) hstream hnext hsome ((hsame.keepsBack_eq _).trans hback) hstalled
      (fun hload => absurd hload hnotLoad) hfault
    obtain ⟨k', hat, htenants, hhbm, u', w', hcluster, hstream', hissued, hcompleted, hflight⟩ := issueAt_issues (i := i.val) (p := p) (n := n)
      (w := w) (d := d) (.inr hplain) (by simpa [requestCost, tokensOf, hstore] using htokens) (by simpa [missedBy, hstore] using hfree)
    refine ⟨_, u', w', exec_streamRequestIssue_issues hruns hgoes hrun hdesc (hissue.trans hat), onlyChip_setChip _ _ _, ?_⟩
    rw [getChip_setChip_self, hcluster]
    refine ⟨htenants, hhbm, rfl, hstream', hissued, hcompleted, hflight, ?_⟩
    simp [spend, requestCost, hstore]
  case short =>
    rintro s c j i _ _ u m rest rfl rfl hruns hrun hdesc hnext hshorts
    exact ⟨fun hgoes hwaits hslot htokens => exec_streamRequestIssue_short hruns hgoes hrun hdesc hnext hshorts hwaits hslot htokens,
      fun hissued => exec_writeAccept_short hruns hrun hdesc hshorts hissued⟩
  case read =>
    rintro s c j i _ _ u d w q rest l rfl rfl hruns hrun hdesc hload hstream hflight hl hfilled hqueue horder hlive
    have hexec := exec_readDataReturn_delivers hruns hrun hdesc hload hstream hflight hl hfilled hqueue horder hlive
    obtain ⟨u', w', hrun', htask, hstream', hcompleted, hrest, hscratch⟩ := deliverData_readReturned (j := j) (i := i.val) (w := w) q.serial hlive
    refine ⟨_, u', w', hexec, onlyChip_setChip _ _ _, ?_⟩
    rw [getChip_setChip_self]
    exact ⟨hrun', htask, hstream', hcompleted, by rw [hrest, hflight, List.tail_cons], hscratch⟩
  case write =>
    rintro s c j i _ _ u d w q rest rfl rfl hruns hrun hactive hdesc hop hspace hstream hflight
    obtain ⟨k', haccept, htenants, hhbm, hcluster⟩ := acceptWrite_scratch (c := getChip s c) (j := j) hop hspace hstream hflight
    have hrun' : (clusterOf k' j).run = some (setStream u i.val (afterWrite w q.bytes)) := by rw [hcluster]; rfl
    obtain ⟨hcompleted, hrest, hdata⟩ := afterWrite_eq w q.bytes
    refine ⟨_, setStream u i.val (afterWrite w q.bytes), afterWrite w q.bytes, exec_writeAccept_accepts hruns hrun hdesc haccept,
      onlyChip_setChip _ _ _, ?_⟩
    rw [getChip_setChip_self, finishTask_goesOn hrun' (taskOver_of_active hactive)]
    exact ⟨htenants, hhbm, hrun', tabFind_tabSet_self _ _ _, hcompleted, by rw [hrest, hflight, List.tail_cons], hdata, by rw [hcluster]; rfl⟩
  case fill =>
    intro s c line m hruns hmiss
    have herased : tabFind (withoutMiss (getChip s c) line).lineMisses line = none := tabFind_tabErase_self _ _
    by_cases hkind : m.kind = .region
    · obtain ⟨attr, hexec⟩ := exec_lineFill_region hruns hmiss hkind
      obtain ⟨hmisses, hwake, hvault, hports⟩ := (missesKept_filledSlice (withoutMiss (getChip s c) line) line m.tenant).trans
        (sameButCaches_sentOn _ line attr m).missesKept
      refine ⟨_, hexec, onlyChip_setChip _ _ _, ?_⟩
      rw [getChip_setChip_self]
      exact ⟨by rw [hmisses]; exact herased, hwake, hvault, hports,
        fun _ hholders habsent hway => sentOn_absent (c := withoutMiss (getChip s c) line) attr hholders habsent hway⟩
    · obtain ⟨k', hexec, hmisses, hwake, hvault, hports⟩ := exec_lineFill_state hruns hmiss hkind
      refine ⟨_, hexec, onlyChip_setChip _ _ _, ?_⟩
      rw [getChip_setChip_self]
      exact ⟨by rw [hmisses]; exact herased, hwake, hvault, hports, fun h => absurd h hkind⟩
  case dead =>
    intro s c line hruns hdone
    refine ⟨_, exec_deadLineInvalidate_done hruns hdone, onlyChip_setChip _ _ _, ?_⟩
    rw [getChip_setChip_self]
    exact dropDead_drops _ line
  case eccSlice =>
    intro s c line l hup hline hkind
    rw [exec_eccUncorrectable hup, eccAt_sliceLine hline hkind]
  case eccHbm =>
    intro s c line hup hhbm hline hholder
    refine ⟨_, exec_eccUncorrectable hup _, onlyChip_setChip _ _ _, ?_⟩
    rw [getChip_setChip_self, eccAt_hbmLine hhbm hline hholder]
    exact ⟨mem_withItem _ _, rfl, rfl, counters_countDev_self _ _ _⟩
  case eccScratch =>
    intro s c j o hup ho
    refine ⟨_, exec_eccUncorrectable hup _, onlyChip_setChip _ _ _, ?_⟩
    rw [getChip_setChip_self, eccAt_scratchpad ho, clusterOf_modCluster_self]
    exact ⟨mem_withItem _ _, rfl, rfl⟩
  case eccAcc =>
    intro s c t tensor shard step r hup hfind
    refine ⟨_, exec_eccUncorrectable hup _, onlyChip_setChip _ _ _, ?_⟩
    rw [getChip_setChip_self, eccAt_accumulator hfind]
    refine ⟨(stepOf_modTen_modShardStep _ _ _ _ _ _).trans ?_, counters_countDev_self _ _ _⟩
    rw [stepOf_of_tabFind hfind]

end Sys2Proof.Machine
end

section
/-!
PROOFS. O1 (FrontCommandRuns) and O34 (GlitchesWipeOneChip): the front of the queue, and wipe sources that reach one chip (Table 21-3).
-/
namespace Sys2Proof.Machine

/-- Settles O1. -/
theorem frontCommandRuns : Obligations.FrontCommandRuns := by
  unfold Obligations.FrontCommandRuns
  intro s c rest h
  rw [step, h]

/-- A wipe source at one chip with power reaches that chip and no other. -/
theorem wipeChip_reaches {s : State} {c : Pos} (hpower : (getChip s c).wake.season ≠ .off) (code : Nat) :
    OtherChips c s (wipeChip s c code) ∧ WipeReaches code (getChip s c) (getChip (wipeChip s c code) c) := by
  refine ⟨⟨(wipeChip_keeps s c code).1, fun _ hp => getChip_wipeChip_ne s hp code⟩, ?_⟩
  rw [getChip_wipeChip_self]
  exact wipeReaches_startWipe code hpower

/-- The clocks that Table 21-3 lists for a chip run: the crystal always, the core clock with the core, the reference as the tray has it. -/
theorem clockRuns_iff (s : State) (c : Pos) (k : GlitchClock) :
    clockRuns s c k = true ↔
      k = .crystal ∨ (k = .core ∧ coreUp (getChip s c) = true) ∨ (k = .reference ∧ s.tray.refClock = true) := by
  cases k <;> simp [clockRuns]

/-- Settles O34. -/
theorem glitchesWipeOneChip : Obligations.GlitchesWipeOneChip := by
  unfold Obligations.GlitchesWipeOneChip
  refine ⟨fun s c r hpower hrail => ?_, fun s c r hr hdown => if_neg (by simp [hr, hdown]), fun s c k hpower hclock => ?_,
    fun s c hdown => if_neg (by simp [clockRuns, hdown]), fun s c hstill => if_neg (by simp [clockRuns, hstill]), fun s c hpower => ?_⟩
  · exact ⟨_, if_pos (by simpa using hrail), wipeChip_reaches hpower 0x72⟩
  · exact ⟨_, if_pos ((clockRuns_iff s c k).2 hclock), wipeChip_reaches hpower 0x73⟩
  · exact ⟨_, rfl, wipeChip_reaches hpower 0x75⟩

end Sys2Proof.Machine
end

section
/-!
PROOFS. O39 (PortsTrainStepByStep): the steps of Table 8-7 up to HELLO.
-/
namespace Sys2Proof.Machine

theorem sendUnit_step (x : Port) (u : BitVec 320) : (sendUnit x u).step = x.step := by
  unfold sendUnit; split <;> rfl

theorem sendUnit_nonce (x : Port) (u : BitVec 320) : (sendUnit x u).nonce = x.nonce := by
  unfold sendUnit; split <;> rfl

/-- A unit leaves by the MAC frame being filled in Ethernet mode, at once in every other (R156). -/
theorem sendUnit_ethernet {x : Port} (h : x.mode = .ethernet) (u : BitVec 320) : sendUnit x u = { x with ethQueue := x.ethQueue ++ [u] } :=
  if_pos h

theorem sendUnit_native {x : Port} (h : x.mode ≠ .ethernet) (u : BitVec 320) : sendUnit x u = { x with wire := x.wire ++ [u] } :=
  if_neg h

/-- The NONCE that the next training attempt of a chip takes. -/
def nextNonce (c : Chip) : BitVec 32 := Config.nonce (posOf c) c.nonces

/-- A port as it stands in step 4, before its HELLO leaves. -/
def inHello (c : Chip) (p : PortNo) : Port := { portOf c p with step := .hello, nonce := nextNonce c }

/-- The chip with the port in step 4, before its HELLO leaves. -/
def withHello (c : Chip) (p : PortNo) : Chip := { setPort c p (inHello c p) with nonces := c.nonces + 1 }

theorem portOf_withHello (c : Chip) (p : PortNo) : portOf (withHello c p) p = inHello c p := portOf_setPort_self c p _

/-- What HELLO says of a port does not turn on the step and the NONCE that the port's record holds. -/
theorem helloOf_withHello (c : Chip) (p : PortNo) (ctype : Nat) (n : BitVec 32) : helloOf (withHello c p) p ctype n = helloOf c p ctype n := by
  unfold helloOf
  rw [portOf_withHello]
  rfl

theorem enterHello_eq (c : Chip) (p : PortNo) :
    enterHello c p = setPort (withHello c p) p (sendUnit (inHello c p) (controlUnit (helloOf c p 0x03 (nextNonce c)))) := by
  have hsend : enterHello c p = setPort (withHello c p) p
      (sendUnit (portOf (withHello c p) p) (controlUnit (helloOf (withHello c p) p 0x03 (portOf (withHello c p) p).nonce))) := rfl
  rw [hsend, portOf_withHello, helloOf_withHello]
  rfl

theorem portOf_enterHello (c : Chip) (p : PortNo) :
    portOf (enterHello c p) p = sendUnit (inHello c p) (controlUnit (helloOf c p 0x03 (nextNonce c))) := by
  rw [enterHello_eq, portOf_setPort_self]

theorem linkFrame_enterHello (c : Chip) (p : PortNo) : LinkFrame p c (enterHello c p) := by
  rw [enterHello_eq]
  refine ⟨rfl, rfl, rfl, rfl, rfl, rfl, rfl, fun q hq => ?_⟩
  rw [portOf_setPort_ne _ _ _ _ hq]
  exact portOf_setPort_ne c p q _ hq

/-- Settles O39. -/
theorem portsTrainStepByStep : Obligations.PortsTrainStepByStep := by
  unfold Obligations.PortsTrainStepByStep
  refine ⟨fun s c p h => if_pos h, fun s c p h => if_pos h, fun s c p h => ?_, fun s c p hstep hecho => if_pos (by simp [hstep, hecho])⟩
  refine ⟨_, if_pos h, onlyChip_modChip s c _, ?_⟩
  rw [getChip_modChip_self, portOf_enterHello, sendUnit_step, sendUnit_nonce]
  refine ⟨linkFrame_enterHello _ p, rfl, rfl, fun hnative => ?_, fun hether => ?_⟩
  · rw [sendUnit_native (by exact hnative)]; rfl
  · rw [sendUnit_ethernet (by exact hether)]; rfl

end Sys2Proof.Machine
end

section
/-!
PROOFS. O24 (SpringClearsFromOff): steps 1 to 4 of Tables 4-4 and 4-5, from the PLL lock to the key draws or the cold check (R74).
-/
namespace Sys2Proof.Machine

/-- One chip put back, and the fans set anew: the keeper changes in the fans' duty alone. -/
theorem onlyFans_refreshFans_setChip (s : State) (c : Pos) (k : Chip) :
    OtherChips c s (refreshFans (setChip s c k)) ∧ OnlyFans s (refreshFans (setChip s c k)) ∧
      getChip (refreshFans (setChip s c k)) c = k := by
  refine ⟨⟨rfl, fun p hp => ?_⟩, ⟨rfl, dutyRule_refreshFans rfl rfl⟩, ?_⟩
  · rw [getChip_refreshFans, getChip_setChip_ne s c p k hp]
  · rw [getChip_refreshFans, getChip_setChip_self]

theorem exec_corePllLocked {s : State} {c : Pos} (h : atPhase (getChip s c) .pll = true) (x : Temps) :
    exec (.corePllLocked c x) s = .next (refreshFans (setChip s c
      (if (getChip s c).wake.fromOff then setPhase (modWake (getChip s c) (fun w => { w with temps := x })) .clear
       else coldCheck (getChip s c) x))) := if_pos h

theorem exec_sramClearDone {s : State} {c : Pos} (h : atPhase (getChip s c) .clear = true) :
    exec (.sramClearDone c) s = .next (setChip s c
      (setPhase (clearSram (getChip s c)) (if (getChip s c).vault.lifeCycle = .blank then .blank else .keys))) := if_pos h

/-- The cold check passes on to step 5 where nothing is cold (R74). -/
theorem coldCheck_warm (c : Chip) {x : Temps} (h : isCold x = false) :
    coldCheck c x = { c with wake := { c.wake with temps := x, phase := .hbm } } := by
  rw [coldCheck, h]
  rfl

/-- No cluster holds a byte, a line or a task once SRAM is clear. -/
theorem tabFind_clearSram {c : Chip} {q : ClusterNo} {x : Cluster} (h : tabFind (clearSram c).clusters q = some x) :
    x.scratch = [] ∧ x.l1 = [] ∧ x.queue = [] ∧ x.run = none ∧ x.next = none := by
  rw [clearSram, tabFind_tabMap, Option.map_eq_some_iff] at h
  obtain ⟨y, -, rfl⟩ := h
  exact ⟨rfl, rfl, rfl, rfl, rfl⟩

/-- Settles O24. -/
theorem springClearsFromOff : Obligations.SpringClearsFromOff := by
  unfold Obligations.SpringClearsFromOff
  refine ⟨fun s c x hseason hphase hoff => ?_, fun s c x hseason hphase hwinter hwarm => ?_, fun s c hseason hphase => ?_⟩
  · refine ⟨_, exec_corePllLocked ((atPhase_iff _ _).2 ⟨hseason, hphase⟩) x, ?_⟩
    rw [hoff, if_pos rfl]
    exact onlyFans_refreshFans_setChip s c _
  · refine ⟨_, exec_corePllLocked ((atPhase_iff _ _).2 ⟨hseason, hphase⟩) x, ?_⟩
    rw [hwinter, if_neg Bool.false_ne_true, coldCheck_warm _ hwarm]
    exact onlyFans_refreshFans_setChip s c _
  · refine ⟨_, exec_sramClearDone ((atPhase_iff _ _).2 ⟨hseason, hphase⟩), onlyChip_setChip s c _, ?_⟩
    rw [getChip_setChip_self]
    exact ⟨rfl, rfl, rfl, fun _ _ h => tabFind_clearSram h, rfl, rfl, rfl⟩

end Sys2Proof.Machine
end

section
/-!
PROOFS. O2 (CommandsLeaveTheQueue): no command writes the queue of waiting commands.
-/
namespace Sys2Proof.Machine

/-! ## What leaves the queue as it is -/

/-- The queue holds what it held. -/
def SameQueue (s t : State) : Prop := t.pending = s.pending

theorem SameQueue.refl (s : State) : SameQueue s s := rfl

theorem SameQueue.trans {s t u : State} (h : SameQueue s t) (g : SameQueue t u) : SameQueue s u := Eq.trans g h

theorem sameQueue_ite {p : Prop} [Decidable p] {s t u : State} (ht : SameQueue s t) (hu : SameQueue s u) :
    SameQueue s (if p then t else u) := by
  split
  · exact ht
  · exact hu

theorem sameQueue_foldl {α : Type} {f : State → α → State} (h : ∀ s x, SameQueue s (f s x)) (l : List α) (s : State) :
    SameQueue s (l.foldl f s) := by
  induction l generalizing s with
  | nil => exact .refl s
  | cons x l ih => exact (h s x).trans (ih _)

theorem sameQueue_of_onlyChip {c : Pos} {s t : State} (h : OnlyChip c s t) : SameQueue s t := by
  obtain ⟨hpending, -, -⟩ := h
  exact hpending

theorem sameQueue_setChip (s : State) (c : Pos) (k : Chip) : SameQueue s (setChip s c k) := rfl

theorem sameQueue_modTray (s : State) (f : Tray → Tray) : SameQueue s (modTray s f) := rfl

theorem sameQueue_wipeChip (s : State) (p : Pos) (code : Nat) : SameQueue s (wipeChip s p code) := by
  obtain ⟨hpending, -, -, -⟩ := wipeChip_keeps s p code
  exact hpending

theorem sameQueue_wipeAll (s : State) (code : Nat) : SameQueue s (wipeAll s code) := by
  obtain ⟨hpending, -, -, -⟩ := wipeAll_keeps s code
  exact hpending

/-- Whatever next state an outcome is, its queue holds what it held. -/
def KeepsQueue (s : State) (o : Host.Outcome State Fault Refusal) : Prop := ∀ t, o = .next t → SameQueue s t

theorem keepsQueue_next {s t : State} (h : SameQueue s t) : KeepsQueue s (.next t) := fun _ hu => by
  cases hu
  exact h

theorem keepsQueue_fault (s : State) (r : Fault) : KeepsQueue s (.fault r) := fun _ h => by cases h

theorem keepsQueue_ite {p : Prop} [Decidable p] {s : State} {a b : Host.Outcome State Fault Refusal} (ha : KeepsQueue s a)
    (hb : KeepsQueue s b) : KeepsQueue s (if p then a else b) := by
  split
  · exact ha
  · exact hb

/-- A command that acts under one condition and else answers the state as it was. -/
theorem keepsQueue_guard {p : Prop} [Decidable p] {s t : State} (h : SameQueue s t) : KeepsQueue s (if p then .next t else .next s) :=
  keepsQueue_ite (keepsQueue_next h) (keepsQueue_next rfl)

/-! ## The keeper's own work -/

theorem sameQueue_takeCode (s : State) (code : BitVec 2) : SameQueue s (takeCode s code) := sameQueue_ite rfl (sameQueue_ite rfl rfl)

theorem sameQueue_springForward (s : State) : SameQueue s (springForward s) := by
  refine sameQueue_ite (SameQueue.trans ?_ (sameQueue_foldl sameQueue_takeCode _ _)) rfl
  rfl

theorem sameQueue_afterRail (s : State) (r : Rail) : SameQueue s (afterRail s r) := by
  refine sameQueue_ite rfl ?_
  cases r with
  | vbus | vaon | vret | vpp | vddh | vddq => rfl
  | vkeep | vcore | vsram | vser | vserh => exact sameQueue_ite rfl rfl
  | vcage => exact SameQueue.trans rfl (sameQueue_springForward _)

/-! ## The debug port -/

theorem sameQueue_chipInstr {run : State → Pos → Chip → State} {s : State} (h : ∀ p c, SameQueue s (run s p c)) (ok : Chip → Bool)
    (op : BitVec 8) (p : Pos) : SameQueue s (chipInstr ok op run s p) :=
  sameQueue_ite rfl (sameQueue_ite (h p _) rfl)

theorem sameQueue_tapInstr {run : State → Pos → Chip → State} {s : State} (h : ∀ p c, SameQueue s (run s p c)) (ok : Chip → Bool)
    (op : BitVec 8) (d : TapDevice) : SameQueue s (tapInstr ok op run d s) := by
  cases d with
  | keeper => exact sameQueue_ite rfl rfl
  | chip p => exact sameQueue_chipInstr h ok op p

/-- An instruction that puts one chip back. -/
theorem sameQueue_tapInstr_setChip (f : State → Pos → Chip → Chip) (ok : Chip → Bool) (op : BitVec 8) (d : TapDevice) (s : State) :
    SameQueue s (tapInstr ok op (fun s p c => setChip s p (f s p c)) d s) :=
  sameQueue_tapInstr (run := fun s p c => setChip s p (f s p c)) (fun _ _ => rfl) ok op d

/-! ## Commands that act by cases -/

theorem sameQueue_settleCage (s : State) (g : Fin 40) : SameQueue s (settleCage s g) := by
  rw [settleCage_eq]
  exact sameQueue_of_onlyChip (onlyChip_foldl (onlyChip_settlePort _) _ s)

/-- A bank is failed, or accepted on the chips one after the other. -/
theorem keepsQueue_bankCheckReport (s : State) : KeepsQueue s (exec .bankCheckReport s) := by
  have haccept : ∀ s p, SameQueue s (acceptImage s p) := fun s p => sameQueue_of_onlyChip (onlyChip_acceptImage s p)
  have haccepted : SameQueue s (acceptImage (acceptImage (acceptImage (acceptImage s 0) 1) 2) 3) :=
    (((haccept s 0).trans (haccept _ 1)).trans (haccept _ 2)).trans (haccept _ 3)
  exact keepsQueue_ite (keepsQueue_ite (keepsQueue_next (sameQueue_ite rfl rfl)) (keepsQueue_guard (haccepted.trans (sameQueue_modTray _ _))))
    (keepsQueue_next rfl)

theorem keepsQueue_macFrameReceive (c : Pos) (p : PortNo) (m : MacFrame) (s : State) :
    KeepsQueue s (exec (.macFrameReceive c p m) s) := by
  refine keepsQueue_ite (keepsQueue_ite (keepsQueue_next ?_) (keepsQueue_next rfl)) (keepsQueue_next rfl)
  exact sameQueue_of_onlyChip (onlyChip_trans (onlyChip_modChip s c _) (onlyChip_foldl (fun s u => onlyChip_rxUnit s c p u _) _ _))

theorem keepsQueue_ethernetFrameSend (c : Pos) (p : PortNo) (s : State) : KeepsQueue s (exec (.ethernetFrameSend c p) s) := by
  change KeepsQueue s (execEthernetFrameSend c p s)
  unfold execEthernetFrameSend
  dsimp only
  split <;> exact keepsQueue_next rfl

/-- VC0's head frame goes first; VC1 and VC2 each send a frame or none. -/
theorem keepsQueue_frameSend (c : Pos) (p : PortNo) (s : State) : KeepsQueue s (exec (.frameSend c p) s) := by
  refine keepsQueue_ite (keepsQueue_next rfl) ?_
  have hlow : ∀ a b : Option Chip, SameQueue s (match a with
      | some k => setChip s c k
      | none => match b with | some k => setChip s c k | none => s) := fun a b => by
    cases a <;> cases b <;> rfl
  split
  · exact keepsQueue_ite (keepsQueue_next rfl) (keepsQueue_next (hlow _ _))
  · exact keepsQueue_next (hlow _ _)

theorem keepsQueue_ingressDispatch (c : Pos) (p : PortNo) (vc : BitVec 2) (s : State) :
    KeepsQueue s (exec (.ingressDispatch c p vc) s) := by
  refine keepsQueue_ite (keepsQueue_next rfl) (keepsQueue_ite ?_ ?_)
  · split <;> exact keepsQueue_next rfl
  · dsimp only
    split
    · exact keepsQueue_next rfl
    · split <;> exact keepsQueue_next rfl

theorem keepsQueue_grad (c : Pos) (f : RxFrame) (s : State) : KeepsQueue s (exec (.grad c f) s) :=
  keepsQueue_next (sameQueue_of_onlyChip (onlyChip_keepInPool (onlyChip_hostCommand _ _ c f s) f))

theorem keepsQueue_reduce (c : Pos) (f : RxFrame) (s : State) : KeepsQueue s (exec (.reduce c f) s) :=
  keepsQueue_next (sameQueue_of_onlyChip (onlyChip_keepInPool (onlyChip_chipCommand _ _ c f s) f))

theorem keepsQueue_unknownFrameType (c : Pos) (f : RxFrame) (s : State) : KeepsQueue s (exec (.unknownFrameType c f) s) := by
  refine keepsQueue_ite ?_ (keepsQueue_next rfl)
  split
  · split <;> exact keepsQueue_next rfl
  · exact keepsQueue_next rfl

theorem keepsQueue_shardClose (c : Pos) (r : ShardStepRef) (s : State) : KeepsQueue s (exec (.shardClose c r) s) := by
  change KeepsQueue s (execShardClose c r s)
  unfold execShardClose
  dsimp only
  split
  · exact keepsQueue_next rfl
  · refine keepsQueue_ite (keepsQueue_next rfl) (keepsQueue_ite (keepsQueue_next rfl) (keepsQueue_ite (keepsQueue_next rfl)
      (keepsQueue_ite (keepsQueue_next rfl) ?_)))
    split <;> exact keepsQueue_next rfl

theorem keepsQueue_stageEnd (c : Pos) (k : ClusterNo) (s : State) : KeepsQueue s (exec (.stageEnd c k) s) := by
  refine keepsQueue_ite (keepsQueue_next rfl) ?_
  split
  · refine keepsQueue_ite (keepsQueue_guard rfl) ?_
    split
    · exact keepsQueue_ite (keepsQueue_guard rfl) (keepsQueue_next rfl)
    · exact keepsQueue_next rfl
  · exact keepsQueue_next rfl

theorem keepsQueue_stageBoundExceeded (c : Pos) (k : ClusterNo) (s : State) : KeepsQueue s (exec (.stageBoundExceeded c k) s) := by
  refine keepsQueue_ite (keepsQueue_next rfl) ?_
  split
  · exact keepsQueue_ite (keepsQueue_next rfl) (keepsQueue_guard rfl)
  · exact keepsQueue_next rfl

theorem keepsQueue_lineFill (c : Pos) (line : Nat) (s : State) : KeepsQueue s (exec (.lineFill c line) s) := by
  change KeepsQueue s (execLineFill c line s)
  unfold execLineFill
  dsimp only
  split
  · exact keepsQueue_next rfl
  · refine keepsQueue_ite (keepsQueue_next rfl) ?_
    split <;> exact keepsQueue_next rfl

/-! ## The commands -/

theorem exec_keepsQueue (i : Instr) (s : State) : KeepsQueue s (exec i s) := by
  cases i with
  | trayPowerLoss | tenrstRelease _ | fanFailure _ _ | hello _ _ _ | helloAck _ _ _ _ | credit _ _ _ | tamperRelease | lidClose
  | flashRelease =>
    exact keepsQueue_next rfl
  | tenrstAssert _ | tenrstInWinter _ => exact keepsQueue_next (sameQueue_ite rfl rfl)
  | feedPresent f | feedAbsent f => cases f <;> exact keepsQueue_ite (keepsQueue_next rfl) (keepsQueue_next rfl)
  | trayStart _ _ | seasonPinChange _ | corePllLocked _ _ | sramClearDone _ | keyDrawDone _ _ | coldStartEnd _ _ | heatingTimeout _
  | flashGrantWaitTimeout | imageBankReadDone _ | imageOutcomeTimeout _ | autumnNoStepInFlight _ | autumnWritebackDone _
  | railOutOfBand _ | railFaultRecovery | strapResense _ | tenantResetEraseDone _ _ | tenantResetComplete _ _ | deferredTenantDown _ _
  | flashRequest | flashGrantAfterRead | thermistorReading _ _ | hotThreshold _ _ | governorStepDown _ _ | governorStepUp _ _
  | lanesLocked _ _ | pcsLocked _ _ | unitsDelineated _ _ | helloTimer _ _ | trainingTimeout _ _ | unknownControlFlit _ _ _
  | creditSend _ _ _ | portDown _ _ | torusDirectionLost _ _ | commitBarrier _ _ _ | verdictTimeout _ _ _ | gatherTimeout _ _ _
  | taskStart _ _ | stageStart _ _ | deadLineInvalidate _ _ | eccUncorrectable _ _ | stepCyclesExpire _ _ | winterReportTimeout =>
    exact keepsQueue_guard rfl
  | thermalShutdown _ _ | meshPeerLost _ _ => exact keepsQueue_guard (sameQueue_ite rfl rfl)
  | springReceived _ | winterReached _ =>
    exact keepsQueue_ite (keepsQueue_ite (keepsQueue_next rfl) (keepsQueue_next rfl)) (keepsQueue_next rfl)
  | imageHeaderRead =>
    exact keepsQueue_ite (keepsQueue_ite (keepsQueue_next rfl) (keepsQueue_next (sameQueue_ite rfl rfl))) (keepsQueue_next rfl)
  | hbmTrainingDone _ _ =>
    exact keepsQueue_ite (keepsQueue_ite (keepsQueue_guard (sameQueue_ite rfl rfl)) (keepsQueue_next rfl)) (keepsQueue_next rfl)
  | bankCheckReport => exact keepsQueue_bankCheckReport s
  | railInRegulation r =>
    exact keepsQueue_guard ((sameQueue_modTray s _).trans (sameQueue_afterRail _ r))
  | seasonForward =>
    exact keepsQueue_guard ((sameQueue_modTray s _).trans (sameQueue_takeCode _ _))
  | strapSetDelivery _ _ => exact keepsQueue_guard (SameQueue.trans (by rfl) (sameQueue_springForward _))
  | tamperAssert =>
    exact keepsQueue_ite (keepsQueue_next rfl) (keepsQueue_next ((sameQueue_modTray s _).trans (sameQueue_wipeAll _ _)))
  | lidOpen =>
    exact keepsQueue_ite (keepsQueue_next ((sameQueue_modTray s _).trans (sameQueue_wipeAll _ _))) (keepsQueue_next (sameQueue_modTray s _))
  | voltageGlitch c _ | clockGlitch c _ | keyDrawTimeout c => exact keepsQueue_guard (sameQueue_wipeChip s c _)
  | vaultError c => exact keepsQueue_next (sameQueue_wipeChip s c _)
  | wipeClearDone _ | retentionSwitchTimer _ | vc0CreditTimeout _ _ | frameForward _ =>
    dsimp only [exec, execWipeClearDone, execRetentionSwitchTimer, execVc0CreditTimeout, execFrameForward]
    split
    · exact keepsQueue_ite (keepsQueue_next rfl) (keepsQueue_next rfl)
    · exact keepsQueue_next rfl
  | cageModuleInsert g _ =>
    refine keepsQueue_ite (keepsQueue_next (SameQueue.trans (by rfl) (sameQueue_settleCage _ g))) (keepsQueue_next (by rfl))
  | dataFlit c p _ => exact keepsQueue_guard (sameQueue_of_onlyChip (onlyChip_rxUnit s c p _ _))
  | nak c p content =>
    exact keepsQueue_next (sameQueue_of_onlyChip (onlyChip_trans (onlyChip_modChip s c _) (onlyChip_rxNak _ c p content)))
  | wireUnitCrcFail c p => exact keepsQueue_next (sameQueue_of_onlyChip (onlyChip_rxBadUnit s c p))
  | replayTimeout c p => exact keepsQueue_guard (sameQueue_of_onlyChip (onlyChip_resendFrom s c p _))
  | macFrameReceive c p m => exact keepsQueue_macFrameReceive c p m s
  | retrainTimer _ _ =>
    refine keepsQueue_ite ?_ (keepsQueue_next rfl)
    split <;> exact keepsQueue_next rfl
  | ethernetFrameSend c p => exact keepsQueue_ethernetFrameSend c p s
  | frameSend c p => exact keepsQueue_frameSend c p s
  | ingressDispatch c p vc => exact keepsQueue_ingressDispatch c p vc s
  | grad c f => exact keepsQueue_grad c f s
  | reduce c f => exact keepsQueue_reduce c f s
  | ledgerCollisionRetry c f collides =>
    exact keepsQueue_ite (keepsQueue_ite (keepsQueue_reduce c f s) (keepsQueue_grad c f s))
      (keepsQueue_ite (keepsQueue_ite (keepsQueue_next rfl) (keepsQueue_next rfl)) (keepsQueue_next rfl))
  | init c f | pull c f | stashPut c f | stashGet c f | maskGet c f | scaleGet c f | statGet c f | index c f =>
    exact keepsQueue_next (sameQueue_of_onlyChip (onlyChip_hostCommand _ _ c f s))
  | shardVerdict c f | verdict c f | tenantDown c f | syncOp c f | syncAck c f =>
    exact keepsQueue_next (sameQueue_of_onlyChip (onlyChip_chipCommand _ _ c f s))
  | unknownFrameType c f => exact keepsQueue_unknownFrameType c f s
  | shardDeadline _ _ | updateStageEnd _ _ =>
    dsimp only [exec, execShardDeadline, execUpdateStageEnd]
    split
    · exact keepsQueue_next rfl
    · exact keepsQueue_guard rfl
  | shardClose c r => exact keepsQueue_shardClose c r s
  | stageEnd c k => exact keepsQueue_stageEnd c k s
  | stageBoundExceeded c k => exact keepsQueue_stageBoundExceeded c k s
  | streamRequestIssue _ _ _ =>
    refine keepsQueue_ite (keepsQueue_next rfl) ?_
    split <;> exact keepsQueue_next rfl
  | readDataReturn _ _ _ | writeAccept _ _ _ =>
    refine keepsQueue_ite (keepsQueue_next rfl) ?_
    split
    · exact keepsQueue_next rfl
    · split <;> exact keepsQueue_next rfl
  | lineFill c line => exact keepsQueue_lineFill c line s
  | tapReset =>
    refine keepsQueue_next (sameQueue_foldl (fun s d => ?_) _ s)
    cases d <;> exact sameQueue_ite rfl rfl
  | bypass d _ => exact keepsQueue_ite (keepsQueue_next rfl) (keepsQueue_next (sameQueue_tapInstr_setChip _ _ _ d s))
  | idcode d | samplePreload d _ =>
    cases d with
    | keeper => exact keepsQueue_next (sameQueue_ite rfl rfl)
    | chip p => exact keepsQueue_next (sameQueue_chipInstr (by exact fun _ _ => rfl) _ _ p)
  | extest d _ | clamp d | highz d | dbgStatus d | dbgTask d => exact keepsQueue_next (sameQueue_tapInstr_setChip _ _ _ d s)
  | halt d _ | resume d _ | stepOneStage d _ | stepNCycles d _ =>
    exact keepsQueue_next (sameQueue_ite (sameQueue_tapInstr_setChip _ _ _ d s) rfl)
  | dbgBreakSet d _ => exact keepsQueue_next (sameQueue_ite (sameQueue_tapInstr_setChip _ _ _ d s) rfl)
  | dbgBreakClear d _ => exact keepsQueue_next (sameQueue_ite rfl (sameQueue_tapInstr_setChip _ _ _ d s))
  | dbgMemRead d _ => exact keepsQueue_ite (keepsQueue_next rfl) (keepsQueue_next (sameQueue_tapInstr_setChip _ _ _ d s))
  | dbgMemWrite d _ =>
    refine keepsQueue_ite (keepsQueue_next rfl) (keepsQueue_next (sameQueue_tapInstr (fun _ _ => ?_) _ _ d))
    dsimp only
    split <;> rfl
  | lcAdvance d _ =>
    exact keepsQueue_next (sameQueue_tapInstr (fun p _ => sameQueue_ite ((sameQueue_setChip s p _).trans (sameQueue_wipeChip _ p _))
      (sameQueue_setChip s p _)) _ _ d)
  | flashProgramEraseSequence op =>
    rw [exec_flashProgramEraseSequence]
    exact keepsQueue_ite (keepsQueue_ite (keepsQueue_next (sameQueue_modTray s _)) (keepsQueue_fault s _)) (keepsQueue_next (.refl s))

/-- Settles O2. -/
theorem commandsLeaveTheQueue : Obligations.CommandsLeaveTheQueue := by
  unfold Obligations.CommandsLeaveTheQueue
  exact fun i s t h => exec_keepsQueue i s t h

end Sys2Proof.Machine
end

section
/-!
PROOFS. Rules of an instruction at one device of the JTAG chain, and O59 (BoundaryScanFollowsTheSeason): Test-Logic-Reset and boundary scan
(R393 to R397, Tables 22-1 to 22-3).
-/
namespace Sys2Proof.Machine

/-! ## An instruction at a device (R397) -/

theorem next_eq {s t : State} (h : s = t) : (.next s : Host.Outcome State Fault Refusal) = .next t := congrArg _ h

theorem chipTapUp_of_not_off {c : Chip} (h : c.wake.season ≠ .off) : chipTapUp c = true := decide_eq_true h

theorem chipTapUp_of_off {c : Chip} (h : c.wake.season = .off) : chipTapUp c = false := decide_eq_false (not_not_intro h)

/-- A chip that Table 22-3 allows an instruction runs it. -/
theorem chipInstr_runs {ok : Chip → Bool} {s : State} {p : Pos} (hpower : (getChip s p).wake.season ≠ .off) (hok : ok (getChip s p) = true)
    (op : BitVec 8) (run : State → Pos → Chip → State) : chipInstr ok op run s p = run s p (getChip s p) := by
  simp only [chipInstr, chipTapUp_of_not_off hpower, hok, Bool.not_true, Bool.false_eq_true, if_false, if_true]

theorem chipInstr_refused {ok : Chip → Bool} {s : State} {p : Pos} (hpower : (getChip s p).wake.season ≠ .off)
    (hok : ok (getChip s p) = false) (op : BitVec 8) (run : State → Pos → Chip → State) :
    chipInstr ok op run s p = setChip s p (tapRefuse (getChip s p) op) := by
  simp only [chipInstr, chipTapUp_of_not_off hpower, hok, Bool.not_true, Bool.false_eq_true, if_false]

theorem chipInstr_off {s : State} {p : Pos} (h : (getChip s p).wake.season = .off) (ok : Chip → Bool) (op : BitVec 8)
    (run : State → Pos → Chip → State) : chipInstr ok op run s p = s := by
  simp only [chipInstr, chipTapUp_of_off h, Bool.not_false, if_true]

theorem tapInstr_runs {ok : Chip → Bool} {s : State} {p : Pos} (hpower : (getChip s p).wake.season ≠ .off) (hok : ok (getChip s p) = true)
    (op : BitVec 8) (run : State → Pos → Chip → State) : tapInstr ok op run (.chip p) s = run s p (getChip s p) :=
  chipInstr_runs hpower hok op run

theorem tapInstr_refused {ok : Chip → Bool} {s : State} {p : Pos} (hpower : (getChip s p).wake.season ≠ .off)
    (hok : ok (getChip s p) = false) (op : BitVec 8) (run : State → Pos → Chip → State) :
    tapInstr ok op run (.chip p) s = setChip s p (tapRefuse (getChip s p) op) := chipInstr_refused hpower hok op run

/-- The keeper lists none of the instructions that run at a chip: they select bypass there. -/
theorem tapInstr_keeper {s : State} (h : keeperTapUp s = true) (ok : Chip → Bool) (op : BitVec 8) (run : State → Pos → Chip → State) :
    tapInstr ok op run .keeper s = { s with tray := { s.tray with tap := tapBypass s.tray.tap op } } := if_pos h

/-- A device's TAP has no power: the keeper's runs from VKEEP, a chip's in every season but Off. -/
def TapOff (s : State) (d : TapDevice) : Prop :=
  match d with
  | .keeper => keeperTapUp s = false
  | .chip p => (getChip s p).wake.season = .off

/-- A device without power does nothing. -/
theorem tapInstr_off {s : State} {d : TapDevice} (h : TapOff s d) (ok : Chip → Bool) (op : BitVec 8) (run : State → Pos → Chip → State) :
    tapInstr ok op run d s = s := by
  cases d with
  | keeper => exact if_neg (Bool.not_eq_true _ ▸ h)
  | chip p => exact chipInstr_off h ok op run

/-! ## Test-Logic-Reset (R393) -/

/-- A chip in Test-Logic-Reset. -/
def tapIdled (c : Chip) : Chip := { c with dbg := { c.dbg with tap := tapIdle c.dbg.tap } }

theorem getChip_resetTap_keeper (s : State) (p : Pos) : getChip (resetTap s .keeper) p = getChip s p := by
  unfold resetTap
  dsimp only
  split
  · exact getChip_modTray s _ p
  · rfl

theorem resetTap_chip_on {s : State} {p : Pos} (h : (getChip s p).wake.season ≠ .off) :
    resetTap s (.chip p) = setChip s p (tapIdled (getChip s p)) := if_pos (chipTapUp_of_not_off h)

theorem resetTap_chip_off {s : State} {p : Pos} (h : (getChip s p).wake.season = .off) : resetTap s (.chip p) = s :=
  if_neg (by simp [chipTapUp_of_off h])

theorem onlyChip_resetTap (s : State) (p : Pos) : OnlyChip p s (resetTap s (.chip p)) :=
  onlyChip_ite (onlyChip_setChip s p _) (onlyChip_refl p s)

/-- The keeper's TAP is reset, then the chips' (R47). -/
theorem exec_tapReset (s : State) :
    exec .tapReset s = .next (([0, 1, 2, 3] : List Pos).foldl (fun s p => resetTap s (.chip p)) (resetTap s .keeper)) := by
  have hchain : tapChain = .keeper :: ([0, 1, 2, 3] : List Pos).map .chip := rfl
  change Host.Outcome.next (tapChain.foldl resetTap s) = _
  rw [hchain, List.foldl_cons, List.foldl_map]

/-- Each chip whose TAP runs goes to Test-Logic-Reset, and only there it changes. -/
theorem getChip_tapReset (s : State) (p : Pos) :
    ∃ s', getChip s' p = getChip s p ∧
      getChip (([0, 1, 2, 3] : List Pos).foldl (fun s p => resetTap s (.chip p)) (resetTap s .keeper)) p =
        getChip (resetTap s' (.chip p)) p := by
  obtain ⟨s', -, hbefore, hafter⟩ := getChip_foldl_onlyChip onlyChip_resetTap (l := [0, 1, 2, 3]) (by decide) (p := p)
    (by revert p; decide) (resetTap s .keeper)
  exact ⟨s', hbefore.trans (getChip_resetTap_keeper s p), hafter⟩

theorem chipId_width : chipId.setWidth 320 = 0x15A213A5#320 := by simp [chipId]

theorem keeperId_width : keeperId.setWidth 320 = 0x14B0A3A5#320 := by simp [keeperId]

/-! ## The instructions of boundary scan (Table 22-2) -/

/-- EXTEST, CLAMP and HIGHZ act in Winter (Table 22-3). -/
theorem inWinter_of_winter {c : Chip} (h : c.wake.season = .winter) : inWinter c = true := decide_eq_true h

theorem inWinter_of_not_winter {c : Chip} (h : c.wake.season ≠ .winter) : inWinter c = false := decide_eq_false h

theorem exec_bypass_unlisted {d : TapDevice} {op : BitVec 8} (h : listsOpcode d op = false) (s : State) :
    exec (.bypass d op) s = .next (tapInstr (fun _ => true) op (fun s p c => setChip s p (tapAccept c op 0#320)) d s) :=
  if_neg (by simp [h])

/-- Settles O59. Each instruction comes down to tapInstr, which runs it, refuses it, selects bypass or does nothing. -/
theorem boundaryScanFollowsTheSeason : Obligations.BoundaryScanFollowsTheSeason := by
  unfold Obligations.BoundaryScanFollowsTheSeason
  refine ⟨?reset, ?unlisted, ?unlistedKeeper, ?id, ?idKeeper, ?sample, ?sampleKeeper, ?winter, ?refused, ?keeper, ?noPower⟩
  case reset =>
    intro s
    obtain ⟨hpending, htray⟩ := foldl_onlyChip_keeps onlyChip_resetTap [0, 1, 2, 3] (resetTap s .keeper)
    refine ⟨_, exec_tapReset s, hpending.trans (sameQueue_ite rfl rfl), fun hup => ?_, fun hdown => ?_, fun p => ?_⟩
    · rw [htray, resetTap, if_pos hup]
      rfl
    · rw [htray, resetTap, if_neg (by simp [hdown])]
    · obtain ⟨s', hbefore, hafter⟩ := getChip_tapReset s p
      rw [hafter, ← hbefore]
      refine ⟨fun hoff => by rw [resetTap_chip_off hoff], fun hon => ?_⟩
      rw [resetTap_chip_on hon, getChip_setChip_self]
      rfl
  case unlisted =>
    intro s p op hunlisted hpower
    rw [exec_bypass_unlisted hunlisted, tapInstr_runs hpower rfl]
  case unlistedKeeper =>
    intro s op hunlisted hup
    rw [exec_bypass_unlisted hunlisted, tapInstr_keeper hup]
  case id =>
    intro s p hpower
    rw [← chipId_width]
    exact next_eq (chipInstr_runs hpower rfl _ _)
  case idKeeper => exact fun s hup => ⟨_, next_eq (if_pos hup), ⟨rfl, rfl⟩, keeperId_width, rfl⟩
  case sample =>
    intro s p cells hpower
    refine ⟨_, next_eq (chipInstr_runs hpower rfl _ _), onlyChip_setChip s p _, ?_⟩
    rw [getChip_setChip_self]
    exact ⟨rfl, rfl, rfl, rfl, rfl⟩
  case sampleKeeper => exact fun s cells hup => ⟨_, next_eq (if_pos hup), ⟨rfl, rfl⟩, rfl, rfl, rfl, rfl⟩
  case winter =>
    intro s p cells hwinter
    have hpower : (getChip s p).wake.season ≠ .off := by simp [hwinter]
    have hok := inWinter_of_winter hwinter
    refine ⟨⟨_, next_eq (tapInstr_runs hpower hok _ _), onlyChip_setChip s p _, ?_⟩,
      ⟨_, next_eq (tapInstr_runs hpower hok _ _), onlyChip_setChip s p _, ?_⟩,
      ⟨_, next_eq (tapInstr_runs hpower hok _ _), onlyChip_setChip s p _, ?_⟩⟩ <;>
    · rw [getChip_setChip_self]
      exact ⟨rfl, rfl, rfl⟩
  case refused =>
    intro s p cells hseason hpower
    have hno := inWinter_of_not_winter hseason
    exact ⟨next_eq (tapInstr_refused hpower hno _ _), next_eq (tapInstr_refused hpower hno _ _),
      next_eq (tapInstr_refused hpower hno _ _)⟩
  case keeper =>
    exact fun s cells hup => ⟨next_eq (tapInstr_keeper hup _ _ _), next_eq (tapInstr_keeper hup _ _ _),
      next_eq (tapInstr_keeper hup _ _ _)⟩
  case noPower =>
    intro s d op cells hoff
    have hnone {ok op run} : (.next (tapInstr ok op run d s) : Host.Outcome State Fault Refusal) = .next s :=
      next_eq (tapInstr_off hoff ok op run)
    refine ⟨?_, ?_, ?_, hnone, hnone, hnone⟩
    · by_cases hlisted : listsOpcode d op = true
      · exact if_pos hlisted
      · rw [exec_bypass_unlisted (by simpa using hlisted), tapInstr_off hoff]
    · cases d with
      | keeper => exact next_eq (if_neg (by simpa using hoff))
      | chip p => exact next_eq (chipInstr_off hoff _ _ _)
    · cases d with
      | keeper => exact next_eq (if_neg (by simpa using hoff))
      | chip p => exact next_eq (chipInstr_off hoff _ _ _)

end Sys2Proof.Machine
end

section
/-!
PROOFS. O60 (DebugActsWhereAllowed): the debug instructions of a chip, where Table 22-3 allows them and where it does not (R397 to R406).
-/
namespace Sys2Proof.Machine

/-! ## DBG_CTRL (R400, R401) -/

/-- A chip whose core has power is not Off. -/
theorem not_off_of_coreUp {c : Chip} (h : coreUp c = true) : c.wake.season ≠ .off := fun hoff => by simp [coreUp, hoff] at h

theorem debugCtrl_of_op {op : Nat} {ctrl : BitVec 32} (h : regField ctrl 0 4 = op) (d : TapDevice) (s : State) :
    debugCtrl op d ctrl s = tapInstr mayDebug 0x11#8 (fun s p c => setChip s p (writeCtrl (tapAccept c 0x11#8 0#320) ctrl)) d s := if_pos h

/-- Neither a cluster nor the debug port changes. -/
structure DebugKept (k k' : Chip) : Prop where
  clusters : k'.clusters = k.clusters
  dbg : k'.dbg = k.dbg

theorem DebugKept.refl (k : Chip) : DebugKept k k := ⟨rfl, rfl⟩

theorem DebugKept.trans {a b c : Chip} (h : DebugKept a b) (g : DebugKept b c) : DebugKept a c :=
  ⟨g.clusters.trans h.clusters, g.dbg.trans h.dbg⟩

theorem debugKept_arrive (c : Chip) (t step : Nat) : DebugKept c (arrive c t step) := by
  unfold arrive
  dsimp only
  split
  · exact .refl c
  · split <;> exact ⟨rfl, rfl⟩

/-- The ARRIVEs that a resumed cluster owes change no cluster and nothing of the debug port. -/
theorem debugKept_arriveAll (c : Chip) : DebugKept c (arriveAll c) :=
  forEach_rel .refl .trans (fun c t _ => forEach_rel .refl .trans (fun c n _ => debugKept_arrive c t n) c) c

/-- Each cluster of a list goes through the operation once; the others and the debug port stay. -/
theorem forEach_modCluster {l : List ClusterNo} (hl : l.Nodup) (f : Cluster → Cluster) (c : Chip) :
    (forEach c l (fun c k => modCluster c k f)).dbg = c.dbg ∧
      ∀ j, clusterOf (forEach c l (fun c k => modCluster c k f)) j = if j ∈ l then f (clusterOf c j) else clusterOf c j := by
  induction l generalizing c with
  | nil => exact ⟨rfl, fun j => by simp [forEach]⟩
  | cons k l ih =>
    obtain ⟨hk, hl⟩ := List.nodup_cons.1 hl
    obtain ⟨ihdbg, ihcluster⟩ := ih hl (modCluster c k f)
    refine ⟨ihdbg, fun j => (ihcluster j).trans ?_⟩
    by_cases hj : j = k
    · subst hj
      rw [if_neg hk, if_pos List.mem_cons_self, clusterOf_modCluster_self]
    · simp only [List.mem_cons, hj, false_or, clusterOf_modCluster_ne c k j f hj]

theorem mem_ctrlClusters_iff (ctrl : BitVec 32) (j : ClusterNo) :
    j ∈ ctrlClusters ctrl ↔ ctrl.getLsbD 4 = true ∨ j = Fin.ofNat 256 (regField ctrl 5 8) := by
  unfold ctrlClusters
  split
  case isTrue h => simp [h, allClusters]
  case isFalse h => exact ⟨fun hj => .inr (List.mem_singleton.1 hj), fun hj => List.mem_singleton.2 (hj.resolve_left h)⟩

theorem nodup_ctrlClusters (ctrl : BitVec 32) : (ctrlClusters ctrl).Nodup := by
  unfold ctrlClusters
  split
  · exact List.nodup_finRange 256
  · exact List.nodup_singleton _

/-- With the core up, DBG_CTRL selects its cluster, and its operation reaches the clusters it applies to alone. -/
theorem writeCtrl_acts {c : Chip} (hup : coreUp c = true) (ctrl : BitVec 32) :
    (writeCtrl c ctrl).dbg = { c.dbg with selected := Fin.ofNat 256 (regField ctrl 5 8) } ∧
      ∀ j, clusterOf (writeCtrl c ctrl) j = if j ∈ ctrlClusters ctrl then ctrlOne ctrl (clusterOf c j) else clusterOf c j := by
  have hkept := debugKept_arriveAll (forEach { c with dbg := { c.dbg with selected := Fin.ofNat 256 (regField ctrl 5 8) } }
    (ctrlClusters ctrl) (fun c k => modCluster c k (ctrlOne ctrl)))
  obtain ⟨hdbg, hcluster⟩ := forEach_modCluster (nodup_ctrlClusters ctrl) (ctrlOne ctrl)
    { c with dbg := { c.dbg with selected := Fin.ofNat 256 (regField ctrl 5 8) } }
  rw [writeCtrl, if_pos (by exact hup)]
  exact ⟨hkept.dbg.trans hdbg, fun j => (clusterOf_congr hkept.clusters j).trans (hcluster j)⟩

/-- What a DBG_CTRL of an OP leaves of a chip. -/
theorem debugCtrl_acts {s : State} {p : Pos} {ctrl : BitVec 32} {op : Nat} {j : ClusterNo} (hup : coreUp (getChip s p) = true)
    (hdebug : mayDebug (getChip s p) = true) (hop : regField ctrl 0 4 = op)
    (hj : ctrl.getLsbD 4 = true ∨ j = Fin.ofNat 256 (regField ctrl 5 8)) :
    ∃ t, debugCtrl op (.chip p) ctrl s = t ∧ OnlyChip p s t ∧
      clusterOf (getChip t p) j = ctrlOne ctrl (clusterOf (getChip s p) j) ∧
      (getChip t p).dbg.selected = Fin.ofNat 256 (regField ctrl 5 8) ∧
      (ctrl.getLsbD 4 = false → ∀ i, i ≠ j → clusterOf (getChip t p) i = clusterOf (getChip s p) i) := by
  obtain ⟨hdbg, hcluster⟩ := writeCtrl_acts (c := tapAccept (getChip s p) 0x11#8 0#320) hup ctrl
  refine ⟨_, (debugCtrl_of_op hop _ s).trans (tapInstr_runs (not_off_of_coreUp hup) hdebug _ _), onlyChip_setChip s p _, ?_⟩
  rw [getChip_setChip_self, hdbg]
  refine ⟨(hcluster j).trans (if_pos ((mem_ctrlClusters_iff ctrl j).2 hj)), rfl, fun hone i hi => (hcluster i).trans (if_neg ?_)⟩
  rw [mem_ctrlClusters_iff, hone]
  rintro (h | rfl)
  · exact Bool.false_ne_true h
  · obtain h | h := hj
    · exact Bool.false_ne_true (hone.symm.trans h)
    · exact hi h.symm

/-- OP 1 halts a cluster, and leaves its task. -/
theorem ctrlOne_halt {ctrl : BitVec 32} (h : regField ctrl 0 4 = 1) (x : Cluster) :
    (ctrlOne ctrl x).halted = true ∧ (ctrlOne ctrl x).run = x.run := by
  simp only [ctrlOne, h]
  split
  case isTrue hhalted => exact ⟨hhalted, rfl⟩
  case isFalse => exact ⟨rfl, rfl⟩

/-- OP 2 lets a cluster run, and leaves its task. -/
theorem ctrlOne_resume {ctrl : BitVec 32} (h : regField ctrl 0 4 = 2) (x : Cluster) :
    (ctrlOne ctrl x).halted = false ∧ (ctrlOne ctrl x).run = x.run := by
  simp only [ctrlOne, h]
  split
  case isTrue => exact ⟨rfl, rfl⟩
  case isFalse hruns => exact ⟨by simpa using hruns, rfl⟩

theorem ctrlOne_stage {ctrl : BitVec 32} (h : regField ctrl 0 4 = 3) (x : Cluster) :
    ctrlOne ctrl x = { x with halted := false, stepMode := .stage } := by
  simp only [ctrlOne, h, letRun]

theorem ctrlOne_cycles {ctrl : BitVec 32} (h : regField ctrl 0 4 = 4) (hn : regField ctrl 16 16 ≠ 0) (x : Cluster) :
    ctrlOne ctrl x = { x with halted := false, stepMode := .cycles (regField ctrl 16 16) } := by
  simp only [ctrlOne, h, letRun, hn, if_false]

/-! ## DBG_BREAK (R402) -/

/-- A breakpoint slot is written on a chip that may be debugged, and no other slot. -/
theorem writeSlot_writes {s : State} {p : Pos} (hpower : (getChip s p).wake.season ≠ .off) (hdebug : mayDebug (getChip s p) = true)
    (reg : BitVec 96) (b : BreakSlot) :
    OnlyChip p s (writeSlot (.chip p) reg b s) ∧ tabFind (getChip (writeSlot (.chip p) reg b s) p).dbg.slots (regField reg 0 3) = some b ∧
      (getChip (writeSlot (.chip p) reg b s) p).clusters = (getChip s p).clusters ∧
      ∀ n, n ≠ regField reg 0 3 →
        tabFind (getChip (writeSlot (.chip p) reg b s) p).dbg.slots n = tabFind (getChip s p).dbg.slots n := by
  rw [writeSlot, tapInstr_runs hpower hdebug, getChip_setChip_self]
  exact ⟨onlyChip_setChip s p _, tabFind_tabSet_self _ _ _, rfl, fun n hn => tabFind_tabSet_ne _ _ _ _ hn⟩

theorem exec_dbgBreakSet {reg : BitVec 96} (h : setsSlot reg = true) (d : TapDevice) (s : State) :
    exec (.dbgBreakSet d reg) s = .next (writeSlot d reg (slotOfReg reg) s) := next_eq (if_pos h)

theorem exec_dbgBreakClear {reg : BitVec 96} (h : setsSlot reg = false) (d : TapDevice) (s : State) :
    exec (.dbgBreakClear d reg) s = .next (writeSlot d reg .reset s) := next_eq (if_neg (by simp [h]))

/-! ## DBG_MEM (R404, R405) -/

theorem exec_dbgMemRead {reg : BitVec 128} (h : reg.getLsbD 4 = false) (d : TapDevice) (s : State) :
    exec (.dbgMemRead d reg) s = .next (tapInstr mayReach 0x14#8 (fun s p c =>
      setChip s p (memDoneWith (acceptMem c)
        ((debugRead s (acceptMem c) (regField reg 0 4) (regField reg 8 40)).map (packBytes 64)))) d s) := if_neg (Bool.eq_false_iff.1 h)

/-- The chip that a DBG_MEM write leaves, by what the write does of it. -/
def memWritten (k : Chip) (r : Option Chip) : Chip :=
  { r.getD k with dbg := { (r.getD k).dbg with memDone := true, memError := r.isNone } }

theorem exec_dbgMemWrite {reg : BitVec 128} (h : reg.getLsbD 4 = true) (d : TapDevice) (s : State) :
    exec (.dbgMemWrite d reg) s = .next (tapInstr mayReach 0x14#8 (fun s p c =>
      setChip s p (memWritten (acceptMem c)
        (debugWrite (acceptMem c) (regField reg 0 4) (regField reg 8 40) (bytesOf (BitVec.ofNat 64 (regField reg 64 64)) 8)))) d s) := by
  have hnot : ¬ (!reg.getLsbD 4) = true := by simp [h]
  refine (if_neg hnot).trans (next_eq (congrArg (fun run => tapInstr mayReach 0x14#8 run d s) ?_))
  funext s p c
  dsimp only
  split
  case h_1 hsome => rw [hsome]; rfl
  case h_2 hnone => rw [hnone]; rfl

/-- In FIELD nothing is written (R404). -/
theorem debugWrite_field {c : Chip} (h : c.vault.lifeCycle = .field) (space addr : Nat) (bs : List Byte) :
    debugWrite c space addr bs = none := if_pos (by simp [h])

/-- Outside FIELD 8 bytes of a cluster's scratchpad are written (Table 22-5). -/
theorem debugWrite_scratchpad {c : Chip} {addr : Nat} (hlife : c.vault.lifeCycle ≠ .field) (hup : coreUp c = true) (haligned : addr % 8 = 0)
    (hinside : addr < 0x40000000) (hscratch : addr % 4194304 < (8 - (clusterOf c (Fin.ofNat 256 (addr / 4194304))).lastL1) * 524288)
    (bs : List Byte) :
    ∃ c', debugWrite c 1 addr bs = some c' ∧ (clusterOf c' (Fin.ofNat 256 (addr / 4194304))).scratch =
      memWrite 0#8 (clusterOf c (Fin.ofNat 256 (addr / 4194304))).scratch (addr % 4194304) bs := by
  refine ⟨_, (if_neg (by simp [hlife, hup])).trans ((if_neg (by simp [haligned, hinside])).trans (if_pos hscratch)), ?_⟩
  rw [clusterOf_modCluster_self]

/-! ## LC_ADVANCE (R391, R406) -/

/-- The life cycle advances in Winter alone (Table 22-3). -/
theorem not_off_of_mayAdvance {c : Chip} (h : mayAdvance c = true) : c.wake.season ≠ .off := by
  have hwinter : inWinter c = true := (Bool.and_eq_true_iff.1 h).1
  have hseason : c.wake.season = .winter := of_decide_eq_true hwinter
  simp [hseason]

theorem exec_lcAdvance (d : TapDevice) (reg : BitVec 32) (s : State) :
    exec (.lcAdvance d reg) s = .next (tapInstr mayAdvance 0x1F#8 (fun s p c =>
      if advanceOk c reg then wipeChip (setChip s p (tapAccept c 0x1F#8 0#320)) p 0x74
      else setChip s p { tapAccept c 0x1F#8 0#320 with dbg := { (tapAccept c 0x1F#8 0#320).dbg with refused := true } }) d s) := rfl

/-- The next state with the key is a wipe source of the chip (R391). -/
theorem lcAdvance_wipes {s : State} {p : Pos} (hpower : (getChip s p).wake.season ≠ .off) :
    OtherChips p s (wipeChip (setChip s p (tapAccept (getChip s p) 0x1F#8 0#320)) p 0x74) ∧
      WipeReaches 0x74 (tapAccept (getChip s p) 0x1F#8 0#320)
        (getChip (wipeChip (setChip s p (tapAccept (getChip s p) 0x1F#8 0#320)) p 0x74) p) := by
  have hself := getChip_setChip_self s p (tapAccept (getChip s p) 0x1F#8 0#320)
  obtain ⟨⟨hpending, hothers⟩, hreaches⟩ :=
    wipeChip_reaches (s := setChip s p (tapAccept (getChip s p) 0x1F#8 0#320)) (c := p) (by rw [hself]; exact hpower) 0x74
  rw [hself] at hreaches
  exact ⟨⟨hpending, fun q hq => (hothers q hq).trans (getChip_setChip_ne s p q _ hq)⟩, hreaches⟩

/-! ## Where an instruction does not run -/

/-- What a device answers to every instruction of DBG_CTRL, DBG_TASK, DBG_BREAK and DBG_MEM, it answers to each command of them. -/
theorem debugInstrs_answer {d : TapDevice} {s : State} {g : BitVec 8 → State} (h : ∀ op run, tapInstr mayDebug op run d s = g op)
    (ctrl : BitVec 32) (reg : BitVec 96) (m : BitVec 128) :
    exec (.dbgTask d) s = .next (g 0x12#8) ∧
    (regField ctrl 0 4 = 1 → exec (.halt d ctrl) s = .next (g 0x11#8)) ∧
    (regField ctrl 0 4 = 2 → exec (.resume d ctrl) s = .next (g 0x11#8)) ∧
    (regField ctrl 0 4 = 3 → exec (.stepOneStage d ctrl) s = .next (g 0x11#8)) ∧
    (regField ctrl 0 4 = 4 → exec (.stepNCycles d ctrl) s = .next (g 0x11#8)) ∧
    (setsSlot reg = true → exec (.dbgBreakSet d reg) s = .next (g 0x13#8)) ∧
    (setsSlot reg = false → exec (.dbgBreakClear d reg) s = .next (g 0x13#8)) ∧
    (m.getLsbD 4 = false → exec (.dbgMemRead d m) s = .next (g 0x14#8)) ∧
    (m.getLsbD 4 = true → exec (.dbgMemWrite d m) s = .next (g 0x14#8)) := by
  have hctrl {op : Nat} (hop : regField ctrl 0 4 = op) :
      (.next (debugCtrl op d ctrl s) : Host.Outcome State Fault Refusal) = .next (g 0x11#8) :=
    next_eq ((debugCtrl_of_op hop d s).trans (h _ _))
  exact ⟨next_eq (h _ _), hctrl, hctrl, hctrl, hctrl, fun hset => (exec_dbgBreakSet hset d s).trans (next_eq (h _ _)),
    fun hclear => (exec_dbgBreakClear hclear d s).trans (next_eq (h _ _)), fun hread => (exec_dbgMemRead hread d s).trans (next_eq (h _ _)),
    fun hwrite => (exec_dbgMemWrite hwrite d s).trans (next_eq (h _ _))⟩

/-! ## O60 -/

/-- Settles O60. Each instruction comes down to tapInstr, which runs it where Table 22-3 allows it, refuses it elsewhere, and selects bypass at
the keeper. -/
theorem debugActsWhereAllowed : Obligations.DebugActsWhereAllowed := by
  unfold Obligations.DebugActsWhereAllowed
  refine ⟨?status, ?task, ?ctrl, ?expire, ?slots, ?read, ?write, ?refused, ?advance, ?keeper⟩
  case status =>
    intro s p hpower
    refine ⟨_, next_eq (tapInstr_runs hpower rfl _ _), onlyChip_setChip s p _, ?_⟩
    rw [getChip_setChip_self]
    exact ⟨rfl, rfl, rfl, rfl, rfl, rfl⟩
  case task => exact fun s p hpower hdebug => next_eq (tapInstr_runs hpower hdebug _ _)
  case ctrl =>
    intro s p ctrl j hup hdebug hj
    refine ⟨fun hop => ?_, fun hop => ?_, fun hop => ?_, fun hop hn => ?_⟩ <;>
      obtain ⟨t, hexec, honly, hcluster, hselected, hothers⟩ := debugCtrl_acts hup hdebug hop hj <;>
      refine ⟨t, next_eq hexec, honly, ?_⟩ <;> rw [hcluster]
    · obtain ⟨hhalted, hrun⟩ := ctrlOne_halt hop (clusterOf (getChip s p) j)
      exact ⟨hhalted, hrun, hselected, hothers⟩
    · obtain ⟨hruns, hrun⟩ := ctrlOne_resume hop (clusterOf (getChip s p) j)
      exact ⟨hruns, hrun, hothers⟩
    · exact ⟨ctrlOne_stage hop _, hothers⟩
    · exact ⟨ctrlOne_cycles hop hn _, hothers⟩
  case expire => exact fun s c j hup hover => if_pos (by simp [hup, hover])
  case slots =>
    intro s p reg hpower hdebug
    exact ⟨fun hset => ⟨_, exec_dbgBreakSet hset _ s, writeSlot_writes hpower hdebug reg _⟩,
      fun hclear => ⟨_, exec_dbgBreakClear hclear _ s, writeSlot_writes hpower hdebug reg _⟩⟩
  case read =>
    intro s p reg k r hpower hdebug hread hk hr
    refine ⟨_, (exec_dbgMemRead hread _ s).trans (next_eq (tapInstr_runs hpower hdebug _ _)), onlyChip_setChip s p _, ?_⟩
    rw [getChip_setChip_self, ← hk, ← hr, memDoneWith, Option.isNone_map]
  case write =>
    intro s p reg k r hpower hdebug hwrite hk hr
    refine ⟨?_, fun hfield => ?_, fun hspace hlife hup haligned hinside hscratch => ?_⟩
    · rw [exec_dbgMemWrite hwrite, tapInstr_runs (ok := mayReach) hpower hdebug, ← hk, ← hr]
      rfl
    · exact hr.trans (debugWrite_field (by rw [hk]; exact hfield) _ _ _)
    · rw [hr, hk, hspace]
      exact debugWrite_scratchpad (c := acceptMem (getChip s p)) hlife hup haligned hinside hscratch _
  case refused =>
    exact fun s p ctrl reg m hpower hno => debugInstrs_answer (fun op run => tapInstr_refused hpower hno op run) ctrl reg m
  case advance =>
    intro s p reg
    refine ⟨fun hmay => ⟨fun hok => ?_, fun hnot => ?_⟩, fun hpower hno => ?_⟩
    · rw [exec_lcAdvance, tapInstr_runs (not_off_of_mayAdvance hmay) hmay, if_pos hok]
      exact ⟨_, rfl, lcAdvance_wipes (not_off_of_mayAdvance hmay)⟩
    · rw [exec_lcAdvance, tapInstr_runs (not_off_of_mayAdvance hmay) hmay, if_neg (by simp [hnot])]
      refine ⟨_, rfl, onlyChip_setChip s p _, ?_⟩
      rw [getChip_setChip_self]
      exact ⟨rfl, rfl, rfl⟩
    · rw [exec_lcAdvance, tapInstr_refused hpower hno]
  case keeper =>
    intro s reg ctrl b m hup
    obtain ⟨htask, hrest⟩ := debugInstrs_answer (fun op run => tapInstr_keeper hup mayDebug op run) ctrl b m
    exact ⟨next_eq (tapInstr_keeper hup _ _ _), htask, next_eq (tapInstr_keeper hup _ _ _), hrest⟩

end Sys2Proof.Machine
end

section
/-!
PROOFS. O35 (WipesEndWithALogEntryEach): the end of a wipe, with its log entries, its codes and an empty SRAM (R384, R387, R390, R391, Table 21-4).
-/
namespace Sys2Proof.Machine

/-! ## Halts leave what clusters hold -/

/-- Every cluster holds what it held: at most it is halted. -/
def OnlyHalted (k k' : Chip) : Prop := ∀ j, ∃ h m, clusterOf k' j = { clusterOf k j with halted := h, stepMode := m }

theorem OnlyHalted.refl (k : Chip) : OnlyHalted k k := fun j => ⟨(clusterOf k j).halted, (clusterOf k j).stepMode, rfl⟩

theorem OnlyHalted.trans {a b c : Chip} (h : OnlyHalted a b) (g : OnlyHalted b c) : OnlyHalted a c := fun j => by
  obtain ⟨x, m, hb⟩ := h j
  obtain ⟨y, n, hc⟩ := g j
  exact ⟨y, n, by rw [hc, hb]⟩

theorem onlyHalted_haltCluster (c : Chip) (k : ClusterNo) : OnlyHalted c (haltCluster c k) := fun j => by
  by_cases hj : j = k
  · subst hj
    exact ⟨true, .none, clusterOf_modCluster_self c j _⟩
  · exact ⟨_, _, clusterOf_modCluster_ne c k j _ hj⟩

theorem onlyHalted_haltAll (c : Chip) : OnlyHalted c (haltAll c) := forEach_rel .refl .trans (fun c k _ => onlyHalted_haltCluster c k) c

/-- A code at chip or tray level that hits breakpoint slots halts every cluster for each. -/
theorem onlyHalted_hitFault (c : Chip) (code : Nat) : OnlyHalted c (hitFault c code none) := by
  unfold hitFault
  split
  · exact forEach_rel .refl .trans (fun c i _ => OnlyHalted.trans (b := noteHit c i 0) (.refl c) (onlyHalted_haltAll _)) c
  · exact .refl c

/-! ## A code with its log entry -/

/-- A source of a wipe as the wipe ends: its entry in the tamper log, and its code raised. -/
def wipeEntry (now : Nat) (c : Chip) (code : Nat) : Chip := opFault (logWipe c now code) code none

/-- Besides clusters and debug state, an entry changes the log and the fault records. -/
theorem wipeEntry_eq (now : Nat) (c : Chip) (code : Nat) :
    ∃ l d, wipeEntry now c code = { recordFault (logWipe c now code) code none with clusters := l, dbg := d } := sameButHalts_hitFault _ code

theorem onlyHalted_wipeEntry (now : Nat) (c : Chip) (code : Nat) : OnlyHalted c (wipeEntry now c code) :=
  OnlyHalted.trans (b := recordFault (logWipe c now code) code none) (.refl c) (onlyHalted_hitFault _ code)

/-- What the entries of a wipe leave alone, and what they leave of the clusters. -/
structure EntriesMade (k k' : Chip) : Prop where
  wipe : k'.wipe = k.wipe
  wake : k'.wake = k.wake
  wipes : k'.vault.wipes = k.vault.wipes
  sync : k'.sync = k.sync
  lines : k'.lines = k.lines
  tenants : k'.tenants = k.tenants
  fuses : k'.fuses = k.fuses
  clearAtSpring : k'.clearAtSpring = k.clearAtSpring
  clusters : OnlyHalted k k'

theorem EntriesMade.refl (k : Chip) : EntriesMade k k := ⟨rfl, rfl, rfl, rfl, rfl, rfl, rfl, rfl, .refl k⟩

theorem EntriesMade.trans {a b c : Chip} (h : EntriesMade a b) (g : EntriesMade b c) : EntriesMade a c :=
  ⟨g.wipe.trans h.wipe, g.wake.trans h.wake, g.wipes.trans h.wipes, g.sync.trans h.sync, g.lines.trans h.lines, g.tenants.trans h.tenants,
    g.fuses.trans h.fuses, g.clearAtSpring.trans h.clearAtSpring, h.clusters.trans g.clusters⟩

theorem entriesMade_wipeEntry (now : Nat) (c : Chip) (code : Nat) : EntriesMade c (wipeEntry now c code) := by
  have hclusters := onlyHalted_wipeEntry now c code
  obtain ⟨l, d, h⟩ := wipeEntry_eq now c code
  rw [h] at hclusters ⊢
  exact ⟨rfl, rfl, rfl, rfl, rfl, rfl, rfl, rfl, hclusters⟩

theorem entriesMade_forEach (now : Nat) (c : Chip) (codes : List Nat) : EntriesMade c (forEach c codes (wipeEntry now)) :=
  forEach_rel .refl .trans (fun c code _ => entriesMade_wipeEntry now c code) c

/-- While the log has room an entry joins it (R390). -/
theorem log_wipeEntry {c : Chip} (h : c.vault.log.length < 64) (now code : Nat) :
    ∃ e, (wipeEntry now c code).vault.log = c.vault.log ++ [e] ∧ e.code = code := by
  obtain ⟨l, d, heq⟩ := wipeEntry_eq now c code
  rw [heq]
  obtain ⟨e, hlog, hcode⟩ : ∃ e : TamperEntry, (logWipe c now code).vault.log =
      (c.vault.log ++ [e]).drop ((c.vault.log ++ [e]).length - 64) ∧ e.code = code := ⟨_, rfl, rfl⟩
  refine ⟨e, hlog.trans ?_, hcode⟩
  rw [List.length_append, List.length_singleton, Nat.sub_eq_zero_of_le (by omega), List.drop_zero]

/-- While the log has room, each source has its entry, in order. -/
theorem log_forEach_wipeEntry (now : Nat) {codes : List Nat} {c : Chip} (hroom : c.vault.log.length + codes.length ≤ 64) :
    (forEach c codes (wipeEntry now)).vault.log.map (·.code) = c.vault.log.map (·.code) ++ codes := by
  induction codes generalizing c with
  | nil => rw [List.append_nil]; rfl
  | cons n codes ih =>
    rw [List.length_cons] at hroom
    obtain ⟨e, hlog, hcode⟩ := log_wipeEntry (c := c) (by omega) now n
    have hrest := ih (c := wipeEntry now c n) (by rw [hlog, List.length_append, List.length_singleton]; omega)
    rw [hlog, List.map_append, List.map_singleton, hcode, List.append_assoc, List.singleton_append] at hrest
    exact hrest

/-- An entry's code is listed as that of a failed Spring is. -/
theorem faults_wipeEntry (now : Nat) (c : Chip) (code : Nat) : (wipeEntry now c code).faults = (springFault c code).faults := by
  obtain ⟨l, d, h⟩ := wipeEntry_eq now c code
  rw [h, springFault_faults]
  rfl

theorem holdsFault_congr {c c' : Chip} (h : c'.faults = c.faults) (code : Nat) : holdsFault c' code = holdsFault c code := by
  simp only [holdsFault, h]

/-- While the fault list has room, every source's code is held (R387). -/
theorem wipeEntries_held (now : Nat) {codes : List Nat} {c : Chip} (hroom : c.faults.length + codes.length ≤ 16) {code : Nat}
    (h : code ∈ codes ∨ holdsFault c code = true) : holdsFault (forEach c codes (wipeEntry now)) code = true := by
  induction codes generalizing c with
  | nil => exact h.resolve_left List.not_mem_nil
  | cons n codes ih =>
    rw [List.length_cons] at hroom
    have hfaults := faults_wipeEntry now c n
    have hlength := length_springFault_le (c := c) (by omega) n
    refine ih (c := wipeEntry now c n) (by rw [hfaults]; omega) ?_
    rw [holdsFault_congr hfaults]
    rw [List.mem_cons, or_assoc] at h
    obtain rfl | hrest | hheld := h
    · exact .inr (holdsFault_springFault_self (by omega) code)
    · exact .inl hrest
    · exact .inr (holdsFault_springFault_of_holds (by omega) hheld n)

/-! ## The end of a wipe -/

/-- The chip with SRAM clear and its context invalid, before the entries are made (Table 21-4 steps 3 and 4). -/
def wipeCleared (c : Chip) (w : Wipe) : Chip :=
  let d := { clearSram c with wipe := none, clearAtSpring := w.inWinter, vault := { c.vault with wipes := c.vault.wipes + 1 } }
  { modWake d (fun w => { w with ctxValid := false }) with
    fuses := if w.codes.contains 0x74 then nextLife d.vault.lifeCycle else d.fuses }

theorem endWipe_eq (c : Chip) (now : Nat) (w : Wipe) : endWipe c now w = forEach (wipeCleared c w) w.codes (wipeEntry now) := rfl

/-- A cluster that is listed is the one that is read. -/
theorem clusterOf_of_tabFind {c : Chip} {j : ClusterNo} {x : Cluster} (h : tabFind c.clusters j = some x) : clusterOf c j = x := by
  rw [clusterOf, tabGet_eq_find, h]
  rfl

theorem clusterOf_clearSram (c : Chip) (j : ClusterNo) :
    (clusterOf (clearSram c) j).scratch = [] ∧ (clusterOf (clearSram c) j).l1 = [] ∧ (clusterOf (clearSram c) j).queue = [] ∧
      (clusterOf (clearSram c) j).run = none := by
  cases h : tabFind (clearSram c).clusters j with
  | none =>
    rw [clusterOf, tabGet_eq_find, h]
    exact ⟨rfl, rfl, rfl, rfl⟩
  | some x =>
    obtain ⟨hscratch, hl1, hqueue, hrun, -⟩ := tabFind_clearSram h
    rw [clusterOf_of_tabFind h]
    exact ⟨hscratch, hl1, hqueue, hrun⟩

theorem tenants_clearSram {c : Chip} {n : Nat} {x : TenantCtx} (h : tabFind (clearSram c).tenants n = some x) :
    x.shards = [] ∧ x.steps = [] ∧ x.slots = [] ∧ x.committed = none ∧ x.loaded = false := by
  rw [clearSram, tabFind_tabMap, Option.map_eq_some_iff] at h
  obtain ⟨y, -, rfl⟩ := h
  exact ⟨rfl, rfl, rfl, rfl, rfl⟩

/-- The end of a wipe leaves all that R384, R387 and R390 say. -/
theorem wipeEnded_endWipe (c : Chip) (now : Nat) (w : Wipe) :
    WipeEnded w c (endWipe c now w) ∧ (endWipe c now w).clearAtSpring = w.inWinter := by
  rw [endWipe_eq]
  have hmade := entriesMade_forEach now (wipeCleared c w) w.codes
  refine ⟨⟨hmade.wipe, congrArg Wake.ctxValid hmade.wake, hmade.wipes, hmade.sync, hmade.lines, fun q x hx => ?_, fun n x hx => ?_,
    log_forEach_wipeEntry now (c := wipeCleared c w), fun hroom code hcode => wipeEntries_held now (c := wipeCleared c w) hroom (.inl hcode),
    hmade.fuses⟩, hmade.clearAtSpring⟩
  · obtain ⟨h, m, hq⟩ := hmade.clusters q
    rw [← clusterOf_of_tabFind hx, hq]
    exact clusterOf_clearSram c q
  · rw [hmade.tenants] at hx
    exact tenants_clearSram hx

theorem exec_wipeClearDone_ends {s : State} {c : Pos} {w : Wipe} (h : (getChip s c).wipe = some w) (hwarm : w.inWinter = false) :
    exec (.wipeClearDone c) s = .next (modChip s c (fun k => endWipe k s.tray.now w)) := by
  simp only [exec, execWipeClearDone, h, hwarm, Bool.false_eq_true, if_false]

theorem exec_wipeClearDone_winter {s : State} {c : Pos} {w : Wipe} (h : (getChip s c).wipe = some w) (hwinter : w.inWinter = true) :
    exec (.wipeClearDone c) s = .next s := by
  simp only [exec, execWipeClearDone, h, hwinter, if_true]

theorem exec_wipeClearDone_none {s : State} {c : Pos} (h : (getChip s c).wipe = none) : exec (.wipeClearDone c) s = .next s := by
  simp only [exec, execWipeClearDone, h]

theorem exec_retentionSwitchTimer_ends {s : State} {c : Pos} {w : Wipe} (h : (getChip s c).wipe = some w) (hwinter : w.inWinter = true)
    (hopen : w.retentionOpen = true) :
    exec (.retentionSwitchTimer c) s = .next (modChip s c (fun k => endWipe k s.tray.now w)) := by
  simp only [exec, execRetentionSwitchTimer, h, hwinter, hopen, Bool.and_true, if_true]

theorem exec_retentionSwitchTimer_none {s : State} {c : Pos} (h : (getChip s c).wipe = none) :
    exec (.retentionSwitchTimer c) s = .next s := by
  simp only [exec, execRetentionSwitchTimer, h]

/-- Settles O35. Either command ends the wipe by endWipe, in its own season. -/
theorem wipesEndWithALogEntryEach : Obligations.WipesEndWithALogEntryEach := by
  unfold Obligations.WipesEndWithALogEntryEach
  refine ⟨fun s c w hw hwarm => ?_, fun s c hnone => ⟨exec_wipeClearDone_none hnone, exec_retentionSwitchTimer_none hnone⟩,
    fun s c w hw hwinter hopen => ⟨exec_wipeClearDone_winter hw hwinter, ?_⟩⟩
  · obtain ⟨hended, hclear⟩ := wipeEnded_endWipe (getChip s c) s.tray.now w
    refine ⟨_, exec_wipeClearDone_ends hw hwarm, onlyChip_modChip s c _, ?_⟩
    rw [getChip_modChip_self]
    exact ⟨hended, hclear.trans hwarm⟩
  · obtain ⟨hended, hclear⟩ := wipeEnded_endWipe (getChip s c) s.tray.now w
    refine ⟨_, exec_retentionSwitchTimer_ends hw hwinter hopen, onlyChip_modChip s c _, ?_⟩
    rw [getChip_modChip_self]
    exact ⟨hended, hclear.trans hwinter⟩

end Sys2Proof.Machine
end

section
/-!
PROOFS. O23 (SpringBegins): SPRING_RECEIVED fails with the lid open or TAMPER_n low, and else begins Table 4-4 or 4-5 (R70, R72, R153, R327, R344,
R372, R373, R388).
-/
namespace Sys2Proof.Machine

/-! ## With TAMPER_n low or the lid open (R388) -/

/-- The codes that end a Spring as it is received. -/
def tamperCodes (y : Tray) : List Nat := codeIf y.tamperLow 0x70 ++ codeIf y.lidOpen 0x71

theorem exec_springReceived_fails {s : State} {c : Pos} (hidle : atPhase (getChip s c) .idle = true)
    (h : s.tray.tamperLow = true ∨ s.tray.lidOpen = true) :
    exec (.springReceived c) s = .next (setChip s c (forEach (getChip s c) (tamperCodes s.tray) springFault)) := by
  have hor : (s.tray.tamperLow || s.tray.lidOpen) = true := by simpa using h
  refine (if_pos hidle).trans ((if_pos hor).trans (congrArg (fun k => Host.Outcome.next (setChip s c k)) ?_))
  unfold tamperCodes
  cases s.tray.tamperLow <;> cases s.tray.lidOpen <;> rfl

theorem springFault_ports (c : Chip) (code : Nat) : (springFault c code).ports = c.ports := by
  obtain ⟨l, d, h⟩ := springFault_eq c code
  rw [h]
  rfl

/-- What codes that fail Spring leave alone: the vault, the ports, HBM and the tenants. -/
structure FailureKept (k k' : Chip) : Prop where
  vault : k'.vault = k.vault
  ports : k'.ports = k.ports
  hbm : k'.hbm = k.hbm
  tenants : k'.tenants = k.tenants

theorem FailureKept.refl (k : Chip) : FailureKept k k := ⟨rfl, rfl, rfl, rfl⟩

theorem FailureKept.trans {a b c : Chip} (h : FailureKept a b) (g : FailureKept b c) : FailureKept a c :=
  ⟨g.vault.trans h.vault, g.ports.trans h.ports, g.hbm.trans h.hbm, g.tenants.trans h.tenants⟩

theorem failureKept_springFaults (c : Chip) (codes : List Nat) : FailureKept c (forEach c codes springFault) :=
  forEach_rel .refl .trans (fun c code _ => by
    obtain ⟨-, htenants, hvault, hhbm⟩ := springFault_keeps c code
    exact ⟨hvault, springFault_ports c code, hhbm, htenants⟩) c

theorem length_tamperCodes_le (y : Tray) : (tamperCodes y).length ≤ 2 := by
  have hlow := length_codeIf_le y.tamperLow 0x70
  have hlid := length_codeIf_le y.lidOpen 0x71
  rw [tamperCodes, List.length_append]
  omega

/-- With room in the fault list, each code raised is held, and Spring has failed. -/
theorem tamperCodes_held {c : Chip} {y : Tray} (h : y.tamperLow = true ∨ y.lidOpen = true) (hroom : c.faults.length < 15) :
    (forEach c (tamperCodes y) springFault).wake.phase = .failed ∧
      (y.tamperLow = true → holdsFault (forEach c (tamperCodes y) springFault) 0x70 = true) ∧
      (y.lidOpen = true → holdsFault (forEach c (tamperCodes y) springFault) 0x71 = true) := by
  have hlength := length_tamperCodes_le y
  have hheld {code : Nat} (hcode : code ∈ tamperCodes y) := springFaults_held (c := c) (codes := tamperCodes y) (by omega) (.inl hcode)
  have hlow (h : y.tamperLow = true) : 0x70 ∈ tamperCodes y := by simp [tamperCodes, codeIf, h]
  have hlid (h : y.lidOpen = true) : 0x71 ∈ tamperCodes y := by simp [tamperCodes, codeIf, h]
  exact ⟨h.elim (fun h => (hheld (hlow h)).1) (fun h => (hheld (hlid h)).1), fun h => (hheld (hlow h)).2, fun h => (hheld (hlid h)).2⟩

/-! ## The ports that may train (R153) -/

/-- A port of the list trains from step 1; any other stands as it stood. -/
theorem foldl_beginTraining_step (l : List PortNo) (g : Chip → PortNo → Port → Port) (c : Chip) (p : PortNo) :
    (portOf (l.foldl (fun c p => modPort c p (fun x => beginTraining (g c p x) .lanes)) c) p).step =
      if p ∈ l then .lanes else (portOf c p).step := by
  induction l generalizing c with
  | nil => rfl
  | cons q l ih =>
    rw [List.foldl_cons, ih]
    by_cases hq : p = q
    · subst hq
      rw [portOf_modPort_self, if_pos List.mem_cons_self]
      exact ite_self _
    · simp only [List.mem_cons, hq, false_or, portOf_modPort_ne c q p _ hq]

/-- A run of changes to ports changes the ports alone. -/
theorem foldl_modPort_eq (l : List PortNo) (g : Chip → PortNo → Port → Port) (c : Chip) :
    ∃ t, l.foldl (fun c p => modPort c p (g c p)) c = { c with ports := t } := by
  induction l generalizing c with
  | nil => exact ⟨c.ports, rfl⟩
  | cons q l ih =>
    obtain ⟨t, ht⟩ := ih (modPort c q (g c q))
    exact ⟨t, ht⟩

/-- A port as Spring finds it, before it trains. -/
def portAtSpring (c : Chip) (p : PortNo) (x : Port) : Port := { portOff x with mode := strappedMode c.wake.latched p, lastFault := 0 }

/-- A chip with every port as Spring finds it. -/
def portsAtSpring (c : Chip) : Chip := { c with ports := tabMap (portAtSpring c) c.ports }

theorem portOf_portsAtSpring_step (c : Chip) (p : PortNo) : (portOf (portsAtSpring c) p).step = .down := by
  have hport : portOf (portsAtSpring c) p = ((tabFind c.ports p).map (portAtSpring c p)).getD .reset := by
    rw [portOf, tabGet_eq_find]
    exact congrArg (Option.getD · Port.reset) (tabFind_tabMap (portAtSpring c) c.ports p)
  rw [hport]
  cases tabFind c.ports p <;> rfl

/-- A chip whose ports of a list train. -/
def portsTrain (l : List PortNo) (c : Chip) : Chip :=
  l.foldl (fun c p => modPort c p (fun x => beginTraining (portAtSpring c p x) .lanes)) (portsAtSpring c)

theorem startPorts_eq (s : State) (c : Pos) :
    startPorts s c = setChip s c (portsTrain ((List.finRange 64).filter (portEnabled s c)) (getChip s c)) := rfl

theorem onlyChip_startPorts (s : State) (c : Pos) : OnlyChip c s (startPorts s c) := onlyChip_modChip s c _

theorem portsTrain_eq (l : List PortNo) (c : Chip) : ∃ t, portsTrain l c = { c with ports := t } := by
  obtain ⟨t, h⟩ := foldl_modPort_eq l (fun c p x => beginTraining (portAtSpring c p x) .lanes) (portsAtSpring c)
  exact ⟨t, h⟩

/-- Whether a port may train does not turn on the ports. -/
theorem portEnabled_congr {s t : State} {c : Pos} (htray : t.tray = s.tray) {l : Tab PortNo Port}
    (hchip : getChip t c = { getChip s c with ports := l }) (p : PortNo) : portEnabled t c p = portEnabled s c p := by
  unfold portEnabled cageEnabled
  rw [hchip, htray]
  rfl

/-- At entry to Spring exactly the ports that may train do so. -/
theorem startPorts_trains (s : State) (c : Pos) (p : PortNo) :
    (portOf (getChip (startPorts s c) c) p).step = if portEnabled (startPorts s c) c p then .lanes else .down := by
  have hself : getChip (startPorts s c) c = portsTrain ((List.finRange 64).filter (portEnabled s c)) (getChip s c) := by
    rw [startPorts_eq, getChip_setChip_self]
  obtain ⟨l, hports⟩ := portsTrain_eq ((List.finRange 64).filter (portEnabled s c)) (getChip s c)
  rw [portEnabled_congr (s := s) (t := startPorts s c) rfl (hself.trans hports), hself, portsTrain, foldl_beginTraining_step, portOf_portsAtSpring_step]
  simp only [List.mem_filter, List.mem_finRange, true_and]

/-! ## Spring begins (Tables 4-4 and 4-5) -/

/-- The chip as step 1 begins. -/
def springBegun (now : Nat) (c : Chip) : Chip :=
  if (beginSpring c).wake.fromOff then
    { beginSpring c with vault := { (beginSpring c).vault with springOffAt := now, wipes := 0 } }
  else beginSpring c

theorem exec_springReceived_begins {s : State} {c : Pos} (hidle : atPhase (getChip s c) .idle = true) (hpin : s.tray.tamperLow = false)
    (hlid : s.tray.lidOpen = false) :
    exec (.springReceived c) s = .next (startPorts (setChip s c (springBegun s.tray.now (getChip s c))) c) :=
  (if_pos hidle).trans (if_neg (by simp [hpin, hlid]))

/-- The chip as both ways into Spring share it (R70, R327, R344, R372). -/
def springShared (c : Chip) : Chip :=
  modWake (clearDeviceSync
    { c with image := none, candidate := none, ingressTokens := [], unusedRecords := 0,
             vault := { c.vault with lifeCycle := c.fuses, hbmRefused := false },
             clusters := tabMap (fun _ k => { k with readTokens := 327680, writeTokens := 327680, egressTokens := 327680 }) c.clusters,
             tenants := tabMap (fun _ x => { x with loaded := false, state := .loading, syncTx := [], syncRx := [] }) c.tenants })
    (fun w => { w with phase := .pll, issueRate := 16, failedBank := none })

/-- From Off nothing is kept of counters, sync objects and tenants, but what a reset still owes (R373). -/
def springFresh (c : Chip) : Chip :=
  { springShared c with tenants := tabMap (fun _ x => owedReset x) (springShared c).tenants, counters := [], sync := [] }

theorem beginSpring_eq (c : Chip) : beginSpring c = if c.wake.fromOff then springFresh c else springShared c := rfl

theorem springBegun_off {c : Chip} (h : c.wake.fromOff = true) (now : Nat) :
    springBegun now c = { springFresh c with vault := { (springFresh c).vault with springOffAt := now, wipes := 0 } } := by
  rw [springBegun, beginSpring_eq, h, if_pos rfl]
  exact if_pos h

theorem springBegun_winter {c : Chip} (h : c.wake.fromOff = false) (now : Nat) : springBegun now c = springShared c := by
  rw [springBegun, beginSpring_eq, h, if_neg Bool.false_ne_true]
  exact if_neg (by exact Bool.eq_false_iff.1 h)

/-- Step 1 as both ways into Spring have it: what is latched and full, and what is left alone. -/
structure StepOne (k k' : Chip) : Prop where
  phase : k'.wake.phase = .pll
  issueRate : k'.wake.issueRate = 16
  season : k'.wake.season = k.wake.season
  image : k'.image = none
  lifeCycle : k'.vault.lifeCycle = k.fuses
  keys : k'.vault.keys = k.vault.keys
  hbm : k'.hbm = k.hbm
  faults : k'.faults = k.faults
  ingressTokens : k'.ingressTokens = []
  buckets : ∀ j x, tabFind k'.clusters j = some x → x.readTokens = 327680 ∧ x.writeTokens = 327680 ∧ x.egressTokens = 327680
  tenants : ∀ n x, tabFind k'.tenants n = some x → x.loaded = false ∧ x.syncTx = [] ∧ x.syncRx = []

theorem buckets_springShared {c : Chip} {j : ClusterNo} {x : Cluster} (h : tabFind (springShared c).clusters j = some x) :
    x.readTokens = 327680 ∧ x.writeTokens = 327680 ∧ x.egressTokens = 327680 := by
  obtain ⟨y, -, rfl⟩ := Option.map_eq_some_iff.1 ((tabFind_tabMap _ c.clusters j).symm.trans h)
  exact ⟨rfl, rfl, rfl⟩

theorem tenants_springShared {c : Chip} {n : Nat} {x : TenantCtx} (h : tabFind (springShared c).tenants n = some x) :
    x.loaded = false ∧ x.syncTx = [] ∧ x.syncRx = [] := by
  obtain ⟨y, -, rfl⟩ := Option.map_eq_some_iff.1 ((tabFind_tabMap _ c.tenants n).symm.trans h)
  exact ⟨rfl, rfl, rfl⟩

/-- From Off every tenant listed is one of whose context nothing is kept. -/
theorem tenants_springFresh {c : Chip} {n : Nat} {x : TenantCtx} (h : tabFind (springFresh c).tenants n = some x) :
    ∃ y, x = owedReset y := by
  obtain ⟨y, -, rfl⟩ := Option.map_eq_some_iff.1 ((tabFind_tabMap _ (springShared c).tenants n).symm.trans h)
  exact ⟨y, rfl⟩

theorem stepOne_springBegun (now : Nat) (c : Chip) : StepOne c (springBegun now c) := by
  cases hoff : c.wake.fromOff with
  | false =>
    rw [springBegun_winter hoff]
    exact ⟨rfl, rfl, rfl, rfl, rfl, rfl, rfl, rfl, rfl, fun _ _ => buckets_springShared, fun _ _ => tenants_springShared⟩
  | true =>
    rw [springBegun_off hoff]
    refine ⟨rfl, rfl, rfl, rfl, rfl, rfl, rfl, rfl, rfl, fun _ _ => buckets_springShared (c := c), fun n x h => ?_⟩
    obtain ⟨y, rfl⟩ := tenants_springFresh (c := c) h
    exact ⟨rfl, rfl, rfl⟩

/-- Settles O23. A Spring that fails raises its codes one after the other; one that begins is springBegun with the ports that may train. -/
theorem springBegins : Obligations.SpringBegins := by
  unfold Obligations.SpringBegins
  refine ⟨fun s c hseason hidle hopen hroom => ?_, fun s c hseason hidle hpin hlid => ?_⟩
  · refine ⟨_, exec_springReceived_fails ((atPhase_iff _ _).2 ⟨hseason, hidle⟩) hopen, onlyChip_setChip s c _, ?_⟩
    rw [getChip_setChip_self]
    obtain ⟨hphase, hlow, hlid⟩ := tamperCodes_held hopen hroom
    have hkept := failureKept_springFaults (getChip s c) (tamperCodes s.tray)
    exact ⟨hphase, hlow, hlid, hkept.vault, hkept.ports, hkept.hbm, hkept.tenants⟩
  · generalize hk : springBegun s.tray.now (getChip s c) = k
    have hone : StepOne (getChip s c) k := hk ▸ stepOne_springBegun s.tray.now (getChip s c)
    have hself := getChip_setChip_self s c k
    obtain ⟨l, hports⟩ := portsTrain_eq ((List.finRange 64).filter (portEnabled (setChip s c k) c)) k
    have hchip : getChip (startPorts (setChip s c k) c) c = { k with ports := l } := by
      rw [startPorts_eq, getChip_setChip_self, hself, hports]
    refine ⟨_, (exec_springReceived_begins ((atPhase_iff _ _).2 ⟨hseason, hidle⟩) hpin hlid).trans (by rw [hk]),
      onlyChip_trans (onlyChip_setChip s c k) (onlyChip_startPorts _ c), ?_⟩
    have htrains := startPorts_trains (setChip s c k) c
    generalize startPorts (setChip s c k) c = t at hchip htrains
    rw [hchip] at htrains ⊢
    refine ⟨hone.phase, hone.issueRate, hone.season.trans hseason, hone.image, hone.lifeCycle, hone.keys, hone.hbm, hone.faults, htrains,
      hone.buckets, fun u => ?_, hone.tenants, fun hoff => ?_, fun hwinter => ?_⟩
    · show tabGet 5242880 k.ingressTokens u = 5242880
      rw [hone.ingressTokens, tabGet_nil]
    · show k.counters = [] ∧ k.sync = [] ∧ k.vault.springOffAt = s.tray.now ∧ ∀ n x, tabFind k.tenants n = some x → _
      rw [← hk, springBegun_off hoff]
      refine ⟨rfl, rfl, rfl, fun n x h => ?_⟩
      obtain ⟨y, rfl⟩ := tenants_springFresh (c := getChip s c) h
      exact ⟨rfl, rfl, rfl, rfl⟩
    · show k.counters = (getChip s c).counters
      rw [← hk, springBegun_winter hwinter]
      rfl

end Sys2Proof.Machine
end

section
/-!
PROOFS. O47 (RequestsMeetTheirChecks): the checks of Table 9-4, one after the other, and the frames of unknown type.
-/
namespace Sys2Proof.Machine

/-! ## Checks 1 to 5 at the arrival chip -/

section
variable {c : Chip} {f : RxFrame} (hroute : f.route = none)
include hroute

theorem arrivalGate_trailer (htrailer : trailerFails f = true) : arrivalGate c f = .stop (countDev c 128 1) := by
  simp only [arrivalGate, hroute, htrailer, if_true]

theorem arrivalGate_header {d : Nat} (htrailer : trailerFails f = false) (hheader : badHeader f = some d) :
    arrivalGate c f = .stop (sendDone c f (doneInfo stBadHeader d)) := by
  simp only [arrivalGate, hroute, htrailer, hheader, Bool.false_eq_true, if_false]

variable (htrailer : trailerFails f = false) (hheader : badHeader f = none)
include htrailer hheader

/-- Check 3: a type that is no request, or a VC that carries none. -/
theorem arrivalGate_type (h : isHostRequest (rxHead f).type = false ∨ f.vc ≠ 1#2) :
    arrivalGate c f = .stop (sendDone c f (doneInfo stBadType (rxHead f).type)) := by
  have hbad : (!isHostRequest (rxHead f).type || decide (f.vc ≠ 1#2)) = true := by simpa using h
  simp only [arrivalGate, hroute, htrailer, hheader, hbad, Bool.false_eq_true, if_false, if_true]

variable (hrequest : isHostRequest (rxHead f).type = true) (hvc : f.vc = 1#2)
include hrequest hvc

theorem arrivalGate_tenant (htenant : tenantExists c (rxHead f).tenant = false) :
    arrivalGate c f = .stop (sendDone (countDev c 129 1) f (doneInfo stBadTensor 0)) := by
  simp [arrivalGate, hroute, htrailer, hheader, hrequest, hvc, htenant]

variable (htenant : tenantExists c (rxHead f).tenant = true)
include htenant

theorem arrivalGate_outside (hinside : destInside c (rxHead f).dest = false) :
    arrivalGate c f = .stop (sendDone c f (doneInfo stRange 0)) := by
  simp [arrivalGate, hroute, htrailer, hheader, hrequest, hvc, htenant, hinside]

theorem arrivalGate_onward (hinside : destInside c (rxHead f).dest = true) (hdest : (rxHead f).dest ≠ chipNo c) :
    arrivalGate c f = .stop (sendOn c f (rxHead f).dest) := by
  simp [arrivalGate, hroute, htrailer, hheader, hrequest, hvc, htenant, hinside, hdest]

end

/-! ## A wipe, a code that stops the chip, and checks 6 to 8 at the destination -/

section
variable {c : Chip} {f : RxFrame} {code : Nat}

theorem serveGate_wiped (hwipe : wipeCode c = some code) (htype : (rxHead f).type ≠ tyStatGet) :
    serveGate c f = .stop (sendFault c f code) := by
  simp only [serveGate, htype, hwipe, if_false]

variable (hwipe : wipeCode c = none)
include hwipe

theorem serveGate_stopped (hstop : stoppingFault c = some code) (hwrite : isReadback (rxHead f).type = false) :
    serveGate c f = .stop (sendFault c f code) := by
  simp only [serveGate, hwipe, ite_self, hstop, hwrite, Bool.false_eq_true, if_false]

variable (hstop : stoppingFault c = none)
include hstop

/-- The chip that checks 6 to 8 find: its RETRY is counted (R165). -/
def retryCounted (c : Chip) (f : RxFrame) : Chip := if rxFlag f flRetry then countTen c (rxHead f).tenant 14 1 else c

theorem serveGate_awaits (hreset : awaitsReset (ten c (rxHead f).tenant) = true) :
    serveGate c f = .stop (sendDone (retryCounted c f) f (doneInfo stTenantReset 0)) := by
  simp only [serveGate, hwipe, ite_self, hstop, hreset, if_true]
  rfl

variable (hreset : awaitsReset (ten c (rxHead f).tenant) = false)
include hreset

theorem serveGate_faulted (hfault : (ten c (rxHead f).tenant).fault ≠ 0)
    (hserved : isReadback (rxHead f).type = false ∨ (ten c (rxHead f).tenant).loaded = false) :
    serveGate c f = .stop (sendFault (retryCounted c f) f (ten c (rxHead f).tenant).fault) := by
  have hunserved : (isReadback (rxHead f).type && (ten c (rxHead f).tenant).loaded) = false := Bool.and_eq_false_iff.2 hserved
  simp only [serveGate, hwipe, ite_self, hstop, hreset, hunserved, hfault, Bool.false_eq_true, if_false, ne_eq, not_false_eq_true,
    decide_true, Bool.not_false, Bool.and_true, if_true]
  rfl

theorem serveGate_autumn (hfault : (ten c (rxHead f).tenant).fault = 0) (hseason : c.wake.season = .autumn)
    (hwrite : isWrite (rxHead f).type = true) : serveGate c f = .stop (sendDone (retryCounted c f) f (doneInfo stAutumn 0)) := by
  have hcounted : (if rxFlag f flRetry then countTen c (rxHead f).tenant 14 1 else c).wake.season = .autumn := by
    split
    · rwa [(sameBody_countTen c _ 14 1).wake]
    · exact hseason
  simp [serveGate, hwipe, hstop, hreset, hfault, hcounted, hwrite, retryCounted]

end

/-! ## The commands of host requests -/

/-- What the checks of Table 9-4 leave of a request. -/
def requestGate (c : Chip) (f : RxFrame) : Gate :=
  match arrivalGate c f with
  | .stop k => .stop k
  | .pass k => serveGate k f

theorem requestGate_of_stop {c k : Chip} {f : RxFrame} (h : arrivalGate c f = .stop k) : requestGate c f = .stop k := by
  rw [requestGate, h]

theorem requestGate_of_pass {c k : Chip} {f : RxFrame} (h : arrivalGate c f = .pass k) : requestGate c f = serveGate k f := by
  rw [requestGate, h]

theorem hostCommand_stops {s : State} {c : Pos} {f : RxFrame} {type : Nat} {k : Chip} (hlinks : linksOn (getChip s c) = true)
    (htype : (rxHead f).type = type) (hfirst : waitsBehind (getChip s c) f = false)
    (hstop : requestGate (consume (getChip s c) f) f = .stop k) (serve : Nat → Chip → RxFrame → Chip) :
    hostCommand type serve c f s = setChip s c k := by
  unfold requestGate at hstop
  unfold hostCommand
  simp only [hlinks, htype, hfirst, decide_true, Bool.not_false, Bool.and_true, if_true]
  cases harrival : arrivalGate (consume (getChip s c) f) f with
  | stop k' =>
    rw [harrival] at hstop
    obtain rfl := Gate.stop.inj hstop
    rfl
  | pass k' =>
    rw [harrival] at hstop
    dsimp only at hstop ⊢
    rw [hstop]

/-- A host request's command is hostCommand for its TYPE; a GRAD that is put back keeps its place in its pool besides. -/
theorem exec_request {i : Instr} {c : Pos} {f : RxFrame} {type : Nat} (h : requestOf i = some (c, f, type)) (s : State) :
    isHostRequest type = true ∧ ∃ serve, exec i s = .next (hostCommand type serve c f s) ∨
      exec i s = .next (keepInPool c f s (hostCommand type serve c f s)) := by
  unfold requestOf at h
  split at h
  case h_1 =>
    cases h
    exact ⟨rfl, _, .inr (exec_grad c f s)⟩
  case h_10 => cases h
  all_goals
    cases h
    exact ⟨rfl, _, .inl rfl⟩

/-- A request that the checks stop leaves the chip as they leave it. -/
theorem exec_request_stops {i : Instr} {s : State} {c : Pos} {f : RxFrame} {type : Nat} {k : Chip} (h : requestOf i = some (c, f, type))
    (hlinks : linksOn (getChip s c) = true) (htype : (rxHead f).type = type) (hfirst : waitsBehind (getChip s c) f = false)
    (hstop : requestGate (consume (getChip s c) f) f = .stop k) (hinbox : k.inbox = (consume (getChip s c) f).inbox) :
    exec i s = .next (setChip s c k) := by
  obtain ⟨-, serve, hexec | hexec⟩ := exec_request h s
  · rw [hexec, hostCommand_stops hlinks htype hfirst hstop]
  · rw [hexec, hostCommand_stops hlinks htype hfirst hstop, keepInPool_taken hinbox]

theorem retryCounted_consume (c : Chip) (f : RxFrame) : retryCounted (consume c f) f = taken c f true := by
  rw [taken, Bool.true_and]
  rfl

theorem inboxKept_sendFault (c : Chip) (f : RxFrame) (code : Nat) : InboxKept c (sendFault c f code) :=
  InboxKept.trans (b := sendReply c f _ _) ⟨rfl, rfl, rfl⟩ (inboxKept_countTen _ _ 13 1)

/-! ## Frames of unknown type (R166, Table 9-2) -/

theorem chipNo_consume (c : Chip) (f : RxFrame) : chipNo (consume c f) = chipNo c := by
  obtain ⟨l, h⟩ := consume_eq c f
  rw [h]
  rfl

section
variable {s : State} {c : Pos} {f : RxFrame} (hlinks : linksOn (getChip s c) = true) (hrequest : isHostRequest (rxHead f).type = false)
  (hchip : isChipFrame f = false) (hfirst : waitsBehind (getChip s c) f = false)
include hlinks hrequest hchip hfirst

/-- From a host it meets the checks of the arrival chip. -/
theorem exec_unknownFrameType_host {k : Chip} (hroute : f.route = none) (hstop : arrivalGate (consume (getChip s c) f) f = .stop k) :
    exec (.unknownFrameType c f) s = .next (setChip s c k) := by
  refine (if_pos (by simp [hlinks, hrequest, hchip, hfirst])).trans ?_
  simp only [hroute, hstop]

/-- From a chip it goes on, or is dropped and counted where it is. -/
theorem exec_unknownFrameType_link {r : Prefix} (hroute : f.route = some r) :
    exec (.unknownFrameType c f) s = .next (setChip s c
      (if r.targetChip.toNat ≠ chipNo (getChip s c) then passOn (consume (getChip s c) f) f r
       else countDev (consume (getChip s c) f) 130 1)) := by
  refine (if_pos (by simp [hlinks, hrequest, hchip, hfirst])).trans ?_
  simp only [hroute, chipNo_consume]

end

/-! ## O47 -/

/-- Settles O47. Each check stops a request at one branch of requestGate; a frame of unknown type meets the first three. -/
theorem requestsMeetTheirChecks : Obligations.RequestsMeetTheirChecks := by
  unfold Obligations.RequestsMeetTheirChecks
  refine ⟨?request, ?unknown, fun k f d => ⟨sendDone_outbox k f d, fun hok => sendDone_ok hok k f⟩⟩
  case request =>
    intro i c f type s k hrequest hlinks htype hroute hfirst hk
    obtain ⟨hlisted, -⟩ := exec_request hrequest s
    rw [← htype] at hlisted
    have hstops {k' : Chip} (hgate : requestGate k f = .stop k') (hinbox : k'.inbox = k.inbox) : exec i s = .next (setChip s c k') := by
      rw [hk] at hgate hinbox
      exact exec_request_stops hrequest hlinks htype hfirst hgate hinbox
    refine ⟨fun htrailer => ?_, fun d htrailer hheader => ?_, fun htrailer hheader => ⟨fun hvc => ?_, fun hvc htenant => ?_,
      fun hvc htenant => ⟨fun houtside => ?_, fun hinside hdest => ?_, fun hinside hdest => ?_⟩⟩⟩
    · exact hstops (requestGate_of_stop (arrivalGate_trailer hroute htrailer)) rfl
    · exact hstops (requestGate_of_stop (arrivalGate_header hroute htrailer hheader)) (inboxKept_sendDone _ _ _).inbox
    · rw [← htype]
      exact hstops (requestGate_of_stop (arrivalGate_type hroute htrailer hheader (.inr hvc))) (inboxKept_sendDone _ _ _).inbox
    · exact hstops (requestGate_of_stop (arrivalGate_tenant hroute htrailer hheader hlisted hvc htenant)) (inboxKept_sendDone _ _ _).inbox
    · exact hstops (requestGate_of_stop (arrivalGate_outside hroute htrailer hheader hlisted hvc htenant houtside))
        (inboxKept_sendDone _ _ _).inbox
    · exact hstops (requestGate_of_stop (arrivalGate_onward hroute htrailer hheader hlisted hvc htenant hinside hdest)) rfl
    · have hpass : requestGate k f = serveGate k f := requestGate_of_pass
        (arrivalGate_passes hlisted htrailer hheader hvc htenant (fun _ => ⟨hinside, hdest⟩) (fun r hr => by simp [hroute] at hr))
      have hcounted : retryCounted k f = taken (getChip s c) f true := by rw [hk, retryCounted_consume]
      have htaken : (taken (getChip s c) f true).inbox = k.inbox := by rw [taken_inbox, hk]
      refine ⟨fun code hwipe hstat => ?_, fun code hwipe hstop hwrite => ?_, fun hwipe hstop k' hk' => ?_⟩
      · exact hstops (hpass.trans (serveGate_wiped hwipe (by rw [htype]; exact hstat))) (inboxKept_sendFault _ _ _).inbox
      · exact hstops (hpass.trans (serveGate_stopped hwipe hstop (by rw [htype]; exact hwrite))) (inboxKept_sendFault _ _ _).inbox
      · rw [← hk'] at hcounted htaken
        refine ⟨fun hreset => ?_, fun hreset hfault hserved => ?_, fun hreset hfault hseason hwrite => ?_⟩
        · rw [← hcounted]
          exact hstops (hpass.trans (serveGate_awaits hwipe hstop hreset)) (by rw [(inboxKept_sendDone _ _ _).inbox, hcounted, htaken])
        · rw [← hcounted]
          exact hstops (hpass.trans (serveGate_faulted hwipe hstop hreset hfault (by rw [htype]; exact hserved)))
            (by rw [(inboxKept_sendFault _ _ _).inbox, hcounted, htaken])
        · rw [← hcounted]
          exact hstops (hpass.trans (serveGate_autumn hwipe hstop hreset hfault hseason (by rw [htype]; exact hwrite)))
            (by rw [(inboxKept_sendDone _ _ _).inbox, hcounted, htaken])
  case unknown =>
    intro c f s k hlinks hrequest hchip hfirst hk
    subst hk
    refine ⟨fun hroute htrailer hheader => ?_, fun r hroute hhere => ?_, fun r hroute haway => ?_⟩
    · exact exec_unknownFrameType_host hlinks hrequest hchip hfirst hroute (arrivalGate_type hroute htrailer hheader (.inl hrequest))
    · rw [exec_unknownFrameType_link hlinks hrequest hchip hfirst hroute, if_neg (not_not_intro hhere)]
    · rw [exec_unknownFrameType_link hlinks hrequest hchip hfirst hroute, if_pos haway]
      rfl

end Sys2Proof.Machine
end

section
/-!
PROOFS. Remote operations on sync objects: a SYNC_OP at its target, and a SYNC_ACK at the chip that sent the operation.
-/
namespace Sys2Proof.Machine

/-! ## What an operation on an object leaves -/

/-- Clusters and sync objects differ at most. -/
def SyncOnly (k k' : Chip) : Prop := k'.outbox = k.outbox ∧ k'.image = k.image ∧ k'.wake = k.wake ∧ ∀ t, ten k' t = ten k t

theorem SyncOnly.refl (k : Chip) : SyncOnly k k := ⟨rfl, rfl, rfl, fun _ => rfl⟩

theorem SyncOnly.trans {a b c : Chip} (h : SyncOnly a b) (g : SyncOnly b c) : SyncOnly a c := by
  obtain ⟨hout, himage, hwake, hten⟩ := h
  obtain ⟨gout, gimage, gwake, gten⟩ := g
  exact ⟨gout.trans hout, gimage.trans himage, gwake.trans hwake, fun t => (gten t).trans (hten t)⟩

theorem syncOnly_setSync (c : Chip) (n : Nat) (o : SyncObj) : SyncOnly c (setSync c n o) := ⟨rfl, rfl, rfl, fun _ => rfl⟩

theorem syncOnly_modCluster (c : Chip) (j : ClusterNo) (f : Cluster → Cluster) : SyncOnly c (modCluster c j f) := ⟨rfl, rfl, rfl, fun _ => rfl⟩

theorem syncOnly_applySync (c : Chip) (n code : Nat) (v : BitVec 32) : SyncOnly c (applySync c n code v) :=
  (syncOnly_setSync c n _).trans ((syncOnly_setSync _ n _).trans
    (forEach_rel .refl .trans (fun c (w : ClusterNo × BitVec 32) _ => syncOnly_modCluster c w.1 _) _))

theorem syncObj_applySync_ne (c : Chip) {n m : Nat} (h : m ≠ n) (code : Nat) (v : BitVec 32) :
    syncObj (applySync c n code v) m = syncObj c m := by
  rw [applySync, syncObj, sync_releaseWaiters]
  exact (syncObj_setSync_ne _ n m _ h).trans (syncObj_setSync_ne c n m _ h)

/-- The waiters that an operation leaves at its object are those whose condition does not hold after it. -/
theorem mem_waiters_applySync (c : Chip) (n code : Nat) (v : BitVec 32) (w : ClusterNo × BitVec 32) :
    w ∈ (syncObj (applySync c n code v) n).waiters ↔
      w ∈ (syncObj c n).waiters ∧ serialGe (syncEffect (syncObj c n) code v).c w.2 = false := by
  have hwaiters : (syncEffect (syncObj c n) code v).waiters = (syncObj c n).waiters := by
    unfold syncEffect
    split <;> rfl
  rw [applySync, syncObj_releaseWaiters_self, syncObj_setSync_self, List.mem_filter, hwaiters, Bool.not_eq_true']

/-! ## A SYNC_OP at its target -/

/-- A served frame is not a REDUCE unless its type says so: the chip has just taken it, with nothing counted. -/
theorem consume_eq_of_served {s : State} {c : Pos} {f : RxFrame} {type : Nat} {k : Chip} (h : ServedFrame s c f type k)
    (htype : type ≠ tyReduce) : consume (getChip s c) f = k := by
  obtain ⟨hk, -⟩ := h
  rw [hk, decide_eq_false htype, taken, Bool.false_and]
  exact (if_neg Bool.false_ne_true).symm

theorem chipCommand_served_taken {s : State} {c : Pos} {f : RxFrame} {type : Nat} {k : Chip} (h : ServedFrame s c f type k)
    (htype : type ≠ tyReduce) (serve : Nat → Chip → RxFrame → Chip) :
    chipCommand type serve c f s = setChip s c (serve s.tray.now k f) := by
  rw [chipCommand_served h, consume_eq_of_served h htype]

theorem exec_syncOp_served {s : State} {c : Pos} {f : RxFrame} {k : Chip} (h : ServedFrame s c f tySyncOp k) :
    exec (.syncOp c f) s = .next (setChip s c (takeSyncOp k f)) :=
  next_eq (chipCommand_served_taken h (by decide) _)

theorem exec_syncAck_served {s : State} {c : Pos} {f : RxFrame} {k : Chip} (h : ServedFrame s c f tySyncAck k) :
    exec (.syncAck c f) s = .next (setChip s c (takeSyncAck k f)) :=
  next_eq (chipCommand_served_taken h (by decide) _)

theorem originOf_routed {c : Chip} {f : RxFrame} {r : Prefix} (h : f.route = some r) : originOf c f = (r.originChip, r.originPort) := by
  rw [originOf, h]

/-- The SYNC_ACK that a chip answers a SYNC_OP with. -/
def ackTo (k : Chip) (f : RxFrame) (origin : Nat) (value : BitVec 32) : TxFrame :=
  chipTo k origin { rxHead f with version := 1, type := tySyncAck, vc := 0 }
    (sliceBytes f.frame.payload 0 2 ++ leBytes 2 0 ++ sliceBytes f.frame.payload 4 4 ++ bytesOf value 4 ++ leBytes 4 0)

/-- The SYNC_ACK tells the chip's own number, which operations on objects leave. -/
theorem sendAck_eq {k k' : Chip} (himage : k'.image = k.image) (hwake : k'.wake = k.wake) (f : RxFrame) (origin : Nat) (value : BitVec 32) :
    sendAck k' f origin value = { k' with outbox := k'.outbox ++ [ackTo k f origin value] } := by
  rw [ackTo, chipTo, ← chipNo_congr himage hwake]
  rfl

theorem takeSyncOp_badIndex {k : Chip} {f : RxFrame}
    (hindex : syncIndexOk k (rxHead f).tenant (fieldAt f.frame.payload 0 2) = false) :
    takeSyncOp k f = countTen k (rxHead f).tenant 34 1 := by
  simp [takeSyncOp, hindex]

section
variable {k : Chip} {f : RxFrame} {r : Prefix}
  (hdeaf : tenantDeaf k (ten k (rxHead f).tenant) = false) (hreset : (ten k (rxHead f).tenant).wasReset = false)
  (hroute : f.route = some r) (hcode : (rxHead f).aux < 4)
include hdeaf hreset hroute hcode

theorem takeSyncOp_goodIndex (hindex : syncIndexOk k (rxHead f).tenant (fieldAt f.frame.payload 0 2) = true) :
    takeSyncOp k f =
      (let n := syncNumber k (rxHead f).tenant (fieldAt f.frame.payload 0 2)
       if tabFind (ten k (rxHead f).tenant).syncRx r.originChip.toNat = some (rxHead f).seq then sendAck k f r.originChip.toNat (syncObj k n).c
       else
         let k' := applySync (modTen k (rxHead f).tenant (fun x => { x with syncRx := tabSet x.syncRx r.originChip.toNat (rxHead f).seq }))
           n (rxHead f).aux (BitVec.ofNat 32 (fieldAt f.frame.payload 4 4))
         sendAck k' f r.originChip.toNat (syncObj k' n).c) := by
  simp [takeSyncOp, hdeaf, hreset, hindex, Nat.not_le.2 hcode, originOf_routed hroute, modTen]

theorem takeSyncOp_repeated (hindex : syncIndexOk k (rxHead f).tenant (fieldAt f.frame.payload 0 2) = true)
    (hseen : tabFind (ten k (rxHead f).tenant).syncRx r.originChip.toNat = some (rxHead f).seq) :
    takeSyncOp k f = { k with outbox := k.outbox ++ [ackTo k f r.originChip.toNat
      (syncObj k (syncNumber k (rxHead f).tenant (fieldAt f.frame.payload 0 2))).c] } := by
  rw [takeSyncOp_goodIndex hdeaf hreset hroute hcode hindex]
  exact (if_pos hseen).trans (sendAck_eq rfl rfl f _ _)

/-- A SYNC_OP that no earlier one repeats has its effect of Table 18-2, on its own object alone, and is answered with the counter after it. -/
theorem takeSyncOp_applies {n : Nat} {o : SyncObj} (hn : n = syncNumber k (rxHead f).tenant (fieldAt f.frame.payload 0 2))
    (ho : o = syncEffect (syncObj k n) (rxHead f).aux (BitVec.ofNat 32 (fieldAt f.frame.payload 4 4)))
    (hindex : syncIndexOk k (rxHead f).tenant (fieldAt f.frame.payload 0 2) = true)
    (hnew : tabFind (ten k (rxHead f).tenant).syncRx r.originChip.toNat ≠ some (rxHead f).seq) :
    TenantFrame (rxHead f).tenant k (takeSyncOp k f) ∧
    (syncObj (takeSyncOp k f) n).c = o.c ∧ (syncObj (takeSyncOp k f) n).t = o.t ∧
    (∀ w, w ∈ (syncObj (takeSyncOp k f) n).waiters ↔ w ∈ (syncObj k n).waiters ∧ serialGe o.c w.2 = false) ∧
    (∀ m, m ≠ n → syncObj (takeSyncOp k f) m = syncObj k m) ∧
    tabFind (ten (takeSyncOp k f) (rxHead f).tenant).syncRx r.originChip.toNat = some (rxHead f).seq ∧
    (takeSyncOp k f).outbox = k.outbox ++ [ackTo k f r.originChip.toNat o.c] := by
  subst ho hn
  have htake := takeSyncOp_goodIndex hdeaf hreset hroute hcode hindex
  dsimp only at htake
  rw [if_neg hnew] at htake
  set n := syncNumber k (rxHead f).tenant (fieldAt f.frame.payload 0 2)
  set k₁ := modTen k (rxHead f).tenant fun x => { x with syncRx := tabSet x.syncRx r.originChip.toNat (rxHead f).seq } with hk₁
  set k₂ := applySync k₁ n (rxHead f).aux (BitVec.ofNat 32 (fieldAt f.frame.payload 4 4))
  obtain ⟨hout, himage, hwake, hten⟩ := syncOnly_applySync k₁ n (rxHead f).aux (BitVec.ofNat 32 (fieldAt f.frame.payload 4 4))
  obtain ⟨hc, ht⟩ := syncObj_applySync_self k₁ n (rxHead f).aux (BitVec.ofNat 32 (fieldAt f.frame.payload 4 4))
  rw [sendAck_eq (k := k) himage hwake, hc] at htake
  rw [htake]
  refine ⟨tenantFrame_trans (tenantFrame_modTen k _ _) (tenantFrame_applySync k₁ _ n _ _), hc, ht,
    fun w => mem_waiters_applySync k₁ n _ _ w, fun m hm => syncObj_applySync_ne k₁ hm _ _, ?_, congrArg (· ++ _) hout⟩
  have hrx : (ten k₁ (rxHead f).tenant).syncRx = tabSet (ten k (rxHead f).tenant).syncRx r.originChip.toNat (rxHead f).seq := by
    rw [hk₁, ten_modTen_self]
  exact (congrArg (fun x : TenantCtx => tabFind x.syncRx r.originChip.toNat) (hten _)).trans (by rw [hrx]; exact tabFind_tabSet_self _ _ _)

end

/-! ## A SYNC_ACK at the sender of the operation -/

/-- A task's wait for the acknowledgement of an operation that has no other one of its cluster behind it. -/
def waitsForAck (c : Chip) (t target : Nat) (s : SyncTx) (j : ClusterNo) : Bool :=
  (match (clusterOf c j).run with | some r => decide (r.task.tenant = t) && decide (r.waitFor = .ack target) | none => false) &&
    !s.waiting.any (fun w => decide (w.1 = j))

/-- An acknowledged operation: no longer outstanding, its task's wait over where no other operation of its cluster waits. -/
def acknowledged (c : Chip) (t target : Nat) (j : ClusterNo) : Chip :=
  let s := syncTxOf (ten c t) target
  let k := modTen c t (fun x => { x with syncTx := tabSet x.syncTx target { s with outstanding := none } })
  if waitsForAck k t target s j then modCluster k j (fun y => setWait y .released) else k

section
variable {k : Chip} {f : RxFrame} {r : Prefix} (hdeaf : tenantDeaf k (ten k (rxHead f).tenant) = false) (hroute : f.route = some r)
include hdeaf hroute

theorem takeSyncAck_other (h : ∀ j, (syncTxOf (ten k (rxHead f).tenant) r.originChip.toNat).outstanding ≠ some ((rxHead f).seq, j)) :
    takeSyncAck k f = k := by
  simp only [takeSyncAck, originOf_routed hroute, hdeaf, if_neg Bool.false_ne_true]
  split
  case h_1 seq j hout => exact if_neg fun hseq : seq = (rxHead f).seq => h j (hout.trans (by rw [hseq]))
  case h_2 => rfl

theorem takeSyncAck_outstanding {j : ClusterNo}
    (h : (syncTxOf (ten k (rxHead f).tenant) r.originChip.toNat).outstanding = some ((rxHead f).seq, j)) :
    takeSyncAck k f =
      pushSync (acknowledged k (rxHead f).tenant r.originChip.toNat j) (rxHead f).tenant r.originChip.toNat := by
  simp only [takeSyncAck, originOf_routed hroute, hdeaf, if_neg Bool.false_ne_true, h, if_true]
  rfl

end

/-! ### What follows once an operation is acknowledged -/

theorem syncTxOf_modTen_self (k : Chip) (t target : Nat) (g : SyncTx) :
    syncTxOf (ten (modTen k t fun x => { x with syncTx := tabSet x.syncTx target g }) t) target = g := by
  rw [ten_modTen_self]
  exact tabGet_tabSet_self _ _ _ _

/-- The chip as the acknowledgement leaves it, before the next operation leaves: the tenant's record of that target, and one cluster. -/
theorem acknowledged_keeps (k : Chip) (t target : Nat) (j : ClusterNo) :
    TenantFrame t k (acknowledged k t target j) ∧ (acknowledged k t target j).sync = k.sync ∧
      (acknowledged k t target j).outbox = k.outbox ∧
      syncTxOf (ten (acknowledged k t target j) t) target = { syncTxOf (ten k t) target with outstanding := none } := by
  unfold acknowledged
  dsimp only
  split
  · exact ⟨tenantFrame_trans (tenantFrame_modTen k t _) (tenantFrame_setWait _ t j _), rfl, rfl, syncTxOf_modTen_self k t target _⟩
  · exact ⟨tenantFrame_modTen k t _, rfl, rfl, syncTxOf_modTen_self k t target _⟩

/-- With no other operation waiting for that target, the task that waits for the acknowledgement is released. -/
theorem run_acknowledged {k : Chip} {t target : Nat} {j : ClusterNo} {u : RunTask}
    (hwaiting : (syncTxOf (ten k t) target).waiting = []) (hrun : (clusterOf k j).run = some u) (htenant : u.task.tenant = t)
    (hwait : u.waitFor = .ack target) : (clusterOf (acknowledged k t target j) j).run = some { u with waitFor := .released } := by
  have hrun₁ (g : TenantCtx → TenantCtx) : (clusterOf (modTen k t g) j).run = some u := hrun
  unfold acknowledged
  dsimp only
  rw [waitsForAck, hrun₁, hwaiting]
  simp only [htenant, hwait, decide_true, List.any_nil, Bool.not_false, Bool.and_true, if_true, clusterOf_modCluster_self]
  exact (run_setWait (hrun₁ _) .released).trans rfl

theorem pushSync_none {c : Chip} {t target : Nat} (h : (syncTxOf (ten c t) target).waiting = []) : pushSync c t target = c := by
  unfold pushSync
  dsimp only
  split
  case h_1 hwaiting => exact absurd (h.symm.trans hwaiting) (List.cons_ne_nil _ _).symm
  case h_2 => rfl

theorem pushSync_next {c : Chip} {t target : Nat} {j : ClusterNo} {g : TxFrame} {rest : List (ClusterNo × TxFrame)}
    (hout : (syncTxOf (ten c t) target).outstanding = none) (h : (syncTxOf (ten c t) target).waiting = (j, g) :: rest) :
    pushSync c t target = emit (modTen c t (fun x => { x with
      syncTx := tabSet x.syncTx target
        { syncTxOf (ten c t) target with outstanding := some ((parseHdr g.frame.hdr).seq, j), waiting := rest } })) g := by
  unfold pushSync
  dsimp only
  rw [h, hout]
  rfl

theorem pushSync_sync (c : Chip) (t target : Nat) : (pushSync c t target).sync = c.sync := by
  unfold pushSync
  dsimp only
  split <;> rfl

/-- Settles O56: a SYNC_OP is dropped, answered again or applied by what the tenant's index and record of its sender say, and a SYNC_ACK ends the
operation outstanding to its sender, whose next one then leaves. -/
theorem syncOperationsTakeEffectOnce : Obligations.SyncOperationsTakeEffectOnce := by
  unfold Obligations.SyncOperationsTakeEffectOnce
  refine ⟨?op, ?ack⟩
  case op =>
    intro s c f k r n hserved hroute hn hcode
    obtain ⟨-, -, -, -, -, -, -, hdeaf, hreset⟩ := id hserved
    rw [exec_syncOp_served hserved]
    refine ⟨fun hindex => ?bad, fun hindex hseen => ?repeated, fun hindex hnew => ?fresh⟩
    case bad => rw [takeSyncOp_badIndex hindex]
    case repeated =>
      rw [takeSyncOp_repeated hdeaf hreset hroute hcode hindex hseen, hn]
      rfl
    case fresh =>
      obtain ⟨hframe, happlied⟩ := takeSyncOp_applies hdeaf hreset hroute hcode hn rfl hindex hnew
      refine ⟨_, syncEffect (syncObj k n) (rxHead f).aux (BitVec.ofNat 32 (fieldAt f.frame.payload 4 4)), rfl, onlyChip_setChip s c _, ?_⟩
      rw [getChip_setChip_self]
      exact ⟨hframe, rfl, happlied⟩
  case ack =>
    intro s c f k r x hserved hroute hx
    obtain ⟨-, -, -, -, -, -, -, hdeaf, -⟩ := id hserved
    rw [exec_syncAck_served hserved]
    subst hx
    refine ⟨fun hother => by rw [takeSyncAck_other hdeaf hroute hother], fun j hj => ⟨_, rfl, onlyChip_setChip s c _, ?_⟩⟩
    rw [getChip_setChip_self, takeSyncAck_outstanding hdeaf hroute hj]
    obtain ⟨hframe, hsync, hout, hrecord⟩ := acknowledged_keeps k (rxHead f).tenant r.originChip.toNat j
    refine ⟨tenantFrame_trans hframe (tenantFrame_pushSync _ _ _), (pushSync_sync _ _ _).trans hsync, fun hempty => ?_,
      fun j' g rest hnext => ?_⟩
    · rw [pushSync_none (by rw [hrecord]; exact hempty)]
      exact ⟨hrecord, hout, fun u hrun htenant hwait => run_acknowledged hempty hrun htenant hwait⟩
    · rw [pushSync_next (by rw [hrecord]) (by rw [hrecord]; exact hnext), hrecord]
      exact ⟨congrArg (· ++ [g]) hout, syncTxOf_modTen_self _ _ _ _⟩

end Sys2Proof.Machine
end

section
/-!
PROOFS. What settling a step leaves alone (chapter 12): everything but one tenant, and of that tenant what it knows of its VERDICTs, the
verdict timers, and which steps are resolved and committed.
-/
namespace Sys2Proof.Machine

/-! ## What a tenant knows of its steps -/

/-- The loss-scale exponent, the latest resolved and committed steps, and each step's VERDICT and timer are as they were. -/
structure SameMarks (x x' : TenantCtx) : Prop where
  lsExp : x'.lsExp = x.lsExp
  resolved : x'.resolved = x.resolved
  committed : x'.committed = x.committed
  verdict : ∀ n, (stepRec x' n).verdict = (stepRec x n).verdict
  timer : ∀ n, (stepRec x' n).timer = (stepRec x n).timer

theorem sameMarks_of_steps {x x' : TenantCtx} (hexp : x'.lsExp = x.lsExp) (hresolved : x'.resolved = x.resolved)
    (hcommitted : x'.committed = x.committed) (hsteps : x'.steps = x.steps) : SameMarks x x' :=
  have hrec (n : Nat) : stepRec x' n = stepRec x n := by rw [stepRec, stepRec, hsteps]
  ⟨hexp, hresolved, hcommitted, fun n => by rw [hrec], fun n => by rw [hrec]⟩

theorem SameMarks.refl (x : TenantCtx) : SameMarks x x := sameMarks_of_steps rfl rfl rfl rfl

theorem SameMarks.trans {a b c : TenantCtx} (h : SameMarks a b) (g : SameMarks b c) : SameMarks a c :=
  ⟨g.lsExp.trans h.lsExp, g.resolved.trans h.resolved, g.committed.trans h.committed, fun n => (g.verdict n).trans (h.verdict n),
    fun n => (g.timer n).trans (h.timer n)⟩

/-- A record of a step changed in neither its VERDICT nor its timer. -/
theorem sameMarks_modStepRec (x : TenantCtx) (step : Nat) {f : StepRec → StepRec} (hverdict : ∀ r, (f r).verdict = r.verdict)
    (htimer : ∀ r, (f r).timer = r.timer) : SameMarks x (modStepRec x step f) := by
  have hrec (n : Nat) : (stepRec (modStepRec x step f) n).verdict = (stepRec x n).verdict ∧
      (stepRec (modStepRec x step f) n).timer = (stepRec x n).timer := by
    by_cases hn : n = step
    · rw [hn, stepRec_modStepRec_self]
      exact ⟨hverdict _, htimer _⟩
    · have hother : stepRec (modStepRec x step f) n = stepRec x n := tabGet_tabSet_ne _ _ _ _ _ hn
      rw [hother]
      exact ⟨rfl, rfl⟩
  exact ⟨rfl, rfl, rfl, fun n => (hrec n).1, fun n => (hrec n).2⟩

/-! ## Pages of a tenant -/

/-- Frames, pages, pending lines and the stall may differ. -/
def SameButPages (x x' : TenantCtx) : Prop := ∃ fr pg pl st, x' = { x with frames := fr, pages := pg, pendLines := pl, stalled := st }

theorem SameButPages.refl (x : TenantCtx) : SameButPages x x := ⟨x.frames, x.pages, x.pendLines, x.stalled, rfl⟩

theorem SameButPages.trans {a b c : TenantCtx} (h : SameButPages a b) (g : SameButPages b c) : SameButPages a c := by
  obtain ⟨_, _, _, _, rfl⟩ := h
  obtain ⟨_, _, _, _, rfl⟩ := g
  exact ⟨_, _, _, _, rfl⟩

theorem SameButPages.marks {x x' : TenantCtx} (h : SameButPages x x') : SameMarks x x' := by
  obtain ⟨_, _, _, _, rfl⟩ := h
  exact (sameMarks_of_steps rfl rfl rfl rfl)

theorem SameButPages.shards {x x' : TenantCtx} (h : SameButPages x x') : x'.shards = x.shards := by
  obtain ⟨_, _, _, _, rfl⟩ := h
  rfl

theorem sameButPages_foldl {f : TenantCtx → Nat → TenantCtx} (h : ∀ x n, SameButPages x (f x n)) (l : List Nat) (x : TenantCtx) :
    SameButPages x (l.foldl f x) := by
  induction l generalizing x with
  | nil => exact .refl x
  | cons n l ih => exact (h x n).trans (ih _)

theorem sameButPages_returnSpill (step : Nat) (x : TenantCtx) (page : Nat) : SameButPages x (returnSpill step x page) := by
  unfold returnSpill
  dsimp only
  split
  · exact .refl x
  · exact ⟨_, _, _, _, rfl⟩

theorem sameButPages_swapLive (step : Nat) (x : TenantCtx) (page : Nat) : SameButPages x (swapLive step x page) := by
  unfold swapLive
  dsimp only
  split
  · exact .refl x
  · exact ⟨_, _, _, _, rfl⟩

/-! ## TurnKept -/

/-- What moving a tenant's lines leaves of a chip: of the tenant, all but its pages. -/
structure TurnKept (t : Nat) (k k' : Chip) : Prop where
  wake : k'.wake = k.wake
  vault : k'.vault = k.vault
  ports : k'.ports = k.ports
  image : k'.image = k.image
  faults : k'.faults = k.faults
  others : ∀ u, u ≠ t → ten k' u = ten k u
  tenant : SameButPages (ten k t) (ten k' t)

theorem TurnKept.refl (t : Nat) (k : Chip) : TurnKept t k k := ⟨rfl, rfl, rfl, rfl, rfl, fun _ _ => rfl, .refl _⟩

theorem TurnKept.trans {t : Nat} {a b c : Chip} (h : TurnKept t a b) (g : TurnKept t b c) : TurnKept t a c :=
  ⟨g.wake.trans h.wake, g.vault.trans h.vault, g.ports.trans h.ports, g.image.trans h.image, g.faults.trans h.faults,
    fun u hu => (g.others u hu).trans (h.others u hu), h.tenant.trans g.tenant⟩

/-- Clusters, cache lines, HBM and sync objects may differ. -/
theorem turnKept_memory (t : Nat) (c : Chip) (cl : Tab ClusterNo Cluster) (li : Tab Nat SliceLine) (hb : Mem Byte) (n : Nat)
    (sy : Tab Nat SyncObj) : TurnKept t c { c with clusters := cl, lines := li, hbm := hb, lineClock := n, sync := sy } :=
  ⟨rfl, rfl, rfl, rfl, rfl, fun _ _ => rfl, .refl _⟩

theorem turnKept_modTen (c : Chip) (t : Nat) {f : TenantCtx → TenantCtx} (h : SameButPages (ten c t) (f (ten c t))) :
    TurnKept t c (modTen c t f) :=
  ⟨rfl, rfl, rfl, rfl, rfl, fun u hu => ten_modTen_ne c t u f hu, by rw [ten_modTen_self]; exact h⟩

theorem turnKept_forEach {α : Type} {t : Nat} {f : Chip → α → Chip} (h : ∀ c x, TurnKept t c (f c x)) (l : List α) (c : Chip) :
    TurnKept t c (forEach c l f) :=
  forEach_rel (.refl t) .trans (fun c x _ => h c x) c

theorem turnKept_turnLine (t : Nat) (c : Chip) (l : PendLine) : TurnKept t c (turnLine t c l) := by
  have herased : TurnKept t c (modTen c t fun x => { x with pendLines := x.pendLines.erase l }) := turnKept_modTen c t ⟨_, _, _, _, rfl⟩
  unfold turnLine
  dsimp only
  split <;> exact herased.trans (turnKept_memory t _ _ _ _ _ _)

theorem turnKept_copyPage (a : ArrayInfo) (t tensor shard step : Nat) (c : Chip) (page : Nat) :
    TurnKept t c (copyPage a t tensor shard step c page) := by
  unfold copyPage
  dsimp only
  split
  · split
    · exact turnKept_memory t c _ _ _ _ _
    · exact .refl t c
  · exact .refl t c

theorem turnKept_storeTensorLine (t tensor shard array hint : Nat) (c : Chip) (n : Nat) (mask : BitVec 128) :
    TurnKept t c (storeTensorLine false t tensor shard array hint c n mask) := by
  unfold storeTensorLine
  dsimp only
  split
  · exact turnKept_memory t c _ _ _ _ _
  · rw [if_neg Bool.false_ne_true]
    split <;> exact turnKept_memory t c _ _ _ _ _

/-! ### The parts of a commit's turn -/

/-- The pending lines of a shard and step turned into dirty lines. -/
def turnedLines (t tensor shard step : Nat) (c : Chip) : Chip :=
  ((ten c t).pendLines.filter (fun l => decide (l.tensor = tensor) && decide (l.shard = shard) && decide (l.step = step))).foldl (turnLine t) c

/-- Pages of a shard completed and swapped in, and the lines that a stage wrote directly stored. -/
def placedPages (a : ArrayInfo) (t tensor shard step : Nat) (pages : List Nat) (loose : List (Nat × Nat × BitVec 128)) (c : Chip) : Chip :=
  loose.foldl (fun c p => storeTensorLine false t tensor shard p.1 0 c p.2.1 p.2.2)
    (modTen (pages.foldl (copyPage a t tensor shard step) c) t (fun x => pages.foldl (swapLive step) { x with stalled := false }))

/-- A commit's turn moves lines, makes the shard's pending bytes committed ones, and moves pages. -/
theorem turnOver_eq (a : ArrayInfo) (t tensor shard step : Nat) (c : Chip) : ∃ pages loose spilled, turnOver a t tensor shard step c =
    placedPages a t tensor shard step pages loose
      (modTen (turnedLines t tensor shard step c) t (fun x => modShard x tensor shard (commitBytes a step spilled))) :=
  ⟨_, _, _, rfl⟩

theorem turnKept_turnedLines (t tensor shard step : Nat) (c : Chip) : TurnKept t c (turnedLines t tensor shard step c) :=
  turnKept_forEach (turnKept_turnLine t) _ c

theorem turnKept_placedPages (a : ArrayInfo) (t tensor shard step : Nat) (pages : List Nat) (loose : List (Nat × Nat × BitVec 128))
    (c : Chip) : TurnKept t c (placedPages a t tensor shard step pages loose c) := by
  have hcopied : TurnKept t c (pages.foldl (copyPage a t tensor shard step) c) := turnKept_forEach (turnKept_copyPage a t tensor shard step) pages c
  have hstalled (x : TenantCtx) : SameButPages x { x with stalled := false } := ⟨_, _, _, _, rfl⟩
  exact (hcopied.trans (turnKept_modTen _ t ((hstalled _).trans (sameButPages_foldl (sameButPages_swapLive step) pages _)))).trans
    (turnKept_forEach (fun c (p : Nat × Nat × BitVec 128) => turnKept_storeTensorLine t tensor shard p.1 0 c p.2.1 p.2.2) loose _)

/-! ## SettleKept -/

/-- What settling a step of tenant t leaves of a chip. -/
structure SettleKept (t : Nat) (k k' : Chip) : Prop where
  wake : k'.wake = k.wake
  vault : k'.vault = k.vault
  ports : k'.ports = k.ports
  image : k'.image = k.image
  faults : k'.faults = k.faults
  others : ∀ u, u ≠ t → ten k' u = ten k u
  marks : SameMarks (ten k t) (ten k' t)

theorem SettleKept.refl (t : Nat) (k : Chip) : SettleKept t k k := ⟨rfl, rfl, rfl, rfl, rfl, fun _ _ => rfl, .refl _⟩

theorem SettleKept.trans {t : Nat} {a b c : Chip} (h : SettleKept t a b) (g : SettleKept t b c) : SettleKept t a c :=
  ⟨g.wake.trans h.wake, g.vault.trans h.vault, g.ports.trans h.ports, g.image.trans h.image, g.faults.trans h.faults,
    fun u hu => (g.others u hu).trans (h.others u hu), h.marks.trans g.marks⟩

theorem TurnKept.settleKept {t : Nat} {k k' : Chip} (h : TurnKept t k k') : SettleKept t k k' :=
  ⟨h.wake, h.vault, h.ports, h.image, h.faults, h.others, h.tenant.marks⟩

theorem settleKept_memory (t : Nat) (c : Chip) (cl : Tab ClusterNo Cluster) (li : Tab Nat SliceLine) (hb : Mem Byte) (n : Nat)
    (sy : Tab Nat SyncObj) : SettleKept t c { c with clusters := cl, lines := li, hbm := hb, lineClock := n, sync := sy } :=
  (turnKept_memory t c cl li hb n sy).settleKept

theorem settleKept_modTen (c : Chip) (t : Nat) {f : TenantCtx → TenantCtx} (h : SameMarks (ten c t) (f (ten c t))) :
    SettleKept t c (modTen c t f) :=
  ⟨rfl, rfl, rfl, rfl, rfl, fun u hu => ten_modTen_ne c t u f hu, by rw [ten_modTen_self]; exact h⟩

/-- Writing a record of a shard in a step leaves what the tenant knows of its steps. -/
theorem settleKept_modShardStep (c : Chip) (t tensor shard step : Nat) (g : ShardStep → ShardStep) :
    SettleKept t c (modTen c t fun x => modShardStep x tensor shard step g) :=
  settleKept_modTen c t (sameMarks_of_steps rfl rfl rfl rfl)

theorem settleKept_ite {p : Prop} [Decidable p] {t : Nat} {k a b : Chip} (ha : SettleKept t k a) (hb : SettleKept t k b) :
    SettleKept t k (if p then a else b) := by
  split
  · exact ha
  · exact hb

theorem settleKept_forEach {α : Type} {t : Nat} {f : Chip → α → Chip} (h : ∀ c x, SettleKept t c (f c x)) (l : List α) (c : Chip) :
    SettleKept t c (forEach c l f) :=
  forEach_rel (.refl t) .trans (fun c x _ => h c x) c

theorem settleKept_countTen (c : Chip) (t i n : Nat) : SettleKept t c (countTen c t i n) := by
  unfold countTen
  split
  · exact settleKept_modTen c t (sameMarks_of_steps rfl rfl rfl rfl)
  · exact .refl t c

/-! ## Pending state that goes, and stages that run again -/

theorem settleKept_endTasks (c : Chip) (t : Nat) (p : Task → Bool) : SettleKept t c (endTasks c p) := settleKept_memory t c _ _ _ _ _

/-- A record of a shard with nothing pending. -/
def withoutPending (r : ShardStep) : ShardStep := { r with pend := [], pendAmax := none, pendPoison := [] }

theorem discardPending_eq (c : Chip) (t tensor shard step : Nat) : ∃ x, SameButPages (ten c t) x ∧
    discardPending c t tensor shard step = modTen c t (fun _ => modShardStep x tensor shard step withoutPending) :=
  have herased : SameButPages (ten c t) { ten c t with pendLines := (ten c t).pendLines.filter (fun l =>
      !(decide (l.tensor = tensor) && decide (l.shard = shard) && decide (l.step = step))) } := ⟨_, _, _, _, rfl⟩
  ⟨_, (herased.trans (sameButPages_foldl (sameButPages_returnSpill step) _ _)).trans ⟨_, _, _, false, rfl⟩, rfl⟩

theorem settleKept_discardPending (c : Chip) (t tensor shard step : Nat) : SettleKept t c (discardPending c t tensor shard step) := by
  obtain ⟨x, hpages, heq⟩ := discardPending_eq c t tensor shard step
  rw [heq]
  exact settleKept_modTen c t (hpages.marks.trans (sameMarks_of_steps rfl rfl rfl rfl))

theorem settleKept_queueUpdate (c : Chip) (t tensor shard step : Nat) : SettleKept t c (queueUpdate c t tensor shard step) := by
  unfold queueUpdate
  split
  · exact .refl t c
  · exact (settleKept_modShardStep c t tensor shard step _).trans
      (settleKept_forEach (fun c _ => settleKept_memory t c _ _ _ _ _) _ _)

theorem settleKept_rerunWith (c : Chip) (t tensor shard step : Nat) (f : Word) : SettleKept t c (rerunWith c t tensor shard step f) :=
  (settleKept_queueUpdate c t tensor shard step).trans (settleKept_modShardStep _ t tensor shard step _)

/-- The tasks of a stage end, and its pending state goes with them. -/
theorem settleKept_discard (c : Chip) (t tensor shard step : Nat) :
    SettleKept t c (discardPending (endTasks c (isUpdateOf t tensor shard step)) t tensor shard step) :=
  (settleKept_endTasks c t _).trans (settleKept_discardPending _ t tensor shard step)

theorem settleKept_cascade (c : Chip) (t tensor shard step : Nat) : SettleKept t c (cascade c t tensor shard step) := by
  unfold cascade
  split
  · have howed := (settleKept_discard c t tensor shard step).trans (settleKept_modShardStep _ t tensor shard step
      (fun r => { r with update := .none, rerunDue := true, tilesDone := [], direct := false }))
    dsimp only
    split
    · exact howed.trans (settleKept_modTen _ t (sameMarks_modStepRec _ step (fun _ => rfl) fun _ => rfl))
    · exact (howed.trans (settleKept_countTen _ t 23 1)).trans
        (settleKept_modTen _ t (sameMarks_modStepRec _ step (fun _ => rfl) fun _ => rfl))
  · exact .refl t c

theorem settleKept_dropPending (c : Chip) (t tensor shard step : Nat) : SettleKept t c (dropPending c t tensor shard step) :=
  (settleKept_discard c t tensor shard step).trans (settleKept_cascade _ t tensor shard (step + 1))

/-! ## Lines that turn over -/

theorem settleKept_turnOver (a : ArrayInfo) (t tensor shard step : Nat) (c : Chip) : SettleKept t c (turnOver a t tensor shard step c) := by
  obtain ⟨pages, loose, spilled, hturn⟩ := turnOver_eq a t tensor shard step c
  rw [hturn]
  exact ((turnKept_turnedLines t tensor shard step c).settleKept.trans
    (settleKept_modTen _ t (sameMarks_of_steps rfl rfl rfl rfl))).trans (turnKept_placedPages a t tensor shard step pages loose _).settleKept

theorem settleKept_dropAcc (c : Chip) (t tensor shard step : Nat) : SettleKept t c (dropAcc c t tensor shard step) := by
  unfold dropAcc
  dsimp only
  exact (settleKept_memory t c _ _ _ _ _).trans (settleKept_modTen _ t (sameMarks_of_steps rfl rfl rfl rfl))

theorem settleKept_finishStep (c : Chip) (t tensor shard step : Nat) (rolledBack : Bool) (g : Shard → Shard) :
    SettleKept t c (finishStep c t tensor shard step rolledBack g) :=
  (settleKept_modTen c t (sameMarks_of_steps rfl rfl rfl rfl)).trans (settleKept_dropAcc _ t tensor shard step)

/-! ## A step that settles -/

theorem settleKept_rerunShard (c : Chip) (t tensor shard step : Nat) : SettleKept t c (rerunShard c t tensor shard step) := by
  unfold rerunShard
  dsimp only
  split
  · exact settleKept_ite (settleKept_ite (settleKept_modShardStep c t tensor shard step _) (settleKept_rerunWith c t tensor shard step _))
      (.refl t c)
  · exact .refl t c

theorem settleKept_earlyEffect (c : Chip) (t tensor shard step : Nat) : SettleKept t c (earlyEffect c t tensor shard step) := by
  unfold earlyEffect
  dsimp only
  split
  · split
    · split
      · exact .refl t c
      · exact (settleKept_discard c t tensor shard step).trans (settleKept_modShardStep _ t tensor shard step _)
    · split
      · exact .refl t c
      · split
        · split
          · exact settleKept_modShardStep c t tensor shard step _
          · split
            · exact (settleKept_dropPending c t tensor shard step).trans (settleKept_rerunWith _ t tensor shard step _)
            · exact .refl t c
        · split
          · exact (settleKept_modShardStep c t tensor shard step _).trans (settleKept_modTen _ t (sameMarks_of_steps rfl rfl rfl rfl))
          · exact (settleKept_turnOver _ t tensor shard step c).trans (settleKept_modShardStep _ t tensor shard step _)
  · exact .refl t c

theorem settleKept_applyShard (c : Chip) (t tensor shard step : Nat) : SettleKept t c (applyShard c t tensor shard step) := by
  unfold applyShard
  dsimp only
  split
  · split
    · exact .refl t c
    · split
      · exact (settleKept_dropPending c t tensor shard step).trans (settleKept_finishStep _ t tensor shard step true id)
      · split
        · exact settleKept_finishStep c t tensor shard step true _
        · split
          · exact (settleKept_dropPending c t tensor shard step).trans (settleKept_rerunWith _ t tensor shard step _)
          · exact (settleKept_turnOver _ t tensor shard step c).trans (settleKept_finishStep _ t tensor shard step false _)
  · exact .refl t c

theorem settleKept_arrive (c : Chip) (t step : Nat) : SettleKept t c (arrive c t step) := by
  unfold arrive
  dsimp only
  split
  · exact .refl t c
  · split
    · exact .refl t c
    · exact (settleKept_memory t c _ _ _ _ _).trans (settleKept_modTen _ t (sameMarks_modStepRec _ step (fun _ => rfl) fun _ => rfl))

theorem settleKept_settleStep (c : Chip) (t step : Nat) : SettleKept t c (settleStep t step c) := by
  have hreruns := settleKept_forEach (fun c (p : Nat × Nat) => settleKept_rerunShard c t p.1 p.2 step) (homedShards c t) c
  have hearly := hreruns.trans (settleKept_forEach (fun c (p : Nat × Nat) => settleKept_earlyEffect c t p.1 p.2 step) (homedShards c t) _)
  have happlied := hearly.trans (settleKept_forEach (fun c (p : Nat × Nat) => settleKept_applyShard c t p.1 p.2 step) (homedShards c t) _)
  exact happlied.trans (settleKept_arrive _ t step)

/-- Settling a step and the one after it decides, resolves and commits no step. -/
theorem settleKept_settle2 (c : Chip) (t step : Nat) : SettleKept t c (settle2 t step c) :=
  (settleKept_settleStep c t step).trans (settleKept_settleStep _ t (step + 1))

end Sys2Proof.Machine
end

section
/-!
PROOFS. A VERDICT applied to a shard whose stage is over (Table 12-1): a commit makes its pending bytes committed state, a roll back keeps that
state.
-/
namespace Sys2Proof.Machine

/-! ## Committed state -/

/-- The arrays of every shard, and the steps they stand at, are as they were. -/
def SameArrays (x x' : TenantCtx) : Prop :=
  ∀ m n, (shardOf x' m n).arrays = (shardOf x m n).arrays ∧ (shardOf x' m n).stateStep = (shardOf x m n).stateStep

theorem sameArrays_of_shards {x x' : TenantCtx} (h : x'.shards = x.shards) : SameArrays x x' := fun m n => by
  rw [shardOf, shardOf, h]
  exact ⟨rfl, rfl⟩

theorem SameArrays.refl (x : TenantCtx) : SameArrays x x := sameArrays_of_shards rfl

theorem SameArrays.trans {a b c : TenantCtx} (h : SameArrays a b) (g : SameArrays b c) : SameArrays a c := fun m n =>
  ⟨(g m n).1.trans (h m n).1, (g m n).2.trans (h m n).2⟩

theorem sameArrays_modShardStep (x : TenantCtx) (tensor shard step : Nat) (g : ShardStep → ShardStep) :
    SameArrays x (modShardStep x tensor shard step g) := fun m n => by
  refine ⟨arrays_modShardStep x tensor shard step g m n, ?_⟩
  by_cases h : (m, n) = (tensor, shard)
  · obtain ⟨rfl, rfl⟩ := Prod.mk.inj h
    rw [modShardStep, shardOf_modShard_self]
    rfl
  · exact congrArg Shard.stateStep (tabGet_tabSet_ne _ _ _ _ _ h)

theorem SameArrays.modShardStep {c c' : Chip} {t : Nat} (h : SameArrays (ten c t) (ten c' t)) (tensor shard step : Nat) (g : ShardStep → ShardStep) :
    SameArrays (ten c t) (ten (modTen c' t fun x => Machine.modShardStep x tensor shard step g) t) := by
  rw [ten_modTen_self]
  exact h.trans (sameArrays_modShardStep _ tensor shard step g)

/-- The tasks of a stage end, and its pending state goes with them. -/
theorem sameArrays_discard (c : Chip) (t tensor shard step : Nat) :
    SameArrays (ten c t) (ten (discardPending (endTasks c (isUpdateOf t tensor shard step)) t tensor shard step) t) := by
  obtain ⟨x, hpages, heq⟩ := discardPending_eq (endTasks c (isUpdateOf t tensor shard step)) t tensor shard step
  rw [heq, ten_modTen_self]
  exact (sameArrays_of_shards hpages.shards).trans (sameArrays_modShardStep x tensor shard step _)

theorem sameArrays_cascade (c : Chip) (t tensor shard step : Nat) : SameArrays (ten c t) (ten (cascade c t tensor shard step) t) := by
  unfold cascade
  split
  · have howed := (sameArrays_discard c t tensor shard step).modShardStep tensor shard step
      (fun r => { r with update := .none, rerunDue := true, tilesDone := [], direct := false })
    dsimp only
    rw [ten_modTen_self]
    refine SameArrays.trans ?_ (sameArrays_of_shards rfl)
    split
    · exact howed
    · exact howed.trans (sameArrays_of_shards (quiet_countTen _ t 23 1).shards)
  · exact .refl _

theorem sameArrays_dropPending (c : Chip) (t tensor shard step : Nat) : SameArrays (ten c t) (ten (dropPending c t tensor shard step) t) :=
  (sameArrays_discard c t tensor shard step).trans (sameArrays_cascade _ t tensor shard (step + 1))

/-! ## A shard's step over -/

theorem shardOf_finishStep (c : Chip) (t tensor shard step : Nat) (rolledBack : Bool) (g : Shard → Shard) :
    shardOf (ten (finishStep c t tensor shard step rolledBack g) t) tensor shard =
      modStep (g (shardOf (ten c t) tensor shard)) step (fun r => closeStep r rolledBack) := by
  have hdropped (k : Chip) : (ten (dropAcc k t tensor shard step) t).shards = (ten k t).shards := by
    unfold dropAcc
    dsimp only
    rw [ten_modTen_self]
    rfl
  rw [finishStep, shardOf, hdropped, ten_modTen_self]
  exact shardOf_modShard_self _ tensor shard _

/-- What a step that is over leaves of its shard: nothing pending, and the arrays as its end makes them. -/
theorem finishStep_shard {c : Chip} {t tensor shard step : Nat} {rolledBack : Bool} {g : Shard → Shard} {h h' : Shard}
    (hg : g (shardOf (ten c t) tensor shard) = h)
    (h'eq : h' = shardOf (ten (finishStep c t tensor shard step rolledBack g) t) tensor shard) :
    h'.arrays = h.arrays ∧ h'.stateStep = h.stateStep ∧ (stepOf h' step).rolledBack = ((stepOf h step).rolledBack || rolledBack) ∧
      (stepOf h' step).applied = true ∧ (stepOf h' step).pend = [] := by
  rw [h'eq, shardOf_finishStep, hg, stepOf_modStep_self]
  exact ⟨rfl, rfl, rfl, rfl, rfl⟩

/-! ## A commit -/

theorem arrayMem_commitBytes (a : ArrayInfo) (step : Nat) (spilled : Nat → Nat → Bool) (h : Shard) {n : Nat} (hn : n < 4) :
    arrayMem (commitBytes a step spilled h) n = mergeBytes (arrayMem h n) (pendMem (stepOf h step) n) := by
  have harrays : (commitBytes a step spilled h).arrays =
      [0, 1, 2, 3].foldl (fun l k => tabSet l k (mergeBytes (tabGet [] l k) (pendMem (stepOf h step) k))) h.arrays := rfl
  rw [arrayMem, harrays]
  obtain rfl | rfl | rfl | rfl : n = 0 ∨ n = 1 ∨ n = 2 ∨ n = 3 := by omega
  all_goals simp [arrayMem, tabGet_tabSet_ne]

/-- A commit's turn leaves of its shard what committing its bytes makes of it. -/
theorem shardOf_turnOver (a : ArrayInfo) (t tensor shard step : Nat) (c : Chip) : ∃ spilled,
    shardOf (ten (turnOver a t tensor shard step c) t) tensor shard = commitBytes a step spilled (shardOf (ten c t) tensor shard) := by
  obtain ⟨pages, loose, spilled, hturn⟩ := turnOver_eq a t tensor shard step c
  have hturned := (turnKept_turnedLines t tensor shard step c).tenant.shards
  have hplaced := (turnKept_placedPages a t tensor shard step pages loose (modTen (turnedLines t tensor shard step c) t
    (fun x => modShard x tensor shard (commitBytes a step spilled)))).tenant.shards
  refine ⟨spilled, ?_⟩
  rw [hturn, shardOf, hplaced, ten_modTen_self]
  refine (shardOf_modShard_self _ tensor shard _).trans ?_
  rw [shardOf, hturned]
  rfl

/-! ## Table 12-1 -/

section
variable {k : Chip} {t tensor shard step : Nat} {v : VerdictRec} {a : ArrayInfo} {h h' : Shard}
  (hverdict : (stepRec (ten k t) step).verdict = some v) (harray : arrayInfoOf k t tensor shard = some a)
  (hshard : h = shardOf (ten k t) tensor shard) (hopen : (stepOf h step).applied = false) (hprev : prevOver (ten k t) step = true)
  (hstill : stageStill k t tensor shard step = true)
  (hshard' : h' = shardOf (ten (applyShard k t tensor shard step) t) tensor shard)
include hverdict harray hshard hopen hprev hstill

theorem applyShard_rollsBack (hback : rollsBack v tensor = true) :
    applyShard k t tensor shard step = finishStep (dropPending k t tensor shard step) t tensor shard step true id := by
  subst hshard
  simp [applyShard, hverdict, harray, hopen, hprev, hstill, hback]

theorem applyShard_commits (hback : rollsBack v tensor = false) (hended : (stepOf h step).update = .ended)
    (hfirst : (recomputes v a.group && !(stepOf h step).direct) = false) :
    applyShard k t tensor shard step = finishStep (turnOver a t tensor shard step k) t tensor shard step false (commitShard step) := by
  subst hshard
  simp [applyShard, hverdict, harray, hopen, hprev, hstill, hback, hended, -Bool.and_eq_true, hfirst]

include hshard'

/-- A roll back keeps the committed state. -/
theorem applyShard_keeps (hback : rollsBack v tensor = true) :
    h'.arrays = h.arrays ∧ h'.stateStep = h.stateStep ∧ (stepOf h' step).rolledBack = true ∧ (stepOf h' step).applied = true ∧
      (stepOf h' step).pend = [] := by
  rw [applyShard_rollsBack hverdict harray hshard hopen hprev hstill hback] at hshard'
  obtain ⟨harrays, hstate, hrolled, hrest⟩ := finishStep_shard rfl hshard'
  obtain ⟨hkept, hkeptStep⟩ := sameArrays_dropPending k t tensor shard step tensor shard
  rw [Bool.or_true] at hrolled
  rw [hshard]
  exact ⟨harrays.trans hkept, hstate.trans hkeptStep, hrolled, hrest⟩

/-- A commit makes the pending bytes of the step committed state, which stands at that step from then on. -/
theorem applyShard_merges (hback : rollsBack v tensor = false) (hended : (stepOf h step).update = .ended)
    (hfirst : (recomputes v a.group && !(stepOf h step).direct) = false) :
    (∀ n, n < 4 → arrayMem h' n = mergeBytes (arrayMem h n) (pendMem (stepOf h step) n)) ∧ h'.stateStep = step ∧
      (stepOf h' step).applied = true ∧ (stepOf h' step).pend = [] := by
  rw [applyShard_commits hverdict harray hshard hopen hprev hstill hback hended hfirst] at hshard'
  obtain ⟨spilled, hturned⟩ := shardOf_turnOver a t tensor shard step k
  obtain ⟨harrays, hstate, -, hrest⟩ := finishStep_shard (congrArg (commitShard step) hturned) hshard'
  refine ⟨fun n hn => ?_, hstate, hrest⟩
  rw [arrayMem, harrays, hshard]
  exact arrayMem_commitBytes a step spilled _ hn

end

end Sys2Proof.Machine
end

section
/-!
PROOFS. SHARD_VERDICT at the step root and VERDICT at a home (R189, R190, R212, R213, R349, R368).
-/
namespace Sys2Proof.Machine

/-! ## Frames to several chips -/

theorem forEach_sendChip (c : Chip) (l : List Nat) (head : Nat → Hdr) (payload : List Byte) :
    forEach c l (fun c h => sendChip c h (head h) payload) =
      { c with outbox := c.outbox ++ l.map (fun h => chipTo c h (head h) payload) } := by
  induction l generalizing c with
  | nil => simp [forEach]
  | cons h l ih =>
    refine (ih (sendChip c h (head h) payload)).trans ?_
    rw [List.map_cons, List.append_cons]
    rfl

/-! ## A verdict gathered -/

/-- One more ARRIVE at the gather object of a step, and the gather's record with it. -/
def gathered (k : Chip) (t step total : Nat) (g : Gather) : Chip :=
  let o := syncObj k (gatherObject t step)
  modTen (setSync k (gatherObject t step) { o with c := o.c + 1#32, t := BitVec.ofNat 32 total, device := true }) t
    (fun x => { x with gathers := tabSet x.gathers step g })

theorem syncObj_gathered_self (k : Chip) (t step total : Nat) (g : Gather) :
    syncObj (gathered k t step total g) (gatherObject t step) =
      { syncObj k (gatherObject t step) with
        c := (syncObj k (gatherObject t step)).c + 1#32, t := BitVec.ofNat 32 total, device := true } :=
  syncObj_setSync_self k _ _

theorem syncObj_gathered_ne (k : Chip) {t step n : Nat} (hn : n ≠ gatherObject t step) (total : Nat) (g : Gather) :
    syncObj (gathered k t step total g) n = syncObj k n :=
  syncObj_setSync_ne k _ n _ hn

theorem ten_gathered (k : Chip) (t step total : Nat) (g : Gather) :
    ten (gathered k t step total g) t = { ten k t with gathers := tabSet (ten k t).gathers step g } := ten_modTen_self _ t _

theorem tenantFrame_gathered (k : Chip) (t step total : Nat) (g : Gather) : TenantFrame t k (gathered k t step total g) :=
  tenantFrame_trans (tenantFrame_setSync k t _ _) (tenantFrame_modTen _ t _)

/-! ## A step decided -/

/-- The decision of Table 10-2 on a complete gather. -/
def gatherDecision (c : Chip) (t step : Nat) (cat : Catalogue) (g : Gather) : Decision :=
  decideStep cat (match tenantRec c t with | some r => r.globalClip | none => 0#32) (stepExponent c t step) (gatheredOf cat g)

/-- The loss-scale exponent and clean count that the decision leaves at the step root (R213). -/
def gatherScale (c : Chip) (t step : Nat) (cat : Catalogue) (g : Gather) : Int × Nat :=
  nextScale (match tenantRec c t with | some r => r.cleanSteps | none => 2000) (gatherDecision c t step cat g).row (ten c t).rootExp (ten c t).rootClean

/-- The root with a step decided, its VERDICT still to send. -/
def decided (c : Chip) (t step : Nat) (cat : Catalogue) (g : Gather) : Chip :=
  let n := gatherScale c t step cat g
  modTen (setSync c (gatherObject t step) { syncObj c (gatherObject t step) with c := 0#32, device := false }) t (fun x => noteExponent
    { x with rootExp := n.1, rootClean := n.2,
             gathers := tabSet (x.gathers.filter (fun p => decide (step ≤ p.1 + 2))) step { g with timer := .idle, decided := true } }
    step n.1)

/-- The VERDICT goes to every chip that homes a shard. -/
theorem decideGather_eq (c : Chip) (t step : Nat) (cat : Catalogue) (g : Gather) :
    decideGather c t step cat g = { decided c t step cat g with
      outbox := c.outbox ++ (homesOf c t).map (fun h =>
        chipTo c h { chipHdr tyVerdict t 0 h with step := step, aux := (gatherDecision c t step cat g).aux }
          (verdictBytes (gatherDecision c t step cat g) (gatherScale c t step cat g).1)) } :=
  forEach_sendChip (decided c t step cat g) (homesOf c t) _ _

theorem tenantFrame_decideGather (c : Chip) (t step : Nat) (cat : Catalogue) (g : Gather) : TenantFrame t c (decideGather c t step cat g) := by
  have hdecided : TenantFrame t c (decided c t step cat g) := tenantFrame_trans (tenantFrame_setSync c t _ _) (tenantFrame_modTen _ t _)
  rw [decideGather_eq]
  exact hdecided

/-- What a decision leaves of the tenant at the step root. -/
theorem ten_decideGather (c : Chip) (t step : Nat) (cat : Catalogue) (g : Gather) :
    (ten (decideGather c t step cat g) t).shards = (ten c t).shards ∧
    (ten (decideGather c t step cat g) t).rootExp = (gatherScale c t step cat g).1 ∧
    (ten (decideGather c t step cat g) t).rootClean = (gatherScale c t step cat g).2 ∧
    tabGet Gather.reset (ten (decideGather c t step cat g) t).gathers step = { g with timer := .idle, decided := true } := by
  have hten : ten (decideGather c t step cat g) t = ten (decided c t step cat g) t := by
    rw [decideGather_eq]
    rfl
  rw [hten, decided, ten_modTen_self]
  exact ⟨rfl, rfl, rfl, tabGet_tabSet_self _ _ _ _⟩

theorem syncObj_decideGather_self (c : Chip) (t step : Nat) (cat : Catalogue) (g : Gather) :
    (syncObj (decideGather c t step cat g) (gatherObject t step)).c = 0#32 := by
  rw [decideGather_eq]
  exact congrArg SyncObj.c (syncObj_setSync_self c _ _)

theorem syncObj_decideGather_ne (c : Chip) {t step n : Nat} (hn : n ≠ gatherObject t step) (cat : Catalogue) (g : Gather) :
    syncObj (decideGather c t step cat g) n = syncObj c n := by
  rw [decideGather_eq]
  exact syncObj_setSync_ne c _ n _ hn

/-- The exponent that a step's stages unscale by is what the tenant remembers of earlier VERDICTs. -/
theorem stepExponent_congr {c c' : Chip} {t : Nat} (himage : c'.image = c.image) (hexponents : (ten c' t).exponents = (ten c t).exponents)
    (step : Nat) : stepExponent c' t step = stepExponent c t step := by
  simp only [stepExponent, lsInit, tenantRec, himage, hexponents]

theorem gatherDecision_gathered (k : Chip) (t step total : Nat) (cat : Catalogue) (g : Gather) :
    gatherDecision (gathered k t step total g) t step cat g = gatherDecision k t step cat g := by
  have hrec : tenantRec (gathered k t step total g) t = tenantRec k t := rfl
  have hexponent : stepExponent (gathered k t step total g) t step = stepExponent k t step :=
    stepExponent_congr (c := k) (c' := gathered k t step total g) rfl (by rw [ten_gathered]) step
  rw [gatherDecision, gatherDecision, hrec, hexponent]

theorem gatherScale_gathered (k : Chip) (t step total : Nat) (cat : Catalogue) (g : Gather) :
    gatherScale (gathered k t step total g) t step cat g = gatherScale k t step cat g := by
  have hrec : tenantRec (gathered k t step total g) t = tenantRec k t := rfl
  rw [gatherScale, gatherScale, gatherDecision_gathered, ten_gathered, hrec]

/-! ## SHARD_VERDICT at the step root -/

section
variable {k : Chip} {f : RxFrame} {cat : Catalogue} (hdeaf : tenantDeaf k (ten k (rxHead f).tenant) = false)
  (hreset : (ten k (rxHead f).tenant).wasReset = false) (hcat : catOf k (rxHead f).tenant = some cat)
  (hroot : stepRootOf k (rxHead f).tenant = chipNo k)
  (hhome : (homeOf k (rxHead f).tenant (rxHead f).tensor (rxHead f).shard).isSome = true)
include hdeaf hreset hcat hroot hhome

theorem takeShardVerdict_repeated (hover : gatherOver (ten k (rxHead f).tenant) (rxHead f).step = true ∨
    (tabFind (tabGet Gather.reset (ten k (rxHead f).tenant).gathers (rxHead f).step).verdicts ((rxHead f).tensor, (rxHead f).shard)).isSome = true) :
    takeShardVerdict k f = countTen k (rxHead f).tenant 33 1 := by
  simp [takeShardVerdict, hdeaf, hreset, hcat, hroot, Option.isNone_eq_false_iff.2 hhome, hover]

theorem takeShardVerdict_counts {g : Gather} (hover : gatherOver (ten k (rxHead f).tenant) (rxHead f).step = false)
    (hnew : tabFind (tabGet Gather.reset (ten k (rxHead f).tenant).gathers (rxHead f).step).verdicts ((rxHead f).tensor, (rxHead f).shard) = none)
    (hg : g = { tabGet Gather.reset (ten k (rxHead f).tenant).gathers (rxHead f).step with
      verdicts := tabSet (tabGet Gather.reset (ten k (rxHead f).tenant).gathers (rxHead f).step).verdicts
        ((rxHead f).tensor, (rxHead f).shard) (shardVerdictOf f.frame.payload), timer := .running }) :
    takeShardVerdict k f =
      if (syncObj k (gatherObject (rxHead f).tenant (rxHead f).step)).c + 1#32 = BitVec.ofNat 32 (allShards cat).length then
        decideGather (gathered k (rxHead f).tenant (rxHead f).step (allShards cat).length g) (rxHead f).tenant (rxHead f).step cat g
      else gathered k (rxHead f).tenant (rxHead f).step (allShards cat).length g := by
  subst hg
  simp [takeShardVerdict, hdeaf, hreset, hcat, hroot, Option.isNone_eq_false_iff.2 hhome, hover, hnew, shardCount, gathered]

end

/-! ## VERDICT at a home -/

/-- What a VERDICT frame says, with the clean count it leaves. -/
def verdictOf (f : RxFrame) (clean : Nat) : VerdictRec :=
  { aux := (rxHead f).aux, factor := BitVec.ofNat 32 (fieldAt f.frame.payload 0 4), lsExp := signedOf 16 (fieldAt f.frame.payload 4 2),
    clean := clean, tensors := if (rxHead f).aux = 3 then verdictTensors f.frame.payload else [] }

/-- The tenant with a VERDICT recorded and the step's timer ended (R190, R368). -/
def recorded (f : RxFrame) (clean : Nat) (x : TenantCtx) : TenantCtx :=
  noteExponent (modStepRec { x with lsExp := signedOf 16 (fieldAt f.frame.payload 4 2), clean := clean } (rxHead f).step
    (fun r => { r with verdict := some (verdictOf f clean), timer := .idle })) (rxHead f).step (signedOf 16 (fieldAt f.frame.payload 4 2))

theorem recorded_marks (f : RxFrame) (clean : Nat) (x : TenantCtx) :
    stepRec (recorded f clean x) (rxHead f).step =
        { stepRec x (rxHead f).step with verdict := some (verdictOf f clean), timer := .idle } ∧
      (recorded f clean x).lsExp = signedOf 16 (fieldAt f.frame.payload 4 2) :=
  ⟨tabGet_tabSet_self _ _ _ _, rfl⟩

/-- CLEAN after a VERDICT, as the home can tell it (log entry 16). -/
def cleanOf (k : Chip) (f : RxFrame) : Nat :=
  cleanAfter (match tenantRec k (rxHead f).tenant with | some r => r.cleanSteps | none => 2000) (ten k (rxHead f).tenant).clean
    (ten k (rxHead f).tenant).lsExp (signedOf 16 (fieldAt f.frame.payload 4 2)) (rxHead f).aux

/-- A VERDICT that a home has not had is recorded, and the step settles with it. -/
theorem takeVerdict_records {k : Chip} {f : RxFrame} (hdeaf : tenantDeaf k (ten k (rxHead f).tenant) = false)
    (hreset : (ten k (rxHead f).tenant).wasReset = false) (haux : (rxHead f).aux ≤ 3)
    (hopen : resolvedBy (ten k (rxHead f).tenant) (rxHead f).step = false)
    (hnone : (stepRec (ten k (rxHead f).tenant) (rxHead f).step).verdict = none) :
    SettleKept (rxHead f).tenant (modTen k (rxHead f).tenant (recorded f (cleanOf k f))) (takeVerdict k f) := by
  unfold takeVerdict
  simp only [hdeaf, hreset, Bool.or_self, Bool.false_eq_true, if_false, Nat.not_lt.2 haux, hopen, hnone, Option.isSome_none]
  exact SettleKept.trans (settleKept_ite (settleKept_countTen _ _ 24 1) (.refl _ _)) (settleKept_settle2 _ _ _)

end Sys2Proof.Machine
end

section
/-!
PROOFS. The end of an update stage, and the commit barrier of a step (R237, R348).
-/
namespace Sys2Proof.Machine

/-! ## The end of a stage -/

/-- A stage that ends: pass 2 and the amax entry, and the stage stands ended. -/
def endedStage (k : Chip) (t tensor shard step : Nat) (i : ShardInfo) : Chip :=
  modTen (finishUpdate k t tensor shard step i) t (fun x => modShardStep x tensor shard step (fun p => { p with update := .ended }))

theorem exec_updateStageEnd_done {s : State} {c : Pos} {r : ShardStepRef} {i : ShardInfo}
    (hinfo : shardInfo (getChip s c) r.tenant.val r.tensor r.shard = some i) (hcore : coreRuns (getChip s c) = true)
    (hdone : stageDone (getChip s c) r.tenant.val r.tensor r.shard r.step i = true) :
    exec (.updateStageEnd c r) s =
      .next (setChip s c (settle2 r.tenant.val r.step (endedStage (getChip s c) r.tenant.val r.tensor r.shard r.step i))) := by
  simp only [exec, execUpdateStageEnd, hinfo, hcore, hdone, Bool.and_self, if_true]
  rfl

theorem sameArrays_endedStage (k : Chip) (t tensor shard step : Nat) (i : ShardInfo) :
    SameArrays (ten k t) (ten (endedStage k t tensor shard step i) t) :=
  ((SameArrays.refl (ten k t)).modShardStep tensor shard step _).modShardStep tensor shard step _

theorem tenantFrame_endedStage (k : Chip) (t tensor shard step : Nat) (i : ShardInfo) : TenantFrame t k (endedStage k t tensor shard step i) :=
  tenantFrame_trans (tenantFrame_modTen k t _) (tenantFrame_modTen _ t _)

theorem settleKept_endedStage (k : Chip) (t tensor shard step : Nat) (i : ShardInfo) : SettleKept t k (endedStage k t tensor shard step i) :=
  (settleKept_modShardStep k t tensor shard step _).trans (settleKept_modShardStep _ t tensor shard step _)

/-! ## A step with no VERDICT settles no further -/

theorem forEach_id {α : Type} {c : Chip} {f : Chip → α → Chip} {l : List α} (h : ∀ x, f c x = c) : forEach c l f = c := by
  induction l with
  | nil => rfl
  | cons x l ih => exact (congrArg (fun k => forEach k l f) (h x)).trans ih

theorem settleStep_noVerdict {c : Chip} {t step : Nat} (h : (stepRec (ten c t) step).verdict = none) : settleStep t step c = c := by
  have hrerun (p : Nat × Nat) : rerunShard c t p.1 p.2 step = c := by
    unfold rerunShard
    dsimp only
    split
    · next hv _ => exact absurd (h.symm.trans hv) (Option.some_ne_none _).symm
    · rfl
  have hearly (p : Nat × Nat) : earlyEffect c t p.1 p.2 step = c := by
    simp only [earlyEffect, h]
  have happly (p : Nat × Nat) : applyShard c t p.1 p.2 step = c := by
    simp only [applyShard, h]
  have harrive : arrive c t step = c := by
    simp only [arrive, h]
  have hreruns := forEach_id (f := fun c (p : Nat × Nat) => rerunShard c t p.1 p.2 step) (l := homedShards c t) hrerun
  have hearlies := forEach_id (f := fun c (p : Nat × Nat) => earlyEffect c t p.1 p.2 step) (l := homedShards c t) hearly
  have happlies := forEach_id (f := fun c (p : Nat × Nat) => applyShard c t p.1 p.2 step) (l := homedShards c t) happly
  simp only [settleStep, hreruns, hearlies, happlies, harrive]

theorem settle2_noVerdict {c : Chip} {t step : Nat} (h : (stepRec (ten c t) step).verdict = none)
    (hnext : (stepRec (ten c t) (step + 1)).verdict = none) : settle2 t step c = c := by
  rw [settle2, settleStep_noVerdict h, settleStep_noVerdict hnext]

/-! ## Which steps are over -/

/-- Every tenant's latest resolved and committed steps are as they were. -/
def EndsKept (k k' : Chip) : Prop := ∀ u, (ten k' u).resolved = (ten k u).resolved ∧ (ten k' u).committed = (ten k u).committed

theorem endsKept_of_tenants {k k' : Chip} (h : k'.tenants = k.tenants) : EndsKept k k' := fun u => by
  rw [ten, ten, h]
  exact ⟨rfl, rfl⟩

theorem EndsKept.refl (k : Chip) : EndsKept k k := fun _ => ⟨rfl, rfl⟩

theorem EndsKept.trans {a b c : Chip} (h : EndsKept a b) (g : EndsKept b c) : EndsKept a c := fun u =>
  ⟨(g u).1.trans (h u).1, (g u).2.trans (h u).2⟩

theorem endsKept_forEach {α : Type} {f : Chip → α → Chip} (h : ∀ c x, EndsKept c (f c x)) (l : List α) (c : Chip) : EndsKept c (forEach c l f) :=
  forEach_rel .refl .trans (fun c x _ => h c x) c

theorem endsKept_setTen (c : Chip) (t : Nat) {x : TenantCtx} (hresolved : x.resolved = (ten c t).resolved)
    (hcommitted : x.committed = (ten c t).committed) : EndsKept c (setTen c t x) := fun u => by
  by_cases hu : u = t
  · rw [hu, ten_setTen_self]
    exact ⟨hresolved, hcommitted⟩
  · rw [ten_setTen_ne c t u x hu]
    exact ⟨rfl, rfl⟩

theorem endsKept_modTen (c : Chip) (t : Nat) {f : TenantCtx → TenantCtx} (hresolved : (f (ten c t)).resolved = (ten c t).resolved)
    (hcommitted : (f (ten c t)).committed = (ten c t).committed) : EndsKept c (modTen c t f) :=
  endsKept_setTen c t hresolved hcommitted

theorem EndsKept.setLine {k c : Chip} (h : EndsKept k c) (line : Nat) (l : SliceLine) : EndsKept k (setLine c line l) := h

theorem EndsKept.dropLine {k c : Chip} (h : EndsKept k c) (line : Nat) : EndsKept k (dropLine c line) := h

theorem Answered.endsKept {k k' : Chip} (h : Answered k k') : EndsKept k k' := fun u => by
  obtain ⟨l, hten⟩ := h.tenants u
  rw [hten]
  exact ⟨rfl, rfl⟩

theorem SameButCaches.endsKept {k k' : Chip} (h : SameButCaches k k') : EndsKept k k' := endsKept_of_tenants h.tenants

theorem SameButHalts.endsKept {k k' : Chip} (h : SameButHalts k k') : EndsKept k k' := by
  obtain ⟨_, _, rfl⟩ := h
  exact .refl k

theorem SettleKept.endsKept {t : Nat} {k k' : Chip} (h : SettleKept t k k') : EndsKept k k' := fun u => by
  by_cases hu : u = t
  · rw [hu]
    exact ⟨h.marks.resolved, h.marks.committed⟩
  · rw [h.others u hu]
    exact ⟨rfl, rfl⟩

/-! ### Lines that make room -/

theorem endsKept_writeBackLine (c : Chip) (line : Nat) : EndsKept c (writeBackLine c line) := by
  unfold writeBackLine
  dsimp only
  split
  · exact .refl c
  · split
    · exact endsKept_of_tenants rfl
    · split
      · exact .refl c
      · refine (EndsKept.trans (b := { c with hbm := _ }) (endsKept_of_tenants rfl) ?_).setLine line _
        exact endsKept_modTen _ _ rfl rfl
    · exact .refl c

theorem endsKept_evictLine (c : Chip) (line : Nat) : EndsKept c (evictLine c line) := by
  refine ((sameButCaches_recallLine c line).endsKept.trans (endsKept_writeBackLine _ line)).trans ?_
  unfold evictLine
  dsimp only
  split
  · split
    · exact (endsKept_modTen _ _ rfl rfl).dropLine line
    · exact endsKept_of_tenants rfl
  · exact endsKept_of_tenants rfl

theorem endsKept_dropDead (c : Chip) (line : Nat) : EndsKept c (dropDead c line) :=
  (sameButCaches_dropCopies c line).endsKept.trans (endsKept_of_tenants rfl)

theorem accFrameFor_ends {x y : TenantCtx} {step page n : Nat} (h : accFrameFor x step page = some (n, y)) :
    y.resolved = x.resolved ∧ y.committed = x.committed := by
  unfold accFrameFor at h
  split at h
  · obtain ⟨-, rfl⟩ := Prod.mk.inj (Option.some.inj h)
    exact ⟨rfl, rfl⟩
  · split at h
    · cases h
    · obtain ⟨-, rfl⟩ := Prod.mk.inj (Option.some.inj h)
      exact ⟨rfl, rfl⟩

theorem endsKept_spillAcc (c : Chip) (key : Nat) : EndsKept c (spillAcc c key).1 := by
  unfold spillAcc
  split
  · exact .refl c
  · split
    · dsimp only
      split
      · exact .refl c
      · next hframe =>
        obtain ⟨hresolved, hcommitted⟩ := accFrameFor_ends hframe
        exact (endsKept_setTen c _ (x := markAcc _ _ _ _) hresolved hcommitted).trans (endsKept_of_tenants rfl)
    · exact .refl c

theorem endsKept_makeRoom (c : Chip) (t line : Nat) : EndsKept c (makeRoom c t line).1 := by
  unfold makeRoom
  split
  · exact .refl c
  · dsimp only
    split
    · exact endsKept_dropDead c _
    · split
      · exact endsKept_evictLine c _
      · split
        · exact endsKept_spillAcc c _
        · exact .refl c

theorem endsKept_loadTensor (t tensor shard array hint : Nat) (c : Chip) (ns : List Nat) : EndsKept c (loadTensor t tensor shard array hint c ns) := by
  refine endsKept_forEach (fun c n => ?_) ns c
  refine EndsKept.trans (b := touch c) (endsKept_of_tenants rfl) ?_
  dsimp only
  split
  · exact endsKept_of_tenants rfl
  · split
    · exact (endsKept_makeRoom (touch c) t _).trans (endsKept_of_tenants rfl)
    · exact endsKept_makeRoom (touch c) t _

/-! ### PULLs answered -/

theorem endsKept_sendAborted (c : Chip) (f : RxFrame) (code : Nat) : EndsKept c (sendAborted c f code) :=
  ((EndsKept.trans (b := countCode c code) (endsKept_of_tenants rfl) (answered_sendDone _ f _).endsKept).trans
    (answered_countTen _ _ 28 1).endsKept).trans (sameButHalts_hitFault _ code).endsKept

theorem endsKept_sendParams (c : Chip) (f : RxFrame) (a : ArrayInfo) (h : Shard) (all : Bool) (fmt i : Nat) (l : List (Nat × Nat × Nat)) :
    EndsKept c (sendParams c f a h all fmt i l) := by
  induction l generalizing c i with
  | nil => exact .refl c
  | cons p l ih =>
    rw [sendParams]
    dsimp only
    split
    · exact endsKept_sendAborted c f _
    · exact (answered_emit c _).endsKept.trans (ih _ _)

theorem endsKept_servePull (c : Chip) (f : RxFrame) : EndsKept c (servePull c f) := by
  unfold servePull
  dsimp only
  split
  · exact (answered_sendDone c f _).endsKept
  · split
    · exact (answered_sendDone c f _).endsKept
    · exact endsKept_sendParams c f _ _ _ _ _ _

theorem endsKept_runPull (c : Chip) (f : RxFrame) : EndsKept c (runPull c f) := by
  unfold runPull
  dsimp only
  split
  · exact endsKept_servePull c f
  · exact (endsKept_forEach (fun c sel => endsKept_loadTensor _ _ _ _ _ c _) _ c).trans (endsKept_servePull _ f)

theorem endsKept_hitSlots (c : Chip) (k : ClusterNo) (slots : List Nat) : EndsKept c (hitSlots c k slots) := by
  refine endsKept_forEach (fun c i => ?_) slots c
  have hhalted (b : Bool) : EndsKept c (if b then haltAll (noteHit c i k) else haltCluster (noteHit c i k) k) := by
    split
    · exact ((sameButHalts_noteHit c i k).trans (sameButHalts_haltAll _)).endsKept
    · exact ((sameButHalts_noteHit c i k).trans (sameButHalts_haltCluster _ k)).endsKept
  exact (hhalted _).trans (sameButCaches_modCluster _ k _).endsKept

theorem endsKept_hitFault_at (c : Chip) (code : Nat) (k : ClusterNo) : EndsKept c (hitFault c code (some k)) := by
  unfold hitFault
  split
  · refine endsKept_forEach (fun c i => ?_) _ c
    dsimp only [Option.getD_some]
    split
    · exact ((sameButHalts_noteHit c i k).trans (sameButHalts_haltAll _)).endsKept
    · exact ((sameButHalts_noteHit c i k).trans (sameButHalts_haltCluster _ k)).endsKept
  · exact .refl c

theorem endsKept_launchFault (c : Chip) (u : Task) (code : Nat) : EndsKept c (launchFault c u code) := by
  have hcounted : EndsKept c (countTen (countCode c code) u.tenant 28 1) :=
    EndsKept.trans (b := countCode c code) (endsKept_of_tenants rfl) (answered_countTen _ _ 28 1).endsKept
  refine (hcounted.trans ?_).trans (endsKept_hitFault_at _ code (taskPlace c u))
  cases u.cause with
  | none => exact .refl _
  | some f => exact (answered_sendDone _ f (doneInfo stAborted code)).endsKept

theorem endsKept_enterWhole (c : Chip) (u : Task) : EndsKept c (enterWhole c u) :=
  ((sameButCaches_enterCluster c (taskPlace c u) u).trans (sameButCaches_modCluster _ (taskPlace c u) _)).endsKept.trans
    (answered_countTen _ u.tenant 27 1).endsKept

theorem endsKept_enterAll {us : List Task} {c c' : Chip} (h : enterAll us c = some c') : EndsKept c c' := by
  induction us generalizing c with
  | nil =>
    obtain rfl := Option.some.inj h
    exact .refl c
  | cons u us ih =>
    rw [enterAll] at h
    split at h
    · exact (endsKept_enterWhole c u).trans (ih h)
    · cases h

/-- Whether a frame's tasks run at once, wait or end on a fault, no step's end changes. -/
theorem endsKept_launch {run : Chip → Chip} (hrun : ∀ c, EndsKept c (run c)) (c : Chip) (u : Task) : EndsKept c (launch c u run) := by
  refine EndsKept.trans (b := { c with launches := c.launches + 1 }) (endsKept_of_tenants rfl) ?_
  unfold launch
  dsimp only
  split
  · exact endsKept_of_tenants rfl
  · split
    · exact (endsKept_hitSlots _ _ _).trans (endsKept_of_tenants rfl)
    · split
      · exact (answered_countTen _ _ 27 1).endsKept.trans (endsKept_launchFault _ _ _)
      · next hentered => exact (endsKept_enterAll hentered).trans (hrun _)
      · exact endsKept_of_tenants rfl

theorem endsKept_launchPull (now : Nat) (c : Chip) (f : RxFrame) : EndsKept c (launchPull now c f) :=
  endsKept_launch (fun c => endsKept_runPull c f) c _

theorem endsKept_releasePulls (c : Chip) (t : Nat) (p : RxFrame → Bool) (now : Nat) : EndsKept c (releasePulls c t p (launchPull now)) := by
  unfold releasePulls
  dsimp only
  refine EndsKept.trans ?_ (endsKept_forEach (endsKept_launchPull now) _ _)
  exact endsKept_setTen c t rfl rfl

/-! ### Reports -/

theorem answered_sendReport (t step source : Nat) (v : VerdictRec) (saturated : Bool) (dst : BitVec 10 × BitVec 8) (fuel i : Nat)
    (ps : List (Nat × Nat)) (c : Chip) : Answered c (sendReport t step source v saturated dst fuel i ps c) := by
  induction fuel generalizing i ps c with
  | zero => exact .refl c
  | succ fuel ih =>
    rw [sendReport]
    split
    · exact answered_emit c _
    · exact (answered_emit c _).trans (ih _ _ _)

theorem answered_reportTo (t step : Nat) (v : VerdictRec) (saturated : Bool) (c : Chip) (source : Nat) :
    Answered c (reportTo t step v saturated c source) := by
  unfold reportTo
  split
  · exact .refl c
  · exact answered_sendReport _ _ _ _ _ _ _ _ _ c

/-! ## The commit barrier -/

/-- A latest step with a step taken into account. -/
def laterOf (step : Nat) (o : Option Nat) : Option Nat := match o with | some n => some (max n step) | none => some step

theorem laterOf_eq (step : Nat) (o : Option Nat) : laterOf step o = some (match o with | some n => max n step | none => step) := by
  cases o <;> rfl

/-- A tenant with a step resolved, and committed unless its VERDICT rolls it back whole. -/
def resolvedTenant (v : VerdictRec) (step : Nat) (x : TenantCtx) : TenantCtx :=
  modStepRec { x with resolved := laterOf step x.resolved, committed := if v.aux = 1 then x.committed else laterOf step x.committed } step
    (fun r => { r with resolved := true, timer := .idle })

/-- The barrier's object goes back to 0 with the step resolved. -/
def resolvedChip (c : Chip) (t step : Nat) (v : VerdictRec) : Chip :=
  modTen (setSync c (barrierObject t step) { syncObj c (barrierObject t step) with c := 0#32, device := false }) t (resolvedTenant v step)

/-- After the barrier counters, reports, PULLs and the next step's VERDICT follow, none of which resolves or commits a step. -/
theorem endsKept_passBarrier {c : Chip} {now t step : Nat} {v : VerdictRec} (h : (stepRec (ten c t) step).verdict = some v) :
    EndsKept (resolvedChip c t step v) (passBarrier c now t step) := by
  simp only [passBarrier, h]
  refine EndsKept.trans ?_ (settleKept_settle2 _ t (step + 1)).endsKept
  refine EndsKept.trans ?_ (endsKept_modTen _ t rfl rfl)
  refine EndsKept.trans ?_ (endsKept_releasePulls _ t _ now)
  refine EndsKept.trans ?_ (endsKept_forEach (fun c source => (answered_reportTo t step v _ c source).endsKept) _ _)
  exact ((answered_countTen _ t _ 1).trans ((answered_countTen _ t 25 _).trans (answered_countTen _ t 26 _))).endsKept

theorem passBarrier_ends {c : Chip} {now t step : Nat} {v : VerdictRec} (h : (stepRec (ten c t) step).verdict = some v) :
    (ten (passBarrier c now t step) t).resolved = laterOf step (ten c t).resolved ∧
    (ten (passBarrier c now t step) t).committed = if v.aux = 1 then (ten c t).committed else laterOf step (ten c t).committed := by
  obtain ⟨hresolved, hcommitted⟩ := endsKept_passBarrier (now := now) h t
  rw [hresolved, hcommitted, resolvedChip, ten_modTen_self]
  exact ⟨rfl, rfl⟩

theorem exec_commitBarrier_done {s : State} {c : Pos} {t : Tenant} {step : Nat}
    (hcore : coreRuns (arrive (getChip s c) t.val step) = true) (hdone : barrierDone (arrive (getChip s c) t.val step) t.val step = true) :
    exec (.commitBarrier c t step) s = .next (setChip s c (passBarrier (arrive (getChip s c) t.val step) s.tray.now t.val step)) := by
  simp only [exec, execCommitBarrier, hcore, hdone, Bool.and_self, if_true]

/-! ## O54 -/

/-- A SHARD_VERDICT gathered with others still missing. -/
theorem gathered_waits (k : Chip) (t step total : Nat) (g : Gather) :
    (ten (gathered k t step total g) t).shards = (ten k t).shards ∧
      tabGet Gather.reset (ten (gathered k t step total g) t).gathers step = g := by
  rw [ten_gathered]
  exact ⟨rfl, tabGet_tabSet_self _ _ _ _⟩

/-- The last SHARD_VERDICT of a step: the loss scale moves on by the decision, which goes out as VERDICTs. -/
theorem gathered_decides {k : Chip} {t step total : Nat} {cat : Catalogue} {g : Gather} {r : TenantRec} {d : Decision} {e : Int × Nat}
    (hr : tenantRec k t = some r) (hd : d = decideStep cat r.globalClip (stepExponent k t step) (gatheredOf cat g))
    (he : e = nextScale r.cleanSteps d.row (ten k t).rootExp (ten k t).rootClean) :
    let k' := decideGather (gathered k t step total g) t step cat g
    (ten k' t).rootExp = e.1 ∧ (ten k' t).rootClean = e.2 ∧
      k'.outbox = k.outbox ++ (homesOf k t).map (fun h =>
        chipTo k h { chipHdr tyVerdict t 0 h with step := step, aux := d.aux } (verdictBytes d e.1)) := by
  have hdecision : gatherDecision (gathered k t step total g) t step cat g = d := by
    rw [gatherDecision_gathered, gatherDecision, hr, hd]
  have hscale : gatherScale (gathered k t step total g) t step cat g = e := by
    rw [gatherScale_gathered, gatherScale, ← gatherDecision_gathered k t step total, hdecision, hr, he]
  obtain ⟨-, hexp, hclean, -⟩ := ten_decideGather (gathered k t step total g) t step cat g
  refine ⟨hexp.trans (congrArg Prod.fst hscale), hclean.trans (congrArg Prod.snd hscale), ?_⟩
  rw [decideGather_eq, hdecision, hscale]
  rfl

/-- A VERDICT that commits a shard does not roll it back. -/
theorem rollsBack_of_commits {v : VerdictRec} {tensor : Nat} {p : Prop}
    (h : v.aux = 0 ∨ (v.aux = 2 ∧ p) ∨ (v.aux = 3 ∧ v.tensors.contains tensor = false)) : rollsBack v tensor = false := by
  obtain haux | ⟨haux, -⟩ | ⟨haux, hlist⟩ := h
  · simp [rollsBack, haux]
  · simp [rollsBack, haux]
  · simp only [rollsBack, haux, hlist, Bool.and_false, Bool.or_false]
    rfl

/-- Nor does it ask for a stage that has run with f, or in a group without one, to run again (R221). -/
theorem recomputes_of_commits {v : VerdictRec} {tensor : Nat} {g : GroupRec} {direct : Bool}
    (h : v.aux = 0 ∨ (v.aux = 2 ∧ (g.global = false ∨ direct = true)) ∨ (v.aux = 3 ∧ v.tensors.contains tensor = false)) :
    (recomputes v g && !direct) = false := by
  obtain haux | ⟨-, hlocal | hdirect⟩ | ⟨haux, -⟩ := h
  · simp [recomputes, haux]
  · simp [recomputes, hlocal]
  · simp [hdirect]
  · simp [recomputes, haux]

/-- Settles O54: the gather counts and decides, a VERDICT is recorded and settling leaves it so, Table 12-1 ends a shard's step, and nothing that
follows the commit barrier changes which steps are over. -/
theorem stepsAreDecidedAndCommitted : Obligations.StepsAreDecidedAndCommitted := by
  unfold Obligations.StepsAreDecidedAndCommitted
  refine ⟨?counted, ?repeated, ?verdict, ?applied, ?ended, ?barrier⟩
  case counted =>
    intro s c f k cat g n o hserved hcat hroot hhome hover hnew hg hn ho
    obtain ⟨-, -, -, -, -, -, -, hdeaf, hreset⟩ := id hserved
    have htake := takeShardVerdict_counts hdeaf hreset hcat hroot hhome hover hnew hg
    obtain rfl : n = gatherObject (rxHead f).tenant (rxHead f).step := hn
    refine ⟨setChip s c (takeShardVerdict k f), next_eq (chipCommand_served_taken hserved (by decide) _), onlyChip_setChip s c _, ?_⟩
    rw [getChip_setChip_self, htake]
    subst ho
    by_cases hfull : (syncObj k (gatherObject (rxHead f).tenant (rxHead f).step)).c + 1#32 = BitVec.ofNat 32 (allShards cat).length
    · rw [if_pos hfull]
      obtain ⟨hshards, -, -, hgather⟩ := ten_decideGather (gathered k (rxHead f).tenant (rxHead f).step (allShards cat).length g)
        (rxHead f).tenant (rxHead f).step cat g
      exact ⟨tenantFrame_trans (tenantFrame_gathered k _ _ _ g) (tenantFrame_decideGather _ _ _ cat g),
        hshards.trans (gathered_waits k _ _ _ g).1,
        fun m hm => (syncObj_decideGather_ne _ hm cat g).trans (syncObj_gathered_ne k hm _ g), fun hwaits => absurd hfull hwaits,
        fun _ => ⟨syncObj_decideGather_self _ _ _ cat g, hgather, fun r d e hr hd he => gathered_decides hr hd he⟩⟩
    · rw [if_neg hfull]
      obtain ⟨hshards, hgather⟩ := gathered_waits k (rxHead f).tenant (rxHead f).step (allShards cat).length g
      exact ⟨tenantFrame_gathered k _ _ _ g, hshards, fun m hm => syncObj_gathered_ne k hm _ g,
        fun _ => ⟨syncObj_gathered_self k _ _ _ g, hgather, rfl⟩, fun hdone => absurd hdone hfull⟩
  case repeated =>
    intro s c f k cat hserved hcat hroot hhome hover
    obtain ⟨-, -, -, -, -, -, -, hdeaf, hreset⟩ := id hserved
    rw [← takeShardVerdict_repeated hdeaf hreset hcat hroot hhome hover]
    exact next_eq (chipCommand_served_taken hserved (by decide) _)
  case verdict =>
    intro s c f k hserved haux hopen hnone
    obtain ⟨-, -, -, -, -, -, -, hdeaf, hreset⟩ := id hserved
    have hkept := takeVerdict_records hdeaf hreset haux hopen hnone
    refine ⟨setChip s c (takeVerdict k f), verdictOf f (cleanOf k f), next_eq (chipCommand_served_taken hserved (by decide) _),
      onlyChip_setChip s c _, ?_⟩
    rw [getChip_setChip_self]
    have hmarks := hkept.marks
    rw [ten_modTen_self] at hmarks
    obtain ⟨hrec, hexp⟩ := recorded_marks f (cleanOf k f) (ten k (rxHead f).tenant)
    refine ⟨⟨hkept.wake, hkept.vault, hkept.ports, hkept.image, hkept.faults,
        fun u hu => (hkept.others u hu).trans (ten_modTen_ne k _ u _ hu), fun _ _ => False.elim⟩,
      (hmarks.verdict _).trans (by rw [hrec]), rfl, rfl, rfl, rfl, (hmarks.timer _).trans (by rw [hrec]), hmarks.lsExp.trans hexp⟩
  case applied =>
    intro k t tensor shard step v a h r h' hverdict harray hshard hr hopen hprev hstill hshard'
    subst hr
    refine ⟨fun hended hcommits => ?commit, fun hback => ?back⟩
    case commit =>
      exact applyShard_merges hverdict harray hshard hopen hprev hstill hshard' (rollsBack_of_commits hcommits) hended
        (recomputes_of_commits hcommits)
    case back =>
      have hrolls : rollsBack v tensor = true := by
        obtain haux | ⟨haux, hlist⟩ := hback
        · simp [rollsBack, haux]
        · simp only [rollsBack, haux, hlist]
          rfl
      exact applyShard_keeps hverdict harray hshard hopen hprev hstill hshard' hrolls
  case ended =>
    intro s c r i k k' hk hinfo hcore hdone hk'
    subst hk
    obtain rfl : k' = endedStage (getChip s c) r.tenant.val r.tensor r.shard r.step i := hk'
    have hmarks := (settleKept_endedStage (getChip s c) r.tenant.val r.tensor r.shard r.step i).marks
    refine ⟨exec_updateStageEnd_done hinfo hcore hdone, ?_, fun m n => (sameArrays_endedStage _ _ _ _ _ i m n).1,
      tenantFrame_endedStage _ _ _ _ _ i, rfl, fun hnone hnext => settle2_noVerdict ((hmarks.verdict _).trans hnone) ((hmarks.verdict _).trans hnext)⟩
    exact congrArg ShardStep.update (stepOf_modTen_modShardStep _ _ _ _ _ _)
  case barrier =>
    intro s c t step v k hk hcore hdone hverdict
    subst hk
    refine ⟨_, exec_commitBarrier_done hcore hdone, onlyChip_setChip s c _, ?_⟩
    rw [getChip_setChip_self]
    obtain ⟨hresolved, hcommitted⟩ := passBarrier_ends (now := s.tray.now) hverdict
    exact ⟨hresolved.trans (laterOf_eq step _), fun haux => hcommitted.trans (if_pos haux),
      fun haux => (hcommitted.trans (if_neg haux)).trans (laterOf_eq step _)⟩

end Sys2Proof.Machine
end

section
/-!
PROOFS. O3 (IdleStepIsOneCoreCycle) and O7 (InvariantsHoldAtReset): a core cycle moves buckets and counts alone, and the state after reset meets
both invariants.
-/
namespace Sys2Proof.Machine

/-- What a core cycle leaves alone on a chip. -/
theorem tickChip_keeps (c : Chip) :
    (tickChip c).wake = c.wake ∧ (tickChip c).faults = c.faults ∧ (tickChip c).counters = c.counters ∧ (tickChip c).image = c.image ∧
      (tickChip c).ports = c.ports ∧ (tickChip c).outbox = c.outbox ∧ (tickChip c).inbox = c.inbox ∧ (tickChip c).vault = c.vault ∧
      (tickChip c).hbm = c.hbm ∧ (tickChip c).sync = c.sync := by
  unfold tickChip
  split
  · exact ⟨rfl, rfl, rfl, rfl, rfl, rfl, rfl, rfl, rfl, rfl⟩
  · exact ⟨rfl, rfl, rfl, rfl, rfl, rfl, rfl, rfl, rfl, rfl⟩

theorem step_idle {s : State} (h : s.pending = []) : step s = .next (tick s) := by rw [step, h]

/-- Settles O3. -/
theorem idleStepIsOneCoreCycle : Obligations.IdleStepIsOneCoreCycle := by
  unfold Obligations.IdleStepIsOneCoreCycle
  intro s hidle
  refine ⟨tick s, step_idle hidle, hidle, rfl, fun p => ?_⟩
  rw [getChip_tick]
  exact tickChip_keeps _

/-- Settles O7. The flash lists no byte, and each chip's issue rate is 16/16. -/
theorem invariantsHoldAtReset : Obligations.InvariantsHoldAtReset := by
  unfold Obligations.InvariantsHoldAtReset
  have hempty : FlashWf State.reset := ⟨rfl, fun _ h => absurd h List.not_mem_nil⟩
  refine ⟨hempty, fun p => ?_⟩
  rw [getChip_reset]
  exact ⟨by decide, by decide⟩

end Sys2Proof.Machine
end

section
/-!
PROOFS. O36 (HotFollowsTheThresholds), O37 (GovernorMovesTheRateByOneSixteenth) and O38 (ThermalShutdownStopsTheChip): Table 4-7, by its pairs of
limits (R86 to R88).
-/
namespace Sys2Proof.Machine

/-! ## Pairs of limits (R86) -/

/-- A pair of limits is reached where Tj, the highest of three readings, or a case reading reaches its own. -/
theorem reaches_iff (t : Temps) (tj hbm : Int) :
    reaches t tj hbm = true ↔ 16 * tj ≤ t.tj0 ∨ 16 * tj ≤ t.tj1 ∨ 16 * tj ≤ t.tj2 ∨ 16 * hbm ≤ t.hbm0 ∨ 16 * hbm ≤ t.hbm1 ∨
      16 * hbm ≤ t.hbm2 ∨ 16 * hbm ≤ t.hbm3 := by
  simp [reaches, tjOf, casesOf, or_assoc]

theorem below_iff (t : Temps) (tj hbm : Int) :
    below t tj hbm = true ↔ t.tj0 < 16 * tj ∧ t.tj1 < 16 * tj ∧ t.tj2 < 16 * tj ∧ t.hbm0 < 16 * hbm ∧ t.hbm1 < 16 * hbm ∧
      t.hbm2 < 16 * hbm ∧ t.hbm3 < 16 * hbm := by
  simp [below, tjOf, casesOf, and_assoc]

/-- Readings below both limits reach neither. -/
theorem reaches_of_below {t : Temps} {tj hbm : Int} (h : below t tj hbm = true) : reaches t tj hbm = false := by
  rw [below_iff] at h
  rw [Bool.eq_false_iff, Ne, reaches_iff]
  omega

/-! ## HOT_n (R86) -/

/-- The chip with new readings and HOT_n by them. -/
def hotRead (x : Temps) (c : Chip) : Chip := modWake c (fun w => { w with temps := x, hot := hotAfter w.hot x })

theorem exec_hotThreshold {s : State} {c : Pos} (hpower : (getChip s c).wake.season ≠ .off) (x : Temps) :
    exec (.hotThreshold c x) s = .next (modChip s c (hotRead x)) := if_neg hpower

/-- Settles O36. -/
theorem hotFollowsTheThresholds : Obligations.HotFollowsTheThresholds := by
  unfold Obligations.HotFollowsTheThresholds
  intro s c x hpower
  refine ⟨_, exec_hotThreshold hpower x, onlyChip_modChip s c _, ?_⟩
  rw [getChip_modChip_self]
  refine ⟨rfl, fun hcold => ?_, fun hhot => ?_⟩
  · change hotAfter (getChip s c).wake.hot x = true ↔ _
    rw [hcold]
    exact reaches_iff x 100 90
  · change hotAfter (getChip s c).wake.hot x = false ↔ _
    rw [hhot]
    exact (Bool.not_eq_false' (b := below x 97 87) ▸ Iff.rfl : _ ↔ below x 97 87 = true).trans (below_iff x 97 87)

/-! ## The governor (R87) -/

/-- Settles O37. Each command acts under its pair of limits on a core that runs. -/
theorem governorMovesTheRateByOneSixteenth : Obligations.GovernorMovesTheRateByOneSixteenth := by
  unfold Obligations.GovernorMovesTheRateByOneSixteenth
  refine ⟨fun s c x hruns hhot => ?_, fun s c x hruns h0 h1 h2 h3 h4 h5 h6 => ?_⟩
  · have hreached : reaches x 108 93 = true := (reaches_iff x 108 93).2 hhot
    exact if_pos (by rw [hruns, hreached]; rfl)
  · have hbelow : below x 104 90 = true := (below_iff x 104 90).2 ⟨h0, h1, h2, h3, h4, h5, h6⟩
    exact if_pos (by rw [hruns, hbelow]; rfl)

/-! ## A code of no port raised -/

/-- Besides halts and hits, a raised code is recorded. -/
theorem opFault_eq (c : Chip) (code : Nat) (p : Option PortNo) :
    ∃ l d, opFault c code p = { recordFault c code p with clusters := l, dbg := d } := sameButHalts_hitFault _ code

theorem opFault_keeps (c : Chip) (code : Nat) (p : Option PortNo) :
    (opFault c code p).wake = c.wake ∧ (opFault c code p).hbm = c.hbm ∧ (opFault c code p).vault = c.vault ∧
      (opFault c code p).ports = c.ports := by
  obtain ⟨l, d, hraised⟩ := opFault_eq c code p
  rw [hraised]
  exact ⟨rfl, rfl, rfl, rfl⟩

theorem holdsFault_opFault_self {c : Chip} (h : c.faults.length < 16) (code : Nat) (p : Option PortNo) :
    holdsFault (opFault c code p) code = true := by
  obtain ⟨l, d, hraised⟩ := opFault_eq c code p
  rw [hraised, holdsFault_iff]
  exact ⟨_, mem_listFault_self h, rfl, rfl⟩

/-! ## Thermal shutdown (R88) -/

/-- The wake record of a chip that thermal shutdown stops. -/
def shutWake (x : Temps) (w : Wake) : Wake :=
  { w with temps := x, stopped := true, ctxValid := false, entered := false, hbm := hbmToWinter w.hbm, drained := false, cold := false,
           heating := false, drain := .idle, phase := if w.season = .spring && decide (w.phase ≠ .done) then .failed else w.phase }

/-- The chip as it stops, before 0x61 is raised: no task, no frame, every port down, caches empty. -/
def shutBody (c : Chip) (x : Temps) : Chip :=
  let d := emptyCaches (allPortsOff (endTasks c (fun _ => true)))
  modWake { d with outbox := [], inbox := [], candidate := none, tenants := tabMap (fun _ y => dropWork y) d.tenants } (shutWake x)

theorem shutDown_eq (c : Chip) (x : Temps) : shutDown c x = opFault (shutBody c x) 0x61 none := rfl

/-- A cluster of a stopped chip holds no task. -/
theorem clusterOf_shutBody (c : Chip) (x : Temps) (j : ClusterNo) :
    (clusterOf (shutBody c x) j).run = none ∧ (clusterOf (shutBody c x) j).next = none ∧ (clusterOf (shutBody c x) j).queue = [] := by
  have hcluster : clusterOf (shutBody c x) j =
      ((tabFind c.clusters j).map (fun y => { dropTasks (fun _ => true) y with l1 := [] })).getD .reset := by
    rw [clusterOf, tabGet_eq_find]
    change (tabFind (tabMap (fun _ k => { k with l1 := [] }) (tabMap (fun _ k => dropTasks (fun _ => true) k) c.clusters)) j).getD _ = _
    rw [tabFind_tabMap, tabFind_tabMap, Option.map_map]
    rfl
  rw [hcluster]
  cases tabFind c.clusters j with
  | none => exact ⟨rfl, rfl, rfl⟩
  | some y =>
    obtain ⟨hqueue, hrun, hnext⟩ := dropTasks_all y
    exact ⟨hrun, hnext, hqueue⟩

theorem portOf_shutBody_step (c : Chip) (x : Temps) (p : PortNo) : (portOf (shutBody c x) p).step = .down :=
  portOf_allPortsOff_step (endTasks c (fun _ => true)) p

theorem hbmToWinter_running : hbmToWinter .running = .selfRefresh := rfl

/-- Memory, keys and the season stay. -/
theorem shutBody_keeps (c : Chip) (x : Temps) :
    (shutBody c x).hbm = c.hbm ∧ (shutBody c x).vault = c.vault ∧ (shutBody c x).wake = shutWake x c.wake := ⟨rfl, rfl, rfl⟩

theorem faults_shutBody (c : Chip) (x : Temps) : (shutBody c x).faults = c.faults := rfl

theorem exec_thermalShutdown {s : State} {c : Pos} {x : Temps} (hpower : (getChip s c).wake.season ≠ .off)
    (hruns : (getChip s c).wake.stopped = false) (hhot : reaches x 115 95 = true) :
    exec (.thermalShutdown c x) s = .next (if c = 0 then modTray (refreshFans (modChip s c (fun k => shutDown k x))) (fun y =>
      { y with load := .reset }) else refreshFans (modChip s c (fun k => shutDown k x))) :=
  if_pos (by rw [decide_eq_true hpower, hruns, hhot]; rfl)

/-- After a change of one chip and of the keeper, the queue and the other chips are as they were. -/
theorem otherChips_of_getChip {c : Pos} {s t : State} (hpending : t.pending = s.pending) (k : Chip) (h : ∀ p, getChip t p = getChip (setChip s c k) p) :
    OtherChips c s t ∧ getChip t c = k :=
  ⟨⟨hpending, fun p hp => (h p).trans (getChip_setChip_ne s c p k hp)⟩, (h c).trans (getChip_setChip_self s c k)⟩

/-- Settles O38. The chip is shutBody with 0x61 raised, whose breakpoints only halt clusters. -/
theorem thermalShutdownStopsTheChip : Obligations.ThermalShutdownStopsTheChip := by
  unfold Obligations.ThermalShutdownStopsTheChip
  refine ⟨fun s c x hpower hruns hhot => ?_, fun s c x h0 h1 h2 h3 h4 h5 h6 => ?_⟩
  · refine ⟨_, exec_thermalShutdown hpower hruns ((reaches_iff x 115 95).2 hhot), ?_⟩
    generalize ht : (if c = 0 then _ else _ : State) = t
    obtain ⟨hothers, hchip⟩ := otherChips_of_getChip (c := c) (s := s) (t := t) (by rw [← ht]; split <;> rfl) (shutDown (getChip s c) x)
      (fun p => by rw [← ht]; split <;> simp only [getChip_modTray, getChip_refreshFans, modChip])
    obtain ⟨hhbm, hvault, hbody⟩ := shutBody_keeps (getChip s c) x
    obtain ⟨gwake, ghbm, gvault, gports⟩ := opFault_keeps (shutBody (getChip s c) x) 0x61 none
    rw [← shutDown_eq, ← hchip] at gwake ghbm gvault gports
    have hwake : (getChip t c).wake = shutWake x (getChip s c).wake := gwake.trans hbody
    refine ⟨hothers, by rw [hwake]; rfl, by rw [hwake]; rfl, fun hran => ?_, ghbm.trans hhbm, by rw [hwake]; rfl, by rw [hwake]; rfl,
      gvault.trans hvault, fun hroom => ?_, fun p => ?_, fun k y hy => ?_⟩
    · rw [hwake]
      exact (congrArg hbmToWinter hran).trans hbmToWinter_running
    · rw [hchip, shutDown_eq]
      exact holdsFault_opFault_self (by rwa [faults_shutBody]) 0x61 none
    · rw [portOf, gports]
      exact portOf_shutBody_step _ x p
    · obtain ⟨b, m, hcluster⟩ := onlyHalted_hitFault (recordFault (shutBody (getChip s c) x) 0x61 none) 0x61 k
      rw [← clusterOf_of_tabFind hy, hchip, shutDown_eq, opFault, hcluster]
      exact clusterOf_shutBody _ x k
  · have hbelow : reaches x 115 95 = false := reaches_of_below ((below_iff x 115 95).2 ⟨h0, h1, h2, h3, h4, h5, h6⟩)
    exact if_neg (by rw [hbelow, Bool.and_false]; exact Bool.false_ne_true)

end Sys2Proof.Machine
end

section
/-!
PROOFS. The rules of a link: what a command leaves alone beside its port (LinkFrame), what a unit sent, a link fault, frames given back and a
lost port do to the port, and what decides whether a port may train.
-/
namespace Sys2Proof.Machine

/-! ## Beside the port -/

theorem linkFrame_refl (p : PortNo) (k : Chip) : LinkFrame p k k := ⟨rfl, rfl, rfl, rfl, rfl, rfl, rfl, fun _ _ => rfl⟩

theorem linkFrame_trans {p : PortNo} {a b c : Chip} (h : LinkFrame p a b) (g : LinkFrame p b c) : LinkFrame p a c := by
  obtain ⟨h1, h2, h3, h4, h5, h6, h7, hports⟩ := h
  obtain ⟨g1, g2, g3, g4, g5, g6, g7, gports⟩ := g
  exact ⟨g1.trans h1, g2.trans h2, g3.trans h3, g4.trans h4, g5.trans h5, g6.trans h6, g7.trans h7,
    fun q hq => (gports q hq).trans (hports q hq)⟩

theorem linkFrame_setPort (c : Chip) (p : PortNo) (x : Port) : LinkFrame p c (setPort c p x) :=
  ⟨rfl, rfl, rfl, rfl, rfl, rfl, rfl, fun q hq => portOf_setPort_ne c p q x hq⟩

theorem linkFrame_modPort (c : Chip) (p : PortNo) (f : Port → Port) : LinkFrame p c (modPort c p f) := linkFrame_setPort c p _

theorem linkFrame_countDev (c : Chip) (p : PortNo) (i n : Nat) : LinkFrame p c (countDev c i n) := linkFrame_refl p c

/-- What is counted of the device leaves the other counters as they are. -/
theorem counters_countDev_ne (c : Chip) {i j : Nat} (n : Nat) (h : j ≠ i) : tabGet 0 (countDev c i n).counters j = tabGet 0 c.counters j :=
  tabGet_tabSet_ne _ _ _ _ _ h

/-! ## Units sent -/

/-- A unit sent is added to what leaves by the port, and nothing else changes. -/
theorem sendUnit_eq (x : Port) (u : BitVec 320) : ∃ q w, sendUnit x u = { x with ethQueue := q, wire := w } := by
  unfold sendUnit
  split
  · exact ⟨x.ethQueue ++ [u], x.wire, rfl⟩
  · exact ⟨x.ethQueue, x.wire ++ [u], rfl⟩

theorem sendUnits_eq (us : List (BitVec 320)) (x : Port) : ∃ q w, sendUnits x us = { x with ethQueue := q, wire := w } := by
  induction us generalizing x with
  | nil => exact ⟨x.ethQueue, x.wire, rfl⟩
  | cons u us ih =>
    obtain ⟨q, w, hsent⟩ := sendUnit_eq x u
    obtain ⟨q', w', hrest⟩ := ih (sendUnit x u)
    refine ⟨q', w', hrest.trans ?_⟩
    rw [hsent]

/-- In every mode but Ethernet, units leave at once and in order. -/
theorem sendUnits_native {x : Port} (h : x.mode ≠ .ethernet) (us : List (BitVec 320)) : sendUnits x us = { x with wire := x.wire ++ us } := by
  induction us generalizing x with
  | nil => rw [List.append_nil]; rfl
  | cons u us ih =>
    have hstep : sendUnits x (u :: us) = sendUnits (sendUnit x u) us := rfl
    rw [hstep, sendUnit_native h, ih (by exact h), List.append_assoc]
    rfl

theorem sendCredits_eq (l : List Nat) (x : Port) : ∃ q w, l.foldl sendCredit x = { x with ethQueue := q, wire := w } := by
  induction l generalizing x with
  | nil => exact ⟨x.ethQueue, x.wire, rfl⟩
  | cons n l ih =>
    obtain ⟨q, w, hsent⟩ := sendUnit_eq x (controlUnit (creditContent x n))
    obtain ⟨q', w', hrest⟩ := ih (sendCredit x n)
    refine ⟨q', w', hrest.trans ?_⟩
    rw [sendCredit, hsent]

/-! ## Frames given back, and link faults (R162, R163) -/

/-- A port whose waiting frames have been given back. -/
def givenBack (x : Port) : Port := { x with unacked := [], egress := [], outDeficit := [] }

theorem returnFrames_chipLink {p : PortNo} (h : isChipLink p = true) (c : Chip) :
    returnFrames c p = { modPort c p givenBack with outbox := waitingFrames (portOf c p) ++ c.outbox } := if_pos h

theorem returnFrames_hostPort {p : PortNo} (h : isChipLink p = false) (c : Chip) :
    returnFrames c p = countDev (modPort c p givenBack) 133 (waitingFrames (portOf c p)).length :=
  if_neg (Bool.eq_false_iff.1 h)

/-- Frames given back change the port, and else what waits to be routed or the count of what is discarded. -/
theorem returnFrames_eq (c : Chip) (p : PortNo) : ∃ o n, returnFrames c p = { modPort c p givenBack with outbox := o, counters := n } := by
  cases h : isChipLink p
  · exact ⟨c.outbox, _, returnFrames_hostPort h c⟩
  · exact ⟨_, c.counters, returnFrames_chipLink h c⟩

theorem portOf_returnFrames_self (c : Chip) (p : PortNo) : portOf (returnFrames c p) p = givenBack (portOf c p) := by
  obtain ⟨o, n, h⟩ := returnFrames_eq c p
  rw [h]
  exact portOf_modPort_self c p givenBack

theorem linkFrame_returnFrames (c : Chip) (p : PortNo) : LinkFrame p c (returnFrames c p) := by
  obtain ⟨o, n, h⟩ := returnFrames_eq c p
  rw [h]
  exact linkFrame_modPort c p givenBack

theorem occurrences_returnFrames (c : Chip) (p : PortNo) : (returnFrames c p).occurrences = c.occurrences := by
  obtain ⟨o, n, h⟩ := returnFrames_eq c p
  rw [h]
  rfl

/-- A port with a link fault as its last. -/
def faultedPort (code : Nat) (x : Port) : Port := { x with lastFault := code }

/-- A link fault changes the port's last fault, is recorded, and may halt clusters. -/
theorem linkFault_eq (c : Chip) (p : PortNo) (code : Nat) :
    ∃ l d, linkFault c p code = { recordFault (modPort c p (faultedPort code)) code (some p) with clusters := l, dbg := d } :=
  opFault_eq _ code _

theorem portOf_linkFault_self (c : Chip) (p : PortNo) (code : Nat) : portOf (linkFault c p code) p = faultedPort code (portOf c p) := by
  obtain ⟨l, d, h⟩ := linkFault_eq c p code
  rw [h]
  exact portOf_modPort_self c p (faultedPort code)

theorem linkFrame_linkFault (c : Chip) (p : PortNo) (code : Nat) : LinkFrame p c (linkFault c p code) := by
  obtain ⟨l, d, h⟩ := linkFault_eq c p code
  rw [h]
  exact linkFrame_modPort c p (faultedPort code)

theorem occurrences_linkFault (c : Chip) (p : PortNo) (code : Nat) :
    tabGet 0 (linkFault c p code).occurrences code = tabGet 0 c.occurrences code + 1 := by
  obtain ⟨l, d, h⟩ := linkFault_eq c p code
  rw [h]
  exact occurrences_recordFault (modPort c p (faultedPort code)) code (some p)

/-- Whether a port may train does not turn on link faults. -/
theorem portEnabled_linkFault (s : State) (c : Pos) (p q : PortNo) (code : Nat) :
    portEnabled (modChip s c (fun k => linkFault k p code)) c q = portEnabled s c q := by
  obtain ⟨l, d, h⟩ := linkFault_eq (getChip s c) p code
  unfold portEnabled cageEnabled
  rw [getChip_modChip_self, h]
  rfl

/-! ## A port lost (R153, R162) -/

/-- A port as it is lost: it trains again from step 1 where it may, else it is down. -/
def lostPort (on : Bool) (x : Port) : Port := if on then beginTraining x .lanes else portStopped x

theorem lostPort_step (on : Bool) (x : Port) : (lostPort on x).step = if on then .lanes else .down := by
  cases on <;> rfl

theorem lostPort_lastFault (on : Bool) (x : Port) : (lostPort on x).lastFault = x.lastFault := by
  cases on <;> rfl

/-- Nothing of a lost port waits for an acknowledgement. -/
theorem lostPort_unacked (on : Bool) (x : Port) : (lostPort on x).unacked = [] := by
  cases on <;> rfl

theorem lostPort_egress (on : Bool) {x : Port} (h : x.egress = []) : (lostPort on x).egress = [] := by
  cases on
  · rfl
  · exact h

theorem getChip_losePort (s : State) (c : Pos) (p : PortNo) :
    getChip (losePort s c p) c = modPort (returnFrames (getChip s c) p) p (lostPort (portEnabled s c p)) := getChip_modChip_self s c _

theorem portOf_losePort (s : State) (c : Pos) (p : PortNo) :
    portOf (getChip (losePort s c p) c) p = lostPort (portEnabled s c p) (givenBack (portOf (getChip s c) p)) := by
  rw [getChip_losePort, portOf_modPort_self, portOf_returnFrames_self]

theorem linkFrame_losePort (s : State) (c : Pos) (p : PortNo) : LinkFrame p (getChip s c) (getChip (losePort s c p) c) := by
  rw [getChip_losePort]
  exact linkFrame_trans (linkFrame_returnFrames _ p) (linkFrame_modPort _ p _)

theorem occurrences_losePort (s : State) (c : Pos) (p : PortNo) :
    (getChip (losePort s c p) c).occurrences = (getChip s c).occurrences := by
  rw [getChip_losePort]
  exact occurrences_returnFrames _ p

/-- A port lost to a link fault: the code is recorded on it, and it trains again where it may. -/
theorem losePort_linkFault (s : State) (c : Pos) (p : PortNo) (code : Nat) :
    let t := losePort (modChip s c (fun k => linkFault k p code)) c p
    OnlyChip c s t ∧ LinkFrame p (getChip s c) (getChip t c) ∧
      (portOf (getChip t c) p).step = (if portEnabled s c p then .lanes else .down) ∧ (portOf (getChip t c) p).lastFault = code ∧
      tabGet 0 (getChip t c).occurrences code = tabGet 0 (getChip s c).occurrences code + 1 := by
  intro t
  have hport := portOf_losePort (modChip s c (fun k => linkFault k p code)) c p
  rw [getChip_modChip_self, portOf_linkFault_self, portEnabled_linkFault] at hport
  refine ⟨onlyChip_trans (onlyChip_modChip s c _) (onlyChip_losePort _ c p), ?_, ?_, ?_, ?_⟩
  · refine linkFrame_trans (linkFrame_linkFault _ p code) ?_
    have hlost := linkFrame_losePort (modChip s c (fun k => linkFault k p code)) c p
    rwa [getChip_modChip_self] at hlost
  · rw [hport, lostPort_step]
  · rw [hport, lostPort_lastFault]
    rfl
  · rw [occurrences_losePort, getChip_modChip_self, occurrences_linkFault]

end Sys2Proof.Machine
end

section
/-!
PROOFS. O40 (PeersAreChecked) and O41 (FailedAttemptsBeginAgain): the peer check of step 4, the credits of steps 6 and 7, and the attempts that
fail (Table 8-7, R153).
-/
namespace Sys2Proof.Machine

/-! ## Attempts that fail (R153) -/

/-- An attempt that fails: the link is cleared for the step it begins again at, and the code is recorded on the port. -/
theorem failedAttempt (c : Chip) (p : PortNo) (step : TrainStep) (code : Nat) :
    let c' := linkFault (modPort (returnFrames c p) p (fun x => clearLink x step)) p code
    LinkFrame p c c' ∧ portOf c' p = faultedPort code (clearLink (givenBack (portOf c p)) step) ∧
      tabGet 0 c'.occurrences code = tabGet 0 c.occurrences code + 1 := by
  intro c'
  refine ⟨linkFrame_trans (linkFrame_trans (linkFrame_returnFrames c p) (linkFrame_modPort _ p _)) (linkFrame_linkFault _ p code), ?_, ?_⟩
  · rw [portOf_linkFault_self, portOf_modPort_self, portOf_returnFrames_self]
  · rw [occurrences_linkFault]
    exact congrArg (fun o => tabGet 0 o code + 1) (occurrences_returnFrames c p)

theorem exec_retrainTimer_failed4 {s : State} {c : Pos} {p : PortNo} (hon : portEnabled s c p = true)
    (hstep : (portOf (getChip s c) p).step = .failed4) :
    exec (.retrainTimer c p) s = .next (modChip s c (fun k => enterHello (modPort k p (fun x => beginTraining x .hello)) p)) := by
  change (if portEnabled s c p then _ else _ : Host.Outcome State Fault Refusal) = _
  rw [if_pos hon, hstep]

theorem exec_retrainTimer_failed1 {s : State} {c : Pos} {p : PortNo} (hon : portEnabled s c p = true)
    (hstep : (portOf (getChip s c) p).step = .failed1) :
    exec (.retrainTimer c p) s = .next (modChip s c (fun k => modPort k p (fun x => beginTraining x .lanes))) := by
  change (if portEnabled s c p then _ else _ : Host.Outcome State Fault Refusal) = _
  rw [if_pos hon, hstep]

/-- Settles O41. -/
theorem failedAttemptsBeginAgain : Obligations.FailedAttemptsBeginAgain := by
  unfold Obligations.FailedAttemptsBeginAgain
  refine ⟨fun s c p htraining => ?_, fun s c p hon hstep => ?_, fun s c p hon hstep => ?_, fun s c p hoff => if_neg (by rw [hoff]; decide)⟩
  · refine ⟨_, if_pos htraining, onlyChip_modChip s c _, ?_⟩
    rw [getChip_modChip_self]
    obtain ⟨hframe, hport, hcount⟩ := failedAttempt (getChip s c) p .failed1 0x10
    refine ⟨hframe, ?_, ?_, ?_, hcount⟩
    all_goals rw [hport]; rfl
  · refine ⟨_, exec_retrainTimer_failed1 hon hstep, onlyChip_modChip s c _, ?_⟩
    rw [getChip_modChip_self, portOf_modPort_self]
    exact ⟨linkFrame_modPort _ p _, rfl, rfl⟩
  · refine ⟨_, exec_retrainTimer_failed4 hon hstep, onlyChip_modChip s c _, ?_⟩
    rw [getChip_modChip_self]
    refine ⟨linkFrame_trans (linkFrame_modPort _ p _) (linkFrame_enterHello _ p), ?_⟩
    obtain ⟨q, w, hsent⟩ := sendUnit_eq (inHello (modPort (getChip s c) p (fun x => beginTraining x .hello)) p)
      (controlUnit (helloOf (modPort (getChip s c) p (fun x => beginTraining x .hello)) p 0x03
        (nextNonce (modPort (getChip s c) p (fun x => beginTraining x .hello)))))
    rw [portOf_enterHello, hsent, inHello, portOf_modPort_self]
    exact ⟨rfl, rfl, rfl, rfl⟩

/-! ## Credits, and the port up (Table 8-7 steps 6 and 7) -/

/-- A port that is up. -/
def upPort (x : Port) : Port := { x with step := .up }

/-- A port that comes up is counted; the faults listed on it and what was lost with it change, and nothing else. -/
theorem portCameUp_eq (c : Chip) (p : PortNo) :
    ∃ fs ps ds, portCameUp c p = { countDev (modPort c p upPort) 141 1 with faults := fs, lostPeers := ps, lostDirs := ds } := by
  unfold portCameUp
  dsimp only
  split
  · exact ⟨_, _, _, rfl⟩
  · exact ⟨_, _, _, rfl⟩

theorem portOf_portCameUp_self (c : Chip) (p : PortNo) : portOf (portCameUp c p) p = upPort (portOf c p) := by
  obtain ⟨fs, ps, ds, h⟩ := portCameUp_eq c p
  rw [h]
  exact portOf_modPort_self c p upPort

theorem linkFrame_portCameUp (c : Chip) (p : PortNo) : LinkFrame p c (portCameUp c p) := by
  obtain ⟨fs, ps, ds, h⟩ := portCameUp_eq c p
  rw [h]
  exact linkFrame_modPort c p upPort

theorem counters_portCameUp (c : Chip) (p : PortNo) : tabGet 0 (portCameUp c p).counters 141 = satAdd64 (tabGet 0 c.counters 141) 1 := by
  obtain ⟨fs, ps, ds, h⟩ := portCameUp_eq c p
  rw [h]
  exact counters_countDev_self (modPort c p upPort) 141 1

/-- A port at step 6 as it is before its CREDIT flits leave: SEQ at 0, every pool granted its size. -/
def grantedPort (c : Chip) (p : PortNo) (x : Port) : Port :=
  { x with step := .credits, txSeq := 0, rxSeq := 0, granted := allPools.map (fun q => (q, poolSize c p q)) }

/-- A port at step 6, its initial CREDIT flits sent. -/
def creditedPort (c : Chip) (p : PortNo) (x : Port) : Port :=
  { [1, 2, 5, 6].foldl sendCredit (grantedPort c p x) with creditsOut := true }

/-- Step 6 is due: the check has passed and a HELLO was echoed. -/
def creditsDue (x : Port) : Bool := decide (x.step = .hello) && x.checked && x.echoed

/-- Step 7 is due: credits are held in both directions. -/
def upDue (x : Port) : Bool := decide (x.step = .credits) && x.creditsIn && x.creditsOut

/-- The chip after step 6 where it is due. -/
def afterCredits (c : Chip) (p : PortNo) : Chip := if creditsDue (portOf c p) then modPort c p (creditedPort c p) else c

theorem advancePort_eq (c : Chip) (p : PortNo) :
    advancePort c p = if upDue (portOf (afterCredits c p) p) then portCameUp (afterCredits c p) p else afterCredits c p := rfl

theorem afterCredits_due {c : Chip} {p : PortNo} (h : creditsDue (portOf c p) = true) :
    afterCredits c p = modPort c p (creditedPort c p) := if_pos h

theorem afterCredits_waits {c : Chip} {p : PortNo} (h : creditsDue (portOf c p) = false) : afterCredits c p = c :=
  if_neg (Bool.eq_false_iff.1 h)

theorem linkFrame_afterCredits (c : Chip) (p : PortNo) : LinkFrame p c (afterCredits c p) := by
  cases h : creditsDue (portOf c p)
  · rw [afterCredits_waits h]
    exact linkFrame_refl p c
  · rw [afterCredits_due h]
    exact linkFrame_modPort c p _

theorem linkFrame_advancePort (c : Chip) (p : PortNo) : LinkFrame p c (advancePort c p) := by
  rw [advancePort_eq]
  split
  · exact linkFrame_trans (linkFrame_afterCredits c p) (linkFrame_portCameUp _ p)
  · exact linkFrame_afterCredits c p

/-- Where neither step is due, nothing changes. -/
theorem advancePort_waits {c : Chip} {p : PortNo} (hcredits : creditsDue (portOf c p) = false) (hup : upDue (portOf c p) = false) :
    advancePort c p = c := by
  rw [advancePort_eq, afterCredits_waits hcredits, hup, if_neg Bool.false_ne_true]

theorem advancePort_comesUp {c : Chip} {p : PortNo} (hcredits : creditsDue (portOf c p) = false) (hup : upDue (portOf c p) = true) :
    advancePort c p = portCameUp c p := by
  rw [advancePort_eq, afterCredits_waits hcredits, if_pos hup]

theorem creditedPort_eq (c : Chip) (p : PortNo) (x : Port) :
    ∃ q w, creditedPort c p x = { grantedPort c p x with ethQueue := q, wire := w, creditsOut := true } := by
  obtain ⟨q, w, hsent⟩ := sendCredits_eq [1, 2, 5, 6] (grantedPort c p x)
  exact ⟨q, w, by rw [creditedPort, hsent]⟩

/-- A table of each listed key's value. -/
theorem tabGet_map_of_mem {κ α : Type} [DecidableEq κ] (f : κ → α) (d : α) {l : List κ} {k : κ} (h : k ∈ l) :
    tabGet d (l.map (fun q => (q, f q))) k = f k := by
  induction l with
  | nil => exact absurd h List.not_mem_nil
  | cons q l ih =>
    by_cases hq : q = k
    · rw [List.map_cons, tabGet, if_pos hq, hq]
    · rw [List.map_cons, tabGet, if_neg hq]
      exact ih ((List.mem_cons.1 h).resolve_left (Ne.symm hq))

/-- With the check passed and a HELLO echoed, SEQ starts at 0, the initial credits are out, every pool is granted its size, and the port waits for
credits or is up. -/
theorem portOf_advancePort_due {c : Chip} {p : PortNo} (h : creditsDue (portOf c p) = true) :
    let x := portOf (advancePort c p) p
    x.step = (if (portOf c p).creditsIn then .up else .credits) ∧ x.txSeq = 0 ∧ x.rxSeq = 0 ∧ x.creditsOut = true ∧
      x.checked = (portOf c p).checked ∧ x.echoed = (portOf c p).echoed ∧ x.peerEpoch = (portOf c p).peerEpoch ∧ x.rttUs = (portOf c p).rttUs ∧
      ∀ q ∈ allPools, tabGet 0 x.granted q = poolSize c p q := by
  obtain ⟨q, w, hsent⟩ := creditedPort_eq c p (portOf c p)
  have hk : advancePort c p =
      if (portOf c p).creditsIn then portCameUp (modPort c p (creditedPort c p)) p else modPort c p (creditedPort c p) := by
    rw [advancePort_eq, afterCredits_due h, portOf_modPort_self, hsent]
    simp [upDue, grantedPort]
  have hgranted : ∀ q ∈ allPools, tabGet 0 (grantedPort c p (portOf c p)).granted q = poolSize c p q := fun q hq =>
    tabGet_map_of_mem (poolSize c p) 0 hq
  rw [hk]
  split
  · rw [portOf_portCameUp_self, portOf_modPort_self, hsent]
    exact ⟨rfl, rfl, rfl, rfl, rfl, rfl, rfl, rfl, hgranted⟩
  · rw [portOf_modPort_self, hsent]
    exact ⟨rfl, rfl, rfl, rfl, rfl, rfl, rfl, rfl, hgranted⟩

/-! ## The peer check (Table 8-9) -/

/-- What HELLO says of a port turns on its mode and EPOCH alone. -/
theorem helloOf_setPort {c : Chip} {p : PortNo} {x : Port} (hmode : x.mode = (portOf c p).mode) (hepoch : x.epoch = (portOf c p).epoch)
    (ctype : Nat) (n : BitVec 32) : helloOf (setPort c p x) p ctype n = helloOf c p ctype n := by
  unfold helloOf
  dsimp only
  rw [portOf_setPort_self, hmode, hepoch]
  rfl

theorem peerOk_setPort {c : Chip} {p : PortNo} {x : Port} (hmode : x.mode = (portOf c p).mode) (hepoch : x.epoch = (portOf c p).epoch)
    (h : HelloContent) : peerOk (setPort c p x) p h = peerOk c p h := by
  unfold peerOk
  rw [helloOf_setPort hmode hepoch]
  rfl

/-- A port in step 4 that has answered a HELLO. -/
def answeredPort (c : Chip) (p : PortNo) (h : HelloContent) : Port :=
  sendUnit { portOf c p with crcFails := 0, peerEpoch := h.epoch } (controlUnit (helloOf c p 0x04 h.nonce))

theorem answeredPort_eq (c : Chip) (p : PortNo) (h : HelloContent) :
    ∃ q w, answeredPort c p h = { portOf c p with crcFails := 0, peerEpoch := h.epoch, ethQueue := q, wire := w } :=
  sendUnit_eq _ _

/-- On a port that is not in Ethernet mode the HELLO_ACK leaves at once. -/
theorem answeredPort_native {c : Chip} {p : PortNo} (hnative : (portOf c p).mode ≠ .ethernet) (h : HelloContent) :
    (answeredPort c p h).wire = (portOf c p).wire ++ [controlUnit (helloOf c p 0x04 h.nonce)] := by
  rw [answeredPort, sendUnit_native (by exact hnative)]

/-- The chip once a port in step 4 has answered a HELLO. -/
def answered (c : Chip) (p : PortNo) (h : HelloContent) : Chip := setPort (goodUnit c p) p (answeredPort c p h)

theorem portOf_goodUnit_self (c : Chip) (p : PortNo) : portOf (goodUnit c p) p = { portOf c p with crcFails := 0 } :=
  portOf_modPort_self c p _

theorem goodUnit_eq (c : Chip) (p : PortNo) : goodUnit c p = setPort c p { portOf c p with crcFails := 0 } := rfl

theorem helloOf_goodUnit (c : Chip) (p : PortNo) (ctype : Nat) (n : BitVec 32) : helloOf (goodUnit c p) p ctype n = helloOf c p ctype n := by
  rw [goodUnit_eq, helloOf_setPort]
  · rfl
  · rfl

/-- The peer is checked against what the port itself would say. -/
theorem peerOk_answered (c : Chip) (p : PortNo) (h g : HelloContent) : peerOk (answered c p h) p g = peerOk c p g := by
  obtain ⟨q, w, hsent⟩ := answeredPort_eq c p h
  have hgood : peerOk (goodUnit c p) p g = peerOk c p g := by
    rw [goodUnit_eq, peerOk_setPort]
    · rfl
    · rfl
  rw [answered, peerOk_setPort, hgood]
  · rw [hsent, portOf_goodUnit_self]
  · rw [hsent, portOf_goodUnit_self]

/-- A HELLO at a port in step 4: the peer is checked once the HELLO is answered. -/
theorem rxHello_checks {c : Chip} {p : PortNo} (hstep : (portOf c p).step = .hello) (content : BitVec 256) :
    rxHello (goodUnit c p) p content =
      if peerOk c p (parseHello content) then advancePort (modPort (answered c p (parseHello content)) p (fun x => { x with checked := true })) p
      else failPeer (answered c p (parseHello content)) p := by
  have hanswered : modPort (goodUnit c p) p (fun x =>
      sendUnit { x with peerEpoch := (parseHello content).epoch } (controlUnit (helloOf (goodUnit c p) p 0x04 (parseHello content).nonce))) =
      answered c p (parseHello content) := by
    rw [modPort, helloOf_goodUnit, portOf_goodUnit_self]
    rfl
  have hgood : (portOf (goodUnit c p) p).step = .hello := by rw [portOf_goodUnit_self]; exact hstep
  unfold rxHello
  dsimp only
  rw [hanswered, peerOk_answered, hgood]
  simp [hears, hgood]

theorem linkFrame_answered (c : Chip) (p : PortNo) (h : HelloContent) : LinkFrame p c (answered c p h) :=
  linkFrame_trans (linkFrame_modPort c p _) (linkFrame_setPort _ p _)

/-- What the first echo leaves of a port. -/
def echoedPort (x : Port) (us : Nat) : Port := { x with crcFails := 0, echoed := true, rttUs := sat16 us }

/-- The first HELLO_ACK with the NONCE sent is the echo. -/
theorem rxHelloAck_echoes {c : Chip} {p : PortNo} {content : BitVec 256} (hstep : (portOf c p).step = .hello)
    (hecho : (portOf c p).echoed = false) (hnonce : (parseHello content).nonce = (portOf c p).nonce) (us : Nat) :
    rxHelloAck (goodUnit c p) p content us = advancePort (setPort (goodUnit c p) p (echoedPort (portOf c p) us)) p := by
  unfold rxHelloAck
  dsimp only
  rw [modPort, portOf_goodUnit_self]
  exact if_pos (by simp [hstep, hecho, hnonce])

theorem exec_hello (s : State) (c : Pos) (p : PortNo) (content : BitVec 256) :
    exec (.hello c p content) s = .next (modChip s c (fun k => rxHello (goodUnit k p) p content)) := rfl

theorem exec_helloAck (s : State) (c : Pos) (p : PortNo) (content : BitVec 256) (us : Nat) :
    exec (.helloAck c p content us) s = .next (modChip s c (fun k => rxHelloAck (goodUnit k p) p content us)) := rfl

/-- The chip once a port's peer has passed its check. -/
def checkedPeer (c : Chip) (p : PortNo) (h : HelloContent) : Chip := modPort (answered c p h) p (fun x => { x with checked := true })

theorem portOf_checkedPeer (c : Chip) (p : PortNo) (h : HelloContent) :
    portOf (checkedPeer c p h) p = { answeredPort c p h with checked := true } := by
  rw [checkedPeer, portOf_modPort_self, answered, portOf_setPort_self]

theorem linkFrame_checkedPeer (c : Chip) (p : PortNo) (h : HelloContent) : LinkFrame p c (checkedPeer c p h) :=
  linkFrame_trans (linkFrame_answered c p h) (linkFrame_modPort _ p _)

/-- Settles O40. A peer that passes and an echo meet in advancePort, whichever comes last. -/
theorem peersAreChecked : Obligations.PeersAreChecked := by
  unfold Obligations.PeersAreChecked
  refine ⟨fun s c p content hstep hfails => ?failed, fun s c p content hstep hpasses => ?passed, fun s c p content us hstep hecho hnonce => ?echo⟩
  case failed =>
    refine ⟨_, exec_hello s c p content, onlyChip_modChip s c _, ?_⟩
    obtain ⟨hframe, hport, hcount⟩ := failedAttempt (answered (getChip s c) p (parseHello content)) p .failed4 0x11
    obtain ⟨q, w, hsent⟩ := answeredPort_eq (getChip s c) p (parseHello content)
    rw [getChip_modChip_self, rxHello_checks hstep, hfails, if_neg Bool.false_ne_true]
    rw [answered, portOf_setPort_self] at hport
    change portOf (failPeer (answered (getChip s c) p (parseHello content)) p) p = _ at hport
    refine ⟨?_, ?_, ?_, hcount, fun hnative => ?_, linkFrame_trans (linkFrame_answered _ p _) hframe⟩
    · rw [hport]; rfl
    · rw [hport]; rfl
    · rw [hport, hsent]; rfl
    · rw [hport]
      exact answeredPort_native hnative _
  case passed =>
    refine ⟨_, exec_hello s c p content, onlyChip_modChip s c _, ?_⟩
    have hport := portOf_checkedPeer (getChip s c) p (parseHello content)
    have hchip : rxHello (goodUnit (getChip s c) p) p content = advancePort (checkedPeer (getChip s c) p (parseHello content)) p := by
      rw [rxHello_checks hstep, if_pos hpasses, checkedPeer]
    obtain ⟨q, w, hsent⟩ := answeredPort_eq (getChip s c) p (parseHello content)
    have hfields := hport.trans (congrArg (fun x : Port => { x with checked := true }) hsent)
    rw [getChip_modChip_self, hchip]
    refine ⟨linkFrame_trans (linkFrame_checkedPeer _ p _) (linkFrame_advancePort _ p), ?_⟩
    cases hecho : (portOf (getChip s c) p).echoed with
    | false =>
      rw [advancePort_waits (by rw [hfields]; simp [creditsDue, hecho]) (by rw [hfields]; simp [upDue, hstep])]
      refine ⟨by rw [hfields], by rw [hfields], fun _ => ⟨by rw [hfields]; exact hstep, fun hnative => ?_⟩, fun h => absurd h Bool.false_ne_true⟩
      rw [hport]
      exact answeredPort_native hnative _
    | true =>
      obtain ⟨hs, htx, hrx, hout, hchecked, -, hepoch, -, hgranted⟩ := portOf_advancePort_due (p := p)
        (c := checkedPeer (getChip s c) p (parseHello content)) (by rw [hfields]; simp [creditsDue, hecho, hstep])
      refine ⟨hchecked.trans (by rw [hfields]), hepoch.trans (by rw [hfields]), fun h => absurd h.symm Bool.false_ne_true, fun _ => ?_⟩
      rw [hfields] at hs
      exact ⟨hs, htx, hrx, hout, hgranted⟩
  case echo =>
    refine ⟨_, exec_helloAck s c p content us, onlyChip_modChip s c _, ?_⟩
    rw [getChip_modChip_self, rxHelloAck_echoes hstep hecho hnonce]
    have hport := portOf_setPort_self (goodUnit (getChip s c) p) p (echoedPort (portOf (getChip s c) p) us)
    have hframe := linkFrame_trans (linkFrame_modPort (getChip s c) p (fun x => { x with crcFails := 0 }))
      (linkFrame_setPort (goodUnit (getChip s c) p) p (echoedPort (portOf (getChip s c) p) us))
    refine ⟨linkFrame_trans hframe (linkFrame_advancePort _ p), ?_⟩
    cases hchecked : (portOf (getChip s c) p).checked with
    | false =>
      rw [advancePort_waits (by rw [hport]; simp [creditsDue, echoedPort, hchecked]) (by rw [hport]; simp [upDue, echoedPort, hstep]), hport]
      exact ⟨rfl, rfl, fun _ => hstep, fun h => absurd h Bool.false_ne_true⟩
    | true =>
      obtain ⟨hs, htx, hrx, hout, -, hechoed, -, hrtt, hgranted⟩ := portOf_advancePort_due (p := p)
        (c := setPort (goodUnit (getChip s c) p) p (echoedPort (portOf (getChip s c) p) us))
        (by rw [hport]; simp [creditsDue, echoedPort, hchecked, hstep])
      rw [hport] at hs hechoed hrtt
      exact ⟨hechoed, hrtt, fun h => absurd h.symm Bool.false_ne_true, fun _ => ⟨hs, htx, hrx, hout, hgranted⟩⟩

end Sys2Proof.Machine
end

section
/-!
PROOFS. O42 (FlitsAreTakenInSequence): what a data flit, a discarded unit and a run of CRC failures leave of a port (R140, R146, R148, R149).
-/
namespace Sys2Proof.Machine

/-! ## A flit that joins its frame -/

/-- A port with one flit more held of a pool. -/
def holdFlit (pool : Pool) (x : Port) : Port := { x with heldFlits := tabSet x.heldFlits pool (tabGet 0 x.heldFlits pool + 1) }

/-- A partial frame dropped changes the port's pools and its partial frames alone. -/
theorem dropPartial_eq (x : Port) (vc : BitVec 2) : ∃ g h a, dropPartial x vc = { x with granted := g, heldFlits := h, assembly := a } := by
  unfold dropPartial
  split
  · exact ⟨_, _, _, rfl⟩
  · exact ⟨x.granted, x.heldFlits, x.assembly, rfl⟩

theorem dropPartial_none {x : Port} {vc : BitVec 2} (h : tabFind x.assembly vc = none) : dropPartial x vc = x := by
  rw [dropPartial, h]

/-- A flit on VC0 to VC2 that does not end its frame: the port's pools and partial frames change, and nothing else. -/
theorem joinFlit_eq (c : Chip) (p : PortNo) {u : Unit40} (heof : u.eof = false) (raw : BitVec 320) :
    LinkFrame p c (joinFlit c p u raw) ∧ (joinFlit c p u raw).counters = c.counters ∧
      ∃ g h a, portOf (joinFlit c p u raw) p = { portOf c p with granted := g, heldFlits := h, assembly := a } := by
  obtain ⟨g, h, a, hdrop⟩ : ∃ g h a, (if u.sof then dropPartial (portOf c p) (BitVec.ofNat 2 u.vc) else portOf c p) =
      { portOf c p with granted := g, heldFlits := h, assembly := a } := by
    split
    · exact dropPartial_eq _ _
    · exact ⟨_, _, _, rfl⟩
  unfold joinFlit
  dsimp only
  split
  · refine ⟨linkFrame_trans (linkFrame_modPort c p _) (linkFrame_modPort _ p _), rfl, ?_⟩
    rw [portOf_modPort_self, portOf_modPort_self, hdrop]
    exact ⟨_, _, _, rfl⟩
  · rw [heof, if_neg Bool.false_ne_true]
    refine ⟨linkFrame_trans (linkFrame_modPort c p _) (linkFrame_modPort _ p _), rfl, ?_⟩
    rw [portOf_modPort_self, portOf_modPort_self, hdrop]
    exact ⟨_, _, _, rfl⟩

/-- A flit that begins a frame where none is under way: it takes a flit of its pool, and its VC's frame holds it alone. -/
theorem portOf_joinFlit_begins {c : Chip} {p : PortNo} {u : Unit40} (hsof : u.sof = true) (heof : u.eof = false)
    (hnone : tabFind (portOf c p).assembly (BitVec.ofNat 2 u.vc) = none) (raw : BitVec 320) :
    ∃ b, portOf (joinFlit c p u raw) p =
      { holdFlit (flitPool u.vc u.dl u.tenant) (portOf c p) with
          assembly := tabSet (portOf c p).assembly (BitVec.ofNat 2 u.vc) { pool := flitPool u.vc u.dl u.tenant, overrun := b, units := [raw] } } := by
  simp only [joinFlit, hsof, heof, Bool.false_eq_true, ↓reduceIte, portOf_modPort_self, dropPartial_none hnone]
  exact ⟨_, rfl⟩

/-- A flit on VC3 that does not end its frame is counted; of the port only the partial frames change. -/
theorem vc3Flit_eq (c : Chip) (p : PortNo) {u : Unit40} (heof : u.eof = false) (raw : BitVec 320) :
    LinkFrame p c (vc3Flit c p u raw) ∧ (vc3Flit c p u raw).counters = (countDev c 138 1).counters ∧
      ∃ a, portOf (vc3Flit c p u raw) p = { portOf c p with assembly := a } := by
  unfold vc3Flit
  dsimp only
  split
  · exact ⟨linkFrame_countDev c p 138 1, rfl, (portOf c p).assembly, rfl⟩
  · rw [heof, if_neg Bool.false_ne_true]
    refine ⟨linkFrame_trans (linkFrame_countDev c p 138 1) (linkFrame_modPort _ p _), rfl, ?_⟩
    rw [portOf_modPort_self]
    exact ⟨_, rfl⟩

/-! ## A data flit by its SEQ (R146) -/

/-- A port that has accepted the flit it expected. -/
def acceptedPort (x : Port) : Port := { x with crcFails := 0, rxSeq := (x.rxSeq + 1) % 65536, nakSent := false }

/-- The chip whose port has accepted the flit it expected, before the flit joins its frame. -/
def accepted (c : Chip) (p : PortNo) : Chip := modPort (goodUnit c p) p (fun x => { x with rxSeq := (x.rxSeq + 1) % 65536, nakSent := false })

theorem portOf_accepted (c : Chip) (p : PortNo) : portOf (accepted c p) p = acceptedPort (portOf c p) := by
  rw [accepted, portOf_modPort_self, portOf_goodUnit_self]
  rfl

theorem linkFrame_goodUnit (c : Chip) (p : PortNo) : LinkFrame p c (goodUnit c p) := linkFrame_modPort c p _

theorem linkFrame_accepted (c : Chip) (p : PortNo) : LinkFrame p c (accepted c p) :=
  linkFrame_trans (linkFrame_goodUnit c p) (linkFrame_modPort _ p _)

theorem exec_dataFlit {raw : BitVec 320} (hok : unitOk raw = true) (hkind : (parseUnit raw).kind = 1) (s : State) (c : Pos) (p : PortNo) :
    exec (.dataFlit c p raw) s = .next (modChip (modChip s c (fun k => goodUnit k p)) c (fun k => rxData k p raw)) := by
  have hunit : rxUnit s c p raw 0 = modChip (modChip s c (fun k => goodUnit k p)) c (fun k => rxData k p raw) := by
    unfold rxUnit
    dsimp only
    rw [hok, hkind]
    rfl
  rw [← hunit]
  exact if_pos (by rw [hkind]; rfl)

theorem carriesData_goodUnit (c : Chip) (p : PortNo) : carriesData (portOf (goodUnit c p) p) = carriesData (portOf c p) := by
  rw [portOf_goodUnit_self]
  rfl

theorem rxData_expected {c : Chip} {p : PortNo} {raw : BitVec 320} (hcarries : carriesData (portOf c p) = true)
    (hseq : (parseUnit raw).seq = (portOf c p).rxSeq) :
    rxData (goodUnit c p) p raw =
      if (parseUnit raw).vc = 3 then vc3Flit (accepted c p) p (parseUnit raw) raw else joinFlit (accepted c p) p (parseUnit raw) raw := by
  unfold rxData
  dsimp only
  rw [carriesData_goodUnit, hcarries, Bool.not_true, if_neg Bool.false_ne_true, if_neg (by rw [portOf_goodUnit_self]; exact not_not.2 hseq),
    accepted]

theorem rxData_unexpected {c : Chip} {p : PortNo} {raw : BitVec 320} (hcarries : carriesData (portOf c p) = true)
    (hseq : (parseUnit raw).seq ≠ (portOf c p).rxSeq) : rxData (goodUnit c p) p raw = nakOnce (goodUnit c p) p := by
  unfold rxData
  dsimp only
  rw [carriesData_goodUnit, hcarries, Bool.not_true, if_neg Bool.false_ne_true, if_pos (by rw [portOf_goodUnit_self]; exact hseq)]

/-! ## One NAK for a run of discards (R146) -/

/-- A port that has sent its NAK. -/
def nakedPort (x : Port) : Port := sendUnit { x with nakSent := true } (controlUnit (nakContent x.rxSeq))

theorem nakedPort_eq (x : Port) : ∃ q w, nakedPort x = { x with nakSent := true, ethQueue := q, wire := w } := sendUnit_eq _ _

theorem nakOnce_sent {c : Chip} {p : PortNo} (h : (portOf c p).nakSent = true) : nakOnce c p = c := if_pos h

theorem nakOnce_first {c : Chip} {p : PortNo} (h : (portOf c p).nakSent = false) :
    nakOnce c p = countDev (modPort c p nakedPort) 135 1 := if_neg (by rw [h]; exact Bool.false_ne_true)

/-- After a discard one NAK has been sent; what else changes of the port is what has left by it. -/
theorem nakOnce_eq (c : Chip) (p : PortNo) :
    LinkFrame p c (nakOnce c p) ∧ (∀ j, j ≠ 135 → tabGet 0 (nakOnce c p).counters j = tabGet 0 c.counters j) ∧
      ∃ q w, portOf (nakOnce c p) p = { portOf c p with nakSent := true, ethQueue := q, wire := w } := by
  cases h : (portOf c p).nakSent with
  | true =>
    rw [nakOnce_sent h, ← h]
    exact ⟨linkFrame_refl p c, fun _ _ => rfl, _, _, rfl⟩
  | false =>
    rw [nakOnce_first h]
    refine ⟨linkFrame_trans (linkFrame_modPort c p _) (linkFrame_countDev _ p 135 1), fun j hj => counters_countDev_ne _ 1 hj, ?_⟩
    obtain ⟨q, w, hsent⟩ := nakedPort_eq (portOf c p)
    exact ⟨q, w, (portOf_modPort_self c p nakedPort).trans hsent⟩

/-- In every mode but Ethernet the NAK with the expected SEQ leaves at once. -/
theorem portOf_nakOnce_native {c : Chip} {p : PortNo} (h : (portOf c p).nakSent = false) (hnative : (portOf c p).mode ≠ .ethernet) :
    (portOf (nakOnce c p) p).wire = (portOf c p).wire ++ [controlUnit (nakContent (portOf c p).rxSeq)] := by
  have hport : portOf (nakOnce c p) p = nakedPort (portOf c p) := by
    rw [nakOnce_first h]
    exact portOf_modPort_self c p nakedPort
  rw [hport, nakedPort, sendUnit_native (by exact hnative)]

theorem counters_nakOnce_first {c : Chip} {p : PortNo} (h : (portOf c p).nakSent = false) :
    tabGet 0 (nakOnce c p).counters 135 = satAdd64 (tabGet 0 c.counters 135) 1 := by
  rw [nakOnce_first h]
  exact counters_countDev_self _ 135 1

/-! ## Units that fail their CRC (R140) -/

/-- The chip once a unit's CRC failure is counted. -/
def badUnit (c : Chip) (p : PortNo) : Chip := countDev (modPort c p (fun x => { x with crcFails := x.crcFails + 1 })) 134 1

theorem portOf_badUnit (c : Chip) (p : PortNo) : portOf (badUnit c p) p = { portOf c p with crcFails := (portOf c p).crcFails + 1 } :=
  portOf_modPort_self c p (fun x => { x with crcFails := x.crcFails + 1 })

theorem linkFrame_badUnit (c : Chip) (p : PortNo) : LinkFrame p c (badUnit c p) :=
  linkFrame_trans (linkFrame_modPort c p _) (linkFrame_countDev _ p 134 1)

theorem counters_badUnit (c : Chip) (p : PortNo) : tabGet 0 (badUnit c p).counters 134 = satAdd64 (tabGet 0 c.counters 134) 1 :=
  counters_countDev_self _ 134 1

theorem hears_of_carriesData {x : Port} (h : carriesData x = true) : hears x = true := by
  obtain h | h := Bool.or_eq_true_iff.1 h
  · simp [hears, of_decide_eq_true h]
  · simp [hears, of_decide_eq_true h]

/-- A port lost discards what waits at a host port, and that is all it counts. -/
theorem counters_losePort_ne (s : State) (c : Pos) (p : PortNo) {j : Nat} (h : j ≠ 133) :
    tabGet 0 (getChip (losePort s c p) c).counters j = tabGet 0 (getChip s c).counters j := by
  rw [getChip_losePort]
  change tabGet 0 (returnFrames (getChip s c) p).counters j = _
  cases hp : isChipLink p
  · rw [returnFrames_hostPort hp]
    exact counters_countDev_ne _ _ h
  · rw [returnFrames_chipLink hp]
    rfl

theorem exec_wireUnitCrcFail (s : State) (c : Pos) (p : PortNo) : exec (.wireUnitCrcFail c p) s = .next (rxBadUnit s c p) := rfl

theorem rxBadUnit_discards {s : State} {c : Pos} {p : PortNo} (hcarries : carriesData (portOf (getChip s c) p) = true)
    (hfew : (portOf (getChip s c) p).crcFails < 7) :
    rxBadUnit s c p = modChip (modChip s c (fun k => badUnit k p)) c (fun k => nakOnce k p) := by
  unfold rxBadUnit
  dsimp only
  rw [hears_of_carriesData hcarries, Bool.not_true, if_neg Bool.false_ne_true, if_neg (by simp; omega), if_pos hcarries]
  rfl

theorem rxBadUnit_loses {s : State} {c : Pos} {p : PortNo} (hhears : hears (portOf (getChip s c) p) = true)
    (hmany : 7 ≤ (portOf (getChip s c) p).crcFails) (hnative : (portOf (getChip s c) p).mode ≠ .ethernet) :
    rxBadUnit s c p = losePort (modChip s c (fun k => badUnit k p)) c p := by
  unfold rxBadUnit
  dsimp only
  rw [hhears, Bool.not_true, if_neg Bool.false_ne_true, if_pos (by simp [hnative]; omega)]
  rfl

/-- Whether a port may train does not turn on its units. -/
theorem portEnabled_badUnit (s : State) (c : Pos) (p : PortNo) :
    portEnabled (modChip s c (fun k => badUnit k p)) c p = portEnabled s c p := by
  unfold portEnabled cageEnabled
  rw [getChip_modChip_self]
  rfl

/-- Settles O42. -/
theorem flitsAreTakenInSequence : Obligations.FlitsAreTakenInSequence := by
  unfold Obligations.FlitsAreTakenInSequence
  refine ⟨fun s c p raw hok hkind hcarries hseq heof => ?expected, fun s c p raw hok hkind hcarries hseq => ?unexpected,
    fun s c p hcarries hfew => ?bad, fun s c p hhears hmany hnative => ?lost⟩
  case expected =>
    refine ⟨_, exec_dataFlit hok hkind s c p, onlyChip_trans (onlyChip_modChip s c _) (onlyChip_modChip _ c _), ?_⟩
    rw [getChip_modChip_self, getChip_modChip_self, rxData_expected hcarries hseq]
    by_cases hvc : (parseUnit raw).vc = 3
    · obtain ⟨hframe, hcount, a, hport⟩ := vc3Flit_eq (accepted (getChip s c) p) p heof raw
      rw [portOf_accepted] at hport
      rw [if_pos hvc, hport, hcount]
      exact ⟨linkFrame_trans (linkFrame_accepted _ p) hframe, rfl, rfl, rfl, fun _ => ⟨rfl, counters_countDev_self _ 138 1⟩,
        fun h => absurd hvc h⟩
    · obtain ⟨hframe, hcount, g, h, a, hport⟩ := joinFlit_eq (accepted (getChip s c) p) p heof raw
      rw [portOf_accepted] at hport
      rw [if_neg hvc]
      refine ⟨linkFrame_trans (linkFrame_accepted _ p) hframe, ?_, ?_, ?_, fun h => absurd h hvc, fun _ hsof hnone => ⟨hcount, ?_⟩⟩
      iterate 3 rw [hport]; rfl
      obtain ⟨b, hbegins⟩ := portOf_joinFlit_begins (c := accepted (getChip s c) p) (p := p) hsof heof
        (by rw [portOf_accepted]; exact hnone) raw
      rw [hbegins, portOf_accepted]
      exact ⟨⟨_, tabFind_tabSet_self _ _ _, rfl⟩, tabGet_tabSet_self _ _ _ _⟩
  case unexpected =>
    refine ⟨_, exec_dataFlit hok hkind s c p, onlyChip_trans (onlyChip_modChip s c _) (onlyChip_modChip _ c _), ?_⟩
    rw [getChip_modChip_self, getChip_modChip_self, rxData_unexpected hcarries hseq]
    obtain ⟨hframe, -, q, w, hport⟩ := nakOnce_eq (goodUnit (getChip s c) p) p
    rw [portOf_goodUnit_self] at hport
    refine ⟨linkFrame_trans (linkFrame_goodUnit _ p) hframe, ?_, ?_, ?_, fun hsent => ?_, fun hfirst => ?_⟩
    iterate 3 rw [hport]
    · have hstays := nakOnce_sent (c := goodUnit (getChip s c) p) (p := p) (by rw [portOf_goodUnit_self]; exact hsent)
      rw [hstays, portOf_goodUnit_self]
      exact ⟨rfl, rfl⟩
    · have hgood : (portOf (goodUnit (getChip s c) p) p).nakSent = false := by rw [portOf_goodUnit_self]; exact hfirst
      refine ⟨counters_nakOnce_first hgood, fun hnative => ?_⟩
      have hwire := portOf_nakOnce_native hgood (by rw [portOf_goodUnit_self]; exact hnative)
      rw [portOf_goodUnit_self] at hwire
      exact hwire
  case bad =>
    refine ⟨_, exec_wireUnitCrcFail s c p, onlyChip_rxBadUnit s c p, ?_⟩
    rw [rxBadUnit_discards hcarries hfew, getChip_modChip_self, getChip_modChip_self]
    obtain ⟨hframe, hcount, q, w, hport⟩ := nakOnce_eq (badUnit (getChip s c) p) p
    rw [portOf_badUnit] at hport
    refine ⟨linkFrame_trans (linkFrame_badUnit _ p) hframe, ?_, ?_, ?_, ?_, (hcount 134 (by decide)).trans (counters_badUnit _ p),
      fun hfirst hnative => ?_⟩
    iterate 4 rw [hport]
    have hwire := portOf_nakOnce_native (c := badUnit (getChip s c) p) (p := p) (by rw [portOf_badUnit]; exact hfirst)
      (by rw [portOf_badUnit]; exact hnative)
    rw [portOf_badUnit] at hwire
    exact hwire
  case lost =>
    refine ⟨_, exec_wireUnitCrcFail s c p, onlyChip_rxBadUnit s c p, ?_⟩
    have hframe := linkFrame_losePort (modChip s c (fun k => badUnit k p)) c p
    have hport := portOf_losePort (modChip s c (fun k => badUnit k p)) c p
    have hcount := counters_losePort_ne (modChip s c (fun k => badUnit k p)) c p (j := 134) (by decide)
    rw [getChip_modChip_self] at hframe hcount
    rw [rxBadUnit_loses hhears hmany hnative, hport, lostPort_step, portEnabled_badUnit]
    exact ⟨linkFrame_trans (linkFrame_badUnit _ p) hframe, rfl, hcount.trans (counters_badUnit _ p)⟩

end Sys2Proof.Machine
end

section
/-!
PROOFS. O43 (AcknowledgedFlitsLeaveReplay): credits taken over, flits acknowledged, and flits resent (R144 to R147, R150).
-/
namespace Sys2Proof.Machine

/-! ## The counts of a CREDIT flit (Table 8-4) -/

/-- A table written for each index of a list under keys that differ: a listed index's key reads as its value. -/
theorem tabGet_foldl_tabSet_mem {ι κ α : Type} [DecidableEq κ] {key : ι → κ} (hkey : Function.Injective key) (val : ι → α) (d : α)
    {l : List ι} {i : ι} (h : i ∈ l) (t : Tab κ α) : tabGet d (l.foldl (fun a j => tabSet a (key j) (val j)) t) (key i) = val i := by
  induction l using List.reverseRecOn with
  | nil => exact absurd h List.not_mem_nil
  | append_singleton l j ih =>
    rw [List.foldl_concat]
    by_cases hj : key i = key j
    · rw [hkey hj, tabGet_tabSet_self]
    · rw [tabGet_tabSet_ne _ _ _ _ _ hj]
      have hne : i ≠ j := fun hij => hj (congrArg key hij)
      exact ih ((List.mem_append.1 h).resolve_right (fun hm => hne (List.mem_singleton.1 hm)))

/-- A key that is none of those written reads as before. -/
theorem tabGet_foldl_tabSet_ne {ι κ α : Type} [DecidableEq κ] {key : ι → κ} (val : ι → α) (d : α) {k : κ} (h : ∀ j, k ≠ key j) (l : List ι)
    (t : Tab κ α) : tabGet d (l.foldl (fun a j => tabSet a (key j) (val j)) t) k = tabGet d t k := by
  induction l generalizing t with
  | nil => rfl
  | cons j l ih => exact (ih _).trans (tabGet_tabSet_ne _ _ _ _ _ (h j))

/-- The pool of tenant t that a CLASS reports. -/
def classPool (cls t : Nat) : Pool := .ten (cls = 2 || cls = 6) (cls = 5 || cls = 6) t

theorem classPools_eq (cls : Nat) : classPools cls = (List.range 8).map (classPool cls) := rfl

theorem classPool_injective (cls : Nat) : Function.Injective (classPool cls) := fun _ _ h => by
  simpa [classPool] using h

theorem classPools_getElem {cls i : Nat} {q : Pool} (hi : i < 8) (h : (classPools cls)[i]? = some q) : q = classPool cls i := by
  rw [classPools_eq, List.getElem?_map, List.getElem?_range hi] at h
  exact (Option.some_inj.1 h).symm

/-- The counts advertised once a CREDIT flit's are taken over: VC0's two, then those of its CLASS. -/
def creditsOver (old : Tab Pool Nat) (content : BitVec 256) : Tab Pool Nat :=
  (List.range 8).foldl (fun a t => tabSet a (classPool (byteOf content 1).toNat t) (u16Of content (8 + 2 * t)).toNat)
    (tabSet (tabSet old (.vc0 false) (u16Of content 4).toNat) (.vc0 true) (u16Of content 6).toNat)

theorem tabGet_creditsOver_class (old : Tab Pool Nat) (content : BitVec 256) {i : Nat} (h : i < 8) :
    tabGet 0 (creditsOver old content) (classPool (byteOf content 1).toNat i) = (u16Of content (8 + 2 * i)).toNat :=
  tabGet_foldl_tabSet_mem (classPool_injective _) (fun t => (u16Of content (8 + 2 * t)).toNat) 0 (List.mem_range.2 h) _

theorem tabGet_creditsOver_vc0 (old : Tab Pool Nat) (content : BitVec 256) :
    tabGet 0 (creditsOver old content) (.vc0 false) = (u16Of content 4).toNat ∧
      tabGet 0 (creditsOver old content) (.vc0 true) = (u16Of content 6).toNat := by
  have hclass : ∀ dl, tabGet 0 (creditsOver old content) (.vc0 dl) =
      tabGet 0 (tabSet (tabSet old (.vc0 false) (u16Of content 4).toNat) (.vc0 true) (u16Of content 6).toNat) (.vc0 dl) := fun dl =>
    tabGet_foldl_tabSet_ne (fun t => (u16Of content (8 + 2 * t)).toNat) 0 (fun _ h => Pool.noConfusion h) _ _
  rw [hclass, hclass]
  exact ⟨by rw [tabGet_tabSet_ne _ _ _ _ _ (by decide), tabGet_tabSet_self], tabGet_tabSet_self _ _ _ _⟩

/-! ## Acknowledgement (R145, R147) -/

/-- A port whose peer's credits have been taken over. -/
def creditedBy (p : PortNo) (x : Port) (content : BitVec 256) : Port :=
  { acknowledge p x (u16Of content 2).toNat with advertised := creditsOver x.advertised content, creditsIn := true }

/-- An acknowledgement changes what is kept for replay alone. -/
theorem acknowledge_eq (p : PortNo) (x : Port) (ack : Nat) :
    ∃ l n u, acknowledge p x ack = { x with replay := l, resends := n, unacked := u } := by
  unfold acknowledge
  dsimp only
  split
  · exact ⟨x.replay, x.resends, x.unacked, rfl⟩
  · exact ⟨_, _, _, rfl⟩

theorem trimUnacked_zero (chipLink : Bool) (l : List TxFrame) : trimUnacked chipLink 0 l = [] := by
  cases l <;> rfl

/-- An ACK_SEQ of the newest flit sent empties the replay buffer. -/
theorem acknowledge_newest {p : PortNo} {x : Port} {ack : Nat} (hseq : x.txSeq = (ack + 1) % 65536) (hsome : x.replay ≠ [])
    (hfits : x.replay.length ≤ 16384) : acknowledge p x ack = { x with replay := [], resends := 0, unacked := [] } := by
  have hpos : 0 < x.replay.length := List.length_pos_of_ne_nil hsome
  have hall : (ack + 1 + 65536 - (x.txSeq + 65536 - x.replay.length % 65536) % 65536) % 65536 = x.replay.length := by omega
  unfold acknowledge
  dsimp only
  rw [hall, if_neg (by simp [hsome]), List.drop_length, List.length_nil, trimUnacked_zero, List.reverse_nil]

/-! ## A CREDIT flit received -/

theorem exec_credit {s : State} {c : Pos} {p : PortNo} (h : hears (portOf (getChip s c) p) = true) (content : BitVec 256) :
    exec (.credit c p content) s = .next (setChip s c (rxCredit (goodUnit (getChip s c) p) p content)) := by
  change (Host.Outcome.next (setChip s c (if hears (portOf (getChip s c) p) then _ else _)) : Host.Outcome State Fault Refusal) = _
  rw [if_pos h]

/-- The chip once a CREDIT flit's counts are taken over. -/
def creditTaken (c : Chip) (p : PortNo) (content : BitVec 256) : Chip :=
  setPort (goodUnit c p) p (creditedBy p { portOf c p with crcFails := 0 } content)

theorem portOf_creditTaken (c : Chip) (p : PortNo) (content : BitVec 256) :
    portOf (creditTaken c p content) p = creditedBy p { portOf c p with crcFails := 0 } content := portOf_setPort_self _ p _

theorem linkFrame_creditTaken (c : Chip) (p : PortNo) (content : BitVec 256) : LinkFrame p c (creditTaken c p content) :=
  linkFrame_trans (linkFrame_goodUnit c p) (linkFrame_setPort _ p _)

/-- A CREDIT flit of a listed CLASS, where data flits pass: its counts are taken over, and step 7 follows where it is due. -/
theorem rxCredit_taken {c : Chip} {p : PortNo} {content : BitVec 256} (hclass : creditClassOk (byteOf content 1).toNat = true)
    (hcarries : carriesData (portOf c p) = true) :
    rxCredit (goodUnit c p) p content = advancePort (creditTaken c p content) p := by
  have hadv : ∀ old : Tab Pool Nat, ((List.range 8).zip (classPools (byteOf content 1).toNat)).foldl
      (fun a q => tabSet a q.2 (u16Of content (8 + 2 * q.1)).toNat)
      (tabSet (tabSet old (.vc0 false) (u16Of content 4).toNat) (.vc0 true) (u16Of content 6).toNat) = creditsOver old content := fun _ => rfl
  unfold rxCredit
  dsimp only
  rw [hclass, Bool.not_true, if_neg Bool.false_ne_true, carriesData_goodUnit, hcarries, Bool.true_or, Bool.not_true,
    if_neg Bool.false_ne_true, hadv, modPort, portOf_goodUnit_self]
  rfl

/-! ## Flits resent (R147) -/

/-- A port that has resent flits. -/
def resentPort (x : Port) (us : List (BitVec 320)) : Port := { sendUnits x us with resends := x.resends + 1 }

theorem resendFrom_resends {s : State} {c : Pos} {p : PortNo} (h : (portOf (getChip s c) p).resends < 16) (i : Nat) :
    resendFrom s c p i = setChip s c (countDev (setPort (getChip s c) p
      (resentPort (portOf (getChip s c) p) ((portOf (getChip s c) p).replay.drop i))) 136 ((portOf (getChip s c) p).replay.drop i).length) :=
  if_neg (by omega)

theorem resendFrom_loses {s : State} {c : Pos} {p : PortNo} (h : 16 ≤ (portOf (getChip s c) p).resends) (i : Nat) :
    resendFrom s c p i = losePort (modChip s c (fun k => linkFault k p 0x12)) c p := if_pos h

/-- Flits resent stay in the replay buffer, are counted, and in every mode but Ethernet leave at once. -/
theorem resendFrom_keeps {s : State} {c : Pos} {p : PortNo} (h : (portOf (getChip s c) p).resends < 16) (i : Nat) :
    let k := getChip (resendFrom s c p i) c
    let x := portOf (getChip s c) p
    LinkFrame p (getChip s c) k ∧ (portOf k p).replay = x.replay ∧ (portOf k p).resends = x.resends + 1 ∧
      (x.mode ≠ .ethernet → (portOf k p).wire = x.wire ++ x.replay.drop i) ∧
      tabGet 0 k.counters 136 = satAdd64 (tabGet 0 (getChip s c).counters 136) (x.replay.drop i).length := by
  intro k x
  have hport : portOf k p = resentPort x (x.replay.drop i) := by
    change portOf (getChip (resendFrom s c p i) c) p = _
    rw [resendFrom_resends h, getChip_setChip_self]
    exact portOf_setPort_self _ p _
  have hchip : k = countDev (setPort (getChip s c) p (resentPort x (x.replay.drop i))) 136 (x.replay.drop i).length := by
    change getChip (resendFrom s c p i) c = _
    rw [resendFrom_resends h, getChip_setChip_self]
  obtain ⟨q, w, hsent⟩ := sendUnits_eq (x.replay.drop i) x
  refine ⟨?_, ?_, ?_, fun hnative => ?_, ?_⟩
  · rw [hchip]
    exact linkFrame_trans (linkFrame_setPort _ p _) (linkFrame_countDev _ p 136 _)
  · rw [hport, resentPort, hsent]
  · rw [hport, resentPort]
  · rw [hport, resentPort, sendUnits_native hnative]
  · rw [hchip]
    exact counters_countDev_self _ 136 _

theorem exec_replayTimeout {s : State} {c : Pos} {p : PortNo} (hcarries : carriesData (portOf (getChip s c) p) = true)
    (hsome : (portOf (getChip s c) p).replay ≠ []) : exec (.replayTimeout c p) s = .next (resendFrom s c p 0) :=
  if_pos (by simp [hcarries, hsome])

theorem exec_nak (s : State) (c : Pos) (p : PortNo) (content : BitVec 256) :
    exec (.nak c p content) s = .next (rxNak (setChip s c (goodUnit (getChip s c) p)) c p content) := rfl

/-- A NAK names the i-th flit of the replay buffer by its SEQ. -/
theorem rxNak_resends {s : State} {c : Pos} {p : PortNo} {content : BitVec 256} {i : Nat}
    (hcarries : carriesData (portOf (getChip s c) p) = true) (hi : i < (portOf (getChip s c) p).replay.length)
    (hfits : (portOf (getChip s c) p).replay.length ≤ 16384)
    (hseq : (portOf (getChip s c) p).txSeq = ((u16Of content 2).toNat + ((portOf (getChip s c) p).replay.length - i)) % 65536) :
    rxNak s c p content = resendFrom s c p i := by
  have hsmall : (u16Of content 2).toNat < 65536 := (u16Of content 2).isLt
  have hindex : ((u16Of content 2).toNat + 65536 -
      ((portOf (getChip s c) p).txSeq + 65536 - (portOf (getChip s c) p).replay.length % 65536) % 65536) % 65536 = i := by omega
  unfold rxNak
  dsimp only
  rw [hindex, if_pos (by simp [hcarries, hi])]

theorem exec_creditSend {s : State} {c : Pos} {p : PortNo} {cls : BitVec 8} (hcarries : carriesData (portOf (getChip s c) p) = true)
    (hclass : creditClassOk cls.toNat = true) :
    exec (.creditSend c p cls) s = .next (setChip s c (setPort (getChip s c) p
      (sendUnit (portOf (getChip s c) p) (controlUnit (creditContent (portOf (getChip s c) p) cls.toNat))))) :=
  if_pos (by rw [hcarries, hclass]; rfl)

/-- Settles O43. -/
theorem acknowledgedFlitsLeaveReplay : Obligations.AcknowledgedFlitsLeaveReplay := by
  unfold Obligations.AcknowledgedFlitsLeaveReplay
  refine ⟨fun s c p content hclass hup => ?credit, fun s c p content hclass hcredits hout => ?comesUp,
    fun s c p content i hcarries hi hfits hseq hfew => ?nak, fun s c p hcarries hsome hfew => ?timeout,
    fun s c p hcarries hsome hmany => ?lost, fun s c p cls hcarries hclass => exec_creditSend hcarries hclass,
    fun s c p content hhears hunknown => ?unknown⟩
  case credit =>
    have hcarries : carriesData (portOf (getChip s c) p) = true := by simp [carriesData, hup]
    refine ⟨_, exec_credit (hears_of_carriesData hcarries) content, onlyChip_setChip s c _, ?_⟩
    have hport := portOf_creditTaken (getChip s c) p content
    obtain ⟨l, n, u, hack⟩ := acknowledge_eq p { portOf (getChip s c) p with crcFails := 0 } (u16Of content 2).toNat
    have hstep : (portOf (creditTaken (getChip s c) p content) p).step = .up := by rw [hport, creditedBy, hack]; exact hup
    rw [getChip_setChip_self, rxCredit_taken hclass hcarries, advancePort_waits (by simp [creditsDue, hstep]) (by simp [upDue, hstep])]
    have hin : (portOf (creditTaken (getChip s c) p content) p).creditsIn = true := by rw [hport, creditedBy]
    have hadvertised : (portOf (creditTaken (getChip s c) p content) p).advertised = creditsOver (portOf (getChip s c) p).advertised content := by
      rw [hport, creditedBy]
    rw [hadvertised]
    obtain ⟨hvc0, hvc0dl⟩ := tabGet_creditsOver_vc0 (portOf (getChip s c) p).advertised content
    refine ⟨linkFrame_creditTaken _ p content, hstep, hin, hvc0, hvc0dl, fun i q hi hq => ?_, fun hseq hsome hfits => ?_⟩
    · rw [classPools_getElem hi hq]
      exact tabGet_creditsOver_class _ content hi
    · rw [hport, creditedBy, acknowledge_newest (by exact hseq) (by exact hsome) (by exact hfits)]
      exact ⟨rfl, rfl, rfl⟩
  case comesUp =>
    have hcarries : carriesData (portOf (getChip s c) p) = true := by simp [carriesData, hcredits]
    refine ⟨_, exec_credit (hears_of_carriesData hcarries) content, onlyChip_setChip s c _, ?_⟩
    have hport := portOf_creditTaken (getChip s c) p content
    obtain ⟨l, n, u, hack⟩ := acknowledge_eq p { portOf (getChip s c) p with crcFails := 0 } (u16Of content 2).toNat
    rw [creditedBy, hack] at hport
    rw [getChip_setChip_self, rxCredit_taken hclass hcarries,
      advancePort_comesUp (by rw [hport]; simp [creditsDue, hcredits]) (by rw [hport]; simp [upDue, hcredits, hout])]
    refine ⟨linkFrame_trans (linkFrame_creditTaken _ p content) (linkFrame_portCameUp _ p), ?_, counters_portCameUp _ p⟩
    rw [portOf_portCameUp_self]
    rfl
  case nak =>
    refine ⟨_, exec_nak s c p content, onlyChip_trans (onlyChip_setChip s c _) (onlyChip_rxNak _ c p content), ?_⟩
    generalize hgood : setChip s c (goodUnit (getChip s c) p) = s'
    have hport : portOf (getChip s' c) p = { portOf (getChip s c) p with crcFails := 0 } := by
      rw [← hgood, getChip_setChip_self, portOf_goodUnit_self]
    have hframe : LinkFrame p (getChip s c) (getChip s' c) := by
      rw [← hgood, getChip_setChip_self]
      exact linkFrame_goodUnit _ p
    have hcount : (getChip s' c).counters = (getChip s c).counters := by
      rw [← hgood, getChip_setChip_self]
      rfl
    rw [rxNak_resends (i := i) (by rw [hport]; exact hcarries) (by rw [hport]; exact hi) (by rw [hport]; exact hfits)
      (by rw [hport]; exact hseq)]
    obtain ⟨hkeep, hreplay, hresends, hwire, hcounted⟩ := resendFrom_keeps (s := s') (c := c) (p := p) (by rw [hport]; exact hfew) i
    rw [hport] at hreplay hresends hwire hcounted
    rw [hcount, List.length_drop] at hcounted
    exact ⟨linkFrame_trans hframe hkeep, hreplay, hresends, hwire, hcounted⟩
  case timeout =>
    refine ⟨_, exec_replayTimeout hcarries hsome, onlyChip_resendFrom s c p 0, ?_⟩
    exact resendFrom_keeps hfew 0
  case lost =>
    refine ⟨_, exec_replayTimeout hcarries hsome, ?_⟩
    rw [resendFrom_loses hmany]
    exact losePort_linkFault s c p 0x12
  case unknown =>
    refine ⟨_, if_pos (by rw [hhears, hunknown]; rfl), onlyChip_modChip s c _, ?_⟩
    rw [getChip_modChip_self]
    exact ⟨linkFrame_trans (linkFrame_goodUnit _ p) (linkFrame_countDev _ p 137 1), portOf_goodUnit_self _ p,
      counters_countDev_self (goodUnit (getChip s c) p) 137 1⟩

end Sys2Proof.Machine
end

section
/-!
PROOFS. O44 (LostLinksAreReported): ports, mesh peers and torus directions lost (R55, R152, R162, R163).
-/
namespace Sys2Proof.Machine

/-! ## Ports -/

theorem exec_portDown {s : State} {c : Pos} {p : PortNo} (h : (portOf (getChip s c) p).step ≠ .down) :
    exec (.portDown c p) s = .next (losePort s c p) := if_neg h

/-- What a lost port's waiting frames leave: on a chip link they wait to be routed, on a host port they are counted. -/
theorem losePort_waiting (s : State) (c : Pos) (p : PortNo) :
    let k := getChip s c
    let k' := getChip (losePort s c p) c
    (isChipLink p = true → k'.outbox = waitingFrames (portOf k p) ++ k.outbox ∧ k'.counters = k.counters) ∧
      (isChipLink p = false → k'.outbox = k.outbox ∧
        tabGet 0 k'.counters 133 = satAdd64 (tabGet 0 k.counters 133) (waitingFrames (portOf k p)).length) := by
  intro k k'
  have hchip : k' = modPort (returnFrames k p) p (lostPort (portEnabled s c p)) := getChip_losePort s c p
  rw [hchip]
  refine ⟨fun hlink => ?_, fun hhost => ?_⟩
  · rw [returnFrames_chipLink hlink]
    exact ⟨rfl, rfl⟩
  · rw [returnFrames_hostPort hhost]
    exact ⟨rfl, counters_countDev_self (modPort k p givenBack) 133 _⟩

theorem exec_vc0CreditTimeout {s : State} {c : Pos} {p : PortNo} {f : TxFrame} {l : List TxFrame} (hup : (portOf (getChip s c) p).step = .up)
    (hhead : tabGet [] (portOf (getChip s c) p).egress (0#2, 0) = f :: l)
    (hshort : creditOf (portOf (getChip s c) p) (txPool (getChip s c) p f) < linkFlits p f) :
    exec (.vc0CreditTimeout c p) s = .next (losePort (modChip s c (fun k => linkFault k p 0x13)) c p) := by
  change (match tabGet [] (portOf (getChip s c) p).egress (0#2, 0) with | f :: _ => _ | [] => _ : Host.Outcome State Fault Refusal) = _
  rw [hhead]
  exact if_pos (by simp [hup, hshort])

/-! ## What stopping every tenant leaves of a chip -/

/-- Seasons, keys, the fault list, the lost peers and the count of 0x14 are as they were. -/
structure StopKept (k k' : Chip) : Prop where
  wake : k'.wake = k.wake
  vault : k'.vault = k.vault
  faults : k'.faults = k.faults
  lostPeers : k'.lostPeers = k.lostPeers
  meshLosses : tabGet 0 k'.occurrences 0x14 = tabGet 0 k.occurrences 0x14

theorem StopKept.refl (k : Chip) : StopKept k k := ⟨rfl, rfl, rfl, rfl, rfl⟩

theorem StopKept.trans {a b c : Chip} (h : StopKept a b) (g : StopKept b c) : StopKept a c :=
  ⟨g.wake.trans h.wake, g.vault.trans h.vault, g.faults.trans h.faults, g.lostPeers.trans h.lostPeers, g.meshLosses.trans h.meshLosses⟩

theorem stopKept_forEach {α : Type} {f : Chip → α → Chip} (h : ∀ c x, StopKept c (f c x)) (l : List α) (c : Chip) : StopKept c (forEach c l f) :=
  forEach_rel .refl .trans (fun c x _ => h c x) c

theorem SameButHalts.stopKept {k k' : Chip} (h : SameButHalts k k') : StopKept k k' := by
  obtain ⟨_, _, rfl⟩ := h
  exact ⟨rfl, rfl, rfl, rfl, rfl⟩

theorem stopKept_countTen (c : Chip) (t i n : Nat) : StopKept c (countTen c t i n) := by
  unfold countTen
  split
  · exact ⟨rfl, rfl, rfl, rfl, rfl⟩
  · exact .refl c

theorem stopKept_emit (c : Chip) (f : TxFrame) : StopKept c (emit c f) := ⟨rfl, rfl, rfl, rfl, rfl⟩

theorem stopKept_sendDone (c : Chip) (f : RxFrame) (d : DoneInfo) : StopKept c (sendDone c f d) := by
  unfold sendDone
  dsimp only
  split
  · exact stopKept_emit c _
  · exact (stopKept_emit c _).trans (stopKept_countTen _ _ _ 1)

/-- A reply that ends on poison counts another code than 0x14. -/
theorem stopKept_sendAborted (c : Chip) (f : RxFrame) {code : Nat} (h : code ≠ 0x14) : StopKept c (sendAborted c f code) := by
  have hcounted : StopKept c (countCode c code) := ⟨rfl, rfl, rfl, rfl, tabGet_tabSet_ne _ _ _ _ _ (Ne.symm h)⟩
  exact ((hcounted.trans (stopKept_sendDone _ f _)).trans (stopKept_countTen _ _ 28 1)).trans (sameButHalts_hitFault _ code).stopKept

/-- Poisoned elements are 0x21 or 0x22 (R361). -/
theorem arrayPoison_code {a : ArrayInfo} {h : Shard} {array o n code : Nat} (hpoison : arrayPoison a h array o n = some code) : code ≠ 0x14 := by
  obtain ⟨p, -, rfl⟩ := Option.map_eq_some_iff.1 hpoison
  split <;> decide

theorem stopKept_sendParams (c : Chip) (f : RxFrame) (a : ArrayInfo) (h : Shard) (all : Bool) (fmt i : Nat) (l : List (Nat × Nat × Nat)) :
    StopKept c (sendParams c f a h all fmt i l) := by
  induction l generalizing c i with
  | nil => exact .refl c
  | cons p l ih =>
    rw [sendParams]
    dsimp only
    split
    · next hpoison => exact stopKept_sendAborted c f (arrayPoison_code hpoison)
    · exact (stopKept_emit c _).trans (ih _ _)

theorem stopKept_servePull (c : Chip) (f : RxFrame) : StopKept c (servePull c f) := by
  unfold servePull
  dsimp only
  split
  · exact stopKept_sendDone c f _
  · split
    · exact stopKept_sendDone c f _
    · exact stopKept_sendParams c f _ _ _ _ _ _

theorem stopKept_freeDispatched (c : Chip) (f : RxFrame) : StopKept c (freeDispatched c f) := by
  unfold freeDispatched
  dsimp only
  split
  · exact ⟨rfl, rfl, rfl, rfl, rfl⟩
  · exact .refl c

theorem stopKept_dropQueued (c : Chip) (p : RxFrame → Bool) : StopKept c (dropQueued c p) :=
  StopKept.trans (b := { c with ports := tabMap (fun _ q => dropIngress p q) c.ports, inbox := c.inbox.filter (fun f => !p f) })
    ⟨rfl, rfl, rfl, rfl, rfl⟩ (stopKept_forEach stopKept_freeDispatched _ _)

theorem stopKept_dropTenantFrames (c : Chip) (t : Nat) : StopKept c (dropTenantFrames c t) :=
  (stopKept_dropQueued c _).trans (stopKept_countTen _ t 32 _)

theorem stopKept_sendUnprompted (c : Chip) (t source code tensor shard step : Nat) :
    StopKept c (sendUnprompted c t source code tensor shard step) := by
  unfold sendUnprompted
  split
  · exact .refl c
  · exact (stopKept_emit c _).trans (stopKept_countTen _ t 13 1)

theorem stopKept_stopTenant (c : Chip) (t code : Nat) : StopKept c (stopTenant c t code) := by
  have hended : StopKept c (endTasks c (fun k => decide (k.tenant = t))) := ⟨rfl, rfl, rfl, rfl, rfl⟩
  have hdiscarded (k : Chip) : StopKept k (discardOn k t) := ⟨rfl, rfl, rfl, rfl, rfl⟩
  have hreleased (k : Chip) : StopKept k (releasePulls k t (fun _ => true) servePull) :=
    StopKept.trans (b := setTen k t _) ⟨rfl, rfl, rfl, rfl, rfl⟩ (stopKept_forEach stopKept_servePull _ _)
  exact (((hended.trans (stopKept_dropTenantFrames _ t)).trans
    (stopKept_forEach (fun k s => stopKept_sendUnprompted k t s code 0 0 _) _ _)).trans (hdiscarded _)).trans (hreleased _)

theorem stopKept_stopAllTenants (c : Chip) (code : Nat) : StopKept c (stopAllTenants c code) :=
  stopKept_forEach (fun c t => by
    split
    · exact stopKept_stopTenant c t code
    · exact .refl c) _ c

/-- A code at chip level is recorded first; what it stops leaves that record. -/
theorem stopKept_chipFault (c : Chip) (code : Nat) : StopKept (recordFault c code none) (chipFault c code) :=
  (stopKept_stopAllTenants _ code).trans (sameButHalts_hitFault _ code).stopKept

theorem StopKept.holdsFault_eq {k k' : Chip} (h : StopKept k k') (code : Nat) : holdsFault k' code = holdsFault k code := by
  rw [holdsFault, h.faults]
  rfl

theorem holdsFault_recordFault_self {c : Chip} (h : c.faults.length < 16) (code : Nat) (p : Option PortNo) :
    holdsFault (recordFault c code p) code = true :=
  (holdsFault_iff _ code).2 ⟨_, mem_listFault_self h, rfl, rfl⟩

/-! ## Mesh peers and torus directions (R163) -/

/-- The chip with a mesh peer lost, before 0x14 is raised. -/
def withLostPeer (c : Chip) (g : Fin 3) : Chip := { c with lostPeers := c.lostPeers ++ [g] }

theorem exec_meshPeerLost {s : State} {c : Pos} {g : Fin 3} (hlinks : linksOn (getChip s c) = true)
    (hdown : upPorts (getChip s c) g.val = []) (hnew : (getChip s c).lostPeers.contains g = false) :
    exec (.meshPeerLost c g) s = .next (if springRuns (getChip s c)
      then failAt (modChip s c (fun k => withLostPeer k g)) c 0x14
      else modChip (modChip s c (fun k => withLostPeer k g)) c (fun k => chipFault k 0x14)) :=
  if_pos (by rw [hlinks, hdown, hnew]; rfl)

theorem exec_torusDirectionLost {s : State} {c : Pos} {d : Direction} (hlinks : linksOn (getChip s c) = true)
    (haxis : (groupPorts (directionGroup d)).any (axisEnabled (getChip s c)) = true)
    (hdown : upPorts (getChip s c) (directionGroup d) = []) (hnew : (getChip s c).lostDirs.contains d = false) :
    exec (.torusDirectionLost c d) s = .next (modChip s c (fun k => opFault { k with lostDirs := k.lostDirs ++ [d] } 0x15 none)) :=
  if_pos (by rw [hlinks, haxis, hdown, hnew]; rfl)

/-- Settles O44. -/
theorem lostLinksAreReported : Obligations.LostLinksAreReported := by
  unfold Obligations.LostLinksAreReported
  refine ⟨fun s c p hstep => ?down, fun s c p f l hup hhead hshort => ?credits, fun s c g hlinks hdown hnew => ?peer,
    fun s c d hlinks haxis hdown hnew => ?direction⟩
  case down =>
    refine ⟨_, exec_portDown hstep, onlyChip_losePort s c p, linkFrame_losePort s c p, ?_⟩
    rw [portOf_losePort]
    exact ⟨lostPort_step _ _, lostPort_unacked _ _, lostPort_egress _ rfl, losePort_waiting s c p⟩
  case credits =>
    exact ⟨_, exec_vc0CreditTimeout hup hhead hshort, losePort_linkFault s c p 0x13⟩
  case peer =>
    refine ⟨_, exec_meshPeerLost hlinks hdown hnew, ?_⟩
    generalize hk : withLostPeer (getChip s c) g = k
    have hsame : k.occurrences = (getChip s c).occurrences ∧ k.faults = (getChip s c).faults ∧ k.vault = (getChip s c).vault ∧
        k.wake = (getChip s c).wake ∧ k.lostPeers = (getChip s c).lostPeers ++ [g] := by
      rw [← hk]
      exact ⟨rfl, rfl, rfl, rfl, rfl⟩
    obtain ⟨hocc, hfaults, hvault, hwake, hpeers⟩ := hsame
    rw [← hocc, ← hfaults, ← hvault, ← hwake, ← hpeers]
    have honly (f : Chip → Chip) : OnlyChip c s (modChip (modChip s c (fun k => withLostPeer k g)) c f) :=
      onlyChip_trans (onlyChip_modChip s c _) (onlyChip_modChip _ c f)
    cases hruns : springRuns (getChip s c) with
    | true =>
      rw [if_pos rfl, failAt, getChip_modChip_self, getChip_modChip_self, hk]
      obtain ⟨hphase, hholds, hports, hkeys, -⟩ := springFault_allPortsOff k 0x14
      refine ⟨honly _, ?_, hholds, hkeys, fun _ => ⟨hphase, hports⟩, fun h => absurd h.symm Bool.false_ne_true⟩
      exact (congrArg (fun o => tabGet 0 o 0x14) (springFault_occurrences k 0x14)).trans (occurrences_recordFault k 0x14 none)
    | false =>
      rw [if_neg Bool.false_ne_true, getChip_modChip_self, getChip_modChip_self, hk]
      have hkept := stopKept_chipFault k 0x14
      refine ⟨honly _, hkept.meshLosses.trans (occurrences_recordFault k 0x14 none), fun hroom => ?_, hkept.vault,
        fun h => absurd h Bool.false_ne_true, fun _ => ⟨hkept.lostPeers, hkept.wake⟩⟩
      rw [hkept.holdsFault_eq]
      exact holdsFault_recordFault_self hroom 0x14 none
  case direction =>
    refine ⟨_, exec_torusDirectionLost hlinks haxis hdown hnew, onlyChip_modChip s c _, ?_⟩
    rw [getChip_modChip_self]
    obtain ⟨l, b, hraised⟩ := opFault_eq { getChip s c with lostDirs := (getChip s c).lostDirs ++ [d] } 0x15 none
    rw [hraised]
    exact ⟨rfl, occurrences_recordFault (getChip s c) 0x15 none, rfl, rfl, rfl⟩

end Sys2Proof.Machine
end

section
/-!
PROOFS. O45 (MacFramesCarryUnits): MAC frames of an Ethernet-mode port, sent and received (R156, R157).
-/
namespace Sys2Proof.Machine

/-- The MAC frame that a port sends: up to 37 of its queued units, to its peer, under the image's EtherType and its EPOCH. -/
def macFrameOf (c : Chip) (p : PortNo) (e : BitVec 16) : MacFrame :=
  let us := (portOf c p).ethQueue.take 37
  { fcsOk := true, control := false, dest := (portOf c p).peerMac, source := macOf c p, etherType := e, encap := 0x10#8,
    unitsField := BitVec.ofNat 8 us.length, epoch := BitVec.ofNat 32 (portOf c p).epoch, units := us,
    clientBytes := 8 + 40 * us.length, rttUs := 0 }

/-- A port that has sent a MAC frame. -/
def macSent (x : Port) (m : MacFrame) : Port := { x with ethQueue := x.ethQueue.drop 37, macWire := x.macWire ++ [m] }

theorem exec_ethernetFrameSend {s : State} {c : Pos} {p : PortNo} {e : BitVec 16} (hether : etherOf (getChip s c) = some e)
    (hqueued : (portOf (getChip s c) p).ethQueue ≠ []) :
    exec (.ethernetFrameSend c p) s =
      .next (setChip s c (setPort (getChip s c) p (macSent (portOf (getChip s c) p) (macFrameOf (getChip s c) p e)))) := by
  have hsent : execEthernetFrameSend c p s =
      .next (setChip s c (setPort (getChip s c) p (macSent (portOf (getChip s c) p) (macFrameOf (getChip s c) p e)))) := by
    unfold execEthernetFrameSend
    dsimp only
    split
    next e' _ _ he hq =>
      rw [hether] at he
      cases he
      rfl
    next hother =>
      obtain ⟨u, l, hq⟩ := List.exists_cons_of_ne_nil hqueued
      exact absurd hq (hother e u l hether)
  exact hsent

theorem exec_macFrameReceive_taken {s : State} {c : Pos} {p : PortNo} {m : MacFrame} (hmode : (portOf (getChip s c) p).mode = .ethernet)
    (hhears : hears (portOf (getChip s c) p) = true) (htaken : macAccepted (getChip s c) p m = true) :
    exec (.macFrameReceive c p m) s = .next (m.units.foldl (fun s u => rxUnit s c p u m.rttUs)
      (setChip s c (setPort (getChip s c) p (learnMac (portOf (getChip s c) p) m)))) :=
  (if_pos (by rw [hmode, hhears]; rfl)).trans (if_pos htaken)

theorem exec_macFrameReceive_discarded {s : State} {c : Pos} {p : PortNo} {m : MacFrame} (hmode : (portOf (getChip s c) p).mode = .ethernet)
    (hhears : hears (portOf (getChip s c) p) = true) (hnot : macAccepted (getChip s c) p m = false) :
    exec (.macFrameReceive c p m) s = .next (setChip s c (countDev (getChip s c) 140 1)) :=
  (if_pos (by rw [hmode, hhears]; rfl)).trans (if_neg (by rw [hnot]; exact Bool.false_ne_true))

/-- The checks of R157, each named. -/
theorem macAccepted_iff (c : Chip) (p : PortNo) (m : MacFrame) :
    macAccepted c p m = true ↔ m.fcsOk = true ∧ m.control = false ∧ (m.dest = macOf c p ∨ m.dest = BitVec.allOnes 48) ∧
      etherOf c = some m.etherType ∧ m.encap.toNat / 16 = 1 ∧ m.units.length ≤ 37 ∧ m.unitsField.toNat = m.units.length ∧
      m.clientBytes = max 46 (8 + 40 * m.units.length) ∧
      (m.epoch = (portOf c p).peerEpoch ∨ (m.units ≠ [] ∧ ∀ u ∈ m.units, isHelloUnit u = true)) := by
  simp [macAccepted, and_assoc]

/-- A MAC frame that fails one of the checks is not passed on. -/
theorem macAccepted_eq_false {c : Chip} {p : PortNo} {m : MacFrame}
    (h : m.fcsOk = false ∨ m.control = true ∨ (m.dest ≠ macOf c p ∧ m.dest ≠ BitVec.allOnes 48) ∨ etherOf c ≠ some m.etherType ∨
      37 < m.units.length ∨ m.unitsField.toNat ≠ m.units.length ∨ m.encap.toNat / 16 ≠ 1 ∨ m.clientBytes ≠ max 46 (8 + 40 * m.units.length) ∨
      (m.epoch ≠ (portOf c p).peerEpoch ∧ (m.units = [] ∨ ∃ u ∈ m.units, isHelloUnit u = false))) : macAccepted c p m = false := by
  rw [Bool.eq_false_iff, Ne, macAccepted_iff]
  rintro ⟨hfcs, hcontrol, hdest, hether, hencap, hlength, hfield, hbytes, hepoch⟩
  obtain h | h | ⟨hother, hbroad⟩ | h | h | h | h | h | ⟨hold, hnone⟩ := h
  · rw [hfcs] at h; cases h
  · rw [hcontrol] at h; cases h
  · exact hdest.elim hother hbroad
  · exact h hether
  · omega
  · exact h hfield
  · exact h hencap
  · exact h hbytes
  · obtain ⟨hsome, hall⟩ := hepoch.resolve_left hold
    obtain hnil | ⟨u, hu, hnot⟩ := hnone
    · exact hsome hnil
    · rw [hall u hu] at hnot; cases hnot

/-- Settles O45. -/
theorem macFramesCarryUnits : Obligations.MacFramesCarryUnits := by
  unfold Obligations.MacFramesCarryUnits
  refine ⟨fun s c p e hether hqueued => ?_, fun s c p m hmode hhears htaken => ?_, fun s c p m hmode hhears hfails => ?_⟩
  · refine ⟨_, macFrameOf (getChip s c) p e, exec_ethernetFrameSend hether hqueued, onlyChip_setChip s c _, ?_⟩
    rw [getChip_setChip_self, portOf_setPort_self]
    exact ⟨linkFrame_setPort _ p _, rfl, rfl, rfl, List.length_take_le 37 _, rfl, rfl, rfl, rfl, rfl⟩
  · exact ⟨_, exec_macFrameReceive_taken hmode hhears htaken,
      onlyChip_trans (onlyChip_setChip s c _) (onlyChip_foldl (fun s u => onlyChip_rxUnit s c p u m.rttUs) _ _), rfl⟩
  · exact exec_macFrameReceive_discarded hmode hhears (macAccepted_eq_false hfails)

end Sys2Proof.Machine
end

section
/-!
PROOFS. O46 (FramesMoveWhole): frames sent, routed and taken in (R129, R145, R150, R151, R158, R160, R369).
-/
namespace Sys2Proof.Machine

/-! ## A frame's flits on a link (R143, R145) -/

/-- A frame takes as many flits whatever its route. -/
theorem frameContents_length (chipLink : Bool) {f g : TxFrame} (h : g.frame = f.frame) :
    (frameContents chipLink g).length = (frameContents chipLink f).length := by
  cases chipLink <;> simp [frameContents, h]

theorem frameUnits_length (seq : Nat) (f : TxFrame) (cs : List (BitVec 256)) : (frameUnits seq f cs).length = cs.length := by
  simp [frameUnits]

/-- A frame sent: its flits are numbered, kept for replay and charged to their pool; what else changes of the port is what has left by it. -/
theorem portOf_transmit (c : Chip) (p : PortNo) (f : TxFrame) :
    ∃ us q w, us.length = linkFlits p f ∧ portOf (transmit c p f) p =
      { portOf c p with txSeq := ((portOf c p).txSeq + linkFlits p f) % 65536, replay := (portOf c p).replay ++ us,
                        unacked := (portOf c p).unacked ++ [f],
                        sent := tabSet (portOf c p).sent (txPool c p f) ((tabGet 0 (portOf c p).sent (txPool c p f) + linkFlits p f) % 65536),
                        ethQueue := q, wire := w } := by
  unfold transmit
  dsimp only
  rw [portOf_modPort_self]
  generalize hg : ({ f with route := if isChipLink p then linkRoute c p f.route else { f.route with dl := false } } : TxFrame) = g
  have hlength : (frameUnits (portOf c p).txSeq g (frameContents (isChipLink p) g)).length = linkFlits p f := by
    rw [frameUnits_length]
    exact frameContents_length _ (by rw [← hg])
  rw [hlength]
  generalize frameUnits (portOf c p).txSeq g (frameContents (isChipLink p) g) = us at hlength
  obtain ⟨q, w, hsent⟩ := sendUnits_eq us
    { portOf c p with txSeq := ((portOf c p).txSeq + linkFlits p f) % 65536, replay := (portOf c p).replay ++ us,
                      unacked := (portOf c p).unacked ++ [f],
                      sent := tabSet (portOf c p).sent (txPool c p f) ((tabGet 0 (portOf c p).sent (txPool c p f) + linkFlits p f) % 65536) }
  exact ⟨us, q, w, hlength, hsent⟩

theorem linkFrame_transmit (c : Chip) (p : PortNo) (f : TxFrame) : LinkFrame p c (transmit c p f) := linkFrame_modPort c p _

/-- A port whose egress queue has lost its head. -/
def egressPopped (x : Port) (key : BitVec 2 × Nat) : Port := { x with egress := tabSet x.egress key ((tabGet [] x.egress key).drop 1) }

theorem popEgress_eq (c : Chip) (p : PortNo) (key : BitVec 2 × Nat) : popEgress c p key = setPort c p (egressPopped (portOf c p) key) := rfl

/-- The pool that a frame's flits go into does not turn on the port's queues. -/
theorem txPool_setPort (c : Chip) (p q : PortNo) (x : Port) (f : TxFrame) : txPool (setPort c q x) p f = txPool c p f := rfl

/-- A frame taken from the head of its queue and sent whole. -/
theorem portOf_transmit_popEgress {c : Chip} {p : PortNo} {key : BitVec 2 × Nat} {f : TxFrame} {l : List TxFrame}
    (hhead : tabGet [] (portOf c p).egress key = f :: l) :
    let x := portOf (transmit (popEgress c p key) p f) p
    tabGet [] x.egress key = l ∧ x.unacked = (portOf c p).unacked ++ [f] ∧ x.txSeq = ((portOf c p).txSeq + linkFlits p f) % 65536 ∧
      x.replay.length = (portOf c p).replay.length + linkFlits p f ∧
      tabGet 0 x.sent (txPool c p f) = (tabGet 0 (portOf c p).sent (txPool c p f) + linkFlits p f) % 65536 := by
  intro x
  obtain ⟨us, q, w, hlength, hport⟩ := portOf_transmit (popEgress c p key) p f
  rw [popEgress_eq, txPool_setPort, portOf_setPort_self] at hport
  have hx : x = _ := hport
  rw [hx]
  refine ⟨?_, rfl, rfl, ?_, tabGet_tabSet_self _ _ _ _⟩
  · exact (tabGet_tabSet_self _ _ _ _).trans (by rw [hhead]; rfl)
  · rw [← hlength]
    exact List.length_append

/-! ## FRAME_SEND (R150, R151) -/

theorem exec_frameSend_vc0 {s : State} {c : Pos} {p : PortNo} {f : TxFrame} {l : List TxFrame} (hup : (portOf (getChip s c) p).step = .up)
    (hhead : tabGet [] (portOf (getChip s c) p).egress (0#2, 0) = f :: l) (hmay : mayBegin (getChip s c) p f = true) :
    exec (.frameSend c p) s = .next (setChip s c (transmit (popEgress (getChip s c) p (0#2, 0)) p f)) := by
  have hsent : execFrameSend c p s = .next (setChip s c (transmit (popEgress (getChip s c) p (0#2, 0)) p f)) := by
    unfold execFrameSend
    dsimp only
    rw [if_neg (not_not.2 hup), hhead]
    exact if_pos hmay
  exact hsent

/-- A port once VC1 or VC2 has been served. -/
def servedPort (vc : BitVec 2) (new : Tab Nat Nat) (x : Port) : Port :=
  { x with outDeficit := putDeficits vc x.outDeficit new (fun t => !(tabGet [] x.egress (vc, t)).isEmpty), vc2Next := vc = 1#2 }

theorem sendVc_serves {c : Chip} {p : PortNo} {v : BitVec 2} {u : Nat} {new : Tab Nat Nat} {f : TxFrame} {l : List TxFrame}
    (hserve : drrServe (byteQuantum c) (fun t => tabGet 0 (portOf c p).outDeficit (v, t)) (egressHeads c p v) = some (u, new))
    (hhead : tabGet [] (portOf c p).egress (v, u) = f :: l) :
    sendVc c p v = some (modPort (transmit (popEgress c p (v, u)) p f) p (servedPort v new)) := by
  unfold sendVc
  dsimp only
  rw [hserve]
  dsimp only
  rw [hhead]
  rfl

/-- With no VC0 frame waiting, the VC whose turn it is goes first. -/
theorem exec_frameSend_turn {s : State} {c : Pos} {p : PortNo} {v : BitVec 2} {k : Chip} (hv : v = 1#2 ∨ v = 2#2)
    (hup : (portOf (getChip s c) p).step = .up) (hnone : tabGet [] (portOf (getChip s c) p).egress (0#2, 0) = [])
    (hturn : (portOf (getChip s c) p).vc2Next = decide (v = 2#2)) (hsent : sendVc (getChip s c) p v = some k) :
    exec (.frameSend c p) s = .next (setChip s c k) := by
  have hfirst : (if (portOf (getChip s c) p).vc2Next = true then 2#2 else 1#2) = v := by
    obtain rfl | rfl := hv <;> rw [hturn] <;> rfl
  have hexec : execFrameSend c p s = .next (setChip s c k) := by
    unfold execFrameSend
    dsimp only
    rw [if_neg (not_not.2 hup), hnone, hfirst, hsent]
  exact hexec

/-! ## FRAME_FORWARD (R158, R160, R369) -/

theorem exec_frameForward {s : State} {c : Pos} {f : TxFrame} {l : List TxFrame} (hlinks : linksOn (getChip s c) = true)
    (hhead : (getChip s c).outbox = f :: l) :
    exec (.frameForward c) s = .next (setChip s c (routeFrame { getChip s c with outbox := l } f)) := by
  have hexec : execFrameForward c s = .next (setChip s c (routeFrame { getChip s c with outbox := l } f)) := by
    unfold execFrameForward
    dsimp only
    rw [hhead]
    exact if_pos (by rw [framesMove, hlinks, Bool.true_or])
  exact hexec

theorem discardFrame_eq (c : Chip) (f : TxFrame) : ∃ l, discardFrame c f = { countDev c 133 1 with tenants := l } := by
  unfold discardFrame countTen
  dsimp only
  split
  · split
    · exact ⟨_, rfl⟩
    · exact ⟨c.tenants, rfl⟩
  · exact ⟨c.tenants, rfl⟩

/-- A frame for this chip itself waits for its command. -/
theorem routeFrame_self {c : Chip} {f : TxFrame} (hhop : nextHop c f.route = .here) (hport : f.route.targetPort = 0x3F#8) :
    routeFrame c f = deliverHere c f := by
  rw [routeFrame, hhop]
  exact if_pos hport

theorem routeFrame_host {c : Chip} {f : TxFrame} (hhop : nextHop c f.route = .here) (hport : f.route.targetPort ≠ 0x3F#8) :
    routeFrame c f = if isHostPort (Fin.ofNat 64 f.route.targetPort.toNat) && portUp c (Fin.ofNat 64 f.route.targetPort.toNat)
      then enqueue c (Fin.ofNat 64 f.route.targetPort.toNat) f else countDev c 133 1 := by
  rw [routeFrame, hhop]
  exact if_neg hport

/-- A frame that is not here yet goes to the port of its hop. -/
theorem routeFrame_hop {c : Chip} {f : TxFrame} {q : PortNo} (hhop : nextHop c f.route ≠ .here)
    (hport : choosePort (upPorts c (hopGroup (nextHop c f.route))) (frameHead f.frame) = some q) :
    routeFrame c f = enqueue c q { f with route := hopRoute (nextHop c f.route) f.route } := by
  unfold routeFrame
  split
  · next hhere => exact absurd hhere hhop
  · rw [hport]

theorem routeFrame_lost {c : Chip} {f : TxFrame} (hhop : nextHop c f.route ≠ .here)
    (hport : choosePort (upPorts c (hopGroup (nextHop c f.route))) (frameHead f.frame) = none) : routeFrame c f = discardFrame c f := by
  unfold routeFrame
  split
  · next hhere => exact absurd hhere hhop
  · rw [hport]

/-- Routing takes nothing else from what waits, and leaves the seasons alone. -/
theorem routeFrame_keeps (c : Chip) (f : TxFrame) : (routeFrame c f).outbox = c.outbox ∧ (routeFrame c f).wake = c.wake := by
  by_cases hhop : nextHop c f.route = .here
  · by_cases hport : f.route.targetPort = 0x3F#8
    · rw [routeFrame_self hhop hport]
      exact ⟨rfl, rfl⟩
    · rw [routeFrame_host hhop hport]
      split
      · exact ⟨rfl, rfl⟩
      · exact ⟨rfl, rfl⟩
  · cases hport : choosePort (upPorts c (hopGroup (nextHop c f.route))) (frameHead f.frame) with
    | some q =>
      rw [routeFrame_hop hhop hport]
      exact ⟨rfl, rfl⟩
    | none =>
      obtain ⟨l, hdiscarded⟩ := discardFrame_eq c f
      rw [routeFrame_lost hhop hport, hdiscarded]
      exact ⟨rfl, rfl⟩

/-- A frame put in a port's egress queue comes last in it. -/
theorem enqueue_last (c : Chip) (q : PortNo) (f : TxFrame) :
    tabGet [] (portOf (enqueue c q f) q).egress (egressKey f) = tabGet [] (portOf c q).egress (egressKey f) ++ [f] ∧
      LinkFrame q c (enqueue c q f) := by
  refine ⟨?_, linkFrame_modPort c q _⟩
  rw [enqueue, portOf_modPort_self]
  exact tabGet_tabSet_self _ _ _ _

/-! ## INGRESS_DISPATCH (R129, R150, R327) -/

/-- A port whose ingress queue has lost its head. -/
def ingressTaken (key : BitVec 2 × Nat) (x : Port) : Port :=
  { x with ingress := tabSet x.ingress key ((tabGet [] x.ingress key).drop 1), stale := tabSet x.stale key (tabGet 0 x.stale key - 1) }

/-- A port once a frame has left its ingress queue: the flits of a frame that came in this training stay held where the frame waits here, and are
freed where it goes on. -/
def dispatchedPort (c : Chip) (key : BitVec 2 × Nat) (f : RxFrame) (x : Port) : Port :=
  if 0 < tabGet 0 x.stale key then ingressTaken key x
  else if staysHere c f then { ingressTaken key x with dispatched := x.dispatched ++ [f] }
  else freeFlits (ingressTaken key x) (rxPool f) (rxFlits f)

/-- The ingress buckets once a frame is charged (Table 17-2). -/
def chargedTokens (c : Chip) (key : BitVec 2 × Nat) (f : RxFrame) : Tab Nat Nat :=
  if f.vc = 0#2 then c.ingressTokens
  else tabSet c.ingressTokens key.2 (tabGet ingressDepth c.ingressTokens key.2 - ingressCost c f)

/-- The chip once a frame has left its ingress queue and is charged. -/
def leftIngress (c : Chip) (p : PortNo) (key : BitVec 2 × Nat) (f : RxFrame) : Chip :=
  { setPort c p (dispatchedPort c key f (portOf c p)) with ingressTokens := chargedTokens c key f }

theorem leftIngress_ite (c : Chip) (p : PortNo) (key : BitVec 2 × Nat) (f : RxFrame) :
    (if f.vc = 0#2 then modPort c p (dispatchedPort c key f)
     else { modPort c p (dispatchedPort c key f) with
              ingressTokens := tabSet c.ingressTokens key.2 (tabGet ingressDepth c.ingressTokens key.2 - ingressCost c f) }) =
      leftIngress c p key f := by
  unfold leftIngress chargedTokens
  split <;> rfl

/-- A frame that has left its ingress queue waits for its command here, or to be routed. -/
def handOn (c : Chip) (p : PortNo) (f : RxFrame) : Chip :=
  match f.route with
  | none => { c with inbox := c.inbox ++ [f] }
  | some r =>
    if staysHere c f then { c with inbox := c.inbox ++ [f] } else emit c { frame := f.frame, vc := f.vc, route := arriveRoute c p r }

theorem dispatchFrame_eq (c : Chip) (p : PortNo) (key : BitVec 2 × Nat) (f : RxFrame) :
    dispatchFrame c p key f = handOn (leftIngress c p key f) p f := by
  rw [← leftIngress_ite]
  rfl

/-- Where a frame goes does not turn on the ports and the buckets. -/
theorem staysHere_leftIngress (c : Chip) (p : PortNo) (key : BitVec 2 × Nat) (f : RxFrame) :
    staysHere (leftIngress c p key f) f = staysHere c f := rfl

theorem dispatchFrame_here {c : Chip} {f : RxFrame} (h : staysHere c f = true) (p : PortNo) (key : BitVec 2 × Nat) :
    dispatchFrame c p key f = { leftIngress c p key f with inbox := c.inbox ++ [f] } := by
  rw [dispatchFrame_eq]
  cases hroute : f.route with
  | none =>
    rw [handOn, hroute]
    rfl
  | some r =>
    rw [handOn, hroute]
    exact if_pos h

theorem dispatchFrame_on {c : Chip} {f : RxFrame} {r : Prefix} (hroute : f.route = some r) (h : staysHere c f = false) (p : PortNo)
    (key : BitVec 2 × Nat) :
    dispatchFrame c p key f = emit (leftIngress c p key f) { frame := f.frame, vc := f.vc, route := arriveRoute c p r } := by
  rw [dispatchFrame_eq, handOn, hroute]
  exact if_neg (by rw [staysHere_leftIngress, h]; exact Bool.false_ne_true)

theorem staysHere_of_route_none {c : Chip} {f : RxFrame} (h : f.route = none) : staysHere c f = true := by rw [staysHere, h]

/-- Of the port and key a frame leaves by, the queue loses its head. -/
theorem ingressQueue_dispatchedPort {c : Chip} {x : Port} {v : BitVec 2} {u : Nat} {f : RxFrame} {l : List RxFrame}
    (h : ingressQueue x v u = f :: l) : ingressQueue (dispatchedPort c (v, u) f x) v u = l := by
  have hqueue : (dispatchedPort c (v, u) f x).ingress = (ingressTaken (v, u) x).ingress := by
    unfold dispatchedPort
    split
    · rfl
    · split
      · rfl
      · rfl
  rw [ingressQueue, hqueue]
  exact (tabGet_tabSet_self _ _ _ _).trans (congrArg (List.drop 1) h)

/-- A frame that stays here keeps its flits. -/
theorem heldFlits_dispatchedPort_here {c : Chip} {f : RxFrame} (h : staysHere c f = true) (key : BitVec 2 × Nat) (x : Port) :
    (dispatchedPort c key f x).heldFlits = x.heldFlits := by
  unfold dispatchedPort
  rw [if_pos h]
  split <;> rfl

/-- A frame of this training that goes on frees its flits. -/
theorem heldFlits_dispatchedPort_on {c : Chip} {f : RxFrame} (h : staysHere c f = false) {key : BitVec 2 × Nat} {x : Port}
    (hfresh : tabGet 0 x.stale key = 0) :
    tabGet 0 (dispatchedPort c key f x).heldFlits (rxPool f) =
      tabGet 0 x.heldFlits (rxPool f) - min (rxFlits f) (tabGet 0 x.heldFlits (rxPool f)) := by
  unfold dispatchedPort
  rw [hfresh, if_neg (Nat.lt_irrefl 0), h, if_neg Bool.false_ne_true]
  exact tabGet_tabSet_self _ _ _ _

theorem exec_ingressDispatch_vc0 {s : State} {c : Pos} {p : PortNo} {f : RxFrame} {l : List RxFrame} (hlinks : linksOn (getChip s c) = true)
    (hhead : ingressQueue (portOf (getChip s c) p) 0#2 0 = f :: l) :
    exec (.ingressDispatch c p 0#2) s = .next (setChip s c (dispatchFrame (getChip s c) p (0#2, 0) f)) := by
  have hexec : execIngressDispatch c p 0#2 s = .next (setChip s c (dispatchFrame (getChip s c) p (0#2, 0) f)) := by
    unfold execIngressDispatch
    dsimp only
    rw [if_neg (by rw [framesMove, hlinks, Bool.true_or]; decide), if_pos rfl, hhead]
  exact hexec

/-- A port once deficits have been put after a VC was served. -/
def inServed (vc : BitVec 2) (new : Tab Nat Nat) (x : Port) : Port :=
  { x with inDeficit := putDeficits vc x.inDeficit new (fun t => !(ingressQueue x vc t).isEmpty) }

theorem exec_ingressDispatch_serves {s : State} {c : Pos} {p : PortNo} {v : BitVec 2} {u : Nat} {new : Tab Nat Nat} {f : RxFrame}
    {l : List RxFrame} (hv : v = 1#2 ∨ v = 2#2) (hlinks : linksOn (getChip s c) = true)
    (hserve : drrServe (byteQuantum (getChip s c)) (fun t => tabGet 0 (portOf (getChip s c) p).inDeficit (v, t))
      (ingressHeads (getChip s c) p v) = some (u, new)) (hhead : ingressQueue (portOf (getChip s c) p) v u = f :: l) :
    exec (.ingressDispatch c p v) s = .next (setChip s c (modPort (dispatchFrame (getChip s c) p (v, u) f) p (inServed v new))) := by
  have hexec : execIngressDispatch c p v s =
      .next (setChip s c (modPort (dispatchFrame (getChip s c) p (v, u) f) p (inServed v new))) := by
    unfold execIngressDispatch
    dsimp only
    rw [if_neg (by rw [framesMove, hlinks, Bool.true_or]; decide), if_neg (by obtain rfl | rfl := hv <;> decide), hserve]
    dsimp only
    rw [hhead]
    rfl
  exact hexec

/-- Settles O46. -/
theorem framesMoveWhole : Obligations.FramesMoveWhole := by
  unfold Obligations.FramesMoveWhole
  refine ⟨fun s c p f l hup hhead hmay => ?vc0, fun s c p v u new f l hv hup hnone hturn hhead hserve => ?turn,
    fun s c f l hlinks hhead => ?forward, fun s c p f l hlinks hhead hvc => ?dispatch,
    fun s c p v u new f l hv hlinks hserve hhead hvc hstays htarget => ?charged⟩
  case vc0 =>
    refine ⟨_, exec_frameSend_vc0 hup hhead hmay, onlyChip_setChip s c _, ?_⟩
    rw [getChip_setChip_self]
    exact ⟨linkFrame_trans (linkFrame_setPort _ p _) (linkFrame_transmit _ p f), portOf_transmit_popEgress hhead⟩
  case turn =>
    refine ⟨_, exec_frameSend_turn hv hup hnone hturn (sendVc_serves hserve hhead), onlyChip_setChip s c _, ?_⟩
    rw [getChip_setChip_self, portOf_modPort_self]
    obtain ⟨hegress, hunacked, -⟩ := portOf_transmit_popEgress hhead
    exact ⟨linkFrame_trans (linkFrame_trans (linkFrame_setPort _ p _) (linkFrame_transmit _ p f)) (linkFrame_modPort _ p _), hegress, rfl, hunacked⟩
  case forward =>
    refine ⟨_, exec_frameForward hlinks hhead, onlyChip_setChip s c _, ?_⟩
    rw [getChip_setChip_self]
    generalize hk : ({ getChip s c with outbox := l } : Chip) = k
    have hframe (q : PortNo) {k' : Chip} (h : LinkFrame q k k') : LinkFrame q (getChip s c) k' := by
      rw [← hk] at h
      exact linkFrame_trans (linkFrame_refl q _) h
    obtain ⟨houtbox, hwake⟩ := routeFrame_keeps k f
    have hhop : nextHop (getChip s c) f.route = nextHop k f.route := by rw [← hk]; rfl
    have hups (g : Nat) : upPorts (getChip s c) g = upPorts k g := by rw [← hk]; rfl
    have hportUp (q : PortNo) : portUp (getChip s c) q = portUp k q := by rw [← hk]; rfl
    have hports : (getChip s c).ports = k.ports := by rw [← hk]
    have hportOf (q : PortNo) : portOf (getChip s c) q = portOf k q := congrArg (fun l => tabGet Port.reset l q) hports
    have hinbox : (getChip s c).inbox = k.inbox := by rw [← hk]
    have htenants : (getChip s c).tenants = k.tenants := by rw [← hk]
    have hcounters : (getChip s c).counters = k.counters := by rw [← hk]
    rw [hhop, hinbox, htenants, hcounters, hports]
    refine ⟨houtbox.trans (by rw [← hk]), hwake.trans (by rw [← hk]), fun hhere hself => ?_, fun q hhere hnot hq hhost hup => ?_,
      fun q hgoes hchosen => ?_, fun hgoes hnone => ?_⟩
    · rw [routeFrame_self hhere hself]
      exact ⟨rfl, rfl, _, rfl, rfl, rfl, rfl⟩
    · rw [routeFrame_host hhere hnot, ← hq, hhost, ← hportUp, hup, Bool.and_true, if_pos rfl, hportOf]
      obtain ⟨hlast, hlink⟩ := enqueue_last k q f
      exact ⟨hlast, hframe q hlink⟩
    · rw [hups] at hchosen
      rw [routeFrame_hop hgoes hchosen, hportOf]
      obtain ⟨hlast, hlink⟩ := enqueue_last k q { f with route := hopRoute (nextHop k f.route) f.route }
      exact ⟨hlast, hframe q hlink⟩
    · rw [hups] at hnone
      obtain ⟨t, hdiscarded⟩ := discardFrame_eq k f
      rw [routeFrame_lost hgoes hnone, hdiscarded]
      exact ⟨rfl, rfl, counters_countDev_self k 133 1⟩
  case dispatch =>
    refine ⟨_, exec_ingressDispatch_vc0 hlinks hhead, onlyChip_setChip s c _, ?_⟩
    rw [getChip_setChip_self]
    have htokens : chargedTokens (getChip s c) (0#2, 0) f = (getChip s c).ingressTokens := if_pos hvc
    have hport := portOf_setPort_self (getChip s c) p (dispatchedPort (getChip s c) (0#2, 0) f (portOf (getChip s c) p))
    have hother := fun q hq => portOf_setPort_ne (getChip s c) p q (dispatchedPort (getChip s c) (0#2, 0) f (portOf (getChip s c) p)) hq
    cases hstays : staysHere (getChip s c) f with
    | true =>
      rw [dispatchFrame_here hstays]
      refine ⟨?_, htokens, rfl, hother, fun _ => ⟨rfl, rfl, ?_⟩, fun r _ h => absurd h.symm Bool.false_ne_true⟩
      · exact (congrArg (fun x => ingressQueue x 0#2 0) hport).trans (ingressQueue_dispatchedPort hhead)
      · exact (congrArg Port.heldFlits hport).trans (heldFlits_dispatchedPort_here hstays _ _)
    | false =>
      obtain ⟨r, hroute⟩ : ∃ r, f.route = some r := Option.ne_none_iff_exists'.1 fun h => by
        rw [staysHere_of_route_none h] at hstays
        cases hstays
      rw [dispatchFrame_on hroute hstays]
      refine ⟨?_, htokens, rfl, hother, fun h => absurd h Bool.false_ne_true, fun r' hroute' _ => ?_⟩
      · exact (congrArg (fun x => ingressQueue x 0#2 0) hport).trans (ingressQueue_dispatchedPort hhead)
      · obtain rfl : r = r' := Option.some_inj.1 (hroute.symm.trans hroute')
        exact ⟨rfl, rfl, fun hfresh => (congrArg (fun x => tabGet 0 x.heldFlits (rxPool f)) hport).trans (heldFlits_dispatchedPort_on hstays hfresh)⟩
  case charged =>
    refine ⟨_, exec_ingressDispatch_serves hv hlinks hserve hhead, onlyChip_setChip s c _, ?_⟩
    have hnot : f.vc ≠ 0#2 := by obtain rfl | rfl := hv <;> rw [hvc] <;> decide
    have htokens : chargedTokens (getChip s c) (v, u) f =
        tabSet (getChip s c).ingressTokens u (tabGet ingressDepth (getChip s c).ingressTokens u - 160 * (32 + f.frame.payload.length)) := by
      rw [chargedTokens, if_neg hnot, ingressCost, if_pos (by simp [hnot, htarget])]
    have hport := portOf_setPort_self (getChip s c) p (dispatchedPort (getChip s c) (v, u) f (portOf (getChip s c) p))
    have hserved : portOf (modPort (dispatchFrame (getChip s c) p (v, u) f) p (inServed v new)) p =
        inServed v new (dispatchedPort (getChip s c) (v, u) f (portOf (getChip s c) p)) := by
      rw [portOf_modPort_self, dispatchFrame_here hstays]
      exact congrArg (inServed v new) hport
    rw [getChip_setChip_self, hserved, dispatchFrame_here hstays]
    exact ⟨ingressQueue_dispatchedPort hhead, rfl, rfl, heldFlits_dispatchedPort_here hstays _ _,
      (congrArg (fun l => tabGet ingressDepth l u) htokens).trans (tabGet_tabSet_self _ _ _ _)⟩

end Sys2Proof.Machine
end

section
/-!
PROOFS. O17 (ForwardedCodesMoveByTheTable): a chip's answer to a forwarded code, by Table 4-2 (R65, R66).
-/
namespace Sys2Proof.Machine

/-! ## The code taken up -/

/-- A code is forwarded at once where no preparation runs and none begins. -/
theorem takeCode_forwards {s : State} {code : BitVec 2} (hprep : s.tray.prep = false)
    (hnone : code = 1#2 → ∀ p, (getChip s p).wake.season ≠ .winter) : takeCode s code = forwardCode s code := by
  have hnot : (decide (code = 1#2) && anyChip s (fun c => decide (c.wake.season = .winter))) = false := by
    by_cases hcode : code = 1#2
    · have hany : anyChip s (fun c => decide (c.wake.season = .winter)) = false := by
        rw [Bool.eq_false_iff, Ne, anyChip_iff]
        rintro ⟨p, hp⟩
        exact hnone hcode p (of_decide_eq_true hp)
      rw [hany, Bool.and_false]
    · rw [decide_eq_false hcode, Bool.false_and]
  rw [takeCode, hprep, if_neg Bool.false_ne_true, hnot, if_neg Bool.false_ne_true]

theorem getChip_forwardCode (s : State) (code : BitVec 2) (p : Pos) : getChip (forwardCode s code) p = answerCode (getChip s p) code := by
  rw [forwardCode, getChip_refreshFans, getChip_modTray, getChip_mapChips]

/-- The keeper notes what it forwarded, and waits for the chips on their way to Winter. -/
theorem tray_forwardCode (s : State) (code : BitVec 2) :
    (forwardCode s code).tray.forwarded = some code ∧ (forwardCode s code).tray.pinTaken = s.tray.pinTaken ∧
      (forwardCode s code).pending = s.pending ∧
      (forwardCode s code).tray.winterWait = (s.tray.winterWait || anyChip (mapChips s (fun _ c => answerCode c code)) awaitsWinter) :=
  ⟨rfl, rfl, rfl, rfl⟩

/-! ## The answers of Table 4-2 -/

section
variable {c : Chip} (hstopped : c.wake.stopped = false) (herror : c.wake.seasonError = false)

theorem clearSeasonErr_of_none (herror : c.wake.seasonError = false) : clearSeasonErr c = c :=
  if_neg (by rw [herror]; exact Bool.false_ne_true)

include hstopped

/-- An answer that Table 4-2 does not list is a season error. -/
theorem answerCode_unlisted {code : BitVec 2}
    (h : (c.wake.season = .winter ∧ (code = 2#2 ∨ code = 3#2)) ∨ (c.wake.season = .spring ∧ code = 2#2) ∨
      (c.wake.season = .summer ∧ (code = 0#2 ∨ code = 1#2)) ∨ (c.wake.season = .autumn ∧ code = 1#2)) : answerCode c code = seasonErr c := by
  obtain ⟨hseason, rfl | rfl⟩ | ⟨hseason, rfl⟩ | ⟨hseason, rfl | rfl⟩ | ⟨hseason, rfl⟩ := h
  all_goals
    simp only [answerCode, hseason, hstopped]
    rfl

include herror

theorem answerCode_summer_autumn (hseason : c.wake.season = .summer) :
    answerCode c 2#2 = modWake (releaseHalts (autumnShards c)) (fun w =>
      { w with season := .autumn, entered := false, drain := .steps, drained := false }) := by
  rw [← congrArg (fun k => modWake (releaseHalts (autumnShards k)) _) (clearSeasonErr_of_none herror)]
  simp only [answerCode, hseason, hstopped]
  rfl

theorem answerCode_summer_stays (hseason : c.wake.season = .summer) : answerCode c 3#2 = c := by
  refine Eq.trans ?_ (clearSeasonErr_of_none herror)
  simp only [answerCode, hseason, hstopped]
  rfl

theorem answerCode_autumn_summer (hseason : c.wake.season = .autumn) :
    answerCode c 3#2 = modWake (releaseHalts c) (fun w =>
      { w with season := .summer, entered := true, drain := .idle, drained := false }) := by
  rw [← congrArg (fun k => modWake (releaseHalts k) _) (clearSeasonErr_of_none herror)]
  simp only [answerCode, hseason, hstopped]
  rfl

theorem answerCode_autumn_winter (hseason : c.wake.season = .autumn) : answerCode c 0#2 = enterWinter c := by
  rw [← congrArg enterWinter (clearSeasonErr_of_none herror)]
  simp only [answerCode, hseason, hstopped]
  rfl

theorem answerCode_spring_summer (hseason : c.wake.season = .spring) : answerCode c 3#2 = enterSummer c := by
  rw [← congrArg enterSummer (clearSeasonErr_of_none herror)]
  simp only [answerCode, hseason, hstopped]
  rfl

end

theorem enterSummer_done {c : Chip} (h : c.wake.phase = .done) :
    enterSummer c = modWake (releaseHalts c) (fun w => { w with season := .summer, entered := true, summerDue := false }) := if_pos h

/-- A chip on its way to Winter has yet to report it. -/
theorem enterWinter_wake (c : Chip) : (enterWinter c).wake.season = .winter ∧ (enterWinter c).wake.winterReported = false := ⟨rfl, rfl⟩

/-- A season error changes nothing but the fault and READY (R66). -/
theorem seasonErr_keeps {c : Chip} (h : c.faults = []) :
    (seasonErr c).wake.season = c.wake.season ∧ (seasonErr c).wake.seasonError = true ∧ holdsFault (seasonErr c) 0x63 = true ∧
      (seasonErr c).tenants = c.tenants ∧ (seasonErr c).ports = c.ports := by
  obtain ⟨l, d, hbody⟩ := sameButHalts_hitFault (modWake (recordFault c 0x63 none) (fun w => { w with seasonError := true })) 0x63
  rw [← seasonErr] at hbody
  rw [hbody]
  refine ⟨rfl, rfl, ?_, rfl, rfl⟩
  exact holdsFault_recordFault_self (c := c) (by rw [h]; decide) 0x63 none

/-- Settles O17. -/
theorem forwardedCodesMoveByTheTable : Obligations.ForwardedCodesMoveByTheTable := by
  unfold Obligations.ForwardedCodesMoveByTheTable
  intro s p hforwards huntaken hprep hsame hstopped herror hfaults hnotSpring
  generalize hs' : modTray s (fun y => { y with pinTaken := true }) = s'
  have hchips (q : Pos) : getChip s' q = getChip s q := by rw [← hs', getChip_modTray]
  have htake : takeCode s' s.tray.seasonPins = forwardCode s' s.tray.seasonPins := by
    refine takeCode_forwards (by rw [← hs']; exact hprep) fun hcode q hwinter => ?_
    rw [hchips, hsame q] at hwinter
    exact hnotSpring hwinter hcode
  obtain ⟨hforwarded, htaken, hpending, hwait⟩ := tray_forwardCode s' s.tray.seasonPins
  have hchip := getChip_forwardCode s' s.tray.seasonPins p
  rw [hchips] at hchip
  refine ⟨_, (exec_seasonForward hforwards huntaken).trans (by rw [hs', htake]), hforwarded, htaken.trans (by rw [← hs']; rfl),
    hpending.trans (by rw [← hs']; rfl), ?_⟩
  rw [hchip]
  refine ⟨fun hseason hcode => ?_, fun hseason hcode => ?_, fun hseason hcode => ?_, fun hseason hphase hcode => ?_, fun hseason hcode => ?_,
    fun hunlisted => ?_⟩
  · rw [hcode, answerCode_summer_autumn hstopped herror hseason]
    exact ⟨rfl, rfl, rfl⟩
  · rw [hcode, answerCode_summer_stays hstopped herror hseason]
  · rw [hcode, answerCode_autumn_summer hstopped herror hseason]
    exact ⟨rfl, rfl⟩
  · rw [hcode, answerCode_spring_summer hstopped herror hseason, enterSummer_done hphase]
    exact ⟨rfl, rfl⟩
  · have hanswer : answerCode (getChip s p) s.tray.seasonPins = enterWinter (getChip s p) := by
      rw [hcode, answerCode_autumn_winter hstopped herror hseason]
    obtain ⟨hwinter, hunreported⟩ := enterWinter_wake (getChip s p)
    refine ⟨by rw [hanswer]; exact hwinter, hwait.trans (Bool.or_eq_true_iff.2 (Or.inr ((anyChip_iff _ _).2 ⟨p, ?_⟩)))⟩
    rw [getChip_mapChips, hchips, hanswer, awaitsWinter, hwinter, hunreported]
    rfl
  · rw [answerCode_unlisted hstopped hunlisted]
    exact seasonErr_keeps hfaults

end Sys2Proof.Machine
end

section
/-!
PROOFS. O22 (AutumnDrains), O25 (KeysAreDrawnThenColdIsChecked) and O26 (ColdStartEnds): the Autumn drain, and steps 3 and 4 of Table 4-4
(R74, R76, R82, R84, R293, R377).
-/
namespace Sys2Proof.Machine

/-! ## The Autumn drain (Table 4-6) -/

/-- The wake record, the ports and the fault list are as they were. -/
structure DrainKept (k k' : Chip) : Prop where
  wake : k'.wake = k.wake
  ports : k'.ports = k.ports
  faults : k'.faults = k.faults

theorem DrainKept.refl (k : Chip) : DrainKept k k := ⟨rfl, rfl, rfl⟩

theorem DrainKept.trans {a b c : Chip} (h : DrainKept a b) (g : DrainKept b c) : DrainKept a c :=
  ⟨g.wake.trans h.wake, g.ports.trans h.ports, g.faults.trans h.faults⟩

theorem drainKept_forEach {α : Type} {f : Chip → α → Chip} (h : ∀ c x, DrainKept c (f c x)) (l : List α) (c : Chip) : DrainKept c (forEach c l f) :=
  forEach_rel .refl .trans (fun c x _ => h c x) c

theorem SameButCaches.drainKept {k k' : Chip} (h : SameButCaches k k') : DrainKept k k' := by
  obtain ⟨_, _, rfl⟩ := h
  exact ⟨rfl, rfl, rfl⟩

theorem drainKept_discardFolds (c : Chip) (t : Nat) : DrainKept c (discardFolds c t) := by
  unfold discardFolds countTen
  dsimp only
  split
  · exact ⟨rfl, rfl, rfl⟩
  · exact ⟨rfl, rfl, rfl⟩

/-- Folds discarded are pending state of their tenant: HBM stays. -/
theorem sameBody_discardFolds (c : Chip) (t : Nat) : SameBody c (discardFolds c t) := by
  refine SameBody.trans (b := setTen c t _) ?_ (sameBody_countTen _ t 19 _)
  exact ⟨rfl, rfl, rfl, rfl, rfl, rfl, rfl, rfl, rfl⟩

theorem drainKept_writeBackLine (c : Chip) (line : Nat) : DrainKept c (writeBackLine c line) := by
  unfold writeBackLine
  split
  · exact .refl c
  · split
    · exact ⟨rfl, rfl, rfl⟩
    · split
      · exact .refl c
      · exact ⟨rfl, rfl, rfl⟩
    · exact .refl c

/-- Dirty bytes move from the caches to HBM (R82 step 5). -/
theorem drainKept_writeBackAll (c : Chip) : DrainKept c (writeBackAll c) :=
  (drainKept_forEach (fun c line => drainKept_forEach (fun c k => (sameButCaches_pullDirty c line k).drainKept) (holdersOf c line) c) _ c).trans
    (drainKept_forEach drainKept_writeBackLine _ _)

/-- The chip whose stray folds are discarded as the write-back begins. -/
def foldsDiscarded (c : Chip) : Chip := forEach c (c.tenants.map (·.1)) discardFolds

theorem exec_autumnNoStepInFlight {s : State} {c : Pos} (hseason : (getChip s c).wake.season = .autumn)
    (hdrain : (getChip s c).wake.drain = .steps) (hruns : (getChip s c).wake.stopped = false) (hnone : chipInFlight (getChip s c) = false) :
    exec (.autumnNoStepInFlight c) s = .next (setChip s c (modWake (foldsDiscarded (getChip s c)) (fun w => { w with drain := .writeBack }))) :=
  if_pos (by simp [hseason, hdrain, hruns, hnone])

theorem exec_autumnWritebackDone {s : State} {c : Pos} (hseason : (getChip s c).wake.season = .autumn)
    (hdrain : (getChip s c).wake.drain = .writeBack) (hruns : (getChip s c).wake.stopped = false) (hnone : anyStage (getChip s c) = false) :
    exec (.autumnWritebackDone c) s = .next (setChip s c (modWake (saveAllLanes (writeBackAll (getChip s c)))
      (fun w => { w with drain := .done, drained := true, entered := true }))) :=
  if_pos (by simp [hseason, hdrain, hruns, hnone])

/-- A save takes every tenant's lane states as they stand (R293). -/
theorem tabFind_saveAllLanes {c : Chip} {n : Nat} {x : TenantCtx} (h : tabFind (saveAllLanes c).tenants n = some x) :
    x.savedSeed = some x.laneSeed ∧ x.saved = x.lanes := by
  rw [saveAllLanes, tabFind_tabMap, Option.map_eq_some_iff] at h
  obtain ⟨y, -, rfl⟩ := h
  exact ⟨rfl, rfl⟩

/-- Settles O22. -/
theorem autumnDrains : Obligations.AutumnDrains := by
  unfold Obligations.AutumnDrains
  refine ⟨fun s c hseason hdrain hruns hnone => ?_, fun s c hflight => if_neg (by simp [hflight]), fun s c hseason hdrain hruns hnone => ?_⟩
  · refine ⟨_, exec_autumnNoStepInFlight hseason hdrain hruns hnone, onlyChip_setChip s c _, ?_⟩
    rw [getChip_setChip_self]
    obtain ⟨hwake, hports, hfaults⟩ := drainKept_forEach drainKept_discardFolds ((getChip s c).tenants.map (·.1)) (getChip s c)
    have hbody := sameBody_forEach sameBody_discardFolds ((getChip s c).tenants.map (·.1)) (getChip s c)
    exact ⟨congrArg (fun w : Wake => { w with drain := .writeBack }) hwake, hports, hfaults, hbody.hbm⟩
  · refine ⟨_, exec_autumnWritebackDone hseason hdrain hruns hnone, onlyChip_setChip s c _, ?_⟩
    rw [getChip_setChip_self]
    obtain ⟨hwake, hports, hfaults⟩ := drainKept_writeBackAll (getChip s c)
    exact ⟨congrArg (fun w : Wake => { w with drain := .done, drained := true, entered := true }) hwake, hports, hfaults,
      fun n x h => tabFind_saveAllLanes h⟩

/-! ## Keys drawn (R377, R378) -/

/-- Key draws change the vault and what its regions held, and nothing else. -/
structure DrawKept (k k' : Chip) : Prop where
  wake : k'.wake = k.wake
  faults : k'.faults = k.faults
  ports : k'.ports = k.ports
  tenants : k'.tenants = k.tenants
  image : k'.image = k.image

theorem drawKept_drawAllKeys (c : Chip) : DrawKept c (drawAllKeys c) := by
  have hdrawn : DrawKept { c with vault := { c.vault with keys := [] } } (drawAllKeys c) :=
    forEach_rel (fun _ => ⟨rfl, rfl, rfl, rfl, rfl⟩)
      (fun h g => ⟨g.wake.trans h.wake, g.faults.trans h.faults, g.ports.trans h.ports, g.tenants.trans h.tenants, g.image.trans h.image⟩)
      (fun c t _ => ⟨rfl, rfl, rfl, rfl, rfl⟩) _
  exact ⟨hdrawn.wake, hdrawn.faults, hdrawn.ports, hdrawn.tenants, hdrawn.image⟩

/-- The two halves of a key differ (R377): what is added to the first is between 1 and 2^256 - 1. -/
theorem keyOne_ne_keyTwo (c : Chip) (n : Nat) : Config.keyOne (posOf c) n ≠ keyTwo c n := by
  intro h
  have hzero := congrArg BitVec.toNat (left_eq_add.1 h)
  have hsmall := Nat.mod_lt (Config.keyGap (posOf c) n) (show 0 < 2 ^ 256 - 1 by decide)
  rw [BitVec.toNat_ofNat, Nat.mod_eq_of_lt (by omega)] at hzero
  exact absurd hzero (Nat.ne_of_gt (Nat.add_pos_left Nat.one_pos _))

/-- A tray of one tenant draws one key. -/
theorem drawAllKeys_one {c : Chip} (h : tenantCount c = 1) : drawAllKeys c = drawKey { c with vault := { c.vault with keys := [] } } 0 := by
  rw [drawAllKeys, tenantsOf, h]
  rfl

theorem keys_drawAllKeys_one {c : Chip} (h : tenantCount c = 1) :
    ∃ k, (drawAllKeys c).vault.keys = [(0, k)] ∧ k.valid = true ∧ k.key1 ≠ k.key2 ∧ k.draws = 1 := by
  rw [drawAllKeys_one h]
  exact ⟨_, rfl, rfl, keyOne_ne_keyTwo _ _, rfl⟩

/-! ## The cold check (R74) -/

theorem coldCheck_cold (c : Chip) {x : Temps} (h : isCold x = true) :
    coldCheck c x =
      { c with wake := { c.wake with temps := x, phase := .cold, cold := true, heating := decide (c.wake.latched.heatEn = some true) } } := by
  rw [coldCheck, h]
  rfl

theorem exec_keyDrawDone {s : State} {c : Pos} (h : atPhase (getChip s c) .keys = true) (x : Temps) :
    exec (.keyDrawDone c x) s = .next (refreshFans (setChip s c (coldCheck (drawAllKeys (getChip s c)) x))) := if_pos h

/-- What a wipe leaves of the wake record (R386): the phase is Wiped in a Spring that has neither completed nor failed. -/
def wipeWake (w : Wake) : Wake :=
  { w with drain := .idle, drained := false, entered := w.entered && decide (w.season = .winter), cold := false, heating := false,
           phase := if w.season = .spring && decide (w.phase ≠ .done) && decide (w.phase ≠ .failed) then .wiped else w.phase }

theorem beginWipe_wake (c : Chip) (code : Nat) : (beginWipe c code).wake = wipeWake c.wake := by
  obtain ⟨d, hdropped, hanswered⟩ : ∃ d, SameBody (wipedBody c code) d ∧
      SameBody (modWake d (fun w => { wipeWake w with entered := w.entered && decide (c.wake.season = .winter) })) (beginWipe c code) := by
    refine ⟨_, ?_, sameBody_forEach (fun c f => sameBody_sendFault c f code) _ _⟩
    exact sameBody_dropQueued (wipedBody c code) _
  rw [hanswered.wake, modWake_wake, hdropped.wake]
  rfl

/-- A late draw is a vault error (R377). -/
theorem exec_keyDrawTimeout_pending {s : State} {c : Pos} (h : drawPending (getChip s c) = true) :
    exec (.keyDrawTimeout c) s = .next (wipeChip s c 0x75) := if_pos h

/-- Where no draw is under way and every slot drawn holds a valid key, none is late. -/
theorem drawPending_eq_false {c : Chip} (hseason : c.wake.season = .summer) (hphase : ∀ x ∈ c.tenants, x.2.resetPhase = .none)
    (hvalid : ∀ k ∈ c.vault.keys, k.2.valid = true) : drawPending c = false := by
  have hnoKeys : atPhase c .keys = false := by simp [atPhase, hseason]
  have hnoReset : c.tenants.any (fun x => decide (x.2.resetPhase = .erasing)) = false :=
    List.any_eq_false.2 fun x hx => by rw [hphase x hx]; decide
  have hall : c.vault.keys.any (fun k => !k.2.valid) = false :=
    List.any_eq_false.2 fun k hk => by rw [hvalid k hk]; decide
  rw [drawPending, hnoKeys, hnoReset, hall]
  rfl

/-- Settles O25. -/
theorem keysAreDrawnThenColdIsChecked : Obligations.KeysAreDrawnThenColdIsChecked := by
  unfold Obligations.KeysAreDrawnThenColdIsChecked
  refine ⟨fun s c x hseason hphase => ?done, fun s c hseason hphase hwipe => ?late, fun s c hseason hresets hvalid => ?idle⟩
  case done =>
    obtain ⟨hothers, hfans, hchip⟩ := onlyFans_refreshFans_setChip s c (coldCheck (drawAllKeys (getChip s c)) x)
    refine ⟨_, exec_keyDrawDone ((atPhase_iff _ _).2 ⟨hseason, hphase⟩) x, hothers, hfans, ?_⟩
    rw [hchip]
    obtain ⟨hwake, hfaults, hports, htenants, himage⟩ := drawKept_drawAllKeys (getChip s c)
    cases hcold : isCold x with
    | true =>
      rw [coldCheck_cold _ hcold, hwake]
      exact ⟨rfl, fun _ => ⟨rfl, rfl, decide_eq_true_iff⟩, fun h => absurd h.symm Bool.false_ne_true, keys_drawAllKeys_one, hfaults, hports,
        htenants, himage⟩
    | false =>
      rw [coldCheck_warm _ hcold, hwake]
      exact ⟨rfl, fun h => absurd h Bool.false_ne_true, fun _ => ⟨rfl, rfl⟩, keys_drawAllKeys_one, hfaults, hports, htenants, himage⟩
  case late =>
    have hkeys : atPhase (getChip s c) .keys = true := (atPhase_iff _ _).2 ⟨hseason, hphase⟩
    have hpower : (getChip s c).wake.season ≠ .off := by rw [hseason]; decide
    obtain ⟨hothers, hreaches, -⟩ := wipeChip_reaches hpower 0x75
    obtain ⟨hcodes, hgone, hrefused, hhbm, -⟩ := hreaches hwipe
    refine ⟨_, exec_keyDrawTimeout_pending (by rw [drawPending, hkeys]; rfl), hothers, hcodes, hgone, hrefused, hhbm, ?_⟩
    rw [getChip_wipeChip_self, startWipe, if_neg hpower, hwipe]
    refine (congrArg Wake.phase (beginWipe_wake (getChip s c) 0x75)).trans ?_
    simp [wipeWake, hseason, hphase]
  case idle =>
    exact if_neg (by rw [drawPending_eq_false hseason hresets hvalid]; exact Bool.false_ne_true)

/-! ## Cold start (R74, R76) -/

/-- Warm enough: Tj at 5 °C or more, and every HBM case at 0 °C or more. -/
theorem isWarm_iff (x : Temps) :
    isWarm x = true ↔ (80 ≤ x.tj0 ∨ 80 ≤ x.tj1 ∨ 80 ≤ x.tj2) ∧ 0 ≤ x.hbm0 ∧ 0 ≤ x.hbm1 ∧ 0 ≤ x.hbm2 ∧ 0 ≤ x.hbm3 := by
  simp [isWarm, tjOf, casesOf]

/-- A chip whose step 4 has ended warm. -/
def warmed (x : Temps) (c : Chip) : Chip := modWake c (fun w => { w with temps := x, phase := .hbm, cold := false, heating := false })

theorem exec_coldStartEnd_warm {s : State} {c : Pos} {x : Temps} (hcold : atPhase (getChip s c) .cold = true) (hwarm : isWarm x = true) :
    exec (.coldStartEnd c x) s = .next (refreshFans (setChip s c (warmed x (getChip s c)))) := if_pos (by rw [hcold, hwarm]; rfl)

/-- A chip whose heating has run its 20 minutes, 0x62 raised. -/
def heatedOut (c : Chip) : Chip :=
  hitFault (modWake (recordFault c 0x62 none) (fun w =>
    { w with phase := .heatingStopped, cold := false, heating := false, entered := false })) 0x62 none

theorem exec_heatingTimeout {s : State} {c : Pos} (hcold : atPhase (getChip s c) .cold = true) (hheats : (getChip s c).wake.heating = true) :
    exec (.heatingTimeout c) s = .next (refreshFans (setChip s c (heatedOut (getChip s c)))) := if_pos (by rw [hcold, hheats]; rfl)

/-- Settles O26. -/
theorem coldStartEnds : Obligations.ColdStartEnds := by
  unfold Obligations.ColdStartEnds
  refine ⟨fun s c x hseason hphase htj h0 h1 h2 h3 => ?warm, fun s c x hcold => ?stays, fun s c hseason hphase hheats hroom => ?timeout⟩
  case warm =>
    obtain ⟨hothers, hfans, hchip⟩ := onlyFans_refreshFans_setChip s c (warmed x (getChip s c))
    exact ⟨_, exec_coldStartEnd_warm ((atPhase_iff _ _).2 ⟨hseason, hphase⟩) ((isWarm_iff x).2 ⟨htj, h0, h1, h2, h3⟩), hothers, hfans, hchip⟩
  case stays =>
    have hnot : isWarm x = false := by
      rw [Bool.eq_false_iff, Ne, isWarm_iff]
      omega
    exact if_neg (by rw [hnot, Bool.and_false]; exact Bool.false_ne_true)
  case timeout =>
    obtain ⟨hothers, hfans, hchip⟩ := onlyFans_refreshFans_setChip s c (heatedOut (getChip s c))
    refine ⟨_, exec_heatingTimeout ((atPhase_iff _ _).2 ⟨hseason, hphase⟩) hheats, hothers, hfans, ?_⟩
    obtain ⟨l, d, hbody⟩ := sameButHalts_hitFault (modWake (recordFault (getChip s c) 0x62 none) (fun w =>
      { w with phase := .heatingStopped, cold := false, heating := false, entered := false })) 0x62
    rw [← heatedOut] at hbody
    rw [hchip, hbody]
    exact ⟨rfl, rfl, hseason, rfl, holdsFault_recordFault_self (c := getChip s c) hroom 0x62 none, rfl, rfl⟩

end Sys2Proof.Machine
end

section
/-!
PROOFS. O32 (TenantResetErasesOneTenant): the key, the SRAM and the empty load of a tenant that is reset (Table 7-3 steps 5 and 6, R71, R377).
-/
namespace Sys2Proof.Machine

/-! ## An empty load of one tenant -/

/-- What loading tenant t leaves of a chip: seasons, ports, keys and the other tenants' contexts. -/
structure LoadKept (t : Nat) (k k' : Chip) : Prop where
  wake : k'.wake = k.wake
  ports : k'.ports = k.ports
  vault : k'.vault = k.vault
  others : ∀ n, n ≠ t → ten k' n = ten k n

theorem LoadKept.trans {t : Nat} {a b c : Chip} (h : LoadKept t a b) (g : LoadKept t b c) : LoadKept t a c :=
  ⟨g.wake.trans h.wake, g.ports.trans h.ports, g.vault.trans h.vault, fun n hn => (g.others n hn).trans (h.others n hn)⟩

theorem loadKept_setTen (c : Chip) (t : Nat) (x : TenantCtx) : LoadKept t c (setTen c t x) :=
  ⟨rfl, rfl, rfl, fun n hn => ten_setTen_ne c t n x hn⟩

theorem loadKept_modTen (c : Chip) (t : Nat) (f : TenantCtx → TenantCtx) : LoadKept t c (modTen c t f) := loadKept_setTen c t _

theorem SameButHalts.loadKept {k k' : Chip} (h : SameButHalts k k') (t : Nat) : LoadKept t k k' := by
  obtain ⟨_, _, rfl⟩ := h
  exact ⟨rfl, rfl, rfl, fun _ _ => rfl⟩

theorem SameButHalts.ten_eq {k k' : Chip} (h : SameButHalts k k') (t : Nat) : ten k' t = ten k t := by
  obtain ⟨_, _, rfl⟩ := h
  rfl

/-- A tenant of which nothing is kept: no committed step, no shard, no step in flight, no stash slot, no counter. -/
def EmptyContext (x : TenantCtx) : Prop := x.committed = none ∧ x.shards = [] ∧ x.steps = [] ∧ x.slots = [] ∧ x.counters = []

theorem loadKept_emptyTenant (c : Chip) (t : Nat) (wasReset downDue : Bool) : LoadKept t c (emptyTenant c t wasReset downDue) := by
  unfold emptyTenant
  exact (loadKept_setTen c t _).trans (loadKept_modTen _ t _)

/-- A tenant loaded empty runs with no fault. -/
theorem ten_emptyTenant (c : Chip) (t : Nat) (wasReset downDue : Bool) :
    EmptyContext (ten (emptyTenant c t wasReset downDue) t) ∧ (ten (emptyTenant c t wasReset downDue) t).loaded = true ∧
      (ten (emptyTenant c t wasReset downDue) t).fault = 0 := by
  rw [emptyTenant, ten_modTen_self, ten_setTen_self]
  exact ⟨⟨rfl, rfl, rfl, rfl, rfl⟩, rfl, rfl⟩

/-- A tenant as its load fails, nothing of its context kept. -/
def unloaded (c : Chip) (t : Nat) : TenantCtx :=
  { TenantCtx.reset with wasReset := (ten c t).wasReset, downDue := (ten c t).downDue, lsExp := lsInitOf c t }

theorem faultTenantLoad_eq (c : Chip) (t code : Nat) :
    SameButHalts (modTen (countCode (setTen c t (unloaded c t)) code) t (fun x => { x with fault := code, state := .faulted, loaded := false }))
      (faultTenantLoad c t code false) := by
  have hfirst : (ten (setTen c t (unloaded c t)) t).fault = 0 := by rw [ten_setTen_self]; rfl
  unfold faultTenantLoad
  dsimp only
  rw [if_neg Bool.false_ne_true, ← unloaded, hfirst]
  exact sameButHalts_hitFault _ code

theorem loadKept_faultTenantLoad (c : Chip) (t code : Nat) : LoadKept t c (faultTenantLoad c t code false) := by
  have hcounted : LoadKept t c (countCode (setTen c t (unloaded c t)) code) :=
    (loadKept_setTen c t (unloaded c t)).trans ⟨rfl, rfl, rfl, fun _ _ => rfl⟩
  exact (hcounted.trans (loadKept_modTen _ t _)).trans ((faultTenantLoad_eq c t code).loadKept t)

/-- A tenant that fails its load holds the code, and nothing else. -/
theorem ten_faultTenantLoad (c : Chip) (t code : Nat) :
    EmptyContext (ten (faultTenantLoad c t code false) t) ∧ (ten (faultTenantLoad c t code false) t).loaded = false ∧
      (ten (faultTenantLoad c t code false) t).fault = code := by
  have hten : ten (countCode (setTen c t (unloaded c t)) code) t = unloaded c t := ten_setTen_self c t _
  rw [(faultTenantLoad_eq c t code).ten_eq, ten_modTen_self, hten]
  exact ⟨⟨rfl, rfl, rfl, rfl, rfl⟩, rfl, rfl⟩

/-- A load fault has a code (Table 5-5, R121, R299). -/
theorem loadFault_ne_zero {c : Chip} {t code : Nat} (h : loadFault c t = some code) : code ≠ 0 := by
  unfold loadFault at h
  split at h
  · split at h
    · cases h; decide
    · split at h
      · cases h; decide
      · split at h
        · cases h; decide
        · cases h
  · cases h

/-- An empty load leaves the tenant with nothing: loaded with no fault, or not loaded with its load fault. -/
theorem loadEmpty_loads (c : Chip) (t : Nat) (wasReset downDue : Bool) :
    LoadKept t c (loadEmpty c t wasReset downDue) ∧ EmptyContext (ten (loadEmpty c t wasReset downDue) t) ∧
      (loadFault c t = none → (ten (loadEmpty c t wasReset downDue) t).loaded = true ∧ (ten (loadEmpty c t wasReset downDue) t).fault = 0) ∧
      ∀ code, loadFault c t = some code →
        (ten (loadEmpty c t wasReset downDue) t).loaded = false ∧ (ten (loadEmpty c t wasReset downDue) t).fault = code := by
  cases hfault : loadFault c t with
  | none =>
    obtain ⟨hempty, hloaded, hnone⟩ := ten_emptyTenant c t wasReset downDue
    rw [loadEmpty, hfault]
    exact ⟨loadKept_emptyTenant c t wasReset downDue, hempty, fun _ => ⟨hloaded, hnone⟩, fun _ h => by cases h⟩
  | some code =>
    rw [loadEmpty, hfault]
    obtain ⟨hempty, hloaded, hcode⟩ := ten_faultTenantLoad (modTen c t (fun x => { x with wasReset := wasReset, downDue := downDue })) t code
    exact ⟨(loadKept_modTen c t _).trans (loadKept_faultTenantLoad _ t code), hempty, fun h => (by cases h),
      fun _ h => Option.some_inj.1 h ▸ ⟨hloaded, hcode⟩⟩

/-! ## TENANT_RESET_ERASE_DONE -/

/-- The chip with t's key replaced and its SRAM zeroed (Table 7-3 step 5). -/
def erasedFor (c : Chip) (t : Nat) : Chip := zeroTenantSram (drawKey c t) t

/-- A load fault turns on the image and the straps. -/
theorem loadFault_congr {c c' : Chip} (himage : c'.image = c.image) (hwake : c'.wake = c.wake) (t : Nat) : loadFault c' t = loadFault c t := by
  have hrec : tenantRec c' t = tenantRec c t := by rw [tenantRec, tenantRec, himage]
  have hcat : catOf c' t = catOf c t := by rw [catOf, catOf, himage]
  have hshare : shareOf c' t = shareOf c t := by rw [shareOf, shareOf, sharesOf, sharesOf, hwake]
  have hregion : regionSizeOf c' t = regionSizeOf c t := by rw [regionSizeOf, regionSizeOf, hshare]
  have htorus : torusOf c' = torusOf c := by rw [torusOf, torusOf, himage]
  have htray : trayOf c' = trayOf c := by unfold trayOf; rw [himage, hwake]
  have hchip : chipNo c' = chipNo c := by unfold chipNo posOf; rw [htray, hwake]
  unfold loadFault
  rw [hrec, hcat, hshare, hregion, htorus, htray, hchip]

/-- Zeroing a tenant's SRAM touches the lines, the clusters and the sync objects. -/
theorem zeroTenantSram_keeps (c : Chip) (t : Nat) :
    (zeroTenantSram c t).image = c.image ∧ (zeroTenantSram c t).wake = c.wake ∧ (zeroTenantSram c t).ports = c.ports ∧
      (zeroTenantSram c t).vault = c.vault ∧ (zeroTenantSram c t).tenants = c.tenants := ⟨rfl, rfl, rfl, rfl, rfl⟩

/-- A draw touches the vault and HBM. -/
theorem drawKey_keeps (c : Chip) (t : Nat) :
    (drawKey c t).image = c.image ∧ (drawKey c t).wake = c.wake ∧ (drawKey c t).ports = c.ports ∧ (drawKey c t).tenants = c.tenants :=
  ⟨rfl, rfl, rfl, rfl⟩

theorem erasedFor_keeps (c : Chip) (t : Nat) :
    (erasedFor c t).image = c.image ∧ (erasedFor c t).wake = c.wake ∧ (erasedFor c t).ports = c.ports ∧
      (erasedFor c t).vault = (drawKey c t).vault ∧ (erasedFor c t).tenants = c.tenants := by
  obtain ⟨himage, hwake, hports, hvault, htenants⟩ := zeroTenantSram_keeps (drawKey c t) t
  obtain ⟨gimage, gwake, gports, gtenants⟩ := drawKey_keeps c t
  exact ⟨himage.trans gimage, hwake.trans gwake, hports.trans gports, hvault, htenants.trans gtenants⟩

theorem loadFault_erasedFor (c : Chip) (t : Nat) : loadFault (erasedFor c t) t = loadFault c t := by
  obtain ⟨himage, hwake, -⟩ := erasedFor_keeps c t
  exact loadFault_congr himage hwake t

/-- The key that a draw puts in t's slot. -/
def drawnKey (c : Chip) (t : Nat) : KeyRec :=
  { valid := true, draws := (tabGet .reset c.vault.keys t).draws + 1, key1 := Config.keyOne (posOf c) c.vault.drawn,
    key2 := keyTwo c c.vault.drawn, id := c.vault.drawn + 1 }

/-- A key drawn is valid, and its two halves differ (R377). -/
theorem drawKey_key (c : Chip) (t : Nat) :
    (tabGet .reset (drawKey c t).vault.keys t).valid = true ∧
      (tabGet .reset (drawKey c t).vault.keys t).key1 ≠ (tabGet .reset (drawKey c t).vault.keys t).key2 := by
  have hkeys : (drawKey c t).vault.keys = tabSet c.vault.keys t (drawnKey c t) := rfl
  rw [hkeys, tabGet_tabSet_self]
  exact ⟨rfl, keyOne_ne_keyTwo c c.vault.drawn⟩

/-- A tenant whose reset has erased and loaded it (Table 7-3 step 6). -/
def erasedTenant (old : Nat) (x : TenantCtx) : TenantCtx :=
  { x with resetPhase := .loaded, state := .resetting, fault := if x.fault = 0 then old else x.fault }

theorem exec_tenantResetEraseDone {s : State} {c : Pos} {t : Tenant} (herasing : (ten (getChip s c) t.val).resetPhase = .erasing)
    (hdone : (getChip s c).wake.phase = .done) :
    exec (.tenantResetEraseDone c t) s =
      .next (setChip s c (modTen (loadEmpty (erasedFor (getChip s c) t.val) t.val true (ten (getChip s c) t.val).downDue) t.val
        (erasedTenant (ten (getChip s c) t.val).fault))) := if_pos (by simp [herasing, hdone])

/-- TENRST_n[t] in Winter is the pin that TENRST_ASSERT lowers. -/
theorem exec_tenrstInWinter (t : Tenant) (s : State) : exec (.tenrstInWinter t) s = exec (.tenrstAssert t) s := rfl

/-- Settles O32. -/
theorem tenantResetErasesOneTenant : Obligations.TenantResetErasesOneTenant := by
  unfold Obligations.TenantResetErasesOneTenant
  refine ⟨fun s c t herasing hdone => ?erase, fun s t hhigh => ?pin⟩
  case erase =>
    refine ⟨_, exec_tenantResetEraseDone herasing hdone, onlyChip_setChip s c _, ?_⟩
    obtain ⟨⟨hwake, hports, hvault, hothers⟩, ⟨hcommitted, hshards, hsteps, hslots, hcounters⟩, hloads, hfails⟩ :=
      loadEmpty_loads (erasedFor (getChip s c) t.val) t.val true (ten (getChip s c) t.val).downDue
    obtain ⟨-, gwake, gports, gvault, gtenants⟩ := erasedFor_keeps (getChip s c) t.val
    obtain ⟨hvalid, hdiffer⟩ := drawKey_key (getChip s c) t.val
    rw [getChip_setChip_self, ten_modTen_self, modTen_vault, hvault, gvault]
    rw [loadFault_erasedFor] at hloads hfails
    refine ⟨rfl, rfl, hcommitted, hshards, hsteps, hslots, fun hnone => ?_, fun code hcode => ?_, hvalid, hdiffer, fun n hn => ?_, hwake.trans gwake,
      hports.trans gports⟩
    · obtain ⟨hloaded, hzero⟩ := hloads hnone
      exact ⟨hloaded, hcounters, if_pos hzero⟩
    · obtain ⟨hloaded, hheld⟩ := hfails code hcode
      exact ⟨hloaded, (if_neg (by rw [hheld]; exact loadFault_ne_zero hcode)).trans hheld⟩
    · rw [ten_modTen_ne _ _ _ _ hn]
      exact (hothers n hn).trans (congrArg (fun l => tabGet TenantCtx.reset l n) gtenants)
  case pin =>
    refine ⟨_, (exec_tenrstInWinter t s).trans (exec_tenrstAssert_high hhigh), rfl, rfl, fun p => ?_⟩
    rw [getChip_mapChips, getChip_modTray]
    refine ⟨fun hpulls n hn => ten_pinReset_ne hpulls hn, pinReset_wake _ _, fun hwinter hexists hwipe => ?_⟩
    rw [pinReset_winter hexists hwinter hwipe, ten_winterReset_self]
    exact ⟨rfl, rfl, drawKey_key (getChip s p) t.val⟩

end Sys2Proof.Machine
end

section
/-!
PROOFS. Rules of the wake record (season, latched straps, issue rate): faults, replies and cache lines leave it as it is. A rule that holds by
definition is proved `by rfl`: `simp` then rewrites with it under binders, where it would only unfold one proved by the term.
-/
namespace Sys2Proof.Machine

/-! ## Runs of steps -/

@[simp] theorem wake_ite (p : Prop) [Decidable p] (a b : Chip) : (if p then a else b).wake = if p then a.wake else b.wake :=
  apply_ite Chip.wake p a b

/-- Steps that keep the wake record each keep it together. -/
@[simp] theorem forEach_wake {α : Type} {f : Chip → α → Chip} (h : ∀ c x, (f c x).wake = c.wake) (c : Chip) (l : List α) :
    (forEach c l f).wake = c.wake :=
  forEach_rel (R := fun a b => b.wake = a.wake) (fun _ => rfl) (fun h g => g.trans h) (fun c x _ => h c x) c

@[simp] theorem foldl_wake {α : Type} {f : Chip → α → Chip} (h : ∀ c x, (f c x).wake = c.wake) (c : Chip) (l : List α) :
    (l.foldl f c).wake = c.wake :=
  forEach_wake h c l

/-! ## Counters, frames sent, halts -/

@[simp] theorem countTen_wake (c : Chip) (t i n : Nat) : (countTen c t i n).wake = c.wake := by
  simp [countTen]

@[simp] theorem clearPortFaults_wake (c : Chip) (p : PortNo) : (clearPortFaults c p).wake = c.wake := by
  rfl

@[simp] theorem sendTo_wake (c : Chip) (dst : BitVec 10 × BitVec 8) (h : Hdr) (payload : List Byte) :
    (sendTo c dst h payload).wake = c.wake := by
  rfl

@[simp] theorem sendReply_wake (c : Chip) (f : RxFrame) (h : Hdr) (payload : List Byte) : (sendReply c f h payload).wake = c.wake := by
  rfl

@[simp] theorem sendDone_wake (c : Chip) (f : RxFrame) (d : DoneInfo) : (sendDone c f d).wake = c.wake := by
  simp [sendDone]

@[simp] theorem sendFault_wake (c : Chip) (f : RxFrame) (code : Nat) : (sendFault c f code).wake = c.wake := by
  simp [sendFault]

@[simp] theorem sendUnprompted_wake (c : Chip) (t source code tensor shard step : Nat) :
    (sendUnprompted c t source code tensor shard step).wake = c.wake := by
  unfold sendUnprompted
  split <;> simp

@[simp] theorem sendChip_wake (c : Chip) (target : Nat) (h : Hdr) (payload : List Byte) : (sendChip c target h payload).wake = c.wake := by
  rfl

@[simp] theorem haltCluster_wake (c : Chip) (k : ClusterNo) : (haltCluster c k).wake = c.wake := by
  rfl

@[simp] theorem haltAll_wake (c : Chip) : (haltAll c).wake = c.wake := forEach_wake haltCluster_wake c allClusters

@[simp] theorem noteHit_wake (c : Chip) (slot : Nat) (k : ClusterNo) : (noteHit c slot k).wake = c.wake := by
  rfl

@[simp] theorem hitFault_wake (c : Chip) (code : Nat) (k : Option ClusterNo) : (hitFault c code k).wake = c.wake := by
  unfold hitFault
  dsimp only
  repeat' split
  all_goals simp

/-! ## Replies that carry parameters -/

@[simp] theorem sendAborted_wake (c : Chip) (f : RxFrame) (code : Nat) : (sendAborted c f code).wake = c.wake := by
  simp [sendAborted]

@[simp] theorem sendParams_wake (c : Chip) (f : RxFrame) (a : ArrayInfo) (h : Shard) (all : Bool) (fmt i : Nat) (l : List (Nat × Nat × Nat)) :
    (sendParams c f a h all fmt i l).wake = c.wake := by
  induction l generalizing c i with
  | nil => rfl
  | cons p l ih =>
    rw [sendParams]
    split
    · exact sendAborted_wake c f _
    · exact (ih _ _).trans (sendReply_wake c f _ _)

@[simp] theorem servePull_wake (c : Chip) (f : RxFrame) : (servePull c f).wake = c.wake := by
  unfold servePull
  dsimp only
  split <;> simp

@[simp] theorem releasePulls_wake (c : Chip) (t : Nat) (p : RxFrame → Bool) {answer : Chip → RxFrame → Chip}
    (h : ∀ c f, (answer c f).wake = c.wake) : (releasePulls c t p answer).wake = c.wake :=
  forEach_wake h _ _

/-! ## Pending state -/

@[simp] theorem discardPending_wake (c : Chip) (t tensor shard step : Nat) : (discardPending c t tensor shard step).wake = c.wake := by
  rfl

/-! ## Containment (chapter 20) -/

@[simp] theorem leaveWaiters_wake (c : Chip) (ks : List ClusterNo) : (leaveWaiters c ks).wake = c.wake := by
  rfl

@[simp] theorem freeDispatched_wake (c : Chip) (f : RxFrame) : (freeDispatched c f).wake = c.wake := by
  simp [freeDispatched]

@[simp] theorem dropQueued_wake (c : Chip) (p : RxFrame → Bool) : (dropQueued c p).wake = c.wake := by
  simp [dropQueued]

@[simp] theorem dropTenantFrames_wake (c : Chip) (t : Nat) : (dropTenantFrames c t).wake = c.wake := by
  simp [dropTenantFrames]

@[simp] theorem stopTenant_wake (c : Chip) (t code : Nat) : (stopTenant c t code).wake = c.wake := by
  simp [stopTenant]

@[simp] theorem releaseHalts_wake (c : Chip) : (releaseHalts c).wake = c.wake := by
  rfl

@[simp] theorem tenantFault_wake (c : Chip) (t code : Nat) : (tenantFault c t code).wake = c.wake := by
  simp [tenantFault]

@[simp] theorem stopAllTenants_wake (c : Chip) (code : Nat) : (stopAllTenants c code).wake = c.wake := by
  simp [stopAllTenants]

@[simp] theorem chipFault_wake (c : Chip) (code : Nat) : (chipFault c code).wake = c.wake := by
  simp [chipFault]

@[simp] theorem opFault_wake (c : Chip) (code : Nat) (port : Option PortNo) : (opFault c code port).wake = c.wake := by
  simp [opFault]

@[simp] theorem abortCause_wake (c : Chip) (cause : Option RxFrame) (code : Nat) : (abortCause c cause code).wake = c.wake := by
  unfold abortCause
  split <;> simp

@[simp] theorem abortUpdate_wake (c : Chip) (t tensor shard step code : Nat) : (abortUpdate c t tensor shard step code).wake = c.wake := by
  simp [abortUpdate]

@[simp] theorem taskFault_wake (c : Chip) (k : ClusterNo) (next : Bool) (code : Nat) : (taskFault c k next code).wake = c.wake := by
  unfold taskFault
  split <;> simp

/-! ## Cache lines (chapter 16) -/

@[simp] theorem setLine_wake (c : Chip) (line : Nat) (l : SliceLine) : (setLine c line l).wake = c.wake := by
  rfl

@[simp] theorem modLine_wake (c : Chip) (line : Nat) (f : SliceLine → SliceLine) : (modLine c line f).wake = c.wake := by
  unfold modLine
  split <;> simp

@[simp] theorem dropLine_wake (c : Chip) (line : Nat) : (dropLine c line).wake = c.wake := by
  rfl

@[simp] theorem dropL1_wake (c : Chip) (line : Nat) (k : ClusterNo) : (dropL1 c line k).wake = c.wake := by
  simp [dropL1]

@[simp] theorem pullDirty_wake (c : Chip) (line : Nat) (k : ClusterNo) : (pullDirty c line k).wake = c.wake := by
  unfold pullDirty
  split <;> simp

@[simp] theorem recallLine_wake (c : Chip) (line : Nat) : (recallLine c line).wake = c.wake := by
  simp [recallLine]

@[simp] theorem writeBackLine_wake (c : Chip) (line : Nat) : (writeBackLine c line).wake = c.wake := by
  unfold writeBackLine
  dsimp only
  repeat' split
  all_goals simp

@[simp] theorem evictLine_wake (c : Chip) (line : Nat) : (evictLine c line).wake = c.wake := by
  unfold evictLine
  dsimp only
  repeat' split
  all_goals simp

@[simp] theorem dropDead_wake (c : Chip) (line : Nat) : (dropDead c line).wake = c.wake := by
  simp [dropDead]

@[simp] theorem spillAcc_wake (c : Chip) (key : Nat) : (spillAcc c key).1.wake = c.wake := by
  unfold spillAcc
  dsimp only
  repeat' split
  all_goals simp

@[simp] theorem makeRoom_wake (c : Chip) (t line : Nat) : (makeRoom c t line).1.wake = c.wake := by
  unfold makeRoom
  dsimp only
  repeat' split
  all_goals simp

@[simp] theorem touch_wake (c : Chip) : (touch c).wake = c.wake := by
  rfl

@[simp] theorem fillSlice_wake (c : Chip) (t line hint : Nat) : (fillSlice c t line hint).wake = c.wake := by
  unfold fillSlice
  dsimp only
  split <;> split <;> simp

@[simp] theorem useLine_wake (c : Chip) (line hint : Nat) : (useLine c line hint).wake = c.wake := by
  simp [useLine]

@[simp] theorem putL1_wake (c : Chip) (k : ClusterNo) (line : Nat) (o : L1Line) : (putL1 c k line o).wake = c.wake := by
  unfold putL1
  dsimp only
  repeat' split
  all_goals simp

@[simp] theorem fillL1_wake (c : Chip) (k : ClusterNo) (line attr : Nat) : (fillL1 c k line attr).wake = c.wake := by
  unfold fillL1
  dsimp only
  repeat' split
  all_goals simp

@[simp] theorem storeSlice_wake (c : Chip) (t line hint : Nat) (mask : BitVec 128) (data : BitVec 1024) :
    (storeSlice c t line hint mask data).wake = c.wake := by
  unfold storeSlice
  dsimp only
  split
  · simp
  · split <;> simp

@[simp] theorem placeLine_wake (c : Chip) (t line hint : Nat) : (placeLine c t line hint).1.wake = c.wake := by
  unfold placeLine
  dsimp only
  split
  · simp
  · split <;> simp

@[simp] theorem storeCoherent_wake (c : Chip) (k : ClusterNo) (t line hint : Nat) (mask : BitVec 128) (data : BitVec 1024) :
    (storeCoherent c k t line hint mask data).wake = c.wake := by
  unfold storeCoherent
  dsimp only
  split <;> simp

@[simp] theorem writeBackAll_wake (c : Chip) : (writeBackAll c).wake = c.wake := by
  simp [writeBackAll]

@[simp] theorem emptyCaches_wake (c : Chip) : (emptyCaches c).wake = c.wake := by
  rfl

/-! ## Lines of tensor state -/

@[simp] theorem loadTensor_wake (t tensor shard array hint : Nat) (c : Chip) (ns : List Nat) :
    (loadTensor t tensor shard array hint c ns).wake = c.wake := by
  refine foldl_wake (fun c n => ?_) c ns
  dsimp only
  split
  · simp
  · split <;> simp

@[simp] theorem storeTensorLine_wake (evict : Bool) (t tensor shard array hint : Nat) (c : Chip) (n : Nat) (mask : BitVec 128) :
    (storeTensorLine evict t tensor shard array hint c n mask).wake = c.wake := by
  unfold storeTensorLine
  dsimp only
  split
  · simp
  · cases evict <;> split <;> simp

@[simp] theorem storeTensor_wake (evict : Bool) (t tensor shard array hint : Nat) (c : Chip) (l : List Nat) :
    (storeTensor evict t tensor shard array hint c l).wake = c.wake := by
  simp [storeTensor]

theorem spillLine_wake {c c' : Chip} {t : Nat} {l : PendLine} (h : spillLine c t l = some c') : c'.wake = c.wake := by
  unfold spillLine at h
  dsimp only at h
  split at h
  · cases h
  case h_2 x _ =>
    cases h
    exact setTen_wake c t x

@[simp] theorem takeWay_wake (c : Chip) (t key : Nat) : (takeWay c t key).1.wake = c.wake := by
  unfold takeWay
  dsimp only
  split
  · simp
  · split
    · split
      case h_1 h => exact (spillLine_wake h).trans (makeRoom_wake c t key)
      · simp
    · simp

theorem notePending_wake {c c' : Chip} {t : Nat} {l : PendLine} (h : notePending c t l = some c') : c'.wake = c.wake := by
  unfold notePending at h
  dsimp only at h
  split at h
  · cases h
    exact setTen_wake c t _
  · split at h
    · cases h
    case h_2 d hroom =>
      have hd : d.wake = c.wake := by
        split at hroom
        · cases hroom
          rfl
        · split at hroom
          · exact spillLine_wake hroom
          · cases hroom
      split at h
      · cases h
        simp [hd]
      · cases h

theorem noteAll_wake {c c' : Chip} {t : Nat} {l : List PendLine} (h : noteAll t l c = some c') : c'.wake = c.wake := by
  induction l generalizing c with
  | nil =>
    cases h
    rfl
  | cons p l ih =>
    rw [noteAll] at h
    split at h
    case h_1 d hd => exact (ih h).trans (notePending_wake hd)
    case h_2 => cases h

@[simp] theorem turnLine_wake (t : Nat) (c : Chip) (l : PendLine) : (turnLine t c l).wake = c.wake := by
  unfold turnLine
  dsimp only
  split <;> simp

@[simp] theorem copyPage_wake (a : ArrayInfo) (t tensor shard step : Nat) (c : Chip) (page : Nat) :
    (copyPage a t tensor shard step c page).wake = c.wake := by
  unfold copyPage
  dsimp only
  split
  · split <;> exact rfl
  · rfl

@[simp] theorem turnOver_wake (a : ArrayInfo) (t tensor shard step : Nat) (c : Chip) : (turnOver a t tensor shard step c).wake = c.wake := by
  simp [turnOver]

@[simp] theorem holdAcc_wake (t tensor shard step : Nat) (c : Chip) (n : Nat) : (holdAcc t tensor shard step c n).1.wake = c.wake := by
  unfold holdAcc
  dsimp only
  split
  · simp
  · split <;> simp

end Sys2Proof.Machine
end

section
/-!
PROOFS. Rules of the wake record: ports, frames and reduction leave it as it is.
-/
namespace Sys2Proof.Machine

/-! ## Ports and routing -/

@[simp] theorem openPort_wake (c : Chip) (p : PortNo) : (openPort c p).wake = c.wake := by
  rfl

@[simp] theorem allPortsOff_wake (c : Chip) : (allPortsOff c).wake = c.wake := by
  rfl

@[simp] theorem returnFrames_wake (c : Chip) (p : PortNo) : (returnFrames c p).wake = c.wake := by
  simp [returnFrames]

@[simp] theorem linkFault_wake (c : Chip) (p : PortNo) (code : Nat) : (linkFault c p code).wake = c.wake := by
  simp [linkFault]

@[simp] theorem enqueue_wake (c : Chip) (p : PortNo) (f : TxFrame) : (enqueue c p f).wake = c.wake := by
  rfl

@[simp] theorem discardFrame_wake (c : Chip) (f : TxFrame) : (discardFrame c f).wake = c.wake := by
  simp [discardFrame]

@[simp] theorem deliverHere_wake (c : Chip) (f : TxFrame) : (deliverHere c f).wake = c.wake := by
  rfl

@[simp] theorem routeFrame_wake (c : Chip) (f : TxFrame) : (routeFrame c f).wake = c.wake := by
  unfold routeFrame
  dsimp only
  repeat' split
  all_goals simp

/-! ## Work that a season ends -/

@[simp] theorem discardFolds_wake (c : Chip) (t : Nat) : (discardFolds c t).wake = c.wake := by
  simp [discardFolds]

@[simp] theorem saveAllLanes_wake (c : Chip) : (saveAllLanes c).wake = c.wake := by
  rfl

@[simp] theorem rollBackAll_wake (c : Chip) (t : Nat) : (rollBackAll c t).wake = c.wake := by
  simp [rollBackAll]

@[simp] theorem leaveSteps_wake (c : Chip) : (leaveSteps c).wake = c.wake := by
  simp [leaveSteps]

@[simp] theorem winterEmpty_wake (c : Chip) : (winterEmpty c).wake = c.wake := by
  rfl

@[simp] theorem autumnShards_wake (c : Chip) : (autumnShards c).wake = c.wake := by
  rfl

/-! ## Clearing and loading in a Spring -/

@[simp] theorem clearSram_wake (c : Chip) : (clearSram c).wake = c.wake := by
  rfl

@[simp] theorem drawAllKeys_wake (c : Chip) : (drawAllKeys c).wake = c.wake := forEach_wake drawKey_wake _ _

@[simp] theorem emptyTenant_wake (c : Chip) (t : Nat) (wasReset downDue : Bool) : (emptyTenant c t wasReset downDue).wake = c.wake := by
  rfl

@[simp] theorem restoreLanes_wake (c : Chip) (t : Nat) : (restoreLanes c t).wake = c.wake := by
  unfold restoreLanes
  dsimp only
  split <;> simp

@[simp] theorem keepTenant_wake (c : Chip) (t : Nat) : (keepTenant c t).wake = c.wake := by
  simp [keepTenant]

@[simp] theorem faultTenantLoad_wake (c : Chip) (t code : Nat) (kept : Bool) : (faultTenantLoad c t code kept).wake = c.wake := by
  simp [faultTenantLoad]

@[simp] theorem zeroTenantSram_wake (c : Chip) (t : Nat) : (zeroTenantSram c t).wake = c.wake := by
  rfl

@[simp] theorem loadEmpty_wake (c : Chip) (t : Nat) (wasReset downDue : Bool) : (loadEmpty c t wasReset downDue).wake = c.wake := by
  unfold loadEmpty
  split <;> simp

@[simp] theorem loadAbsent_wake (c : Chip) (t : Nat) : (loadAbsent c t).wake = c.wake := by
  unfold loadAbsent
  dsimp only
  split <;> simp

@[simp] theorem loadSlot_wake (c : Chip) (t : Nat) (fresh keep pinLow : Bool) : (loadSlot c t fresh keep pinLow).wake = c.wake := by
  unfold loadSlot
  dsimp only
  repeat' split
  all_goals simp

/-! ## The tamper log -/

@[simp] theorem logWipe_wake (c : Chip) (now code : Nat) : (logWipe c now code).wake = c.wake := by
  rfl

/-! ## Tasks that frames start -/

@[simp] theorem queueTask_wake (c : Chip) (k : ClusterNo) (t : Task) : (queueTask c k t).wake = c.wake := by
  rfl

@[simp] theorem hitSlots_wake (c : Chip) (k : ClusterNo) (slots : List Nat) : (hitSlots c k slots).wake = c.wake := by
  simp [hitSlots]

@[simp] theorem emptyL1_wake (c : Chip) (k : ClusterNo) : (emptyL1 c k).wake = c.wake := by
  simp [emptyL1]

@[simp] theorem enterCluster_wake (c : Chip) (k : ClusterNo) (t : Task) : (enterCluster c k t).wake = c.wake := by
  simp [enterCluster]

@[simp] theorem enterWhole_wake (c : Chip) (t : Task) : (enterWhole c t).wake = c.wake := by
  simp [enterWhole]

theorem enterAll_wake {c c' : Chip} {l : List Task} (h : enterAll l c = some c') : c'.wake = c.wake := by
  induction l generalizing c with
  | nil =>
    cases h
    rfl
  | cons t l ih =>
    rw [enterAll] at h
    split at h
    · exact (ih h).trans (enterWhole_wake c t)
    · cases h

@[simp] theorem launchFault_wake (c : Chip) (t : Task) (code : Nat) : (launchFault c t code).wake = c.wake := by
  simp [launchFault]

@[simp] theorem launch_wake (c : Chip) (t : Task) {run : Chip → Chip} (hrun : ∀ c, (run c).wake = c.wake) :
    (launch c t run).wake = c.wake := by
  unfold launch
  dsimp only
  split
  · simp
  · split
    · simp
    · split
      · simp
      case h_2 d _ hd =>
        have hentered := enterAll_wake hd
        exact (hrun d).trans hentered
      · simp

/-! ## The gates of a frame (Table 9-4) -/

/-- The chip that a gate leaves. -/
def gateChip : Gate → Chip
  | .stop c => c
  | .pass c => c

@[simp] theorem consume_wake (c : Chip) (f : RxFrame) : (consume c f).wake = c.wake := by
  simp [consume]

@[simp] theorem putBack_wake (c : Chip) (f : RxFrame) : (putBack c f).wake = c.wake := by
  rfl

@[simp] theorem sendOn_wake (c : Chip) (f : RxFrame) (target : Nat) : (sendOn c f target).wake = c.wake := by
  rfl

@[simp] theorem passOn_wake (c : Chip) (f : RxFrame) (r : Prefix) : (passOn c f r).wake = c.wake := by
  rfl

@[simp] theorem arrivalGate_wake (c : Chip) (f : RxFrame) : (gateChip (arrivalGate c f)).wake = c.wake := by
  unfold arrivalGate
  dsimp only
  repeat' split
  all_goals simp [gateChip]

@[simp] theorem serveGate_wake (c : Chip) (f : RxFrame) : (gateChip (serveGate c f)).wake = c.wake := by
  unfold serveGate
  dsimp only
  repeat' split
  all_goals simp [gateChip]

@[simp] theorem noteOrigin_wake (c : Chip) (f : RxFrame) : (noteOrigin c f).wake = c.wake := by
  rfl

@[simp] theorem takeTenantDown_wake (c : Chip) (f : RxFrame) : (takeTenantDown c f).wake = c.wake := by
  simp [takeTenantDown]

/-! ## Read-back -/

@[simp] theorem runPull_wake (c : Chip) (f : RxFrame) : (runPull c f).wake = c.wake := by
  unfold runPull
  dsimp only
  split <;> simp

@[simp] theorem launchPull_wake (now : Nat) (c : Chip) (f : RxFrame) : (launchPull now c f).wake = c.wake := by
  simp [launchPull]

@[simp] theorem takePull_wake (now : Nat) (c : Chip) (f : RxFrame) : (takePull now c f).wake = c.wake := by
  unfold takePull
  dsimp only
  repeat' split
  all_goals simp

@[simp] theorem takeScaleGet_wake (c : Chip) (f : RxFrame) : (takeScaleGet c f).wake = c.wake := by
  unfold takeScaleGet
  dsimp only
  split <;> simp

@[simp] theorem sendMasks_wake (c : Chip) (f : RxFrame) (seed : BitVec 64) (keep j : Nat) (l : List (Nat × Nat)) :
    (sendMasks c f seed keep j l).wake = c.wake := by
  induction l generalizing c j with
  | nil => rfl
  | cons p l ih => exact (ih _ _).trans (sendReply_wake c f _ _)

@[simp] theorem serveMask_wake (c : Chip) (f : RxFrame) : (serveMask c f).wake = c.wake := by
  unfold serveMask
  dsimp only
  split <;> simp

@[simp] theorem takeMaskGet_wake (now : Nat) (c : Chip) (f : RxFrame) : (takeMaskGet now c f).wake = c.wake := by
  unfold takeMaskGet
  dsimp only
  split <;> simp

@[simp] theorem takeStatGet_wake (y : Tray) (c : Chip) (f : RxFrame) : (takeStatGet y c f).wake = c.wake := by
  rfl

/-! ## Reduction (chapter 10) -/

@[simp] theorem queueUpdate_wake (c : Chip) (t tensor shard step : Nat) : (queueUpdate c t tensor shard step).wake = c.wake := by
  unfold queueUpdate
  split <;> simp

@[simp] theorem restartUpdate_wake (c : Chip) (t tensor shard step : Nat) : (restartUpdate c t tensor shard step).wake = c.wake := by
  simp [restartUpdate]

@[simp] theorem restartFrom_wake (c : Chip) (t tensor shard step : Nat) : (restartFrom c t tensor shard step).wake = c.wake := by
  simp [restartFrom]

@[simp] theorem reclaim_wake (fuel t : Nat) (c : Chip) : (reclaim fuel t c).wake = c.wake := by
  induction fuel generalizing c with
  | zero => rfl
  | succ fuel ih =>
    rw [reclaim]
    split
    · rfl
    · split
      · rfl
      · exact (ih _).trans (restartFrom_wake c t _ _ _)

@[simp] theorem holdAll_wake (t tensor shard step : Nat) (l : List Nat) (c : Chip) : (holdAll t tensor shard step l c).1.wake = c.wake := by
  induction l generalizing c with
  | nil => rfl
  | cons n l ih =>
    rw [holdAll]
    dsimp only
    split
    · simp [ih]
    · split <;> simp [ih]

@[simp] theorem startVerdictTimer_wake (c : Chip) (t step : Nat) : (startVerdictTimer c t step).wake = c.wake := by
  rfl

@[simp] theorem accRoom_wake (c : Chip) (i : ShardInfo) (f : RxFrame) (step : Nat) : (accRoom c i f step).1.wake = c.wake :=
  holdAll_wake _ _ _ _ _ c

@[simp] theorem runAccumulate_wake (c : Chip) (t : Task) (f : RxFrame) : (runAccumulate c t f).wake = c.wake := by
  unfold runAccumulate
  split <;> simp

@[simp] theorem launchAccumulate_wake (c : Chip) (now : Nat) (f : RxFrame) (step : Nat) : (launchAccumulate c now f step).wake = c.wake := by
  simp [launchAccumulate]

@[simp] theorem gradDone_wake (c : Chip) (f : RxFrame) (d : DoneInfo) : (gradDone c f d).wake = c.wake := by
  simp [gradDone]

@[simp] theorem sendBucket_wake (c : Chip) (f : RxFrame) (i : ShardInfo) (src : Source) (slot status detail flags : Nat) :
    (sendBucket c f i src slot status detail flags).wake = c.wake := by
  simp [sendBucket]

@[simp] theorem settle_wake (c : Chip) (i : ShardInfo) (t tensor shard step source : Nat) (all : Bool) :
    (settle c i t tensor shard step source all).wake = c.wake := by
  simp [settle]

@[simp] theorem acceptFrame_wake (c : Chip) (now : Nat) (i : ShardInfo) (f : RxFrame) : (acceptFrame c now i f).wake = c.wake := by
  simp [acceptFrame]

@[simp] theorem foldFrame_wake (c : Chip) (now : Nat) (i : ShardInfo) (f : RxFrame) : (foldFrame c now i f).wake = c.wake := by
  simp [foldFrame]

@[simp] theorem repeatFrame_wake (c : Chip) (i : ShardInfo) (f : RxFrame) : (repeatFrame c i f).wake = c.wake := by
  simp [repeatFrame]

@[simp] theorem abortFrame_wake (c : Chip) (f : RxFrame) (code : Nat) : (abortFrame c f code).wake = c.wake := by
  simp [abortFrame]

@[simp] theorem waitQuorum_wake (c : Chip) (i : ShardInfo) (t tensor shard step : Nat) :
    (waitQuorum c i t tensor shard step).wake = c.wake := by
  simp [waitQuorum]

@[simp] theorem dropTimely_wake (c : Chip) (i : ShardInfo) (f : RxFrame) : (dropTimely c i f).wake = c.wake := by
  simp [dropTimely]

@[simp] theorem decideGrad_wake (c : Chip) (now : Nat) (i : ShardInfo) (f : RxFrame) : (decideGrad c now i f).wake = c.wake := by
  unfold decideGrad
  dsimp only
  split
  case h_4 | h_5 =>
    split
    · simp
    · split <;> simp
  all_goals simp

@[simp] theorem homeGrad_wake (c : Chip) (now : Nat) (i : ShardInfo) (f : RxFrame) : (homeGrad c now i f).wake = c.wake := by
  simp [homeGrad]

@[simp] theorem sendReduce_wake (c : Chip) (f : RxFrame) (h : Hdr) (payload : List Byte) (home : Nat) :
    (sendReduce c f h payload home).wake = c.wake := by
  rfl

@[simp] theorem runSplit_wake (c : Chip) (f : RxFrame) : (runSplit c f).wake = c.wake := by
  unfold runSplit
  dsimp only
  split <;> simp

@[simp] theorem takeGrad_wake (now : Nat) (c : Chip) (f : RxFrame) : (takeGrad now c f).wake = c.wake := by
  unfold takeGrad
  dsimp only
  repeat' split
  all_goals simp

@[simp] theorem takeReduce_wake (now : Nat) (c : Chip) (f : RxFrame) : (takeReduce now c f).wake = c.wake := by
  unfold takeReduce
  dsimp only
  repeat' split
  all_goals simp

@[simp] theorem homeIndex_wake (c : Chip) (now : Nat) (i : ShardInfo) (f : RxFrame) : (homeIndex c now i f).wake = c.wake := by
  simp [homeIndex]

@[simp] theorem takeIndex_wake (now : Nat) (c : Chip) (f : RxFrame) : (takeIndex now c f).wake = c.wake := by
  unfold takeIndex
  dsimp only
  repeat' split
  all_goals simp

@[simp] theorem closeCode_wake (c : Chip) (t code : Nat) : (closeCode c t code).wake = c.wake := by
  simp [closeCode]

@[simp] theorem closeShard_wake (c : Chip) (now : Nat) (i : ShardInfo) (t tensor shard step : Nat) (fault : Option Nat) :
    (closeShard c now i t tensor shard step fault).wake = c.wake := by
  unfold closeShard
  split <;> simp

@[simp] theorem queueClose_wake (c : Chip) (now : Nat) (i : ShardInfo) (t tensor shard step : Nat) :
    (queueClose c now i t tensor shard step).wake = c.wake := by
  simp [queueClose]

@[simp] theorem runClose_wake (c : Chip) (u : Task) : (runClose c u).wake = c.wake := by
  simp [runClose]

theorem closeAll_wake {c c' : Chip} {l : List Task} (h : closeAll l c = some c') : c'.wake = c.wake := by
  induction l generalizing c with
  | nil =>
    cases h
    rfl
  | cons u l ih =>
    rw [closeAll] at h
    split at h
    · exact (ih h).trans (runClose_wake c u)
    · cases h

@[simp] theorem closeBehind_wake (c : Chip) (t tensor shard step : Nat) : (closeBehind c t tensor shard step).wake = c.wake := by
  refine forEach_wake (fun c k => forEach_wake (fun c u => ?_) c _) c _
  dsimp only
  split
  · split <;> simp
  · rfl

/-! ## INIT -/

@[simp] theorem storeFilled_wake (c : Chip) (q : Hdr) (whole : Bool) : (storeFilled c q whole).wake = c.wake := by
  unfold storeFilled
  split <;> simp

@[simp] theorem serveInit_wake (c : Chip) (f : RxFrame) : (serveInit c f).wake = c.wake := by
  unfold serveInit
  dsimp only
  split <;> simp

@[simp] theorem takeInit_wake (now : Nat) (c : Chip) (f : RxFrame) : (takeInit now c f).wake = c.wake := by
  unfold takeInit
  dsimp only
  repeat' split
  all_goals simp

/-! ## The step root -/

@[simp] theorem decideGather_wake (c : Chip) (t step : Nat) (cat : Catalogue) (g : Gather) : (decideGather c t step cat g).wake = c.wake := by
  simp [decideGather]

@[simp] theorem takeShardVerdict_wake (c : Chip) (f : RxFrame) : (takeShardVerdict c f).wake = c.wake := by
  unfold takeShardVerdict
  dsimp only
  repeat' split
  all_goals simp

/-! ## The update stage (chapter 11) -/

@[simp] theorem runUpdate_wake (c : Chip) (k : ClusterNo) (t tensor shard step e0 e : Nat) (i : ShardInfo) (inp : BlockIn) :
    (runUpdate c k t tensor shard step e0 e i inp).1.wake = c.wake :=
  setTen_wake c t _

@[simp] theorem finishUpdate_wake (c : Chip) (t tensor shard step : Nat) (i : ShardInfo) :
    (finishUpdate c t tensor shard step i).wake = c.wake := by
  rfl

/-! ## Commit (chapter 12) -/

@[simp] theorem cascade_wake (c : Chip) (t tensor shard step : Nat) : (cascade c t tensor shard step).wake = c.wake := by
  simp [cascade]

@[simp] theorem dropPending_wake (c : Chip) (t tensor shard step : Nat) : (dropPending c t tensor shard step).wake = c.wake := by
  simp [dropPending]

@[simp] theorem rerunWith_wake (c : Chip) (t tensor shard step : Nat) (f : Word) : (rerunWith c t tensor shard step f).wake = c.wake := by
  simp [rerunWith]

@[simp] theorem rerunShard_wake (c : Chip) (t tensor shard step : Nat) : (rerunShard c t tensor shard step).wake = c.wake := by
  unfold rerunShard
  dsimp only
  split <;> simp

@[simp] theorem applyShard_wake (c : Chip) (t tensor shard step : Nat) : (applyShard c t tensor shard step).wake = c.wake :=
  (settleKept_applyShard c t tensor shard step).wake

@[simp] theorem earlyEffect_wake (c : Chip) (t tensor shard step : Nat) : (earlyEffect c t tensor shard step).wake = c.wake := by
  unfold earlyEffect
  dsimp only
  split <;> simp

@[simp] theorem arrive_wake (c : Chip) (t step : Nat) : (arrive c t step).wake = c.wake := by
  unfold arrive
  dsimp only
  split <;> simp

@[simp] theorem settleStep_wake (t step : Nat) (c : Chip) : (settleStep t step c).wake = c.wake := by
  simp [settleStep]

@[simp] theorem settle2_wake (t step : Nat) (c : Chip) : (settle2 t step c).wake = c.wake := by
  simp [settle2]

@[simp] theorem takeVerdict_wake (c : Chip) (f : RxFrame) : (takeVerdict c f).wake = c.wake := by
  simp [takeVerdict]

@[simp] theorem sendReport_wake (t step source : Nat) (v : VerdictRec) (saturated : Bool) (dst : BitVec 10 × BitVec 8) (fuel i : Nat)
    (ps : List (Nat × Nat)) (c : Chip) : (sendReport t step source v saturated dst fuel i ps c).wake = c.wake := by
  induction fuel generalizing c i ps with
  | zero => rfl
  | succ fuel ih =>
    rw [sendReport]
    split <;> simp [ih]

@[simp] theorem reportTo_wake (t step : Nat) (v : VerdictRec) (saturated : Bool) (c : Chip) (source : Nat) :
    (reportTo t step v saturated c source).wake = c.wake := by
  unfold reportTo
  split <;> simp

@[simp] theorem passBarrier_wake (c : Chip) (now t step : Nat) : (passBarrier c now t step).wake = c.wake := by
  unfold passBarrier
  dsimp only
  split <;> simp

/-! ## Links (chapter 8) -/

@[simp] theorem sendHello_wake (c : Chip) (p : PortNo) : (sendHello c p).wake = c.wake := by
  rfl

@[simp] theorem enterHello_wake (c : Chip) (p : PortNo) : (enterHello c p).wake = c.wake := by
  rfl

@[simp] theorem portCameUp_wake (c : Chip) (p : PortNo) : (portCameUp c p).wake = c.wake := by
  simp [portCameUp]

@[simp] theorem advancePort_wake (c : Chip) (p : PortNo) : (advancePort c p).wake = c.wake := by
  simp [advancePort]

@[simp] theorem failPeer_wake (c : Chip) (p : PortNo) : (failPeer c p).wake = c.wake := by
  simp [failPeer]

@[simp] theorem rxHello_wake (c : Chip) (p : PortNo) (content : BitVec 256) : (rxHello c p content).wake = c.wake := by
  simp [rxHello]

@[simp] theorem rxHelloAck_wake (c : Chip) (p : PortNo) (content : BitVec 256) (rttUs : Nat) :
    (rxHelloAck c p content rttUs).wake = c.wake := by
  simp [rxHelloAck]

@[simp] theorem goodUnit_wake (c : Chip) (p : PortNo) : (goodUnit c p).wake = c.wake := by
  rfl

@[simp] theorem nakOnce_wake (c : Chip) (p : PortNo) : (nakOnce c p).wake = c.wake := by
  simp [nakOnce]

@[simp] theorem dropNoTenant_wake (c : Chip) (f : RxFrame) : (dropNoTenant c f).wake = c.wake := by
  simp [dropNoTenant]

@[simp] theorem finishFrame_wake (c : Chip) (p : PortNo) (a : Assembly) : (finishFrame c p a).wake = c.wake := by
  unfold finishFrame
  dsimp only
  repeat' split
  all_goals simp

@[simp] theorem refuseVc3_wake (c : Chip) (p : PortNo) (units : List (BitVec 320)) : (refuseVc3 c p units).wake = c.wake := by
  unfold refuseVc3
  dsimp only
  split
  · exact (congrArg Chip.wake (by split <;> rename_i h <;> exact (congrArg gateChip h).symm)).trans (arrivalGate_wake c _)
  · split <;> simp

@[simp] theorem vc3Flit_wake (c : Chip) (p : PortNo) (u : Unit40) (raw : BitVec 320) : (vc3Flit c p u raw).wake = c.wake := by
  unfold vc3Flit
  dsimp only
  split <;> simp

@[simp] theorem joinFlit_wake (c : Chip) (p : PortNo) (u : Unit40) (raw : BitVec 320) : (joinFlit c p u raw).wake = c.wake := by
  unfold joinFlit
  dsimp only
  split <;> simp

@[simp] theorem rxData_wake (c : Chip) (p : PortNo) (raw : BitVec 320) : (rxData c p raw).wake = c.wake := by
  simp [rxData]

@[simp] theorem rxCredit_wake (c : Chip) (p : PortNo) (content : BitVec 256) : (rxCredit c p content).wake = c.wake := by
  simp [rxCredit]

@[simp] theorem transmit_wake (c : Chip) (p : PortNo) (f : TxFrame) : (transmit c p f).wake = c.wake := by
  rfl

@[simp] theorem popEgress_wake (c : Chip) (p : PortNo) (key : BitVec 2 × Nat) : (popEgress c p key).wake = c.wake := by
  rfl

theorem sendVc_wake {c c' : Chip} {p : PortNo} {vc : BitVec 2} (h : sendVc c p vc = some c') : c'.wake = c.wake := by
  unfold sendVc at h
  dsimp only at h
  split at h
  · cases h
  · split at h
    · cases h
    · cases h
      simp

@[simp] theorem dispatchFrame_wake (c : Chip) (p : PortNo) (key : BitVec 2 × Nat) (f : RxFrame) : (dispatchFrame c p key f).wake = c.wake := by
  unfold dispatchFrame
  dsimp only
  split <;> simp

/-! ## The stash (chapter 14) -/

@[simp] theorem servePut_wake (c : Chip) (f : RxFrame) : (servePut c f).wake = c.wake := by
  unfold servePut
  dsimp only
  split <;> simp

@[simp] theorem launchStash_wake (now : Nat) (c : Chip) (f : RxFrame) (kind : Nat) {run : Chip → Chip} (hrun : ∀ c, (run c).wake = c.wake) :
    (launchStash now c f kind run).wake = c.wake := by
  simp [launchStash, hrun]

@[simp] theorem takePut_wake (now : Nat) (c : Chip) (f : RxFrame) : (takePut now c f).wake = c.wake := by
  unfold takePut
  dsimp only
  split <;> simp

@[simp] theorem sendStash_wake (c : Chip) (f : RxFrame) (s : SiteRec) (l : Slot) (bs : List (Nat × Nat)) :
    (sendStash c f s l bs).wake = c.wake := by
  induction bs generalizing c with
  | nil => rfl
  | cons p bs ih =>
    rw [sendStash]
    split
    · exact sendAborted_wake c f _
    · exact (ih _).trans (sendReply_wake c f _ _)

@[simp] theorem serveGet_wake (c : Chip) (f : RxFrame) : (serveGet c f).wake = c.wake := by
  unfold serveGet
  dsimp only
  repeat' split
  all_goals simp

@[simp] theorem takeGet_wake (now : Nat) (c : Chip) (f : RxFrame) : (takeGet now c f).wake = c.wake := by
  unfold takeGet
  dsimp only
  split <;> simp

end Sys2Proof.Machine
end

section
/-!
PROOFS. Rules of the wake record: tasks, streams and the debug port leave it as it is.
-/
namespace Sys2Proof.Machine

/-! ## Synchronisation (chapter 18) -/

@[simp] theorem releaseWaiters_wake (c : Chip) (n : Nat) : (releaseWaiters c n).wake = c.wake :=
  (tenantFrame_releaseWaiters c 0 n).2.1

@[simp] theorem applySync_wake (c : Chip) (n code : Nat) (v : BitVec 32) : (applySync c n code v).wake = c.wake := by
  simp [applySync]

@[simp] theorem waitSync_wake (c : Chip) (k : ClusterNo) (n : Nat) (v : BitVec 32) : (waitSync c k n v).wake = c.wake := by
  simp [waitSync]

@[simp] theorem barrierSync_wake (c : Chip) (k : ClusterNo) (n : Nat) : (barrierSync c k n).wake = c.wake := by
  simp [barrierSync]

@[simp] theorem pushSync_wake (c : Chip) (t target : Nat) : (pushSync c t target).wake = c.wake := by
  unfold pushSync
  dsimp only
  split <;> simp

@[simp] theorem remoteSync_wake (c : Chip) (k : ClusterNo) (t target code index : Nat) (v : BitVec 32) :
    (remoteSync c k t target code index v).wake = c.wake := by
  simp [remoteSync]

@[simp] theorem sendAck_wake (c : Chip) (f : RxFrame) (origin : Nat) (value : BitVec 32) : (sendAck c f origin value).wake = c.wake := by
  rfl

@[simp] theorem takeSyncOp_wake (c : Chip) (f : RxFrame) : (takeSyncOp c f).wake = c.wake := by
  simp [takeSyncOp]

/-! ## Stages -/

@[simp] theorem runCast_wake (c : Chip) (k : ClusterNo) (t : Task) (s : StageRec) (i : StageIn) : (runCast c k t s i).1.wake = c.wake := by
  unfold runCast
  dsimp only
  split
  · rfl
  · split
    · rfl
    · split
      · rfl
      · split <;> simp

@[simp] theorem runStage_wake (c : Chip) (k : ClusterNo) (t : Task) (s : StageRec) (ins : List StageIn) :
    (runStage c k t s ins).1.wake = c.wake := by
  unfold runStage
  dsimp only
  split
  case h_7 => exact runCast_wake c k t s _
  case h_3 | h_4 | h_5 | h_8 => split <;> rfl
  all_goals rfl

/-! ## Streams (chapter 17) -/

@[simp] theorem afterFault_wake (t : Task) (c : Chip) : (afterFault t c).wake = c.wake := by
  simp [afterFault]

@[simp] theorem faultAt_wake (c : Chip) (k : ClusterNo) (next : Bool) (code : Nat) : (faultAt c k next code).wake = c.wake := by
  unfold faultAt
  split <;> simp

theorem roomForStore_wake {c c' : Chip} {t : Task} {d : DescRec} {l : List Nat} (h : roomForStore c t d l = some c') :
    c'.wake = c.wake := by
  unfold roomForStore at h
  split at h
  · exact noteAll_wake h
  · cases h
    rfl

@[simp] theorem noteMisses_wake (c : Chip) (k : ClusterNo) (t desc : Nat) (ns : List LineNeed) : (noteMisses c k t desc ns).wake = c.wake := by
  simp [noteMisses]

theorem issueAt_wake {c c' : Chip} {k : ClusterNo} {next : Bool} {r : RunTask} {i : Nat} {d : DescRec} {s : Stream} {p n : Nat} {l : List Nat}
    (h : issueAt c k next r i d s p n l = some c') : c'.wake = c.wake := by
  rw [issueAt, Option.ite_none_left_eq_some] at h
  obtain ⟨_, h⟩ := h
  split at h
  · cases h
    simp
  case h_2 e he =>
    have hroom : e.wake = c.wake := by
      split at he
      · cases he
        rfl
      · exact roomForStore_wake he
    cases h
    simp [hroom]

theorem issueStream_wake {c c' : Chip} {k : ClusterNo} {next : Bool} {r : RunTask} {i : Nat} {d : DescRec}
    (h : issueStream c k next r i d = some c') : c'.wake = c.wake := by
  unfold issueStream at h
  dsimp only at h
  split at h
  · cases h
  · rw [Option.ite_none_left_eq_some] at h
    obtain ⟨_, h⟩ := h
    split at h
    · cases h
      simp
    · exact issueAt_wake h

theorem issueShort_wake {c c' : Chip} {k : ClusterNo} (h : issueShort c k = some c') : c'.wake = c.wake := by
  unfold issueShort at h
  dsimp only at h
  split at h
  · cases h
  · split at h
    · split at h
      · cases h
        exact setCluster_wake c k _
      · cases h
    · cases h

theorem onStream_wake {c c' : Chip} {k : ClusterNo} {i : Nat} {next : Bool} {f : RunTask → DescRec → Option Chip}
    (hf : ∀ r d c', f r d = some c' → c'.wake = c.wake) (h : onStream c k i next f = some c') : c'.wake = c.wake := by
  unfold onStream at h
  split at h
  case h_1 r _ =>
    obtain ⟨d, _, hd⟩ := Option.bind_eq_some_iff.1 h
    exact hf r d c' hd
  case h_2 => cases h

theorem issueRequest_wake {c c' : Chip} {k : ClusterNo} {i : Nat} (h : issueRequest c k i = some c') : c'.wake = c.wake := by
  unfold issueRequest at h
  split at h
  case h_1 hrun =>
    cases h
    exact onStream_wake (fun _ _ _ => issueStream_wake) hrun
  · split at h
    case h_1 hnext =>
      cases h
      exact onStream_wake (fun _ _ _ => issueStream_wake) hnext
    · exact issueShort_wake h

@[simp] theorem loadLine_wake (c : Chip) (k : ClusterNo) (t hint : Nat) (n : LineNeed) : (loadLine c k t hint n).1.wake = c.wake := by
  unfold loadLine
  dsimp only
  split
  · rfl
  · repeat' split
    all_goals simp [loadLine.recallPart]

@[simp] theorem loadLines_wake (k : ClusterNo) (t hint : Nat) (l : List LineNeed) (c : Chip) : (loadLines k t hint l c).1.wake = c.wake := by
  induction l generalizing c with
  | nil => rfl
  | cons n l ih => exact (ih _).trans (loadLine_wake c k t hint n)

@[simp] theorem useTensor_wake (c : Chip) (t : Task) (d : DescRec) (l : List Nat) : (useTensor c t d l).wake = c.wake := by
  simp [useTensor]

@[simp] theorem readBytes_wake (c : Chip) (k : ClusterNo) (t : Task) (d : DescRec) (l : List Nat) : (readBytes c k t d l).1.wake = c.wake := by
  unfold readBytes
  dsimp only
  repeat' split
  all_goals simp

@[simp] theorem noteDead_wake (c : Chip) (t : Task) (d : DescRec) (serial : Nat) (l : List Nat) : (noteDead c t d serial l).wake = c.wake := by
  simp [noteDead]

@[simp] theorem deliverData_wake (c : Chip) (k : ClusterNo) (next : Bool) (r : RunTask) (i : Nat) (d : DescRec) (s : Stream) (serial : Nat)
    (l : List Nat) : (deliverData c k next r i d s serial l).wake = c.wake := by
  unfold deliverData
  dsimp only
  split <;> simp

theorem returnData_wake {c c' : Chip} {k : ClusterNo} {next : Bool} {r : RunTask} {i : Nat} {d : DescRec}
    (h : returnData c k next r i d = some c') : c'.wake = c.wake := by
  unfold returnData at h
  dsimp only at h
  split at h
  · cases h
  · split at h
    · cases h
    · rw [Option.ite_none_left_eq_some] at h
      obtain ⟨_, h⟩ := h
      split at h <;> cases h <;> simp

@[simp] theorem addRegion_wake (c : Chip) (t : Task) (d : DescRec) (attrs : List (Nat × Nat)) (g : Nat × BitVec 128 × BitVec 1024) :
    (addRegion c t d attrs g).wake = c.wake := by
  simp [addRegion]

@[simp] theorem storeRegion_wake (c : Chip) (k : ClusterNo) (t : Task) (d : DescRec) (l : List Nat) (bs : List Byte) :
    (storeRegion c k t d l bs).wake = c.wake := by
  simp [storeRegion]

@[simp] theorem storeUpdate_wake (c : Chip) (t : Task) (d : DescRec) (l : List Nat) (bs : List Byte) :
    (storeUpdate c t d l bs).wake = c.wake := by
  simp [storeUpdate]

@[simp] theorem writeBytes_wake (c : Chip) (k : ClusterNo) (t : Task) (d : DescRec) (serial : Nat) (l : List Nat) (bs : List Byte) :
    (writeBytes c k t d serial l bs).wake = c.wake := by
  simp [writeBytes]

theorem acceptWrite_wake {c c' : Chip} {k : ClusterNo} {r : RunTask} {i : Nat} {d : DescRec} (h : acceptWrite c k r i d = some c') :
    c'.wake = c.wake := by
  unfold acceptWrite at h
  dsimp only at h
  split at h
  · cases h
  · split at h
    · cases h
    · split at h
      · cases h
      · cases h
        split <;> simp

theorem acceptShort_wake {c c' : Chip} {k : ClusterNo} (h : acceptShort c k = some c') : c'.wake = c.wake := by
  unfold acceptShort at h
  split at h
  · cases h
  · split at h
    · split at h
      · cases h
        exact modCluster_wake c k _
      · cases h
    · cases h

@[simp] theorem fillCluster_wake (line attr : Nat) (c : Chip) (k : ClusterNo) : (fillCluster line attr c k).wake = c.wake := by
  simp [fillCluster]

/-! ## Tasks (chapters 18, 19) -/

@[simp] theorem chargeStage_wake (c : Chip) (k : ClusterNo) (t bound : Nat) : (chargeStage c k t bound).wake = c.wake := by
  rfl

@[simp] theorem noteWait_wake (now : Nat) (c : Chip) (u : Task) : (noteWait now c u).wake = c.wake := by
  rfl

@[simp] theorem coreWork_wake (c : Chip) (t : Task) : (coreWork c t).wake = c.wake := by
  unfold coreWork
  repeat' split
  all_goals simp

@[simp] theorem endWork_wake (c : Chip) (t : Task) : (endWork c t).wake = c.wake := by
  unfold endWork
  split <;> simp

@[simp] theorem chargeAll_wake (c : Chip) (k : ClusterNo) (t : Task) : (chargeAll c k t).wake = c.wake := by
  simp [chargeAll]

@[simp] theorem placeTask_wake (c : Chip) (now : Nat) (k : ClusterNo) (t : Task) : (placeTask c now k t).wake = c.wake := by
  simp [placeTask]

@[simp] theorem endWhole_wake (c : Chip) (k : ClusterNo) (t : Task) : (endWhole c k t).wake = c.wake := by
  simp [endWhole]

@[simp] theorem beginTask_wake (c : Chip) (now : Nat) (k : ClusterNo) (t : Task) : (beginTask c now k t).wake = c.wake := by
  unfold beginTask
  dsimp only
  repeat' split
  all_goals simp

@[simp] theorem beginNext_wake (c : Chip) (now : Nat) (k : ClusterNo) (t : Task) : (beginNext c now k t).wake = c.wake := by
  simp [beginNext]

@[simp] theorem startTask_wake (c : Chip) (now : Nat) (k : ClusterNo) : (startTask c now k).wake = c.wake := by
  unfold startTask
  dsimp only
  repeat' split
  all_goals simp

@[simp] theorem computeStage_wake (c : Chip) (k : ClusterNo) (t : Task) (s : StageRec) (ins : List StageIn) :
    (computeStage c k t s ins).1.wake = c.wake := by
  unfold computeStage
  dsimp only
  split
  · split
    · rfl
    · split <;> simp
  · simp

@[simp] theorem rangeLine_wake (code : Nat) (k : ClusterNo) (t : Nat) (c : Chip) (p : Nat × Nat) : (rangeLine code k t c p).wake = c.wake := by
  unfold rangeLine
  dsimp only
  repeat' split
  all_goals simp [rangeLine.cleanL1]

@[simp] theorem runRange_wake (code : Nat) (k : ClusterNo) (t : Task) (d : DescRec) (l : List Nat) (c : Chip) :
    (runRange code k t d l c).wake = c.wake := by
  simp [runRange]

@[simp] theorem rangeStage_wake (c : Chip) (k : ClusterNo) (r : RunTask) (s : StageRec) : (rangeStage c k r s).wake = c.wake := by
  unfold rangeStage
  repeat' split
  all_goals simp

@[simp] theorem syncStage_wake (c : Chip) (k : ClusterNo) (t : Task) (s : StageRec) : (syncStage c k t s).wake = c.wake := by
  simp [syncStage]

@[simp] theorem startCompute_wake (c : Chip) (k : ClusterNo) (next : Bool) (r : RunTask) (s : StageRec) (ins : List StageIn) :
    (startCompute c k next r s ins).wake = c.wake := by
  unfold startCompute
  dsimp only
  split <;> simp

@[simp] theorem runStart_wake (c : Chip) (k : ClusterNo) (next : Bool) (r : RunTask) (s : StageRec) (ins : List StageIn) :
    (runStart c k next r s ins).wake = c.wake := by
  simp [runStart]

@[simp] theorem startStage_wake (c : Chip) (k : ClusterNo) (next : Bool) (r : RunTask) : (startStage c k next r).wake = c.wake := by
  unfold startStage
  dsimp only
  repeat' split
  all_goals simp

@[simp] theorem nextStage_wake (c : Chip) (k : ClusterNo) : (nextStage c k).wake = c.wake := by
  unfold nextStage
  dsimp only
  split <;> simp

@[simp] theorem noteTile_wake (c : Chip) (t : Task) : (noteTile c t).wake = c.wake := by
  rfl

@[simp] theorem finishTask_wake (c : Chip) (k : ClusterNo) : (finishTask c k).wake = c.wake := by
  unfold finishTask
  dsimp only
  split <;> simp

@[simp] theorem endStage_wake (c : Chip) (k : ClusterNo) (next : Bool) (r : RunTask) : (endStage c k next r).wake = c.wake := by
  rfl

@[simp] theorem takeSyncAck_wake (c : Chip) (f : RxFrame) : (takeSyncAck c f).wake = c.wake := by
  unfold takeSyncAck
  dsimp only
  repeat' split
  all_goals simp

@[simp] theorem poisonArray_wake (c : Chip) (t tensor shard array line : Nat) (hbm : Bool) :
    (poisonArray c t tensor shard array line hbm).wake = c.wake := by
  rfl

@[simp] theorem poisonPending_wake (c : Chip) (t tensor shard step array line : Nat) :
    (poisonPending c t tensor shard step array line).wake = c.wake := by
  rfl

@[simp] theorem poisonAcc_wake (c : Chip) (t tensor shard step : Nat) : (poisonAcc c t tensor shard step).wake = c.wake := by
  rfl

@[simp] theorem eccSlice_wake (c : Chip) (line : Nat) (l : SliceLine) : (eccSlice c line l).wake = c.wake := by
  unfold eccSlice
  split <;> simp

@[simp] theorem eccHbm_wake (c : Chip) (line : Nat) : (eccHbm c line).wake = c.wake := by
  unfold eccHbm
  dsimp only
  repeat' split
  all_goals simp

@[simp] theorem eccAt_wake (c : Chip) (site : EccSite) : (eccAt c site).wake = c.wake := by
  unfold eccAt
  dsimp only
  repeat' split
  all_goals simp

/-! ## The debug port (chapter 22) -/

@[simp] theorem tapAccept_wake (c : Chip) (op : BitVec 8) (dr : BitVec 320) : (tapAccept c op dr).wake = c.wake := by
  rfl

@[simp] theorem tapRefuse_wake (c : Chip) (op : BitVec 8) : (tapRefuse c op).wake = c.wake := by
  rfl

@[simp] theorem arriveAll_wake (c : Chip) : (arriveAll c).wake = c.wake := by
  simp [arriveAll]

@[simp] theorem writeCtrl_wake (c : Chip) (ctrl : BitVec 32) : (writeCtrl c ctrl).wake = c.wake := by
  unfold writeCtrl
  dsimp only
  split
  · exact (arriveAll_wake _).trans (forEach_wake (fun c k => modCluster_wake c k _) _ _)
  · rfl

theorem debugWrite_wake {c c' : Chip} {space addr : Nat} {bs : List Byte} (h : debugWrite c space addr bs = some c') : c'.wake = c.wake := by
  unfold debugWrite at h
  dsimp only at h
  rw [Option.ite_none_left_eq_some] at h
  obtain ⟨_, h⟩ := h
  repeat' split at h
  all_goals cases h
  all_goals simp

@[simp] theorem memDoneWith_wake (c : Chip) (r : Option (BitVec 64)) : (memDoneWith c r).wake = c.wake := by
  rfl

@[simp] theorem acceptMem_wake (c : Chip) : (acceptMem c).wake = c.wake := by
  rfl

/-! ## Tenant resets -/

@[simp] theorem sendTenantDown_wake (c : Chip) (t : Nat) : (sendTenantDown c t).wake = c.wake := by
  simp [sendTenantDown]

end Sys2Proof.Machine
end

section
/-!
PROOFS. Rules of the issue rate (R87): the wake record changes with the season, a Spring, heat and a wipe, and the rate it holds stays legal.
-/
namespace Sys2Proof.Machine

/-! ## One chip -/

/-- A rate that the governor may set. -/
def RateLegal (k : Chip) : Prop := 4 ≤ k.wake.issueRate ∧ k.wake.issueRate ≤ 16

/-- A chip whose rate is legal becomes one whose rate is legal. -/
def RateKept (k k' : Chip) : Prop := RateLegal k → RateLegal k'

theorem RateKept.refl (k : Chip) : RateKept k k := id

theorem rateKept_of_eq {k k' : Chip} (h : k'.wake.issueRate = k.wake.issueRate) : RateKept k k' := fun hlegal => by
  rw [RateLegal, h]
  exact hlegal

theorem rateKept_of_wake {k k' : Chip} (h : k'.wake = k.wake) : RateKept k k' := rateKept_of_eq (congrArg Wake.issueRate h)

theorem rateKept_ite {p : Prop} [Decidable p] {k a b : Chip} (ha : RateKept k a) (hb : RateKept k b) : RateKept k (if p then a else b) := by
  split
  · exact ha
  · exact hb

theorem rateLegal_of_full {k : Chip} (h : k.wake.issueRate = 16) : RateLegal k := by
  rw [RateLegal, h]
  decide

/-! ## Seasons -/

@[simp] theorem seasonErr_rate (c : Chip) : (seasonErr c).wake.issueRate = c.wake.issueRate := by
  simp [seasonErr]

@[simp] theorem clearSeasonErr_rate (c : Chip) : (clearSeasonErr c).wake.issueRate = c.wake.issueRate := by
  unfold clearSeasonErr
  split <;> rfl

@[simp] theorem leaveWork_rate (c : Chip) : (leaveWork c).wake.issueRate = c.wake.issueRate := by
  simp [leaveWork]

@[simp] theorem enterWinter_rate (c : Chip) : (enterWinter c).wake.issueRate = c.wake.issueRate := by
  unfold enterWinter
  dsimp only
  repeat' split
  all_goals simp [forEach_wake winterReset_wake]

@[simp] theorem reportWinter_rate (c : Chip) (valid : Bool) : (reportWinter c valid).wake.issueRate = c.wake.issueRate := by
  simp [reportWinter]

@[simp] theorem enterSpring_rate (c : Chip) : (enterSpring c).wake.issueRate = c.wake.issueRate := by
  rfl

@[simp] theorem enterSummer_rate (c : Chip) : (enterSummer c).wake.issueRate = c.wake.issueRate := by
  unfold enterSummer
  split <;> rfl

@[simp] theorem answerCode_rate (c : Chip) (code : BitVec 2) : (answerCode c code).wake.issueRate = c.wake.issueRate := by
  unfold answerCode
  dsimp only
  repeat' split
  all_goals simp

/-! ## Straps -/

@[simp] theorem springFault_rate (c : Chip) (code : Nat) : (springFault c code).wake.issueRate = c.wake.issueRate := by
  rw [springFault_wake]

@[simp] theorem latchStraps_rate (c : Chip) (set : StrapSet) (due : Bool) : (latchStraps c set due).wake.issueRate = c.wake.issueRate := by
  unfold latchStraps
  dsimp only
  split <;> rfl

@[simp] theorem checkStraps_rate (c : Chip) (p : Pos) (unstable : Bool) : (checkStraps c p unstable).wake.issueRate = c.wake.issueRate := by
  unfold checkStraps
  dsimp only
  repeat' split
  all_goals simp

/-! ## Spring -/

@[simp] theorem setPhase_rate (c : Chip) (p : SpringPhase) : (setPhase c p).wake.issueRate = c.wake.issueRate := by
  rfl

/-- A Spring begins at the full rate (log entry 63). -/
@[simp] theorem beginSpring_rate (c : Chip) : (beginSpring c).wake.issueRate = 16 := by
  unfold beginSpring
  dsimp only
  split <;> rfl

@[simp] theorem coldCheck_rate (c : Chip) (x : Temps) : (coldCheck c x).wake.issueRate = c.wake.issueRate := by
  unfold coldCheck
  rw [modWake_wake]
  split <;> rfl

@[simp] theorem noteBank_rate (c : Chip) (bank : Bool) : (noteBank c bank).wake.issueRate = c.wake.issueRate := by
  rw [noteBank_wake]

@[simp] theorem loadTenants_rate (c : Chip) (low : BitVec 8) : (loadTenants c low).wake.issueRate = c.wake.issueRate := by
  simp [loadTenants]

@[simp] theorem finishSpring_rate (c : Chip) : (finishSpring c).wake.issueRate = c.wake.issueRate := by
  unfold finishSpring
  dsimp only
  split <;> simp

/-! ## Heat and wipes -/

@[simp] theorem shutDown_rate (c : Chip) (x : Temps) : (shutDown c x).wake.issueRate = c.wake.issueRate := by
  simp [shutDown]

@[simp] theorem startWipe_rate (c : Chip) (code : Nat) : (startWipe c code).wake.issueRate = c.wake.issueRate := by
  unfold startWipe
  split
  · rfl
  · split
    · rfl
    · rw [beginWipe_wake]
      rfl

@[simp] theorem endWipe_rate (c : Chip) (now : Nat) (w : Wipe) : (endWipe c now w).wake.issueRate = c.wake.issueRate := by
  simp [endWipe]

end Sys2Proof.Machine
end

section
/-!
PROOFS. Rules of the issue rates of the four chips: the keeper's work, seasons, an image load, wipes, one chip's ports and frames, the debug port.
-/
namespace Sys2Proof.Machine

/-! ## Four chips -/

/-- From legal rates only legal rates come. -/
def RatesKept (s t : State) : Prop := RatesLegal s → RatesLegal t

theorem RatesKept.refl (s : State) : RatesKept s s := id

theorem RatesKept.trans {s t u : State} (h : RatesKept s t) (g : RatesKept t u) : RatesKept s u := g ∘ h

theorem ratesKept_ite {p : Prop} [Decidable p] {s t u : State} (ht : RatesKept s t) (hu : RatesKept s u) :
    RatesKept s (if p then t else u) := by
  split
  · exact ht
  · exact hu

theorem ratesKept_foldl {α : Type} {f : State → α → State} (h : ∀ s x, RatesKept s (f s x)) (l : List α) (s : State) :
    RatesKept s (l.foldl f s) := by
  induction l generalizing s with
  | nil => exact .refl s
  | cons x l ih => exact (h s x).trans (ih _)

theorem ratesKept_setChip {s : State} {c : Pos} {k : Chip} (h : RateKept (getChip s c) k) : RatesKept s (setChip s c k) := fun hlegal p => by
  by_cases hp : p = c
  · subst hp
    rw [getChip_setChip_self]
    exact h (hlegal p)
  · rw [getChip_setChip_ne s c p k hp]
    exact hlegal p

/-- A chip whose wake record stays. -/
theorem ratesKept_wake {s : State} {c : Pos} {k : Chip} (h : k.wake = (getChip s c).wake) : RatesKept s (setChip s c k) :=
  ratesKept_setChip (rateKept_of_wake h)

theorem ratesKept_mapChips {f : Pos → Chip → Chip} (h : ∀ p k, RateKept k (f p k)) (s : State) : RatesKept s (mapChips s f) :=
  fun hlegal p => by
    rw [getChip_mapChips]
    exact h p _ (hlegal p)

theorem ratesKept_modTray (s : State) (f : Tray → Tray) : RatesKept s (modTray s f) := fun hlegal p => by
  rw [getChip_modTray]
  exact hlegal p

theorem ratesKept_refreshFans (s : State) : RatesKept s (refreshFans s) := ratesKept_modTray s _

/-! ## Outcomes -/

/-- Whatever next state an outcome is, legal rates stay legal in it. -/
def KeepsRates (s : State) (o : Host.Outcome State Fault Refusal) : Prop := ∀ t, o = .next t → RatesKept s t

theorem keepsRates_next {s t : State} (h : RatesKept s t) : KeepsRates s (.next t) := fun _ hu => by
  cases hu
  exact h

theorem keepsRates_ite {p : Prop} [Decidable p] {s : State} {a b : Host.Outcome State Fault Refusal} (ha : KeepsRates s a)
    (hb : KeepsRates s b) : KeepsRates s (if p then a else b) := by
  split
  · exact ha
  · exact hb

/-- A command that does nothing. -/
theorem keepsRates_none (s : State) : KeepsRates s (.next s) := keepsRates_next (.refl s)

/-- A command that acts under one condition. -/
theorem keepsRates_guard {p : Prop} [Decidable p] {s t : State} (h : RatesKept s t) : KeepsRates s (if p then .next t else .next s) :=
  keepsRates_ite (keepsRates_next h) (keepsRates_none s)

/-- A command on the keeper alone. -/
theorem keepsRates_tray {p : Prop} [Decidable p] {s : State} {f : Tray → Tray} : KeepsRates s (if p then .next (modTray s f) else .next s) :=
  keepsRates_guard (ratesKept_modTray s f)

/-- A command on one chip. -/
theorem keepsRates_setChip {s : State} {c : Pos} {k : Chip} (h : k.wake = (getChip s c).wake) : KeepsRates s (.next (setChip s c k)) :=
  keepsRates_next (ratesKept_wake h)

/-- A command that acts on one chip under one condition. -/
theorem keepsRates_chip {p : Prop} [Decidable p] {s : State} {c : Pos} {k : Chip} (h : k.wake = (getChip s c).wake) :
    KeepsRates s (if p then .next (setChip s c k) else .next s) :=
  keepsRates_guard (ratesKept_wake h)

/-! ## Seasons -/

theorem ratesKept_forwardCode (s : State) (code : BitVec 2) : RatesKept s (forwardCode s code) :=
  (ratesKept_mapChips (fun _ k => rateKept_of_eq (answerCode_rate k code)) s).trans
    ((ratesKept_modTray _ _).trans (ratesKept_refreshFans _))

theorem ratesKept_takeCode (s : State) (code : BitVec 2) : RatesKept s (takeCode s code) :=
  ratesKept_ite (ratesKept_modTray s _) (ratesKept_ite (ratesKept_modTray s _) (ratesKept_forwardCode s code))

theorem ratesKept_takeHeld (s : State) : RatesKept s (takeHeld s) :=
  (ratesKept_modTray s _).trans (ratesKept_foldl ratesKept_takeCode _ _)

theorem ratesKept_springForward (s : State) : RatesKept s (springForward s) := by
  refine ratesKept_ite ?_ (.refl s)
  refine .trans ?_ (.trans (ratesKept_forwardCode _ _) (ratesKept_takeHeld _))
  refine .trans (ratesKept_modTray s _) (.trans (ratesKept_mapChips (fun p k => ?_) _) (ratesKept_modTray _ _))
  exact rateKept_of_wake rfl

theorem ratesKept_removeSpringRails (s : State) : RatesKept s (removeSpringRails s) :=
  (ratesKept_modTray s _).trans (ratesKept_refreshFans _)

/-- A chip without power stands at the full rate. -/
theorem ratesKept_chipsOff (s : State) : RatesKept s (chipsOff s) :=
  ratesKept_mapChips (fun _ _ _ => rateLegal_of_full rfl) s

theorem ratesKept_afterRail (s : State) (r : Rail) : RatesKept s (afterRail s r) := by
  refine ratesKept_ite (.refl s) ?_
  cases r with
  | vkeep => exact ratesKept_ite ((ratesKept_modTray s _).trans (ratesKept_modTray _ _)) (ratesKept_modTray s _)
  | vbus | vaon | vret | vpp | vddh => exact ratesKept_modTray s _
  | vddq => exact (ratesKept_mapChips (fun _ _ _ => rateLegal_of_full rfl) s).trans (ratesKept_modTray _ _)
  | vcage => exact (ratesKept_modTray s _).trans (ratesKept_springForward _)
  | vcore | vsram | vser | vserh => exact ratesKept_ite (ratesKept_modTray s _) (.refl s)

/-! ## An image load -/

theorem rateKept_failed (k : Chip) (code : Nat) : RateKept k (allPortsOff (springFault k code)) :=
  rateKept_of_eq (springFault_rate k code)

theorem ratesKept_failAt (s : State) (p : Pos) (code : Nat) : RatesKept s (failAt s p code) :=
  ratesKept_setChip (rateKept_failed _ code)

theorem ratesKept_failAll (s : State) (code : Nat) : RatesKept s (failAll s code) :=
  .trans (ratesKept_mapChips (fun _ k => rateKept_ite (rateKept_failed k code) (.refl k)) s) (ratesKept_modTray _ _)

theorem ratesKept_bankFailed (s : State) : RatesKept s (bankFailed s) :=
  (ratesKept_mapChips (fun _ k => rateKept_ite (rateKept_of_eq (noteBank_rate k _)) (.refl k)) s).trans
    (ratesKept_ite (ratesKept_failAll _ _) (ratesKept_modTray _ _))

theorem ratesKept_openPorts (s : State) (p : Pos) : RatesKept s (openPorts s p) :=
  ratesKept_wake (foldl_wake openPort_wake _ _)

theorem ratesKept_startPorts (s : State) (p : Pos) : RatesKept s (startPorts s p) :=
  ratesKept_wake (foldl_wake (fun _ p => modPort_wake _ p _) _ _)

theorem ratesKept_acceptImage (s : State) (p : Pos) : RatesKept s (acceptImage s p) := by
  unfold acceptImage
  dsimp only
  split
  · exact .refl s
  · refine ratesKept_ite ((ratesKept_setChip (rateKept_of_eq ?_)).trans (ratesKept_openPorts _ p))
      ((ratesKept_setChip (rateKept_of_eq ?_)).trans (ratesKept_failAt _ p _))
    · rw [finishSpring_rate, loadTenants_rate, modWake_wake]
      split <;> simp
    · rw [modWake_wake]
      split <;> simp

/-! ## Wipes -/

theorem ratesKept_wipeChip (s : State) (p : Pos) (code : Nat) : RatesKept s (wipeChip s p code) := by
  have hwiped : RatesKept s (refreshFans (modChip s p (fun c => startWipe c code))) :=
    (ratesKept_setChip (rateKept_of_eq (startWipe_rate _ code))).trans (ratesKept_refreshFans _)
  exact ratesKept_ite (hwiped.trans (ratesKept_modTray _ _)) hwiped

theorem ratesKept_wipeAll (s : State) (code : Nat) : RatesKept s (wipeAll s code) :=
  ratesKept_foldl (fun s p => ratesKept_wipeChip s p code) _ s

/-! ## One chip's ports -/

theorem ratesKept_losePort (s : State) (c : Pos) (p : PortNo) : RatesKept s (losePort s c p) :=
  ratesKept_wake (by simp)

theorem ratesKept_resendFrom (s : State) (c : Pos) (p : PortNo) (i : Nat) : RatesKept s (resendFrom s c p i) :=
  ratesKept_ite ((ratesKept_wake (by simp)).trans (ratesKept_losePort _ c p)) (ratesKept_wake (by simp))

theorem ratesKept_rxNak (s : State) (c : Pos) (p : PortNo) (content : BitVec 256) : RatesKept s (rxNak s c p content) :=
  ratesKept_ite (ratesKept_resendFrom s c p _) (.refl s)

theorem ratesKept_rxBadUnit (s : State) (c : Pos) (p : PortNo) : RatesKept s (rxBadUnit s c p) :=
  ratesKept_ite (.refl s) ((ratesKept_wake (by simp)).trans
    (ratesKept_ite (ratesKept_losePort _ c p) (ratesKept_ite (ratesKept_wake (by simp)) (.refl _))))

theorem ratesKept_rxUnit (s : State) (c : Pos) (p : PortNo) (raw : BitVec 320) (rtt : Nat) : RatesKept s (rxUnit s c p raw rtt) := by
  refine ratesKept_ite (ratesKept_rxBadUnit s c p) (RatesKept.trans (t := modChip s c (fun k => goodUnit k p)) (ratesKept_wake (by simp)) ?_)
  dsimp only
  split
  · exact .refl _
  · exact ratesKept_wake (by simp)
  · split
    · exact ratesKept_wake (by simp)
    · exact ratesKept_rxNak _ c p _
    · exact ratesKept_wake (by simp)
    · exact ratesKept_wake (by simp)
    · exact ratesKept_wake (by simp)

theorem ratesKept_settleCage (s : State) (g : Fin 40) : RatesKept s (settleCage s g) :=
  ratesKept_foldl (fun s pos => ratesKept_foldl (fun s p => ratesKept_ite (ratesKept_wake (openPort_wake _ p))
    (ratesKept_ite (.refl s) (ratesKept_losePort s pos p))) _ s) _ s

/-! ## Frames -/

theorem ratesKept_hostCommand (type : Nat) {serve : Nat → Chip → RxFrame → Chip} (h : ∀ now k f, (serve now k f).wake = k.wake) (c : Pos)
    (f : RxFrame) (s : State) : RatesKept s (hostCommand type serve c f s) := by
  have harrival := arrivalGate_wake (consume (getChip s c) f) f
  refine ratesKept_ite ?_ (.refl s)
  split
  case h_1 k hk =>
    rw [hk] at harrival
    exact ratesKept_wake (harrival.trans (consume_wake _ f))
  case h_2 k hk =>
    rw [hk] at harrival
    have hpass : k.wake = (getChip s c).wake := harrival.trans (consume_wake _ f)
    have hserve := serveGate_wake k f
    split
    all_goals
      rename_i hgate
      rw [hgate] at hserve
    · exact ratesKept_wake (hserve.trans hpass)
    · exact ratesKept_wake ((h _ _ f).trans (hserve.trans hpass))

theorem ratesKept_chipCommand (type : Nat) {serve : Nat → Chip → RxFrame → Chip} (h : ∀ now k f, (serve now k f).wake = k.wake) (c : Pos)
    (f : RxFrame) (s : State) : RatesKept s (chipCommand type serve c f s) := by
  have harrival := arrivalGate_wake (consume (getChip s c) f) f
  refine ratesKept_ite ?_ (.refl s)
  split
  · split
    all_goals
      rename_i hgate
      rw [hgate] at harrival
      exact ratesKept_wake (harrival.trans (consume_wake _ f))
  · exact ratesKept_ite (ratesKept_wake (by simp)) (ratesKept_ite (ratesKept_wake (by simp))
      (ratesKept_ite (ratesKept_wake (by simp)) (ratesKept_wake (by simp [h]))))

theorem ratesKept_keepInPool {c : Pos} {s t : State} (h : RatesKept s t) (f : RxFrame) : RatesKept s (keepInPool c f s t) :=
  ratesKept_ite (h.trans (ratesKept_wake (by simp))) h

/-! ## The debug port -/

theorem ratesKept_chipInstr {run : State → Pos → Chip → State} {s : State} (h : ∀ p, RatesKept s (run s p (getChip s p))) (ok : Chip → Bool)
    (op : BitVec 8) (p : Pos) : RatesKept s (chipInstr ok op run s p) :=
  ratesKept_ite (.refl s) (ratesKept_ite (h p) (ratesKept_wake (by simp)))

theorem ratesKept_tapInstr {run : State → Pos → Chip → State} {s : State} (h : ∀ p, RatesKept s (run s p (getChip s p))) (ok : Chip → Bool)
    (op : BitVec 8) (d : TapDevice) : RatesKept s (tapInstr ok op run d s) := by
  cases d with
  | keeper => exact ratesKept_ite (ratesKept_modTray s _) (.refl s)
  | chip p => exact ratesKept_chipInstr h ok op p

/-- An instruction that rewrites the chip. -/
theorem ratesKept_chipInstr_set {g : State → Pos → Chip → Chip} (h : ∀ s p k, (g s p k).wake = k.wake) (ok : Chip → Bool) (op : BitVec 8)
    (s : State) (p : Pos) : RatesKept s (chipInstr ok op (fun s p k => setChip s p (g s p k)) s p) :=
  ratesKept_chipInstr (run := fun s p k => setChip s p (g s p k)) (fun p => ratesKept_wake (h s p _)) ok op p

theorem ratesKept_tapInstr_set {g : State → Pos → Chip → Chip} (h : ∀ s p k, (g s p k).wake = k.wake) (ok : Chip → Bool) (op : BitVec 8)
    (d : TapDevice) (s : State) : RatesKept s (tapInstr ok op (fun s p k => setChip s p (g s p k)) d s) :=
  ratesKept_tapInstr (run := fun s p k => setChip s p (g s p k)) (fun p => ratesKept_wake (h s p _)) ok op d

theorem ratesKept_resetTap (s : State) (d : TapDevice) : RatesKept s (resetTap s d) := by
  cases d with
  | keeper => exact ratesKept_ite (ratesKept_modTray s _) (.refl s)
  | chip p => exact ratesKept_ite (ratesKept_wake rfl) (.refl s)

theorem ratesKept_debugCtrl (op : Nat) (d : TapDevice) (ctrl : BitVec 32) (s : State) : RatesKept s (debugCtrl op d ctrl s) :=
  ratesKept_ite (ratesKept_tapInstr_set (by simp) _ _ d s) (.refl s)

theorem ratesKept_writeSlot (d : TapDevice) (reg : BitVec 96) (b : BreakSlot) (s : State) : RatesKept s (writeSlot d reg b s) :=
  ratesKept_tapInstr_set (by simp) _ _ d s

/-! ## Resets -/

theorem ratesKept_lowerTenrst (s : State) (t : Tenant) : RatesKept s (lowerTenrst s t) :=
  ratesKept_ite (.refl s) ((ratesKept_modTray s _).trans (ratesKept_mapChips (fun _ k => rateKept_of_wake (pinReset_wake k t.val)) _))

end Sys2Proof.Machine
end

section
/-!
PROOFS. O9 (StepKeepsTheIssueRates): a Spring and the governor set a chip's issue rate, and each sets a legal one (R87).
-/
namespace Sys2Proof.Machine

/-! ## Commands that set the rate -/

/-- A Spring fails at once, or begins at the full rate (log entry 63). -/
theorem keepsRates_springReceived (c : Pos) (s : State) : KeepsRates s (exec (.springReceived c) s) := by
  refine keepsRates_ite (keepsRates_ite (keepsRates_next (ratesKept_setChip (rateKept_of_eq ?failed)))
    (keepsRates_next (.trans (ratesKept_setChip fun _ => rateLegal_of_full ?begun) (ratesKept_startPorts _ c)))) (keepsRates_none s)
  case failed =>
    repeat' split
    all_goals simp
  case begun => split <;> simp

/-- The rate falls to no lower than 4/16. -/
theorem keepsRates_governorStepDown (c : Pos) (x : Temps) (s : State) : KeepsRates s (exec (.governorStepDown c x) s) := by
  refine keepsRates_guard (ratesKept_setChip fun hlegal => ?_)
  obtain ⟨hlow, hhigh⟩ := hlegal
  simp only [RateLegal, modWake_wake]
  omega

/-- The rate rises to no higher than 16/16. -/
theorem keepsRates_governorStepUp (c : Pos) (x : Temps) (s : State) : KeepsRates s (exec (.governorStepUp c x) s) := by
  refine keepsRates_guard (ratesKept_setChip fun hlegal => ?_)
  obtain ⟨hlow, hhigh⟩ := hlegal
  simp only [RateLegal, modWake_wake]
  omega

/-! ## Seasons and the keeper -/

theorem keepsRates_flashProgramEraseSequence (op : FlashOp) (s : State) : KeepsRates s (exec (.flashProgramEraseSequence op) s) :=
  keepsRates_ite (keepsRates_ite (keepsRates_next (ratesKept_modTray s _)) fun _ h => nomatch h) (keepsRates_none s)

theorem keepsRates_cageModuleInsert (g : Fin 40) (mw : Nat) (s : State) : KeepsRates s (exec (.cageModuleInsert g mw) s) :=
  keepsRates_ite (keepsRates_next (.trans (ratesKept_modTray s _) (ratesKept_settleCage _ g))) (keepsRates_next (ratesKept_modTray s _))

theorem keepsRates_strapSetDelivery (r : StrapReadings) (pos : ChipposReadings) (s : State) :
    KeepsRates s (exec (.strapSetDelivery r pos) s) := by
  refine keepsRates_guard (.trans (.trans (ratesKept_mapChips (fun p k => ?_) s) (ratesKept_modTray _ _)) (ratesKept_springForward _))
  exact rateKept_ite (rateKept_of_eq ((checkStraps_rate _ p _).trans (latchStraps_rate k _ _))) (.refl k)

theorem keepsRates_strapResense (r : StrapReadings) (s : State) : KeepsRates s (exec (.strapResense r) s) := by
  refine keepsRates_guard (ratesKept_mapChips (fun p k => ?_) s)
  exact rateKept_ite (rateKept_of_eq rfl) (.refl k)

theorem keepsRates_winterReached (c : Pos) (s : State) : KeepsRates s (exec (.winterReached c) s) := by
  have hreported : ∀ valid, RatesKept s (setChip s c (reportWinter (getChip s c) valid)) := fun valid =>
    ratesKept_setChip (rateKept_of_eq (reportWinter_rate _ valid))
  exact keepsRates_ite (keepsRates_ite (keepsRates_next ((hreported _).trans (ratesKept_removeSpringRails _)))
    (keepsRates_next (hreported _))) (keepsRates_none s)

theorem keepsRates_winterReportTimeout (s : State) : KeepsRates s (exec .winterReportTimeout s) := by
  refine keepsRates_guard (.trans (.trans (ratesKept_mapChips (fun p k => rateKept_of_eq ?_) s) (ratesKept_modTray _ _))
    (ratesKept_removeSpringRails _))
  dsimp only
  split <;> simp

theorem keepsRates_railOutOfBand (r : Rail) (s : State) : KeepsRates s (exec (.railOutOfBand r) s) :=
  keepsRates_guard (.trans (ratesKept_chipsOff s) (.trans (ratesKept_modTray _ _) (ratesKept_refreshFans _)))

/-- The write-back of the drain runs, and the drain's state moves on. -/
theorem keepsRates_autumnNoStepInFlight (c : Pos) (s : State) : KeepsRates s (exec (.autumnNoStepInFlight c) s) :=
  keepsRates_guard (ratesKept_setChip (rateKept_of_eq (by simp)))

theorem keepsRates_autumnWritebackDone (c : Pos) (s : State) : KeepsRates s (exec (.autumnWritebackDone c) s) :=
  keepsRates_guard (ratesKept_setChip (rateKept_of_eq (by simp)))

/-! ## Spring -/

theorem keepsRates_corePllLocked (c : Pos) (x : Temps) (s : State) : KeepsRates s (exec (.corePllLocked c x) s) := by
  refine keepsRates_guard (.trans (ratesKept_setChip (rateKept_of_eq ?_)) (ratesKept_refreshFans _))
  split <;> simp

theorem keepsRates_coldStartEnd (c : Pos) (x : Temps) (s : State) : KeepsRates s (exec (.coldStartEnd c x) s) := by
  refine keepsRates_guard (.trans (ratesKept_setChip ?_) (ratesKept_refreshFans _))
  exact rateKept_of_eq rfl

theorem keepsRates_imageBankReadDone (c : Pos) (s : State) : KeepsRates s (exec (.imageBankReadDone c) s) := by
  refine keepsRates_guard (.trans ?_ (ratesKept_modTray _ _))
  exact ratesKept_wake rfl

theorem keepsRates_hbmTrainingDone (c : Pos) (ok : Bool) (s : State) : KeepsRates s (exec (.hbmTrainingDone c ok) s) := by
  have htrained : RatesKept s (modChip s c (fun k => modWake k (fun w => { w with phase := .image, hbm := .running }))) :=
    ratesKept_setChip (rateKept_of_eq rfl)
  exact keepsRates_ite (keepsRates_ite (keepsRates_guard (ratesKept_ite (htrained.trans (ratesKept_modTray _ _)) htrained))
    (keepsRates_next (ratesKept_failAt s c _))) (keepsRates_none s)

/-- A bank is failed, or accepted on the chips one after the other. -/
theorem keepsRates_bankCheckReport (s : State) : KeepsRates s (exec .bankCheckReport s) := by
  have haccepted : RatesKept s (acceptImage (acceptImage (acceptImage (acceptImage s 0) 1) 2) 3) :=
    .trans (.trans (.trans (ratesKept_acceptImage s 0) (ratesKept_acceptImage _ 1)) (ratesKept_acceptImage _ 2)) (ratesKept_acceptImage _ 3)
  exact keepsRates_ite (keepsRates_ite (keepsRates_next (ratesKept_bankFailed s))
    (keepsRates_guard (haccepted.trans (ratesKept_modTray _ _)))) (keepsRates_none s)

/-! ## Heat and wipes -/

theorem keepsRates_thermalShutdown (c : Pos) (x : Temps) (s : State) : KeepsRates s (exec (.thermalShutdown c x) s) := by
  have hstopped : RatesKept s (refreshFans (modChip s c (fun k => shutDown k x))) :=
    .trans (ratesKept_setChip (rateKept_of_eq (shutDown_rate _ x))) (ratesKept_refreshFans _)
  exact keepsRates_guard (ratesKept_ite (hstopped.trans (ratesKept_modTray _ _)) hstopped)

theorem ratesKept_endWipe (s : State) (c : Pos) (now : Nat) (w : Wipe) : RatesKept s (modChip s c (fun k => endWipe k now w)) :=
  ratesKept_setChip (rateKept_of_eq (endWipe_rate _ now w))

theorem keepsRates_wipeClearDone (c : Pos) (s : State) : KeepsRates s (exec (.wipeClearDone c) s) := by
  change KeepsRates s (execWipeClearDone c s)
  unfold execWipeClearDone
  split
  · exact keepsRates_ite (keepsRates_none s) (keepsRates_next (ratesKept_endWipe s c _ _))
  · exact keepsRates_none s

theorem keepsRates_retentionSwitchTimer (c : Pos) (s : State) : KeepsRates s (exec (.retentionSwitchTimer c) s) := by
  change KeepsRates s (execRetentionSwitchTimer c s)
  unfold execRetentionSwitchTimer
  split
  · exact keepsRates_guard (ratesKept_endWipe s c _ _)
  · exact keepsRates_none s

theorem keepsRates_lidOpen (s : State) : KeepsRates s (exec .lidOpen s) := by
  have hlid : RatesKept s (modTray s (fun y => { y with lidOpen := true })) := ratesKept_modTray s _
  exact keepsRates_ite (keepsRates_next (hlid.trans (ratesKept_wipeAll _ _))) (keepsRates_next hlid)

/-! ## Links -/

theorem keepsRates_retrainTimer (c : Pos) (p : PortNo) (s : State) : KeepsRates s (exec (.retrainTimer c p) s) := by
  refine keepsRates_ite ?_ (keepsRates_none s)
  split
  · exact keepsRates_setChip (by simp)
  · exact keepsRates_setChip (by simp)
  · exact keepsRates_none s

theorem keepsRates_vc0CreditTimeout (c : Pos) (p : PortNo) (s : State) : KeepsRates s (exec (.vc0CreditTimeout c p) s) := by
  change KeepsRates s (execVc0CreditTimeout c p s)
  unfold execVc0CreditTimeout
  dsimp only
  split
  · exact keepsRates_guard (.trans (ratesKept_wake (linkFault_wake _ p _)) (ratesKept_losePort _ c p))
  · exact keepsRates_none s

theorem keepsRates_meshPeerLost (c : Pos) (g : Fin 3) (s : State) : KeepsRates s (exec (.meshPeerLost c g) s) := by
  refine keepsRates_guard (.trans ?_ (ratesKept_ite (ratesKept_failAt _ c _) (ratesKept_wake (chipFault_wake _ _))))
  exact ratesKept_wake rfl

theorem keepsRates_macFrameReceive (c : Pos) (p : PortNo) (m : MacFrame) (s : State) : KeepsRates s (exec (.macFrameReceive c p m) s) :=
  keepsRates_ite (keepsRates_ite
    (keepsRates_next (.trans (ratesKept_wake (modPort_wake _ p _)) (ratesKept_foldl (fun s u => ratesKept_rxUnit s c p u _) _ _)))
    (keepsRates_setChip (countDev_wake _ _ _))) (keepsRates_none s)

theorem keepsRates_ethernetFrameSend (c : Pos) (p : PortNo) (s : State) : KeepsRates s (exec (.ethernetFrameSend c p) s) := by
  change KeepsRates s (execEthernetFrameSend c p s)
  unfold execEthernetFrameSend
  dsimp only
  split
  · exact keepsRates_setChip (modPort_wake _ p _)
  · exact keepsRates_none s

/-- VC0's head frame goes first; VC1 and VC2 each send a frame or none. -/
theorem keepsRates_frameSend (c : Pos) (p : PortNo) (s : State) : KeepsRates s (exec (.frameSend c p) s) := by
  refine keepsRates_ite (keepsRates_none s) ?_
  have hlow : ∀ v w, RatesKept s (match sendVc (getChip s c) p v with
      | some k => setChip s c k
      | none => match sendVc (getChip s c) p w with | some k => setChip s c k | none => s) := fun v w => by
    split
    case h_1 hsent => exact ratesKept_wake (sendVc_wake hsent)
    case h_2 =>
      split
      case h_1 hsent => exact ratesKept_wake (sendVc_wake hsent)
      case h_2 => exact .refl s
  split
  · exact keepsRates_ite (keepsRates_setChip (by simp)) (keepsRates_next (hlow _ _))
  · exact keepsRates_next (hlow _ _)

theorem keepsRates_frameForward (c : Pos) (s : State) : KeepsRates s (exec (.frameForward c) s) := by
  change KeepsRates s (execFrameForward c s)
  unfold execFrameForward
  dsimp only
  split
  · exact keepsRates_chip (routeFrame_wake _ _)
  · exact keepsRates_none s

theorem keepsRates_ingressDispatch (c : Pos) (p : PortNo) (vc : BitVec 2) (s : State) : KeepsRates s (exec (.ingressDispatch c p vc) s) := by
  refine keepsRates_ite (keepsRates_none s) (keepsRates_ite ?_ ?_)
  · split
    · exact keepsRates_setChip (dispatchFrame_wake _ p _ _)
    · exact keepsRates_none s
  · dsimp only
    split
    · exact keepsRates_none s
    · split
      · exact keepsRates_setChip (by simp)
      · exact keepsRates_none s

/-! ## Frames -/

theorem keepsRates_unknownFrameType (c : Pos) (f : RxFrame) (s : State) : KeepsRates s (exec (.unknownFrameType c f) s) := by
  have harrival := arrivalGate_wake (consume (getChip s c) f) f
  refine keepsRates_ite ?_ (keepsRates_none s)
  split
  · split
    all_goals
      rename_i hgate
      rw [hgate] at harrival
      exact keepsRates_setChip (harrival.trans (consume_wake _ f))
  · exact keepsRates_setChip (by simp)

theorem keepsRates_grad (c : Pos) (f : RxFrame) (s : State) : KeepsRates s (exec (.grad c f) s) :=
  keepsRates_next (ratesKept_keepInPool (ratesKept_hostCommand _ takeGrad_wake c f s) f)

theorem keepsRates_reduce (c : Pos) (f : RxFrame) (s : State) : KeepsRates s (exec (.reduce c f) s) :=
  keepsRates_next (ratesKept_keepInPool (ratesKept_chipCommand _ takeReduce_wake c f s) f)

/-- Without a collision it is the frame's own command. -/
theorem keepsRates_ledgerCollisionRetry (c : Pos) (f : RxFrame) (collides : Bool) (s : State) :
    KeepsRates s (exec (.ledgerCollisionRetry c f collides) s) :=
  keepsRates_ite (keepsRates_ite (keepsRates_reduce c f s) (keepsRates_grad c f s))
    (keepsRates_ite (keepsRates_ite (keepsRates_setChip rfl) (keepsRates_setChip (by simp))) (keepsRates_none s))

/-! ## Shards -/

theorem keepsRates_shardDeadline (c : Pos) (r : ShardStepRef) (s : State) : KeepsRates s (exec (.shardDeadline c r) s) := by
  change KeepsRates s (execShardDeadline c r s)
  unfold execShardDeadline
  dsimp only
  split
  · exact keepsRates_none s
  · exact keepsRates_chip (by simp)

theorem keepsRates_shardClose (c : Pos) (r : ShardStepRef) (s : State) : KeepsRates s (exec (.shardClose c r) s) := by
  change KeepsRates s (execShardClose c r s)
  unfold execShardClose
  dsimp only
  split
  · exact keepsRates_none s
  · refine keepsRates_ite (keepsRates_none s) (keepsRates_ite (keepsRates_setChip ?_) (keepsRates_ite (keepsRates_none s)
      (keepsRates_ite (keepsRates_setChip (by simp)) ?_)))
    · split <;> simp
    · split
      · exact keepsRates_setChip (by simp)
      case h_2 hclosed => exact keepsRates_setChip ((closeShard_wake _ _ _ _ _ _ _ _).trans (closeAll_wake hclosed))

theorem keepsRates_updateStageEnd (c : Pos) (r : ShardStepRef) (s : State) : KeepsRates s (exec (.updateStageEnd c r) s) := by
  change KeepsRates s (execUpdateStageEnd c r s)
  unfold execUpdateStageEnd
  dsimp only
  split
  · exact keepsRates_none s
  · exact keepsRates_chip (by simp)

/-! ## Tasks and streams -/

theorem keepsRates_stageEnd (c : Pos) (k : ClusterNo) (s : State) : KeepsRates s (exec (.stageEnd c k) s) := by
  refine keepsRates_ite (keepsRates_none s) ?_
  split
  · refine keepsRates_ite (keepsRates_chip (by simp)) ?_
    split
    · exact keepsRates_ite (keepsRates_chip (by simp)) (keepsRates_none s)
    · exact keepsRates_none s
  · exact keepsRates_none s

theorem keepsRates_stageBoundExceeded (c : Pos) (k : ClusterNo) (s : State) : KeepsRates s (exec (.stageBoundExceeded c k) s) := by
  refine keepsRates_ite (keepsRates_none s) ?_
  split
  · exact keepsRates_ite (keepsRates_setChip (by simp)) (keepsRates_chip (by simp))
  · exact keepsRates_none s

theorem keepsRates_streamRequestIssue (c : Pos) (k : ClusterNo) (d : Fin 32) (s : State) :
    KeepsRates s (exec (.streamRequestIssue c k d) s) := by
  refine keepsRates_ite (keepsRates_none s) ?_
  split
  case h_1 hissued => exact keepsRates_setChip (issueRequest_wake hissued)
  case h_2 => exact keepsRates_none s

theorem keepsRates_readDataReturn (c : Pos) (k : ClusterNo) (d : Fin 32) (s : State) : KeepsRates s (exec (.readDataReturn c k d) s) := by
  refine keepsRates_ite (keepsRates_none s) ?_
  split
  case h_1 hrun => exact keepsRates_setChip (onStream_wake (fun _ _ _ => returnData_wake) hrun)
  case h_2 =>
    split
    case h_1 hnext => exact keepsRates_setChip (onStream_wake (fun _ _ _ => returnData_wake) hnext)
    case h_2 => exact keepsRates_none s

theorem keepsRates_writeAccept (c : Pos) (k : ClusterNo) (d : Fin 32) (s : State) : KeepsRates s (exec (.writeAccept c k d) s) := by
  refine keepsRates_ite (keepsRates_none s) ?_
  split
  case h_1 hrun => exact keepsRates_setChip ((finishTask_wake _ k).trans (onStream_wake (fun _ _ _ => acceptWrite_wake) hrun))
  case h_2 =>
    split
    case h_1 hshort => exact keepsRates_setChip (acceptShort_wake hshort)
    case h_2 => exact keepsRates_none s

theorem keepsRates_lineFill (c : Pos) (line : Nat) (s : State) : KeepsRates s (exec (.lineFill c line) s) := by
  change KeepsRates s (execLineFill c line s)
  unfold execLineFill
  dsimp only
  split
  · exact keepsRates_none s
  · refine keepsRates_ite (keepsRates_none s) ?_
    split
    · exact keepsRates_setChip (by simp)
    · exact keepsRates_setChip (by simp)
    · exact keepsRates_setChip rfl

/-! ## The debug port -/

theorem keepsRates_dbgMemWrite (d : TapDevice) (reg : BitVec 128) (s : State) : KeepsRates s (exec (.dbgMemWrite d reg) s) := by
  refine keepsRates_ite (keepsRates_none s) (keepsRates_next (ratesKept_tapInstr (fun p => ?_) _ _ d))
  dsimp only
  split
  case h_1 hwritten => exact ratesKept_wake ((debugWrite_wake hwritten).trans (acceptMem_wake _))
  case h_2 => exact ratesKept_wake (acceptMem_wake _)

theorem keepsRates_lcAdvance (d : TapDevice) (reg : BitVec 32) (s : State) : KeepsRates s (exec (.lcAdvance d reg) s) := by
  refine keepsRates_next (ratesKept_tapInstr (fun p => ?_) _ _ d)
  exact ratesKept_ite (.trans (ratesKept_wake (tapAccept_wake _ _ _)) (ratesKept_wipeChip _ p _)) (ratesKept_wake (by simp))

/-! ## The commands -/

/-- Every command keeps legal rates legal. -/
theorem exec_keepsRates (i : Instr) (s : State) : KeepsRates s (exec i s) := by
  cases i with
  -- the keeper and its rails
  | feedPresent f | feedAbsent f => exact keepsRates_ite (keepsRates_none s) (keepsRates_next (ratesKept_modTray s _))
  | trayStart _ _ | thermistorReading _ _ => exact keepsRates_guard ((ratesKept_modTray s _).trans (ratesKept_refreshFans _))
  | fanFailure _ _ => exact keepsRates_next ((ratesKept_modTray s _).trans (ratesKept_refreshFans _))
  | trayPowerLoss => exact keepsRates_next ((ratesKept_modTray s _).trans (ratesKept_chipsOff _))
  | railInRegulation r => exact keepsRates_guard ((ratesKept_modTray s _).trans (ratesKept_afterRail _ r))
  | railOutOfBand r => exact keepsRates_railOutOfBand r s
  | railFaultRecovery | flashGrantAfterRead => exact keepsRates_tray
  | flashRequest => exact keepsRates_ite (keepsRates_next (ratesKept_modTray s _)) (keepsRates_next (ratesKept_modTray s _))
  | flashRelease | tenrstRelease _ | tamperRelease | lidClose => exact keepsRates_next (ratesKept_modTray s _)
  | flashProgramEraseSequence op => exact keepsRates_flashProgramEraseSequence op s
  | cageModuleInsert g mw => exact keepsRates_cageModuleInsert g mw s
  -- seasons
  | seasonPinChange code => exact keepsRates_ite (keepsRates_none s) (keepsRates_next (ratesKept_modTray s _))
  | seasonForward => exact keepsRates_guard ((ratesKept_modTray s _).trans (ratesKept_takeCode _ _))
  | strapSetDelivery r pos => exact keepsRates_strapSetDelivery r pos s
  | strapResense r => exact keepsRates_strapResense r s
  | winterReached c => exact keepsRates_winterReached c s
  | winterReportTimeout => exact keepsRates_winterReportTimeout s
  | autumnNoStepInFlight c => exact keepsRates_autumnNoStepInFlight c s
  | autumnWritebackDone c => exact keepsRates_autumnWritebackDone c s
  -- Spring
  | springReceived c => exact keepsRates_springReceived c s
  | corePllLocked c x => exact keepsRates_corePllLocked c x s
  | sramClearDone c => exact keepsRates_guard (ratesKept_setChip (rateKept_of_eq (by simp)))
  | keyDrawDone c x => exact keepsRates_guard (.trans (ratesKept_setChip (rateKept_of_eq (by simp))) (ratesKept_refreshFans _))
  | coldStartEnd c x => exact keepsRates_coldStartEnd c x s
  | heatingTimeout c => exact keepsRates_guard (.trans (ratesKept_setChip (rateKept_of_eq (by simp))) (ratesKept_refreshFans _))
  | hbmTrainingDone c ok => exact keepsRates_hbmTrainingDone c ok s
  | flashGrantWaitTimeout => exact keepsRates_guard (ratesKept_failAll s _)
  | imageHeaderRead =>
    exact keepsRates_ite (keepsRates_ite (keepsRates_next (ratesKept_modTray s _)) (keepsRates_next (ratesKept_bankFailed s)))
      (keepsRates_none s)
  | imageBankReadDone c => exact keepsRates_imageBankReadDone c s
  | bankCheckReport => exact keepsRates_bankCheckReport s
  | imageOutcomeTimeout c => exact keepsRates_guard (ratesKept_failAt s c _)
  -- heat and wipes
  | hotThreshold c x => exact keepsRates_ite (keepsRates_none s) (keepsRates_next (ratesKept_setChip (rateKept_of_eq rfl)))
  | governorStepDown c x => exact keepsRates_governorStepDown c x s
  | governorStepUp c x => exact keepsRates_governorStepUp c x s
  | thermalShutdown c x => exact keepsRates_thermalShutdown c x s
  | tamperAssert => exact keepsRates_ite (keepsRates_none s) (keepsRates_next ((ratesKept_modTray s _).trans (ratesKept_wipeAll _ _)))
  | lidOpen => exact keepsRates_lidOpen s
  | voltageGlitch c _ | clockGlitch c _ | keyDrawTimeout c => exact keepsRates_guard (ratesKept_wipeChip s c _)
  | vaultError c => exact keepsRates_next (ratesKept_wipeChip s c _)
  | wipeClearDone c => exact keepsRates_wipeClearDone c s
  | retentionSwitchTimer c => exact keepsRates_retentionSwitchTimer c s
  -- resets
  | tenrstAssert t | tenrstInWinter t => exact keepsRates_next (ratesKept_lowerTenrst s t)
  | tenantResetEraseDone c t | tenantResetComplete c t | deferredTenantDown c t => exact keepsRates_chip (by simp)
  -- links
  | lanesLocked c p | pcsLocked c p | unitsDelineated c p | helloTimer c p | trainingTimeout c p | unknownControlFlit c p _
  | creditSend c p _ | torusDirectionLost c _ => exact keepsRates_chip (by simp)
  | hello c p _ | helloAck c p _ _ | credit c p _ => exact keepsRates_setChip (by simp)
  | retrainTimer c p => exact keepsRates_retrainTimer c p s
  | dataFlit c p _ => exact keepsRates_guard (ratesKept_rxUnit s c p _ _)
  | nak c p content => exact keepsRates_next (.trans (ratesKept_wake (goodUnit_wake _ p)) (ratesKept_rxNak _ c p content))
  | wireUnitCrcFail c p => exact keepsRates_next (ratesKept_rxBadUnit s c p)
  | replayTimeout c p => exact keepsRates_guard (ratesKept_resendFrom s c p _)
  | vc0CreditTimeout c p => exact keepsRates_vc0CreditTimeout c p s
  | portDown c p => exact keepsRates_ite (keepsRates_none s) (keepsRates_next (ratesKept_losePort s c p))
  | meshPeerLost c g => exact keepsRates_meshPeerLost c g s
  | macFrameReceive c p m => exact keepsRates_macFrameReceive c p m s
  | ethernetFrameSend c p => exact keepsRates_ethernetFrameSend c p s
  | frameSend c p => exact keepsRates_frameSend c p s
  | frameForward c => exact keepsRates_frameForward c s
  | ingressDispatch c p vc => exact keepsRates_ingressDispatch c p vc s
  -- frames
  | grad c f => exact keepsRates_grad c f s
  | reduce c f => exact keepsRates_reduce c f s
  | init c f | pull c f | stashPut c f | stashGet c f | maskGet c f | scaleGet c f | statGet c f | index c f =>
    exact keepsRates_next (ratesKept_hostCommand _ (by simp) c f s)
  | shardVerdict c f | verdict c f | tenantDown c f | syncOp c f | syncAck c f =>
    exact keepsRates_next (ratesKept_chipCommand _ (by simp) c f s)
  | unknownFrameType c f => exact keepsRates_unknownFrameType c f s
  | ledgerCollisionRetry c f collides => exact keepsRates_ledgerCollisionRetry c f collides s
  -- shards and steps
  | shardDeadline c r => exact keepsRates_shardDeadline c r s
  | shardClose c r => exact keepsRates_shardClose c r s
  | updateStageEnd c r => exact keepsRates_updateStageEnd c r s
  | commitBarrier c _ _ | verdictTimeout c _ _ | gatherTimeout c _ _ => exact keepsRates_chip (by simp)
  -- tasks and streams
  | taskStart c _ | stageStart c _ | deadLineInvalidate c _ | eccUncorrectable c _ | stepCyclesExpire c _ =>
    exact keepsRates_chip (by simp)
  | stageEnd c k => exact keepsRates_stageEnd c k s
  | stageBoundExceeded c k => exact keepsRates_stageBoundExceeded c k s
  | streamRequestIssue c k d => exact keepsRates_streamRequestIssue c k d s
  | readDataReturn c k d => exact keepsRates_readDataReturn c k d s
  | writeAccept c k d => exact keepsRates_writeAccept c k d s
  | lineFill c line => exact keepsRates_lineFill c line s
  -- the debug port
  | tapReset => exact keepsRates_next (ratesKept_foldl ratesKept_resetTap _ s)
  | idcode d | samplePreload d _ =>
    cases d with
    | keeper => exact keepsRates_next (ratesKept_ite (ratesKept_modTray s _) (.refl s))
    | chip p => exact keepsRates_next (ratesKept_chipInstr_set (by simp) _ _ s p)
  | bypass d _ => exact keepsRates_ite (keepsRates_none s) (keepsRates_next (ratesKept_tapInstr_set (by simp) _ _ d s))
  | dbgMemRead d _ => exact keepsRates_ite (keepsRates_none s) (keepsRates_next (ratesKept_tapInstr_set (by simp) _ _ d s))
  | extest d _ | clamp d | highz d | dbgStatus d | dbgTask d =>
    exact keepsRates_next (ratesKept_tapInstr_set (by simp) _ _ d s)
  | halt d ctrl | resume d ctrl | stepOneStage d ctrl | stepNCycles d ctrl => exact keepsRates_next (ratesKept_debugCtrl _ d ctrl s)
  | dbgBreakSet d reg => exact keepsRates_next (ratesKept_ite (ratesKept_writeSlot d reg _ s) (.refl s))
  | dbgBreakClear d reg => exact keepsRates_next (ratesKept_ite (.refl s) (ratesKept_writeSlot d reg _ s))
  | dbgMemWrite d reg => exact keepsRates_dbgMemWrite d reg s
  | lcAdvance d reg => exact keepsRates_lcAdvance d reg s

/-- A core cycle changes no rate. -/
theorem ratesKept_tick (s : State) : RatesKept s (tick s) := by
  refine .trans (ratesKept_modTray s _) (ratesKept_mapChips (fun _ k => ?_) _)
  obtain ⟨hwake, -⟩ := tickChip_keeps k
  exact rateKept_of_wake hwake

/-- Settles O9. A Spring begins at 16/16 and the governor stays within its limits; every other command, and a core cycle, leaves the rates. -/
theorem stepKeepsTheIssueRates : Obligations.StepKeepsTheIssueRates := by
  unfold Obligations.StepKeepsTheIssueRates
  intro s t hlegal hstep
  rw [step] at hstep
  split at hstep
  case h_1 =>
    cases hstep
    exact ratesKept_tick s hlegal
  case h_2 i rest _ =>
    refine exec_keepsRates i { s with pending := rest } t hstep fun p => ?_
    rw [getChip_pending]
    exact hlegal p

end Sys2Proof.Machine
end
